-- ==== Sys2Proof/Word.lean ====
section
/-! DEFINITION. The word types of the Idorn and the names of its register numbers (R1, R12, R19, R81). -/

namespace Sys2Proof

/-- A scalar register's contents, 64 bits (R12). -/
abbrev Word := BitVec 64
/-- An instruction word, or an aligned 32-bit memory word (R56, R200). -/
abbrev HWord := BitVec 32
/-- One byte of memory. -/
abbrev Byte := BitVec 8
/-- A label ID (R168). -/
abbrev Label := BitVec 16
/-- An environment: a mask of 128 assumptions (R167). -/
abbrev Env := BitVec 128
/-- A predicate register: one bit for each of 256 element positions (R129). -/
abbrev Pred := BitVec 256

/-- g0-g31. -/
abbrev GReg := BitVec 5
/-- g0-g15, where a V-form field names a scalar register (R58). -/
abbrev GLow := BitVec 4
/-- p0-p7. -/
abbrev PReg := BitVec 3
/-- v0-v15. -/
abbrev VReg := BitVec 4
/-- m0-m3. -/
abbrev MReg := BitVec 2
/-- i0-i31. -/
abbrev IReg := BitVec 5

/-- The ID of the label TRUE (R168). -/
abbrev labelTrue : Label := 0x0000#16
/-- The ID of the label FALSE (R168). -/
abbrev labelFalse : Label := 0xFFFF#16

end Sys2Proof
end

