-- ==== Sys2Proof/Machine/Float.lean ====
section
/-! DEFINITION. Numbers (R19-R42): exact dyadic and rational values, the floating formats, rounding to a format or an integer
in each mode, saturation, NaN and flags, block scales and the NQ4 codebook. -/

namespace Sys2Proof.Machine

/-! ### Exact values -/

/-- An exact rational: (−1)^neg × num × 2^exp / den, with den not zero. The sign stays when num is zero. -/
structure Ex where
  neg : Bool
  num : Nat
  exp : Int
  den : Nat
deriving DecidableEq, Repr

/-- A floating value: a finite exact value, an infinity or a NaN (R21). -/
inductive FVal where
  | fin (x : Ex)
  | inf (neg : Bool)
  | nan (signalling : Bool)
deriving DecidableEq, Repr

def Ex.zero : Ex := ⟨false, 0, 0, 1⟩
/-- The integer n. -/
def Ex.ofInt (n : Int) : Ex := ⟨n < 0, n.natAbs, 0, 1⟩
def Ex.isZero (x : Ex) : Bool := x.num == 0
def Ex.negate (x : Ex) : Ex := { x with neg := !x.neg }
def Ex.abs (x : Ex) : Ex := { x with neg := false }

/-- The signed numerator of x over 2^(-e) × den, for an e at most x.exp. -/
def Ex.scaled (x : Ex) (e : Int) : Int :=
  let n : Int := (x.num * 2 ^ (x.exp - e).toNat : Nat)
  if x.neg then -n else n

/-- The exact sum; a zero sum of values that are not both negative is +0 (R23; for RDN see addRounded). -/
def Ex.add (x y : Ex) : Ex :=
  let e := min x.exp y.exp
  let n := x.scaled e * y.den + y.scaled e * x.den
  ⟨if n = 0 then x.neg && y.neg else n < 0, n.natAbs, e, x.den * y.den⟩

def Ex.mul (x y : Ex) : Ex := ⟨x.neg != y.neg, x.num * y.num, x.exp + y.exp, x.den * y.den⟩

/-- x / y, for y not zero. -/
def Ex.div (x y : Ex) : Ex := ⟨x.neg != y.neg, x.num * y.den, x.exp - y.exp, x.den * y.num⟩

/-- x compared with y, both exact: −0 = +0. -/
def Ex.cmp (x y : Ex) : Ordering :=
  let e := min x.exp y.exp
  compare (x.scaled e * y.den) (y.scaled e * x.den)

def Ex.lt (x y : Ex) : Bool := x.cmp y == .lt
def Ex.eq (x y : Ex) : Bool := x.cmp y == .eq

/-! ### Formats -/

/-- A binary format (R21): exponent and mantissa widths, bias, the largest finite magnitude pattern, the infinity pattern if
there is one, the canonical NaN if there is one (R25), and whether a clear top mantissa bit marks a signalling NaN (R26). -/
structure Fmt where
  eb   : Nat
  mb   : Nat
  bias : Nat
  maxBits : Nat
  infBits : Option Nat
  nanBits : Option Nat
  snan : Bool
deriving DecidableEq, Repr

def fmtF32 : Fmt := ⟨8, 23, 127, 0x7F7FFFFF, some 0x7F800000, some 0x7FC00000, true⟩
def fmtF16 : Fmt := ⟨5, 10, 15, 0x7BFF, some 0x7C00, some 0x7E00, true⟩
def fmtBf16 : Fmt := ⟨8, 7, 127, 0x7F7F, some 0x7F80, some 0x7FC0, true⟩
def fmtE5m2 : Fmt := ⟨5, 2, 15, 0x7B, some 0x7C, some 0x7E, false⟩
def fmtE4m3 : Fmt := ⟨4, 3, 7, 0x7E, none, some 0x7F, false⟩
def fmtE2m1 : Fmt := ⟨2, 1, 1, 0x7, none, none, false⟩
def fmtF64 : Fmt := ⟨11, 52, 1023, 0x7FEFFFFFFFFFFFFF, some 0x7FF0000000000000, some 0x7FF8000000000000, true⟩

/-- The width of a format in bits. -/
def Fmt.width (f : Fmt) : Nat := 1 + f.eb + f.mb
/-- The sign bit as a number. -/
def Fmt.signBit (f : Fmt) (neg : Bool) : Nat := if neg then 2 ^ (f.eb + f.mb) else 0

/-- The value of a finite pattern without its sign bit (R21). -/
def Fmt.magnitude (f : Fmt) (neg : Bool) (b : Nat) : Ex :=
  let e := b / 2 ^ f.mb
  let m := b % 2 ^ f.mb
  if e = 0 then ⟨neg, m, 1 - (f.bias + f.mb : Nat), 1⟩
  else ⟨neg, 2 ^ f.mb + m, (e : Int) - (f.bias + f.mb : Nat), 1⟩

/-- The value of a pattern (R21, R26). -/
def Fmt.decode (f : Fmt) (b : Nat) : FVal :=
  let neg := b / 2 ^ (f.eb + f.mb) % 2 == 1
  let u := b % 2 ^ (f.eb + f.mb)
  match f.infBits with
  | some i =>
    if u < i then .fin (f.magnitude neg u)
    else if u = i then .inf neg
    else .nan (f.snan && u / 2 ^ (f.mb - 1) % 2 == 0)
  | none =>
    if f.nanBits == some u then .nan false else .fin (f.magnitude neg u)

/-! ### Rounding (R28, R32) -/

/-- Rounding modes of FRM (R27), and SR with its 32-bit draw. -/
inductive RMode where
  | rne | rtz | rup | rdn
  | sr (draw : Nat)
deriving DecidableEq, Repr

/-- Whether a magnitude between q and q + 1 units, q units and r/d of one more, is rounded up in magnitude (R28, R32). -/
def roundAway (mode : RMode) (neg : Bool) (q r d : Nat) : Bool :=
  if r = 0 then false
  else match mode with
    | .rne => decide (d < 2 * r) || (2 * r == d && q % 2 == 1)
    | .rtz => false
    | .rup => !neg
    | .rdn => neg
    | .sr draw => decide (2 ^ 32 ≤ r * 2 ^ 32 / d + draw)

/-- num × 2^e / den as whole units and a remainder over a divisor. -/
def unitsOf (num : Nat) (e : Int) (den : Nat) : Nat × Nat × Nat :=
  let n := if 0 ≤ e then num * 2 ^ e.toNat else num
  let d := if 0 ≤ e then den else den * 2 ^ (-e).toNat
  (n / d, n % d, d)

/-- The magnitude of x rounded to a multiple of 2^u: the multiple, and whether it is inexact. -/
def roundAt (mode : RMode) (x : Ex) (u : Int) : Nat × Bool :=
  let t := unitsOf x.num (x.exp - u) x.den
  (if roundAway mode x.neg t.1 t.2.1 t.2.2 then t.1 + 1 else t.1, t.2.1 != 0)

/-- floor(log2 |x|), for x not zero. -/
def Ex.log2 (x : Ex) : Int :=
  let g : Int := (Nat.log2 x.num : Int) - (Nat.log2 x.den : Int)
  -- |x| × 2^-exp lies in (2^(g-1), 2^(g+1))
  let t := unitsOf x.num (-g) x.den
  x.exp + (if t.1 = 0 then g - 1 else g)

/-- Flags of R35 as a mask: NX 1, UF 2, OF 4, DZ 8, NV 16. -/
abbrev Flags := BitVec 5
def flagNX : Flags := 1
def flagUF : Flags := 2
def flagOF : Flags := 4
def flagDZ : Flags := 8
def flagNV : Flags := 16

/-- The unit in the last place of a format at x (R28), subnormals kept (R22). -/
def Fmt.ulpExp (f : Fmt) (x : Ex) : Int :=
  max (x.log2 - (f.mb : Int)) (1 - (f.bias + f.mb : Nat))

/-- The pattern, without sign, of m units of 2^u, where m has at most mb + 1 bits or is 2^(mb + 1). -/
def Fmt.pattern (f : Fmt) (m : Nat) (u : Int) : Nat :=
  let e := (u + (f.bias + f.mb : Nat) : Int).toNat
  -- a value below 2^mb units is subnormal, and then u is the least unit, e = 1
  if m < 2 ^ f.mb then m else e * 2 ^ f.mb + (m - 2 ^ f.mb)

/-- x rounded to f with its exponent range unbounded above: the magnitude pattern (above maxBits where it overflows) and
whether it is inexact. -/
def Fmt.roundMag (f : Fmt) (mode : RMode) (x : Ex) : Nat × Bool :=
  if x.num = 0 then (0, false)
  else
    let u := f.ulpExp x
    let r := roundAt mode x u
    (f.pattern r.1 u, r.2)

/-- Whether x is tiny after rounding (R35): rounded with unbounded exponent range below, it is below the least normal. -/
def Fmt.tiny (f : Fmt) (mode : RMode) (x : Ex) : Bool :=
  let r := roundAt mode x (x.log2 - (f.mb : Int))
  Ex.lt ⟨false, r.1, x.log2 - (f.mb : Int), 1⟩ ⟨false, 1, 1 - (f.bias : Int), 1⟩

/-- What an overflow gives (R29): an infinity, or the largest finite value. -/
def overflowInf (mode : RMode) (neg : Bool) : Bool :=
  match mode with
  | .rne => true
  | .rtz => false
  | .rup => !neg
  | .rdn => neg
  | .sr _ => true

/-- The canonical NaN of a format (R25); in e2m1, which has none, +0 (R33). -/
def Fmt.nan (f : Fmt) : Nat := f.nanBits.getD 0

/-- The infinity of a format; where it has none, its largest finite value (R29). -/
def Fmt.infinity (f : Fmt) (neg : Bool) : Nat := f.signBit neg + f.infBits.getD f.maxBits

/-- A finite exact value rounded into a format: arithmetic (R28, R29), or a conversion, which never makes an infinity of a
finite value (R33). The pattern and its flags. -/
def Fmt.roundFin (f : Fmt) (conv : Bool) (mode : RMode) (x : Ex) : Nat × Flags :=
  let r := f.roundMag mode x
  if f.maxBits < r.1 then
    let big := if conv || !overflowInf mode x.neg then f.maxBits else f.infBits.getD f.maxBits
    (f.signBit x.neg + big, flagOF ||| flagNX)
  else
    let fl := if r.2 then (if f.tiny mode x then flagUF ||| flagNX else flagNX) else 0
    (f.signBit x.neg + r.1, fl)

/-- An arithmetic result in a format (R23, R25, R28, R29). -/
def Fmt.arith (f : Fmt) (mode : RMode) (v : FVal) : Nat × Flags :=
  match v with
  | .fin x => f.roundFin false mode x
  | .inf neg => (f.infinity neg, if f.infBits.isSome then 0 else flagOF ||| flagNX)
  | .nan _ => (f.nan, if f.nanBits.isSome then 0 else flagNV)

/-- A conversion into a floating format (R33): a signalling NaN sets NV (R26), and a NaN into e2m1 gives +0 with NV. -/
def Fmt.convert (f : Fmt) (mode : RMode) (v : FVal) : Nat × Flags :=
  match v with
  | .fin x => f.roundFin true mode x
  | .inf neg => (f.infinity neg, if f.infBits.isSome then 0 else flagOF ||| flagNX)
  | .nan sig => (f.nan, if f.nanBits.isSome && !sig then 0 else flagNV)

/-- A conversion into an integer format of w bits (R33): rounded, limited, NaN gives 0; NV and NX as R33 states. -/
def toInt (signed : Bool) (w : Nat) (mode : RMode) (v : FVal) : Int × Flags :=
  let lo : Int := if signed then -(2 ^ (w - 1) : Nat) else 0
  let hi : Int := if signed then (2 ^ (w - 1) : Nat) - 1 else (2 ^ w : Nat) - 1
  match v with
  | .nan _ => (0, flagNV)
  | .inf neg => (if neg then lo else hi, flagNV)
  | .fin x =>
    let r := roundAt mode x 0
    let n : Int := if x.neg then -(r.1 : Int) else r.1
    if n < lo then (lo, flagNV) else if hi < n then (hi, flagNV) else (n, if r.2 then flagNX else 0)

/-! ### Arithmetic on values (R23) -/

def FVal.isNan : FVal → Bool
  | .nan _ => true
  | _ => false
def FVal.isSnan : FVal → Bool
  | .nan s => s
  | _ => false
def FVal.sign : FVal → Bool
  | .fin x => x.neg
  | .inf n => n
  | .nan _ => false
def FVal.negate : FVal → FVal
  | .fin x => .fin x.negate
  | .inf n => .inf (!n)
  | .nan s => .nan s

/-- NV where a signalling NaN stands among the operands (R26). -/
def snanFlag (vs : List FVal) : Flags := if vs.any FVal.isSnan then flagNV else 0

/-- The exact sum: an exact zero sum of opposite signs is −0 under RDN and +0 otherwise (R23). The value, and NV where it is
invalid. -/
def FVal.add (rdn : Bool) (a b : FVal) : FVal × Flags :=
  match a, b with
  | .nan _, _ | _, .nan _ => (.nan false, 0)
  | .inf x, .inf y => if x = y then (.inf x, 0) else (.nan false, flagNV)
  | .inf x, _ => (.inf x, 0)
  | _, .inf y => (.inf y, 0)
  | .fin x, .fin y =>
    let s := x.add y
    (.fin (if s.num = 0 && x.neg != y.neg then { s with neg := rdn } else s), 0)

/-- The exact product (R23). -/
def FVal.mul (a b : FVal) : FVal × Flags :=
  match a, b with
  | .nan _, _ | _, .nan _ => (.nan false, 0)
  | .inf x, .inf y => (.inf (x != y), 0)
  | .inf x, .fin y => if y.num = 0 then (.nan false, flagNV) else (.inf (x != y.neg), 0)
  | .fin x, .inf y => if x.num = 0 then (.nan false, flagNV) else (.inf (x.neg != y), 0)
  | .fin x, .fin y => (.fin (x.mul y), 0)

/-- Whether a mode rounds down. -/
def RMode.isRdn : RMode → Bool
  | .rdn => true
  | _ => false

/-- a + b rounded once. -/
def Fmt.fadd (f : Fmt) (mode : RMode) (a b : FVal) : Nat × Flags :=
  let s := FVal.add mode.isRdn a b
  let r := f.arith mode s.1
  (r.1, r.2 ||| s.2 ||| snanFlag [a, b])

/-- a × b rounded once. -/
def Fmt.fmul (f : Fmt) (mode : RMode) (a b : FVal) : Nat × Flags :=
  let s := FVal.mul a b
  let r := f.arith mode s.1
  (r.1, r.2 ||| s.2 ||| snanFlag [a, b])

/-- a × b + c rounded once; 0 × ∞ sets NV whatever c is (R23). -/
def Fmt.ffma (f : Fmt) (mode : RMode) (a b c : FVal) : Nat × Flags :=
  let p := FVal.mul a b
  let s := FVal.add mode.isRdn p.1 c
  let r := f.arith mode s.1
  (r.1, r.2 ||| s.2 ||| p.2 ||| snanFlag [a, b, c])

/-- The order of two values that are not NaN: −0 = +0. -/
def FVal.cmp (a b : FVal) : Ordering :=
  match a, b with
  | .fin x, .fin y => x.cmp y
  | .inf x, .inf y => if x = y then .eq else if x then .lt else .gt
  | .inf x, _ => if x then .lt else .gt
  | _, .inf y => if y then .gt else .lt
  | _, _ => .eq

/-- Whether a stands below b with −0 below +0 (R102). -/
def FVal.below (a b : FVal) : Bool :=
  match a.cmp b with
  | .lt => true
  | .gt => false
  | .eq => a.sign && !b.sign

/-- FMIN, or FMAX, of two patterns (R102). -/
def Fmt.fminmax (f : Fmt) (isMax : Bool) (a b : Nat) : Nat × Flags :=
  let x := f.decode a
  let y := f.decode b
  let fl := snanFlag [x, y]
  if x.isNan && y.isNan then (f.nan, fl)
  else if x.isNan then (b, fl)
  else if y.isNan then (a, fl)
  else if isMax then (if x.below y then b else a, fl) else (if y.below x then b else a, fl)

/-- Conditions of floating comparisons (R103). -/
inductive FCond where
  | eq | lt | le | un
deriving DecidableEq, Repr

/-- FCMP (R103). -/
def FVal.test (c : FCond) (a b : FVal) : Bool × Flags :=
  let nan := a.isNan || b.isNan
  let nv : Flags := match c with
    | .eq | .un => snanFlag [a, b]
    | .lt | .le => if nan then flagNV else 0
  if nan then (c == .un, nv)
  else match c with
    | .eq => (a.cmp b == .eq, nv)
    | .lt => (a.cmp b == .lt, nv)
    | .le => (a.cmp b != .gt, nv)
    | .un => (false, nv)

/-! ### Stochastic rounding (R30, R32) -/

/-- One step of the generator (R30). -/
def seedStep (x : Word) : Word :=
  let a := x ^^^ (x <<< 13)
  let b := a ^^^ (a >>> 7)
  b ^^^ (b <<< 17)

/-- n steps. -/
def seedSteps (n : Nat) (x : Word) : Word :=
  match n with
  | 0 => x
  | k + 1 => seedSteps k (seedStep x)

/-- The 32-bit draw of a state. -/
def drawOf (x : Word) : Nat := (x.extractLsb' 32 32).toNat

/-- The mode that FRM.MODE names, with the draw of the stepped seed under SR (R27, R32). -/
def rmode (frm : Nat) (seed : Word) : RMode :=
  match frm with
  | 0 => .rne
  | 1 => .rtz
  | 2 => .rup
  | 3 => .rdn
  | _ => .sr (drawOf (seedStep seed))

/-! ### NQ4 and block scales (R36-R40) -/

/-- The codebook, in 256ths (R36). -/
def nq4Table : List Int := [0, 22, 45, 70, 99, 134, 180, 256, -256, -194, -149, -113, -82, -54, -27, -8]

/-- The value of an nq4 code. -/
def nq4Value (c : Nat) : Ex :=
  let n := nq4Table.getD c 0
  ⟨n < 0, n.natAbs, -8, 1⟩

/-- |y − value of code c|, in 256ths over a common scale, and the magnitude of the code for ties (R37). -/
def nq4Closer (y : Ex) (c d : Nat) : Bool :=
  let a := (y.add (nq4Value c).negate).abs
  let b := (y.add (nq4Value d).negate).abs
  match a.cmp b with
  | .lt => true
  | .gt => false
  | .eq => (nq4Value c).abs.lt (nq4Value d).abs

/-- The code nearest to an exact value; at a tie, the smaller magnitude (R37). -/
def nq4Nearest (y : Ex) : Nat :=
  (List.range 16).foldl (fun best c => if nq4Closer y c best then c else best) 0

/-- Quantisation to nq4 (R37). -/
def nq4Quant (v : FVal) : Nat × Flags :=
  match v with
  | .nan _ => (0, flagNV)
  | .inf neg => (if neg then 8 else 7, flagNX)
  | .fin y =>
    let c := if y.lt ⟨true, 1, 0, 1⟩ then 8 else if Ex.lt ⟨false, 1, 0, 1⟩ y then 7 else nq4Nearest y
    (c, if y.eq (nq4Value c) then 0 else flagNX)

/-- E5M3 block scales (R38), read without a sign. -/
def fmtE5m3 : Fmt := ⟨5, 3, 15, 0xFE, none, some 0xFF, false⟩

/-- The value of an E5M3 scale (R38). -/
def scaleValue (b : Nat) : FVal :=
  if b = 0xFF then .nan false
  else
    let e := b / 8
    let m := b % 8
    if e = 0 then .fin ⟨false, m, -17, 1⟩ else .fin ⟨false, 8 + m, (e : Int) - 18, 1⟩

/-- The smallest E5M3 value at least q, for q not negative; 0xFE with OF and NX above 114,688 (R140). -/
def scaleCeil (q : FVal) : Nat × Flags :=
  match q with
  | .nan _ => (0xFF, 0)
  | .inf _ => (0xFE, flagOF ||| flagNX)
  | .fin x =>
    if x.num = 0 then (0, 0)
    else
      let u := fmtE5m3.ulpExp x
      let b := fmtE5m3.pattern (roundAt .rup x.abs u).1 u
      if 0xFE < b then (0xFE, flagOF ||| flagNX) else (b, 0)

/-! ### Element types by their T code (R80, R118) -/

/-- The width of an element type in bits. -/
def tyBits (t : Nat) : Nat :=
  match t with
  | 0 | 1 | 6 => 32
  | 2 | 3 | 7 | 8 => 16
  | 4 | 5 | 9 | 10 => 8
  | _ => 4
/-- s32, s16 and s8. -/
def tySigned (t : Nat) : Bool := t == 0 || t == 2 || t == 4
/-- The format of a floating type. -/
def tyFmt (t : Nat) : Fmt :=
  match t with
  | 6 => fmtF32 | 7 => fmtBf16 | 8 => fmtF16 | 9 => fmtE4m3 | 10 => fmtE5m2 | _ => fmtE2m1
/-- The value of an element pattern. -/
def tyValue (t x : Nat) : FVal :=
  if t < 6 then .fin (Ex.ofInt (if tySigned t && 2 ^ (tyBits t - 1) ≤ x then (x : Int) - 2 ^ tyBits t else x))
  else if t = 12 then .fin (nq4Value x)
  else (tyFmt t).decode x
/-- A value converted to an element type (R33). -/
def tyConvert (t : Nat) (mode : RMode) (v : FVal) : Nat × Flags :=
  if t < 6 then
    let r := toInt (tySigned t) (tyBits t) mode v
    ((r.1 % 2 ^ tyBits t).toNat, r.2)
  else if t = 12 then nq4Quant v
  else (tyFmt t).convert mode v

end Sys2Proof.Machine
end

