-- ==== Sys2Proof/Syntax.lean ====
section
/-! DEFINITION. The instructions and the steps of the Idorn: one constructor for each row of the table of operations and
events. The rows with an encoding are the words of R63-R79; the rows without one are the steps that the part's engines, its
protocol agents, the host and the package's physical surroundings make (spec/95_what_each_step_holds.md). -/

namespace Sys2Proof

/-- Access size and extension of a load (R71). -/
inductive LdSize where
  | s8 | n8 | s16 | n16 | s32 | n32 | d64
deriving DecidableEq, Repr

/-- Access size of a store (R71). -/
inductive StSize where
  | b8 | b16 | b32 | b64
deriving DecidableEq, Repr

/-- Size of an atomic (R72). -/
inductive AmoSize where
  | w32 | w64
deriving DecidableEq, Repr

/-- Order of an AMO (R72). -/
inductive AmoOrder where
  | relaxed | acq | rel | ar
deriving DecidableEq, Repr

/-- Operation of MEMRED (R73, R240). -/
inductive MemredOp where
  | add | and | or | xor | min | max | fadd
deriving DecidableEq, Repr

/-- Kind of FCVT (R69). -/
inductive FcvtKind where
  | f32s32 | f32n32 | f32s64 | f32n64 | s32f32 | n32f32 | s64f32 | n64f32 | f32f16 | f16f32 | f32bf16 | bf16f32
deriving DecidableEq, Repr

/-- Condition of a branch (R70). -/
inductive BCond where
  | eq | ne | lt | ge | ltn | gen
deriving DecidableEq, Repr

/-- Scope of a fence (R75, R208). -/
inductive Scope where
  | core | cluster | layer | tower | package | system
deriving DecidableEq, Repr

/-- Element types, in the order of their T codes (R80). -/
inductive ETy where
  | s32 | n32 | s16 | n16 | s8 | n8 | f32 | bf16 | f16 | e4m3 | e5m2 | e2m1 | nq4
deriving DecidableEq, Repr

/-- Condition of VCMP (R79, R130). -/
inductive VCond where
  | eq | ne | lt | le | gt | ge | un
deriving DecidableEq, Repr

/-- Operation of VRED (R79, R133). -/
inductive VredOp where
  | add | min | max | and | or | xor
deriving DecidableEq, Repr

/-- Operation of VAMO (R79, R138). -/
inductive VamoOp where
  | add | min | max | and | or | xor | swap
deriving DecidableEq, Repr

/-- The level of the sender of a fabric command (R371). -/
inductive Level where
  | user | h | f
deriving DecidableEq, Repr

/-- Who sent a fabric command: the endpoint that it came from, and the level that it carries (R371). -/
structure Sender where
  endpoint : Nat
  level    : Level
deriving DecidableEq, Repr

/-- Role of a layer (R350). -/
inductive Role where
  | c | m | offline
deriving DecidableEq, Repr

/-- Kind of a translated access (R320). -/
inductive Access where
  | read | write | fetch
deriving DecidableEq, Repr

/-- Step of the Fuller, as the product cache keys it (R174, R190, R193). -/
inductive FullerOp where
  | prod | union | assume (n : Nat) | count | env (e h : Nat)
deriving DecidableEq, Repr

/-- A field of the context record that H writes (R334). -/
inductive CtxField where
  | root | lspace | fbdepth | fbstat | tvec | tracectl | ssbase | ssize | mcbase
deriving DecidableEq, Repr

/-- A partition descriptor (R333). A die is named 8 × tower + layer, a granule by its die and its index on it. -/
structure PartDesc where
  id       : Nat
  clusters : List Nat
  ranges   : List (Nat × Nat)     -- physical, lo inclusive, hi exclusive
  tagged   : List (Nat × Nat)     -- die, first die index of 48 granules
  windows  : List (Nat × Nat)     -- host and peer ranges assigned by H
  ways     : List (Nat × BitVec 16)   -- slice slot number, way mask
  shadows  : List (Nat × Nat)     -- die, first die index of a 68-granule shadow slot
  endpoint : Nat
deriving DecidableEq, Repr

/-- What H writes when it creates a context (R334). -/
structure CtxInit where
  root     : BitVec 48
  lspace   : Word
  fbdepth  : Word
  tvec     : Word
  tracectl : Word
  ssbase   : BitVec 48
  ssize    : BitVec 32
  mcbase   : BitVec 48
  queues   : List (Nat × Nat)     -- queue, priority
deriving DecidableEq, Repr

/-- A request of a cluster for a split counter (R244, R251). -/
inductive CounterOp where
  | cdec (n : Nat) | cread | cinit (v chunk : Nat)
deriving DecidableEq, Repr

/-- A firmware image as the plinth controller receives it: the key that signed it, the octets signed, its header among them, and the
signature (R372). -/
structure FwImage where
  modulus   : BitVec 3072
  exponent  : BitVec 3072
  image     : List Byte
  signature : List Byte
deriving DecidableEq, Repr

/-- What a write-back carries beside its line: the largest rts its agent gave, and the agent's incarnation (R229, R233). -/
structure PutHead where
  rts : Nat
  inc : Nat
deriving DecidableEq, Repr

/-- The endpoint an access comes from, and the physical address it names (R370). -/
structure HostAddr where
  endpoint : Nat
  pa : Nat
deriving DecidableEq, Repr

inductive Instr where
  -- SYS (R63)
  | brk
  | trap (i : BitVec 6)
  | eret
  | guard (v : Bool) (n : PReg)
  | yield
  | halt
  | mfc (d : GReg) (c : BitVec 6)
  | mfcFflags (d : GReg)
  | mtc (c : BitVec 6) (a : GReg)
  | mtcFflags (a : GReg)
  | mtcSrseed (a : GReg)
  | mtcLspace (a : GReg)
  | mtcFbstat (a : GReg)
  | mtcTracectl (a : GReg)
  | tlbinvPage (a : GReg)
  | tlbinvContext
  | tlbinvPartition
  | freplay
  | wayset (d a : GReg)
  | waysetQ (d a : GReg)
  | trace (a : GReg) (i : BitVec 6)
  | sample (d : GReg)
  -- integer ALU (R64)
  | add (d a b : GReg) | sub (d a b : GReg) | and (d a b : GReg) | or (d a b : GReg) | xor (d a b : GReg)
  | andn (d a b : GReg) | orn (d a b : GReg) | sll (d a b : GReg) | srl (d a b : GReg) | sra (d a b : GReg)
  | rol (d a b : GReg) | ror (d a b : GReg) | min (d a b : GReg) | max (d a b : GReg) | minn (d a b : GReg)
  | maxn (d a b : GReg) | seq (d a b : GReg) | sne (d a b : GReg) | slt (d a b : GReg) | sltn (d a b : GReg)
  | sel (d : GReg) (n : PReg) (a b : GReg)
  | clz (d a : GReg) | ctz (d a : GReg) | popc (d a : GReg) | brev (d a : GReg) | bswap (d a : GReg)
  -- immediates (R65)
  | addi (d a : GReg) (i : BitVec 16) | andi (d a : GReg) (i : BitVec 16) | ori (d a : GReg) (i : BitVec 16)
  | xori (d a : GReg) (i : BitVec 16) | slti (d a : GReg) (i : BitVec 16) | sltni (d a : GReg) (i : BitVec 16)
  | slli (d a : GReg) (s : BitVec 6) | srli (d a : GReg) (s : BitVec 6) | srai (d a : GReg) (s : BitVec 6)
  | roli (d a : GReg) (s : BitVec 6)
  | lui (d : GReg) (k : BitVec 2) (i : BitVec 16) | luiK (d : GReg) (k : BitVec 2) (i : BitVec 16)
  | adpc (d : GReg) (o : BitVec 21)
  -- multiply and divide (R66)
  | mul (d a b : GReg) | mulh (d a b : GReg) | mulhn (d a b : GReg) | div (d a b : GReg) | divn (d a b : GReg)
  | rem (d a b : GReg) | remn (d a b : GReg)
  -- bit fields and byte permutes (R67)
  | bpermi (d : GReg) (i : BitVec 16)
  | bext (d a : GReg) (p l : BitVec 6) | bins (d a : GReg) (p l : BitVec 6) | bperm (d a b : GReg)
  -- bit streams (R68)
  | bsrinit (a : GReg) | bsget (d : GReg) (n : BitVec 6) | bspeek (d : GReg) (n : BitVec 6) | bsskip (n : BitVec 6)
  | bsgetg (d : GReg) (k : BitVec 5) | bswinit (a : GReg) | bsemit (a : GReg) (n : BitVec 6) | bsflush
  -- scalar FP32 (R69)
  | fadd (d a b : GReg) | fsub (d a b : GReg) | fmul (d a b : GReg) | ffma (d a b c : GReg)
  | fmin (d a b : GReg) | fmax (d a b : GReg)
  | fcmpEq (d a b : GReg) | fcmpLt (d a b : GReg) | fcmpLe (d a b : GReg) | fcmpUn (d a b : GReg)
  | fcvt (k : FcvtKind) (d a : GReg)
  -- control flow (R70, R83)
  | bCond (c : BCond) (a b : GReg) (o : BitVec 13)
  | jl (o : BitVec 26)
  | jlr (d a : GReg) (i : BitVec 16)
  | rpt (n k sd sa sb : BitVec 4)
  -- loads and stores (R71)
  | ld (s : LdSize) (d a : GReg) (o : BitVec 11) | ldAcq (s : LdSize) (d a : GReg) (o : BitVec 11)
  | ldnt (s : LdSize) (d a : GReg) (o : BitVec 11)
  | st (s : StSize) (d a : GReg) (o : BitVec 11) | stRel (s : StSize) (d a : GReg) (o : BitVec 11)
  | stnt (s : StSize) (d a : GReg) (o : BitVec 11)
  -- atomics, reductions and operations at memory (R72, R73)
  | amoAdd (o : AmoOrder) (s : AmoSize) (d a b : GReg) | amoAnd (o : AmoOrder) (s : AmoSize) (d a b : GReg)
  | amoOr (o : AmoOrder) (s : AmoSize) (d a b : GReg) | amoXor (o : AmoOrder) (s : AmoSize) (d a b : GReg)
  | amoMin (o : AmoOrder) (s : AmoSize) (d a b : GReg) | amoMax (o : AmoOrder) (s : AmoSize) (d a b : GReg)
  | amoMinn (o : AmoOrder) (s : AmoSize) (d a b : GReg) | amoMaxn (o : AmoOrder) (s : AmoSize) (d a b : GReg)
  | amoSwap (o : AmoOrder) (s : AmoSize) (d a b : GReg) | amoCas (o : AmoOrder) (s : AmoSize) (d a b : GReg)
  | amoFadd (o : AmoOrder) (d a b : GReg)
  | redAdd (s : AmoSize) (a b : GReg) | redAnd (s : AmoSize) (a b : GReg) | redOr (s : AmoSize) (a b : GReg)
  | redXor (s : AmoSize) (a b : GReg) | redMin (s : AmoSize) (a b : GReg) | redMax (s : AmoSize) (a b : GReg)
  | redFadd (a b : GReg)
  | memred (o : MemredOp) (a b : GReg) | memcas (d a b : GReg) | memsax (a b c : GReg)
  -- split counter (R74)
  | cinit (a b c : GReg) | cdec (d a b : GReg) | cinc (a b : GReg) | cread (d a : GReg) | clocal (d a : GReg)
  -- fences and cache maintenance (R75)
  | fence (s : Scope) | fenceLx | drain | l1inv (a b : GReg) | l1wb (a b : GReg) | icinv (a b : GReg) | isync
  -- waits (R76)
  | pause (n : BitVec 8) | waita (a b : GReg) | evsig (a : GReg) | evarm (a b : GReg) | bar (a : GReg)
  | sync (l : BitVec 2)
  | eventWindowLoad (d : GReg) (off : BitVec 10)
  | eventWindowStore (off : BitVec 10) (b : GReg)
  -- messages (R77)
  | send (a b : GReg) (i : IReg) | take (d : GReg) (i : IReg) | peeki (d : GReg) (i : IReg)
  | inboxDelivery (target : Nat) (i : IReg)
  -- labels (R77)
  | assume (d a : GReg) (n : BitVec 7) | lget (d a : GReg) | lset (d a b : GReg) | lprod (d a b : GReg)
  | lunion (d a b : GReg) | leq (d a b : GReg) | nogood (a : GReg) | nogoode (a b : GReg)
  | lvis (n : PReg) (a : GReg) | lsel (d a b : GReg) | lcount (d a : GReg)
  | lenv (d a : GReg) (e : BitVec 4) (h : Bool) | lfocus (a b : GReg)
  -- copy engine (R78)
  | xcopy (o : BitVec 5) (d a b c : GReg) | xpub (a : GReg) | xstat (d : GReg)
  -- matrix (R77)
  | mma (m : MReg) (a b : GReg) | mzero (m : MReg) | mld (m : MReg) (a : GReg) | mst (a : GReg) (m : MReg)
  | mwait (m : MReg) | mtest (d : GReg)
  -- kernels and groups (R77)
  | launch (a b : GReg) | exit (a : GReg)
  | gform (d a : GReg) | grejoin (i : BitVec 7) | gleave | gstat (d : GReg)
  | followerBufferTimeout (c : Nat)
  | leaderRejoinTimeout (c : Nat)
  -- tile integer (R79)
  | vaddInt (t : ETy) (p : PReg) (d a b : VReg) | vsubInt (t : ETy) (p : PReg) (d a b : VReg)
  | vmulInt (t : ETy) (p : PReg) (d a b : VReg) | vminInt (t : ETy) (p : PReg) (d a b : VReg)
  | vmaxInt (t : ETy) (p : PReg) (d a b : VReg) | vabsInt (t : ETy) (p : PReg) (d a : VReg)
  | vnegInt (t : ETy) (p : PReg) (d a : VReg) | vand (t : ETy) (p : PReg) (d a b : VReg)
  | vor (t : ETy) (p : PReg) (d a b : VReg) | vxor (t : ETy) (p : PReg) (d a b : VReg)
  | vshl (t : ETy) (p : PReg) (d a b : VReg) | vshr (t : ETy) (p : PReg) (d a b : VReg)
  | vsra (t : ETy) (p : PReg) (d a b : VReg) | vbcast (t : ETy) (p : PReg) (d : VReg) (g : GLow)
  -- tile float
  | vaddFloat (t : ETy) (p : PReg) (d a b : VReg) | vsubFloat (t : ETy) (p : PReg) (d a b : VReg)
  | vmulFloat (t : ETy) (p : PReg) (d a b : VReg) | vfma (t : ETy) (p : PReg) (d a b : VReg)
  | vfms (t : ETy) (p : PReg) (d a b : VReg) | vminFloat (t : ETy) (p : PReg) (d a b : VReg)
  | vmaxFloat (t : ETy) (p : PReg) (d a b : VReg) | vabsFloat (t : ETy) (p : PReg) (d a : VReg)
  | vnegFloat (t : ETy) (p : PReg) (d a : VReg)
  -- tile compare and predicates
  | vcmp (c : VCond) (t : ETy) (p : PReg) (d : PReg) (a b : VReg) | vsel (t : ETy) (p : PReg) (d a b : VReg)
  | pand (d a b : PReg) | por (d a b : PReg) | pxor (d a b : PReg) | pnot (d a : PReg) | pset (d : PReg) (v : Bool)
  | pcnt (g : GLow) (a : PReg) | pfirst (g : GLow) (a : PReg)
  -- tile reduce and rearrange
  | vred (o : VredOp) (t : ETy) (p : PReg) (d a : VReg) | vtrans (t : ETy) (d a : VReg)
  | vrot (t : ETy) (d a : VReg) (n : BitVec 7) | vshape (a : GLow)
  -- tile memory
  | vld (t : ETy) (p : PReg) (d : VReg) (a s : GLow) | vst (t : ETy) (p : PReg) (d : VReg) (a s : GLow)
  | vgather (t : ETy) (p : PReg) (d : VReg) (a : GLow) (b : VReg)
  | vscatter (t : ETy) (p : PReg) (d : VReg) (a : GLow) (b : VReg)
  | vamo (o : VamoOp) (t : ETy) (p : PReg) (d : VReg) (a : GLow) (b : VReg)
  -- tile convert
  | vcvt (t s : ETy) (p : PReg) (d a : VReg) | vquant (t s : ETy) (d a b : VReg) | vdeq (t s : ETy) (d a b : VReg)
  -- SFU
  | vexp (t : ETy) (p : PReg) (d a : VReg) | vlog (t : ETy) (p : PReg) (d a : VReg)
  | vrcp (t : ETy) (p : PReg) (d a : VReg) | vrsq (t : ETy) (p : PReg) (d a : VReg)
  | vsqrt (t : ETy) (p : PReg) (d a : VReg) | vsin (t : ETy) (p : PReg) (d a : VReg)
  | vcos (t : ETy) (p : PReg) (d a : VReg) | vtanh (t : ETy) (p : PReg) (d a : VReg)
  | vsigm (t : ETy) (p : PReg) (d a : VReg) | vgelu (t : ETy) (p : PReg) (d a : VReg)
  -- tile labels
  | vlget (g : GLow) (a : VReg) | vlset (d a : VReg) (b : GLow) | vlvis (d : PReg) (a : VReg)
  -- engines of the core and of its cluster; c names a core, k a cluster, line a 64-byte line of physical memory
  | tileComplete (c : Nat)
  | storePerform (c : Nat)
  | stntBufferPerform (c line : Nat)
  -- leases and the directory (R222-R233); t names a tower as an agent
  | l1FillReply (k line wts rts : Nat)
  | sliceFillRequest (k line pts : Nat)
  | sliceStore (c : Nat)
  | dirGets (line t : Nat)
  | dirGetx (line t : Nat)
  | dirUpg (line t : Nat)
  | dirPut (line t : Nat) (dirty : Bool) (head : PutHead)
  | dirRedJoin (line t : Nat)
  | invalidationAck (line t maxrts inc : Nat)
  | agentInvalidation (line t : Nat)
  | agentForwardedGets (line o t : Nat)
  | agentForwardedGetx (line o t : Nat)
  | agentDataGrant (line t : Nat) (excl : Bool) (wts rts : Nat)
  | agentEviction (line t : Nat)
  | writebackAck (line t : Nat)
  | uPartialEvict (k line : Nat)
  | uRecallComplete (line : Nat)
  | deadAgentTimeout (home t : Nat)
  | newerIncarnation (home t : Nat)
  | memBankExecute (c : Nat)
  -- split counters (R244-R252)
  | counterRequest (line c : Nat) (op : CounterOp)
  | counterRecall (line k : Nat)
  | allowanceReturn (line k n : Nat)
  | recallRoundComplete (line : Nat)
  | counterReply (line c value : Nat)
  -- labels
  | internRequest (ctx : Nat) (envs : List Env)
  | fullerMissComplete (k ctx : Nat) (op : FullerOp) (x y : Label)
  | nogoodRequest (ctx : Nat) (envs : List Env)
  | nogoodInstall (k : Nat)
  | deferredLabelFold (ctx loc : Nat) (l : Label)
  -- matrix unit
  | matrixOpStart (k : Nat)
  | matrixOpComplete (k : Nat)
  | matrixTransferComplete (c : Nat)
  | matrixSelfTest (k : Nat) (failed : BitVec 16)
  | throttleChange (k : Nat) (on : Bool)
  -- copy engine
  | copyCommandStart (c : Nat)
  | copyBeat (c : Nat)
  | copyCommandComplete (c : Nat)
  -- waits
  | waitaWake (c : Nat)
  | syncRelease (c : Nat) (level : BitVec 2)
  | pauseEnd (c : Nat)
  | watchdog (c : Nat)
  | deadlockProbe (c : Nat)
  | pageWalkComplete (c : Nat) (va : Word) (acc : Access)
  -- dispatcher
  | dispatchDecision
  | clusterStart (kernel kclus : Nat)
  | kernelDone (kernel : Nat)
  | energyWindow (tower watts celsius : Nat)
  -- contexts
  | forcedSaveTimeout (c : Nat)
  | contextRestoreComplete (ctx : Nat)
  | asyncMachineCheck (c : Nat)
  | samplingPulse
  | traceRequest (c : Nat) (payload : Word) (typ : Byte)
  -- the host and H
  | hostAccess (target : HostAddr) (size : Nat) (write : Option Nat)
  | fabricLaunch (by' : Sender) (ctx : Nat) (queue : BitVec 4) (va : Word)
  | fabricTlbinv (by' : Sender) (ctx : Nat) (extent : BitVec 2) (va : Word)
  | fabricReplay (by' : Sender) (ctx : Nat)
  | queueConfigure (by' : Sender) (ctx : Nat) (queue : BitVec 4) (prio : BitVec 2)
  | queueStop (by' : Sender) (ctx : Nat) (queue : BitVec 4)
  | queueRestart (by' : Sender) (ctx : Nat) (queue : BitVec 4)
  | contextRecordWrite (by' : Sender) (ctx : Nat) (field : CtxField) (value : Word)
  | contextCreate (by' : Sender) (ctx part : Nat) (init : CtxInit)
  | contextSchedule (by' : Sender) (ctx : Nat)
  | contextTerminate (by' : Sender) (ctx : Nat)
  | preemptRequest (by' : Sender) (ctx : Nat)
  | partitionDescriptor (by' : Sender) (desc : PartDesc)
  | wayMaskWrite (by' : Sender) (part slot : Nat) (mask : BitVec 16)
  | blockingRequest (by' : Sender) (tower : BitVec 2) (roles : List Role)
  | blockingDrainComplete (tower : BitVec 2)
  | blockingFlushComplete (tower : BitVec 2)
  | blockingResume (tower : BitVec 2)
  | coreRestart (by' : Sender) (c : Nat)
  | freeze (by' : Sender)
  | readOut (by' : Sender) (chain : Nat)
  | thaw (by' : Sender)
  | firmwareLoad (by' : Sender) (tower : BitVec 2) (img : FwImage)
  | attestationRequest (by' : Sender) (port : BitVec 4) (nonce : BitVec 256)
  | reset
  -- links and lanes
  | linkTrainingStart (port : BitVec 4)
  | lanesLocked (port : BitVec 4)
  | trainingTimeout (port : BitVec 4) (half : Bool)
  | acceptedSetWritten (port : BitVec 4) (endpoint : Nat) (mask : BitVec 128)
  | laneFailure (port : BitVec 4)
  | flitReceive (port : BitVec 4) (seq : BitVec 8) (crcOk : Bool)
  | flitReplayLimit (port : BitVec 4)
  | linkFence (port : BitVec 4)
  | laneRepairTrigger (group : Nat)
  | laneQuiesced (group : Nat)
  | laneSwitched (group : Nat)
  | laneFailNoSpare (group : Nat)
  | laneGroupGrant (unit : Nat)
  -- fetch
  | wordNotAnInstruction (w : HWord)
  | fetchFault (va : Word)
deriving DecidableEq, Repr

end Sys2Proof
end

