-- ==== Sys2Proof/Config.lean ====
section
/-! DEFINITION. What the manual leaves open: free values, of which nothing is known but the bound that the reader applies, and
the functions of the part that the manual names without giving them (notes/assumptions). None has a body. -/

namespace Sys2Proof.Config

/-- The result of a special function on an f32 pattern, inside the bound of R143; the first operand numbers the function of
R142. (DESIGN CHOICE, notes/assumptions/6.md.) -/
opaque sfu : Nat → BitVec 32 → BitVec 32

/-- The sub-arrays of a matrix unit that fail a self-test (R163), for the n-th free value drawn. (DESIGN CHOICE, notes/assumptions/10.md.) -/
opaque selfTest : Nat → BitVec 16

/-- The dispatcher's preference for a cluster at a decision (R299): lower goes first. (DESIGN CHOICE, notes/assumptions/7.md.) -/
opaque preference : Nat → Nat → Nat

/-- Where the interning index records an ID, in 8-byte units of its region (R170). (DESIGN CHOICE, notes/assumptions/8.md.) -/
opaque indexSlot : Nat → Nat
/-- What the interning index records for an ID (R170). (DESIGN CHOICE, notes/assumptions/8.md.) -/
opaque indexEntry : Nat → Word

/-- Where a nogood stands among the others after the n-th free value drawn: lower goes first (R170). (DESIGN CHOICE, notes/assumptions/9.md.) -/
opaque nogoodRank : Nat → BitVec 128 → Nat

/-- The version that the header of a firmware image holds (R372). (DESIGN CHOICE, notes/assumptions/10.md.) -/
opaque headerVersion : List Byte → BitVec 32
/-- The octets of an RSA key, by modulus and exponent, that are hashed for the fuses (R372). (DESIGN CHOICE, notes/assumptions/10.md.) -/
opaque keyEncoding : BitVec 3072 → BitVec 3072 → List Byte
/-- The hash of the signing key fused in every plinth (R372). (DESIGN CHOICE, notes/assumptions/10.md.) -/
opaque fusedKey : BitVec 256
/-- The 128-bit serial of the device (R373). (DESIGN CHOICE, notes/assumptions/10.md.) -/
opaque serial : BitVec 128
/-- The identity key's signature over 192 bytes, byte i of 384 (R373). (DESIGN CHOICE, notes/assumptions/10.md.) -/
opaque identitySign : List Byte → Nat → Byte
/-- The length of a scan chain (R388). (DESIGN CHOICE, notes/assumptions/10.md.) -/
opaque chainLength : Nat → Nat

/-- The sets that a line of the L1D, a line of a slice and a page of an L2 TLB fall into; the bound is the reader's (R10, R11, R321).
(DESIGN CHOICE, notes/assumptions/13.md.) -/
opaque l1Set : Nat → Nat
opaque sliceSet : Nat → Nat
opaque tlbSet : Nat → Nat
/-- How soon a full cache gives an entry up, after the n-th free value drawn: the lowest goes. (DESIGN CHOICE, notes/assumptions/13.md.) -/
opaque victim : Nat → Nat → Nat

end Sys2Proof.Config
end

