-- ==== Sys2Proof/WellFormed.lean ====
section
/-! DEFINITION. Which instruction terms stand for a word of the Idorn, and which steps name parts that exist. -/

namespace Sys2Proof

/-- The T code of an element type (R80). -/
def ETy.code : ETy → BitVec 4
  | .s32 => 0 | .n32 => 1 | .s16 => 2 | .n16 => 3 | .s8 => 4 | .n8 => 5 | .f32 => 6 | .bf16 => 7 | .f16 => 8
  | .e4m3 => 9 | .e5m2 => 10 | .e2m1 => 11 | .nq4 => 12

/-- Types 0-5 (R79). -/
def ETy.isInt (t : ETy) : Bool := t.code.toNat ≤ 5
/-- Types 6-11, the float types of OP 0x29 (R79). -/
def ETy.isFloat (t : ETy) : Bool := 6 ≤ t.code.toNat && t.code.toNat ≤ 11
/-- Types 0-n (R79). -/
def ETy.upTo (n : Nat) (t : ETy) : Bool := t.code.toNat ≤ n
/-- f32, bf16 and f16: types 6-8 (R79). -/
def ETy.isWide (t : ETy) : Bool := 6 ≤ t.code.toNat && t.code.toNat ≤ 8
/-- The block-scaled types: e2m1 and nq4 (R140, R141). -/
def ETy.isBlock (t : ETy) : Bool := 11 ≤ t.code.toNat

/-- The numbers of physical cores, clusters, towers and vector units (R9-R11): 4 towers of 8 layers of 64 clusters of 8. -/
def nCores : Nat := 16384
def nClusters : Nat := 2048
def nTowers : Nat := 4
def nUnits : Nat := 4096

/-- Register-number and field rules of R59, R79, R82, R83, R98 that a term can break; for a step, that the core, cluster,
tower or unit it names exists. -/
def Instr.wf : Instr → Bool
  | .mfc _ c => c.toNat ≤ 32 && c.toNat != 6
  | .mtc c _ => c.toNat ≤ 32 && c.toNat != 6 && c.toNat != 8 && c.toNat != 16 && c.toNat != 30 && c.toNat != 32
  | .bext _ a p l => a != 0 && p.toNat + l.toNat + 1 ≤ 64
  | .bins _ a p l => a != 0 && p.toNat + l.toNat + 1 ≤ 64
  | .bperm _ a _ => a != 0
  | .rpt _ k _ _ _ => k != 0
  | .xcopy o _ _ _ c => o.getLsbD 0 || o.getLsbD 1 || c == 0
  | .vaddInt t _ _ _ _ | .vsubInt t _ _ _ _ | .vmulInt t _ _ _ _ | .vminInt t _ _ _ _ | .vmaxInt t _ _ _ _
  | .vand t _ _ _ _ | .vor t _ _ _ _ | .vxor t _ _ _ _ | .vshl t _ _ _ _ | .vshr t _ _ _ _ | .vsra t _ _ _ _ => t.isInt
  | .vabsInt t _ _ _ | .vnegInt t _ _ _ => t.isInt
  | .vbcast t _ _ _ => t.upTo 8
  | .vaddFloat t _ _ _ _ | .vsubFloat t _ _ _ _ | .vmulFloat t _ _ _ _ | .vfma t _ _ _ _ | .vfms t _ _ _ _
  | .vminFloat t _ _ _ _ | .vmaxFloat t _ _ _ _ => t.isFloat
  | .vabsFloat t _ _ _ | .vnegFloat t _ _ _ => t.isFloat
  | .vcmp _ t _ _ _ _ => t.upTo 11
  | .vsel t _ _ _ _ => t.upTo 11
  | .vred o t _ _ _ => t.upTo 8 && (t.isInt || o == .add || o == .min || o == .max)
  | .vtrans t _ _ => t.upTo 10
  | .vrot t _ _ _ => t.upTo 11
  | .vld t _ _ _ _ => t.upTo 11
  | .vst t _ _ _ _ => t.upTo 11
  | .vgather t _ _ _ _ => t.upTo 8
  | .vscatter t _ _ _ _ => t.upTo 8
  | .vamo o t _ _ _ _ => t == .s32 || t == .n32 || (t == .f32 && (o == .add || o == .swap))
  | .vcvt t s _ _ _ => t.upTo 11 && s.upTo 11
  | .vquant t s _ _ _ => t.isBlock && s.isWide
  | .vdeq t s _ _ _ => t.isWide && s.isBlock
  | .vexp t _ _ _ | .vlog t _ _ _ | .vrcp t _ _ _ | .vrsq t _ _ _ | .vsqrt t _ _ _ | .vsin t _ _ _ | .vcos t _ _ _
  | .vtanh t _ _ _ | .vsigm t _ _ _ | .vgelu t _ _ _ => t.isWide
  | .inboxDelivery c _ | .followerBufferTimeout c | .leaderRejoinTimeout c | .tileComplete c | .storePerform c
  | .stntBufferPerform c _ | .sliceStore c | .memBankExecute c | .counterRequest _ c _ | .counterReply _ c _
  | .matrixTransferComplete c | .copyCommandStart c | .copyBeat c | .copyCommandComplete c | .waitaWake c
  | .syncRelease c _ | .pauseEnd c | .watchdog c | .deadlockProbe c | .pageWalkComplete c _ _ | .forcedSaveTimeout c
  | .asyncMachineCheck c | .traceRequest c _ _ | .coreRestart _ c => c < nCores
  | .l1FillReply k _ _ _ | .sliceFillRequest k _ _ | .uPartialEvict k _ | .counterRecall _ k | .allowanceReturn _ k _
  | .fullerMissComplete k _ _ _ _ | .nogoodInstall k | .matrixOpStart k | .matrixOpComplete k | .matrixSelfTest k _
  | .throttleChange k _ => k < nClusters
  | .dirGets _ t | .dirGetx _ t | .dirUpg _ t | .dirPut _ t _ _ | .dirRedJoin _ t | .invalidationAck _ t _ _
  | .agentInvalidation _ t | .agentDataGrant _ t _ _ _ | .agentEviction _ t | .writebackAck _ t
  | .energyWindow t _ _ => t < nTowers
  | .agentForwardedGets _ o t | .agentForwardedGetx _ o t | .deadAgentTimeout o t | .newerIncarnation o t => o < nTowers && t < nTowers
  | .blockingRequest _ _ roles => roles.length == 8
  | .laneGroupGrant u => u < nUnits
  | _ => true

end Sys2Proof
end

