-- ==== Sys2Proof/Decode.lean ====
section
/-! DEFINITION. Words to instructions (R56-R83): the ten forms and their fields, the decoder, which is total and refuses by
name every word that R59 calls no instruction, and the encoder written from the same tables. Privilege (R60) is checked by the
instruction, not here. -/

namespace Sys2Proof

/-- Why a word is no instruction (R59). -/
inductive DecodeError where
  /-- The word 0x0000_0000. -/
  | zero
  /-- A reserved major opcode, 0xFFFF_FFFF among them. -/
  | reservedOpcode
  /-- An unassigned function code, or a reserved value of a field. -/
  | reservedValue
  /-- A field that must be zero is not. -/
  | nonzeroField
deriving DecidableEq, Repr

/-! ### The forms (R57) -/

def formT (op : BitVec 6) (d a b : BitVec 5) (f : BitVec 11) : HWord := op ++ d ++ a ++ b ++ f
def formI (op : BitVec 6) (d a : BitVec 5) (i : BitVec 16) : HWord := op ++ d ++ a ++ i
def formL (op : BitVec 6) (d : BitVec 5) (i : BitVec 21) : HWord := op ++ d ++ i
def formJ (op : BitVec 6) (o : BitVec 26) : HWord := op ++ o
def formB (op : BitVec 6) (c : BitVec 3) (a b : BitVec 5) (o : BitVec 13) : HWord := op ++ c ++ a ++ b ++ o
def formM (op : BitVec 6) (d a : BitVec 5) (sz : BitVec 3) (ord : BitVec 2) (o : BitVec 11) : HWord := op ++ d ++ a ++ sz ++ ord ++ o
def formQ (op : BitVec 6) (d a b c : BitVec 5) (f : BitVec 6) : HWord := op ++ d ++ a ++ b ++ c ++ f
def formV (op : BitVec 6) (d a b : BitVec 4) (p : BitVec 3) (t : BitVec 4) (f : BitVec 7) : HWord := op ++ d ++ a ++ b ++ p ++ t ++ f
def formS (f : BitVec 10) (d a : BitVec 5) (i : BitVec 6) : HWord := (0 : BitVec 6) ++ f ++ d ++ a ++ i
def formP (op : BitVec 6) (n k sd sa sb : BitVec 4) : HWord := op ++ n ++ k ++ sd ++ sa ++ sb ++ (0 : BitVec 6)

/-- The major opcode. -/
def opOf (w : HWord) : Nat := (w.extractLsb' 26 6).toNat
def fD (w : HWord) : GReg := w.extractLsb' 21 5
def fA (w : HWord) : GReg := w.extractLsb' 16 5
def fB (w : HWord) : GReg := w.extractLsb' 11 5
def fC (w : HWord) : GReg := w.extractLsb' 6 5
def fF11 (w : HWord) : BitVec 11 := w.extractLsb' 0 11
def fF6 (w : HWord) : BitVec 6 := w.extractLsb' 0 6
def fImm16 (w : HWord) : BitVec 16 := w.extractLsb' 0 16

/-! ### Codes of the enumerated fields -/

def LdSize.code : LdSize → BitVec 3
  | .s8 => 0 | .n8 => 1 | .s16 => 2 | .n16 => 3 | .s32 => 4 | .n32 => 5 | .d64 => 6

def LdSize.ofCode : Nat → Option LdSize
  | 0 => some .s8 | 1 => some .n8 | 2 => some .s16 | 3 => some .n16 | 4 => some .s32 | 5 => some .n32 | 6 => some .d64
  | _ => none

def StSize.code : StSize → BitVec 3
  | .b8 => 0 | .b16 => 1 | .b32 => 2 | .b64 => 3

def StSize.ofCode : Nat → Option StSize
  | 0 => some .b8 | 1 => some .b16 | 2 => some .b32 | 3 => some .b64 | _ => none

def AmoSize.code : AmoSize → BitVec 2
  | .w32 => 0 | .w64 => 1

def AmoSize.ofCode : Nat → Option AmoSize
  | 0 => some .w32 | 1 => some .w64 | _ => none

def AmoOrder.code : AmoOrder → BitVec 2
  | .relaxed => 0 | .acq => 1 | .rel => 2 | .ar => 3

def AmoOrder.ofCode : Nat → AmoOrder
  | 0 => .relaxed | 1 => .acq | 2 => .rel | _ => .ar

def MemredOp.code : MemredOp → BitVec 4
  | .add => 0 | .and => 1 | .or => 2 | .xor => 3 | .min => 4 | .max => 5 | .fadd => 10

def MemredOp.ofCode : Nat → Option MemredOp
  | 0 => some .add | 1 => some .and | 2 => some .or | 3 => some .xor | 4 => some .min | 5 => some .max | 10 => some .fadd
  | _ => none

def FcvtKind.code : FcvtKind → BitVec 5
  | .f32s32 => 0 | .f32n32 => 1 | .f32s64 => 2 | .f32n64 => 3 | .s32f32 => 4 | .n32f32 => 5 | .s64f32 => 6 | .n64f32 => 7
  | .f32f16 => 8 | .f16f32 => 9 | .f32bf16 => 10 | .bf16f32 => 11

def FcvtKind.ofCode : Nat → Option FcvtKind
  | 0 => some .f32s32 | 1 => some .f32n32 | 2 => some .f32s64 | 3 => some .f32n64 | 4 => some .s32f32 | 5 => some .n32f32
  | 6 => some .s64f32 | 7 => some .n64f32 | 8 => some .f32f16 | 9 => some .f16f32 | 10 => some .f32bf16 | 11 => some .bf16f32
  | _ => none

def BCond.code : BCond → BitVec 3
  | .eq => 0 | .ne => 1 | .lt => 2 | .ge => 3 | .ltn => 4 | .gen => 5

def BCond.ofCode : Nat → Option BCond
  | 0 => some .eq | 1 => some .ne | 2 => some .lt | 3 => some .ge | 4 => some .ltn | 5 => some .gen | _ => none

def Scope.code : Scope → BitVec 11
  | .core => 0 | .cluster => 1 | .layer => 2 | .tower => 3 | .package => 4 | .system => 5

def VCond.code : VCond → BitVec 3
  | .eq => 0 | .ne => 1 | .lt => 2 | .le => 3 | .gt => 4 | .ge => 5 | .un => 6

def VCond.ofCode : Nat → Option VCond
  | 0 => some .eq | 1 => some .ne | 2 => some .lt | 3 => some .le | 4 => some .gt | 5 => some .ge | 6 => some .un | _ => none

def VredOp.code : VredOp → BitVec 3
  | .add => 0 | .min => 1 | .max => 2 | .and => 3 | .or => 4 | .xor => 5

def VredOp.ofCode : Nat → Option VredOp
  | 0 => some .add | 1 => some .min | 2 => some .max | 3 => some .and | 4 => some .or | 5 => some .xor | _ => none

def VamoOp.code : VamoOp → BitVec 3
  | .add => 0 | .min => 1 | .max => 2 | .and => 3 | .or => 4 | .xor => 5 | .swap => 6

def VamoOp.ofCode : Nat → Option VamoOp
  | 0 => some .add | 1 => some .min | 2 => some .max | 3 => some .and | 4 => some .or | 5 => some .xor | 6 => some .swap
  | _ => none

def ETy.ofCode : Nat → Option ETy
  | 0 => some .s32 | 1 => some .n32 | 2 => some .s16 | 3 => some .n16 | 4 => some .s8 | 5 => some .n8 | 6 => some .f32
  | 7 => some .bf16 | 8 => some .f16 | 9 => some .e4m3 | 10 => some .e5m2 | 11 => some .e2m1 | 12 => some .nq4 | _ => none

/-! ### The decoder -/

/-- The instruction, if the fields that must be zero are zero (R58, R59). -/
def zeroed (zero : Bool) (i : Instr) : Except DecodeError Instr := if zero then .ok i else .error .nonzeroField

/-- An instruction whose enumerated field may hold a reserved value. -/
def withCode {α : Type} (c : Option α) (k : α → Except DecodeError Instr) : Except DecodeError Instr :=
  match c with
  | some x => k x
  | none => .error .reservedValue

/-- The instruction, if it keeps the field rules that `Instr.wf` states (R59, R79, R98). -/
def wfOnly (i : Instr) : Except DecodeError Instr := if i.wf then .ok i else .error .reservedValue

/-- SYS, OP 0x00 (R63). -/
def decodeSys (w : HWord) : Except DecodeError Instr :=
  let d : GReg := w.extractLsb' 11 5
  let a : GReg := w.extractLsb' 6 5
  let i : BitVec 6 := w.extractLsb' 0 6
  match (w.extractLsb' 16 10).toNat with
  | 0x000 => .error .nonzeroField
  | 0x001 => zeroed (d == 0 && a == 0 && i == 0) .brk
  | 0x002 => zeroed (d == 0 && a == 0) (.trap i)
  | 0x003 => zeroed (d == 0 && a == 0 && i == 0) .eret
  | 0x004 => zeroed (d == 0 && a == 0 && i.extractLsb' 4 2 == 0) (.guard (i.getLsbD 3) (i.extractLsb' 0 3))
  | 0x005 => zeroed (d == 0 && a == 0 && i == 0) .yield
  | 0x006 => zeroed (d == 0 && a == 0 && i == 0) .halt
  | 0x008 => if i.toNat ≤ 32 then zeroed (a == 0) (if i == 6 then .mfcFflags d else .mfc d i) else .error .reservedValue
  | 0x009 =>
    if i.toNat ≤ 32 then
      zeroed (d == 0) (if i == 6 then .mtcFflags a else if i == 8 then .mtcSrseed a else if i == 16 then .mtcLspace a
        else if i == 30 then .mtcFbstat a else if i == 32 then .mtcTracectl a else .mtc i a)
    else .error .reservedValue
  | 0x00A =>
    match i.toNat with
    | 0 => zeroed (d == 0) (.tlbinvPage a)
    | 1 => zeroed (d == 0 && a == 0) .tlbinvContext
    | 2 => zeroed (d == 0 && a == 0) .tlbinvPartition
    | _ => .error .reservedValue
  | 0x00B => zeroed (d == 0 && a == 0 && i == 0) .freplay
  | 0x00C => zeroed (i == 0) (.wayset d a)
  | 0x00D => zeroed (i == 0) (.waysetQ d a)
  | 0x00E => zeroed (d == 0) (.trace a i)
  | 0x00F => zeroed (a == 0 && i == 0) (.sample d)
  | _ => .error .reservedValue

/-- Integer ALU, OP 0x01 (R64). -/
def decodeAlu (w : HWord) : Except DecodeError Instr :=
  let d := fD w; let a := fA w; let b := fB w
  match (fF11 w).toNat with
  | 0x000 => .ok (.add d a b) | 0x001 => .ok (.sub d a b) | 0x002 => .ok (.and d a b) | 0x003 => .ok (.or d a b)
  | 0x004 => .ok (.xor d a b) | 0x005 => .ok (.andn d a b) | 0x006 => .ok (.orn d a b) | 0x008 => .ok (.sll d a b)
  | 0x009 => .ok (.srl d a b) | 0x00A => .ok (.sra d a b) | 0x00B => .ok (.rol d a b) | 0x00C => .ok (.ror d a b)
  | 0x010 => .ok (.min d a b) | 0x011 => .ok (.max d a b) | 0x012 => .ok (.minn d a b) | 0x013 => .ok (.maxn d a b)
  | 0x018 => .ok (.seq d a b) | 0x019 => .ok (.sne d a b) | 0x01A => .ok (.slt d a b) | 0x01B => .ok (.sltn d a b)
  | 0x020 => .ok (.sel d 0 a b) | 0x021 => .ok (.sel d 1 a b) | 0x022 => .ok (.sel d 2 a b) | 0x023 => .ok (.sel d 3 a b)
  | 0x024 => .ok (.sel d 4 a b) | 0x025 => .ok (.sel d 5 a b) | 0x026 => .ok (.sel d 6 a b) | 0x027 => .ok (.sel d 7 a b)
  | 0x030 => zeroed (b == 0) (.clz d a) | 0x031 => zeroed (b == 0) (.ctz d a) | 0x032 => zeroed (b == 0) (.popc d a)
  | 0x033 => zeroed (b == 0) (.brev d a) | 0x034 => zeroed (b == 0) (.bswap d a)
  | _ => .error .reservedValue

/-- Immediate shifts, OP 0x08 (R65). -/
def decodeShiftImm (w : HWord) : Except DecodeError Instr :=
  let d := fD w; let a := fA w; let s := fF6 w
  if w.extractLsb' 8 8 == (0 : BitVec 8) then
    match (w.extractLsb' 6 2).toNat with
    | 0 => .ok (.slli d a s) | 1 => .ok (.srli d a s) | 2 => .ok (.srai d a s) | _ => .ok (.roli d a s)
  else .error .nonzeroField

/-- MUL/DIV, OP 0x0B (R66). -/
def decodeMulDiv (w : HWord) : Except DecodeError Instr :=
  let d := fD w; let a := fA w; let b := fB w
  match (fF11 w).toNat with
  | 0 => .ok (.mul d a b) | 1 => .ok (.mulh d a b) | 2 => .ok (.mulhn d a b) | 4 => .ok (.div d a b)
  | 5 => .ok (.divn d a b) | 6 => .ok (.rem d a b) | 7 => .ok (.remn d a b)
  | _ => .error .reservedValue

/-- Bit fields and byte permutes, OP 0x0C (R67, R98). -/
def decodeBits (w : HWord) : Except DecodeError Instr :=
  let d := fD w; let a := fA w
  if a == 0 then .ok (.bpermi d (fImm16 w))
  else
    match (w.extractLsb' 14 2).toNat with
    | 0 => if w.extractLsb' 12 2 == (0 : BitVec 2) then wfOnly (.bext d a (w.extractLsb' 6 6) (fF6 w)) else .error .nonzeroField
    | 1 => if w.extractLsb' 12 2 == (0 : BitVec 2) then wfOnly (.bins d a (w.extractLsb' 6 6) (fF6 w)) else .error .nonzeroField
    | 2 => zeroed (w.extractLsb' 0 9 == (0 : BitVec 9)) (.bperm d a (w.extractLsb' 9 5))
    | _ => .error .reservedValue

/-- Bit stream, OP 0x0D (R68). -/
def decodeStream (w : HWord) : Except DecodeError Instr :=
  let d := fD w; let a := fA w; let n := fF6 w
  if fB w == 0 then
    match (fC w).toNat with
    | 0 => zeroed (d == 0 && n == 0) (.bsrinit a)
    | 1 => zeroed (a == 0) (.bsget d n)
    | 2 => zeroed (a == 0) (.bspeek d n)
    | 3 => zeroed (d == 0 && a == 0) (.bsskip n)
    | 4 => zeroed (a == 0 && n.extractLsb' 5 1 == (0 : BitVec 1)) (.bsgetg d (n.extractLsb' 0 5))
    | 8 => zeroed (d == 0 && n == 0) (.bswinit a)
    | 9 => zeroed (d == 0) (.bsemit a n)
    | 10 => zeroed (d == 0 && a == 0 && n == 0) .bsflush
    | _ => .error .reservedValue
  else .error .nonzeroField

/-- Scalar FP32, OP 0x0E (R69). -/
def decodeFp (w : HWord) : Except DecodeError Instr :=
  let d := fD w; let a := fA w; let b := fB w; let c := fC w
  match (fF6 w).toNat with
  | 0 => zeroed (c == 0) (.fadd d a b) | 1 => zeroed (c == 0) (.fsub d a b) | 2 => zeroed (c == 0) (.fmul d a b)
  | 3 => .ok (.ffma d a b c) | 4 => zeroed (c == 0) (.fmin d a b) | 5 => zeroed (c == 0) (.fmax d a b)
  | 8 => zeroed (c == 0) (.fcmpEq d a b) | 9 => zeroed (c == 0) (.fcmpLt d a b) | 10 => zeroed (c == 0) (.fcmpLe d a b)
  | 11 => zeroed (c == 0) (.fcmpUn d a b)
  | 16 => withCode (FcvtKind.ofCode c.toNat) fun k => zeroed (b == 0) (.fcvt k d a)
  | _ => .error .reservedValue

/-- Loads, OP 0x14 (R71). -/
def decodeLd (w : HWord) : Except DecodeError Instr :=
  let d := fD w; let a := fA w; let o := fF11 w
  withCode (LdSize.ofCode (w.extractLsb' 13 3).toNat) fun s =>
    match (w.extractLsb' 11 2).toNat with
    | 0 => .ok (.ld s d a o) | 1 => .ok (.ldAcq s d a o) | 2 => .ok (.ldnt s d a o) | _ => .error .reservedValue

/-- Stores, OP 0x15 (R71). -/
def decodeSt (w : HWord) : Except DecodeError Instr :=
  let d := fD w; let a := fA w; let o := fF11 w
  withCode (StSize.ofCode (w.extractLsb' 13 3).toNat) fun s =>
    match (w.extractLsb' 11 2).toNat with
    | 0 => .ok (.st s d a o) | 1 => .ok (.stRel s d a o) | 2 => .ok (.stnt s d a o) | _ => .error .reservedValue

/-- AMO, OP 0x16 (R72, R234). -/
def decodeAmo (w : HWord) : Except DecodeError Instr :=
  let d := fD w; let a := fA w; let b := fB w
  let o := AmoOrder.ofCode (w.extractLsb' 6 2).toNat
  if w.extractLsb' 8 3 == (0 : BitVec 3) then
    withCode (AmoSize.ofCode (w.extractLsb' 4 2).toNat) fun s =>
      match (w.extractLsb' 0 4).toNat with
      | 0 => .ok (.amoAdd o s d a b) | 1 => .ok (.amoAnd o s d a b) | 2 => .ok (.amoOr o s d a b)
      | 3 => .ok (.amoXor o s d a b) | 4 => .ok (.amoMin o s d a b) | 5 => .ok (.amoMax o s d a b)
      | 6 => .ok (.amoMinn o s d a b) | 7 => .ok (.amoMaxn o s d a b) | 8 => .ok (.amoSwap o s d a b)
      | 9 => .ok (.amoCas o s d a b)
      | 10 => if s == .w32 then .ok (.amoFadd o d a b) else .error .reservedValue
      | _ => .error .reservedValue
  else .error .nonzeroField

/-- RED, OP 0x17 (R72, R234). -/
def decodeRed (w : HWord) : Except DecodeError Instr :=
  let a := fA w; let b := fB w
  if fD w == 0 && w.extractLsb' 6 5 == (0 : BitVec 5) then
    withCode (AmoSize.ofCode (w.extractLsb' 4 2).toNat) fun s =>
      match (w.extractLsb' 0 4).toNat with
      | 0 => .ok (.redAdd s a b) | 1 => .ok (.redAnd s a b) | 2 => .ok (.redOr s a b)
      | 3 => .ok (.redXor s a b) | 4 => .ok (.redMin s a b) | 5 => .ok (.redMax s a b)
      | 10 => if s == .w32 then .ok (.redFadd a b) else .error .reservedValue
      | _ => .error .reservedValue
  else .error .nonzeroField

/-- Operations at memory, OP 0x18 (R73). -/
def decodeMem (w : HWord) : Except DecodeError Instr :=
  let d := fD w; let a := fA w; let b := fB w; let c := fC w
  match (w.extractLsb' 0 2).toNat with
  | 0 => withCode (MemredOp.ofCode (w.extractLsb' 2 4).toNat) fun o => zeroed (d == 0 && c == 0) (.memred o a b)
  | 1 => zeroed (c == 0 && w.extractLsb' 2 4 == (0 : BitVec 4)) (.memcas d a b)
  | 2 => zeroed (d == 0 && w.extractLsb' 2 4 == (0 : BitVec 4)) (.memsax a b c)
  | _ => .error .reservedValue

/-- Counter, OP 0x19 (R74). -/
def decodeCounter (w : HWord) : Except DecodeError Instr :=
  let d := fD w; let a := fA w; let b := fB w; let c := fC w
  match (fF6 w).toNat with
  | 0 => zeroed (d == 0) (.cinit a b c)
  | 1 => zeroed (c == 0) (.cdec d a b)
  | 2 => zeroed (d == 0 && c == 0) (.cinc a b)
  | 3 => zeroed (b == 0 && c == 0) (.cread d a)
  | 4 => zeroed (b == 0 && c == 0) (.clocal d a)
  | _ => .error .reservedValue

/-- Fence family, OP 0x1A (R75). -/
def decodeFence (w : HWord) : Except DecodeError Instr :=
  let a := fA w; let b := fB w
  let none3 := fD w == 0 && a == 0 && b == 0
  match (fF11 w).toNat with
  | 0x000 => zeroed none3 (.fence .core) | 0x001 => zeroed none3 (.fence .cluster) | 0x002 => zeroed none3 (.fence .layer)
  | 0x003 => zeroed none3 (.fence .tower) | 0x004 => zeroed none3 (.fence .package) | 0x005 => zeroed none3 (.fence .system)
  | 0x008 => zeroed none3 .fenceLx
  | 0x010 => zeroed none3 .drain
  | 0x018 => zeroed (fD w == 0) (.l1inv a b)
  | 0x019 => zeroed (fD w == 0) (.l1wb a b)
  | 0x01A => zeroed (fD w == 0) (.icinv a b)
  | 0x01B => zeroed none3 .isync
  | _ => .error .reservedValue

/-- Wait family, OP 0x1B (R76). -/
def decodeWait (w : HWord) : Except DecodeError Instr :=
  let d := fD w; let a := fA w; let b := fB w
  let p : BitVec 8 := w.extractLsb' 0 8
  match (w.extractLsb' 8 3).toNat with
  | 0 => zeroed (d == 0 && a == 0 && b == 0) (.pause p)
  | 1 => zeroed (d == 0 && p == 0) (.waita a b)
  | 2 => zeroed (d == 0 && b == 0 && p == 0) (.evsig a)
  | 3 => zeroed (d == 0 && p == 0) (.evarm a b)
  | 4 => zeroed (d == 0 && b == 0 && p == 0) (.bar a)
  | 5 => zeroed (d == 0 && a == 0 && b == 0 && p.extractLsb' 2 6 == (0 : BitVec 6)) (.sync (p.extractLsb' 0 2))
  | _ => .error .reservedValue

/-- Message, OP 0x1C (R77, R272). -/
def decodeMsg (w : HWord) : Except DecodeError Instr :=
  let d := fD w; let a := fA w; let b := fB w
  let i : IReg := w.extractLsb' 2 5
  if w.extractLsb' 7 4 == (0 : BitVec 4) then
    match (w.extractLsb' 0 2).toNat with
    | 0 => zeroed (d == 0) (.send a b i)
    | 1 => zeroed (a == 0 && b == 0) (.take d i)
    | 2 => zeroed (a == 0 && b == 0) (.peeki d i)
    | _ => .error .reservedValue
  else .error .nonzeroField

/-- Label, OP 0x1D (R77, R188). -/
def decodeLabel (w : HWord) : Except DecodeError Instr :=
  let d := fD w; let a := fA w; let b := fB w
  let h : BitVec 7 := w.extractLsb' 4 7
  match (w.extractLsb' 0 4).toNat with
  | 0 => zeroed (b == 0) (.assume d a h)
  | 1 => zeroed (b == 0 && h == 0) (.lget d a)
  | 2 => zeroed (h == 0) (.lset d a b)
  | 3 => zeroed (h == 0) (.lprod d a b)
  | 4 => zeroed (h == 0) (.lunion d a b)
  | 5 => zeroed (h == 0) (.leq d a b)
  | 6 => zeroed (d == 0 && b == 0 && h == 0) (.nogood a)
  | 7 => zeroed (d == 0 && h == 0) (.nogoode a b)
  | 8 => zeroed (d == 0 && b == 0 && h.extractLsb' 3 4 == (0 : BitVec 4)) (.lvis (h.extractLsb' 0 3) a)
  | 9 => zeroed (h == 0) (.lsel d a b)
  | 10 => zeroed (b == 0 && h == 0) (.lcount d a)
  | 11 => zeroed (b == 0 && h.extractLsb' 5 2 == (0 : BitVec 2)) (.lenv d a (h.extractLsb' 0 4) (h.getLsbD 4))
  | 12 => zeroed (d == 0 && h == 0) (.lfocus a b)
  | _ => .error .reservedValue

/-- Copy engine, OP 0x1E (R78, R281). -/
def decodeCopy (w : HWord) : Except DecodeError Instr :=
  let d := fD w; let a := fA w; let b := fB w; let c := fC w
  let o : BitVec 5 := w.extractLsb' 0 5
  if w.getLsbD 5 then
    match o.toNat with
    | 0 => zeroed (d == 0 && b == 0 && c == 0) (.xpub a)
    | 1 => zeroed (a == 0 && b == 0 && c == 0) (.xstat d)
    | _ => .error .reservedValue
  else wfOnly (.xcopy o d a b c)

/-- An accumulator field: five bits, values 0-3 (R59, R77). -/
def withAcc (r : BitVec 5) (k : MReg → Except DecodeError Instr) : Except DecodeError Instr :=
  if r.extractLsb' 2 3 == (0 : BitVec 3) then k (r.extractLsb' 0 2) else .error .reservedValue

/-- Matrix, OP 0x1F (R77, R155). -/
def decodeMatrix (w : HWord) : Except DecodeError Instr :=
  let d := fD w; let a := fA w; let b := fB w
  match (fF11 w).toNat with
  | 0 => withAcc d fun m => .ok (.mma m a b)
  | 1 => withAcc d fun m => zeroed (a == 0 && b == 0) (.mzero m)
  | 2 => withAcc d fun m => zeroed (b == 0) (.mld m a)
  | 3 => withAcc b fun m => zeroed (d == 0) (.mst a m)
  | 4 => withAcc d fun m => zeroed (a == 0 && b == 0) (.mwait m)
  | 5 => zeroed (a == 0 && b == 0) (.mtest d)
  | _ => .error .reservedValue

/-- Kernel, OP 0x20 (R77). -/
def decodeKernel (w : HWord) : Except DecodeError Instr :=
  let d := fD w; let a := fA w; let b := fB w
  match (fF11 w).toNat with
  | 0 => zeroed (d == 0) (.launch a b)
  | 1 => zeroed (d == 0 && b == 0) (.exit a)
  | _ => .error .reservedValue

/-- Group, OP 0x21 (R77, R314). -/
def decodeGroup (w : HWord) : Except DecodeError Instr :=
  let d := fD w; let a := fA w; let b := fB w
  let h : BitVec 7 := w.extractLsb' 4 7
  match (w.extractLsb' 0 4).toNat with
  | 0 => zeroed (b == 0 && h == 0) (.gform d a)
  | 1 => zeroed (d == 0 && a == 0 && b == 0) (.grejoin h)
  | 2 => zeroed (d == 0 && a == 0 && b == 0 && h == 0) .gleave
  | 3 => zeroed (a == 0 && b == 0 && h == 0) (.gstat d)
  | _ => .error .reservedValue

/-! ### V form (R57, R79) -/

def vD (w : HWord) : VReg := w.extractLsb' 22 4
def vA (w : HWord) : VReg := w.extractLsb' 18 4
def vB (w : HWord) : VReg := w.extractLsb' 14 4
def vP (w : HWord) : PReg := w.extractLsb' 11 3
def vTc (w : HWord) : BitVec 4 := w.extractLsb' 7 4
/-- F[6:3], the function of most V-form words. -/
def vF (w : HWord) : Nat := (w.extractLsb' 3 4).toNat
/-- F[2:0]. -/
def vLow (w : HWord) : BitVec 3 := w.extractLsb' 0 3

/-- A V-form field that names a predicate: values 8-15 raise ILLEGAL (R58). -/
def withPred (r : BitVec 4) (k : PReg → Except DecodeError Instr) : Except DecodeError Instr :=
  if r.getLsbD 3 then .error .reservedValue else k (r.extractLsb' 0 3)

/-- Tile integer, OP 0x28. -/
def decodeTileInt (w : HWord) : Except DecodeError Instr :=
  let d := vD w; let a := vA w; let b := vB w; let p := vP w
  if vLow w == 0 then
    withCode (ETy.ofCode (vTc w).toNat) fun t =>
      match vF w with
      | 0 => wfOnly (.vaddInt t p d a b) | 1 => wfOnly (.vsubInt t p d a b) | 2 => wfOnly (.vmulInt t p d a b)
      | 3 => wfOnly (.vminInt t p d a b) | 4 => wfOnly (.vmaxInt t p d a b)
      | 5 => if b == 0 then wfOnly (.vabsInt t p d a) else .error .nonzeroField
      | 6 => if b == 0 then wfOnly (.vnegInt t p d a) else .error .nonzeroField
      | 7 => wfOnly (.vand t p d a b) | 8 => wfOnly (.vor t p d a b) | 9 => wfOnly (.vxor t p d a b)
      | 10 => wfOnly (.vshl t p d a b) | 11 => wfOnly (.vshr t p d a b) | 12 => wfOnly (.vsra t p d a b)
      | 13 => if b == 0 then wfOnly (.vbcast t p d a) else .error .nonzeroField
      | _ => .error .reservedValue
  else .error .reservedValue

/-- Tile float, OP 0x29. -/
def decodeTileFloat (w : HWord) : Except DecodeError Instr :=
  let d := vD w; let a := vA w; let b := vB w; let p := vP w
  if vLow w == 0 then
    withCode (ETy.ofCode (vTc w).toNat) fun t =>
      match vF w with
      | 0 => wfOnly (.vaddFloat t p d a b) | 1 => wfOnly (.vsubFloat t p d a b) | 2 => wfOnly (.vmulFloat t p d a b)
      | 3 => wfOnly (.vfma t p d a b) | 4 => wfOnly (.vfms t p d a b) | 5 => wfOnly (.vminFloat t p d a b)
      | 6 => wfOnly (.vmaxFloat t p d a b)
      | 7 => if b == 0 then wfOnly (.vabsFloat t p d a) else .error .nonzeroField
      | 8 => if b == 0 then wfOnly (.vnegFloat t p d a) else .error .nonzeroField
      | _ => .error .reservedValue
  else .error .reservedValue

/-- Tile compare and predicate, OP 0x2A. -/
def decodeTilePred (w : HWord) : Except DecodeError Instr :=
  let d := vD w; let a := vA w; let b := vB w; let p := vP w
  let tz := vTc w == 0 && p == 0
  match vF w with
  | 0 =>
    withCode (VCond.ofCode (vLow w).toNat) fun c => withCode (ETy.ofCode (vTc w).toNat) fun t =>
      withPred d fun pd => wfOnly (.vcmp c t p pd a b)
  | 1 => if vLow w == 0 then withCode (ETy.ofCode (vTc w).toNat) fun t => wfOnly (.vsel t p d a b) else .error .reservedValue
  | 2 => withPred d fun pd => withPred a fun pa => withPred b fun pb => zeroed (tz && vLow w == 0) (.pand pd pa pb)
  | 3 => withPred d fun pd => withPred a fun pa => withPred b fun pb => zeroed (tz && vLow w == 0) (.por pd pa pb)
  | 4 => withPred d fun pd => withPred a fun pa => withPred b fun pb => zeroed (tz && vLow w == 0) (.pxor pd pa pb)
  | 5 => withPred d fun pd => withPred a fun pa => zeroed (tz && vLow w == 0 && b == 0) (.pnot pd pa)
  | 6 => withPred d fun pd => zeroed (tz && a == 0 && b == 0 && (vLow w).extractLsb' 1 2 == (0 : BitVec 2)) (.pset pd (w.getLsbD 0))
  | 7 => withPred a fun pa => zeroed (tz && vLow w == 0 && b == 0) (.pcnt d pa)
  | 8 => withPred a fun pa => zeroed (tz && vLow w == 0 && b == 0) (.pfirst d pa)
  | _ => .error .reservedValue

/-- Tile reduce, rearrange and VSHAPE, OP 0x2B. -/
def decodeTileRed (w : HWord) : Except DecodeError Instr :=
  let d := vD w; let a := vA w; let b := vB w; let p := vP w
  match vF w with
  | 0 =>
    withCode (VredOp.ofCode (vLow w).toNat) fun o => withCode (ETy.ofCode (vTc w).toNat) fun t =>
      if b == 0 then wfOnly (.vred o t p d a) else .error .nonzeroField
  | 1 =>
    withCode (ETy.ofCode (vTc w).toNat) fun t =>
      if vLow w == 0 && b == 0 && p == 0 then wfOnly (.vtrans t d a) else .error .nonzeroField
  | 2 =>
    withCode (ETy.ofCode (vTc w).toNat) fun t => if p == 0 then wfOnly (.vrot t d a (b ++ vLow w)) else .error .nonzeroField
  | 3 => zeroed (vLow w == 0 && d == 0 && b == 0 && p == 0 && vTc w == 0) (.vshape a)
  | _ => .error .reservedValue

/-- Tile memory, OP 0x2C. -/
def decodeTileMem (w : HWord) : Except DecodeError Instr :=
  let d := vD w; let a := vA w; let b := vB w; let p := vP w
  withCode (ETy.ofCode (vTc w).toNat) fun t =>
    match vF w with
    | 0 => if vLow w == 0 then wfOnly (.vld t p d a b) else .error .reservedValue
    | 1 => if vLow w == 0 then wfOnly (.vst t p d a b) else .error .reservedValue
    | 2 => if vLow w == 0 then wfOnly (.vgather t p d a b) else .error .reservedValue
    | 3 => if vLow w == 0 then wfOnly (.vscatter t p d a b) else .error .reservedValue
    | 4 => withCode (VamoOp.ofCode (vLow w).toNat) fun o => wfOnly (.vamo o t p d a b)
    | _ => .error .reservedValue

/-- Tile convert and quantise, OP 0x2D. -/
def decodeTileCvt (w : HWord) : Except DecodeError Instr :=
  let d := vD w; let a := vA w; let b := vB w; let p := vP w
  withCode (ETy.ofCode (vTc w).toNat) fun t => withCode (ETy.ofCode (w.extractLsb' 0 4).toNat) fun s =>
    match (w.extractLsb' 4 3).toNat with
    | 0 => if b == 0 then wfOnly (.vcvt t s p d a) else .error .nonzeroField
    | 1 => if p == 0 then wfOnly (.vquant t s d a b) else .error .nonzeroField
    | 2 => if p == 0 then wfOnly (.vdeq t s d a b) else .error .nonzeroField
    | _ => .error .reservedValue

/-- SFU, OP 0x2E. -/
def decodeSfu (w : HWord) : Except DecodeError Instr :=
  let d := vD w; let a := vA w; let p := vP w
  if vLow w == 0 && vB w == 0 then
    withCode (ETy.ofCode (vTc w).toNat) fun t =>
      match vF w with
      | 0 => wfOnly (.vexp t p d a) | 1 => wfOnly (.vlog t p d a) | 2 => wfOnly (.vrcp t p d a) | 3 => wfOnly (.vrsq t p d a)
      | 4 => wfOnly (.vsqrt t p d a) | 5 => wfOnly (.vsin t p d a) | 6 => wfOnly (.vcos t p d a) | 7 => wfOnly (.vtanh t p d a)
      | 8 => wfOnly (.vsigm t p d a) | 9 => wfOnly (.vgelu t p d a)
      | _ => .error .reservedValue
  else .error .nonzeroField

/-- Tile label, OP 0x2F (R195). -/
def decodeTileLabel (w : HWord) : Except DecodeError Instr :=
  let d := vD w; let a := vA w; let b := vB w
  if vLow w == 0 && vP w == 0 && vTc w == 0 then
    match vF w with
    | 0 => zeroed (b == 0) (.vlget d a)
    | 1 => .ok (.vlset d a b)
    | 2 => withPred d fun pd => zeroed (b == 0) (.vlvis pd a)
    | _ => .error .reservedValue
  else .error .nonzeroField

/-- The instruction a word stands for (R59, R62). -/
def decode (w : HWord) : Except DecodeError Instr :=
  if w = 0 then .error .zero else
  match opOf w with
  | 0x00 => decodeSys w
  | 0x01 => decodeAlu w
  | 0x02 => .ok (.addi (fD w) (fA w) (fImm16 w))
  | 0x03 => .ok (.andi (fD w) (fA w) (fImm16 w))
  | 0x04 => .ok (.ori (fD w) (fA w) (fImm16 w))
  | 0x05 => .ok (.xori (fD w) (fA w) (fImm16 w))
  | 0x06 => .ok (.slti (fD w) (fA w) (fImm16 w))
  | 0x07 => .ok (.sltni (fD w) (fA w) (fImm16 w))
  | 0x08 => decodeShiftImm w
  | 0x09 =>
    zeroed (w.extractLsb' 19 2 == (0 : BitVec 2))
      (if w.getLsbD 18 then .luiK (fD w) (w.extractLsb' 16 2) (fImm16 w) else .lui (fD w) (w.extractLsb' 16 2) (fImm16 w))
  | 0x0A => .ok (.adpc (fD w) (w.extractLsb' 0 21))
  | 0x0B => decodeMulDiv w
  | 0x0C => decodeBits w
  | 0x0D => decodeStream w
  | 0x0E => decodeFp w
  | 0x10 =>
    withCode (BCond.ofCode (w.extractLsb' 23 3).toNat) fun c =>
      .ok (.bCond c (w.extractLsb' 18 5) (w.extractLsb' 13 5) (w.extractLsb' 0 13))
  | 0x11 => .ok (.jl (w.extractLsb' 0 26))
  | 0x12 => .ok (.jlr (fD w) (fA w) (fImm16 w))
  | 0x13 =>
    if fF6 w == 0 then
      wfOnly (.rpt (w.extractLsb' 22 4) (w.extractLsb' 18 4) (w.extractLsb' 14 4) (w.extractLsb' 10 4) (w.extractLsb' 6 4))
    else .error .nonzeroField
  | 0x14 => decodeLd w
  | 0x15 => decodeSt w
  | 0x16 => decodeAmo w
  | 0x17 => decodeRed w
  | 0x18 => decodeMem w
  | 0x19 => decodeCounter w
  | 0x1A => decodeFence w
  | 0x1B => decodeWait w
  | 0x1C => decodeMsg w
  | 0x1D => decodeLabel w
  | 0x1E => decodeCopy w
  | 0x1F => decodeMatrix w
  | 0x20 => decodeKernel w
  | 0x21 => decodeGroup w
  | 0x28 => decodeTileInt w
  | 0x29 => decodeTileFloat w
  | 0x2A => decodeTilePred w
  | 0x2B => decodeTileRed w
  | 0x2C => decodeTileMem w
  | 0x2D => decodeTileCvt w
  | 0x2E => decodeSfu w
  | 0x2F => decodeTileLabel w
  | _ => .error .reservedOpcode

/-! ### The encoder -/

/-- The word of an instruction, from the encoding tables of R63-R79; none for a step that is no word. -/
def encode : Instr → Option HWord
  | .brk => some (formS 1 0 0 0)
  | .trap i => some (formS 2 0 0 i)
  | .eret => some (formS 3 0 0 0)
  | .guard v n => some (formS 4 0 0 ((0 : BitVec 2) ++ BitVec.ofBool v ++ n))
  | .yield => some (formS 5 0 0 0)
  | .halt => some (formS 6 0 0 0)
  | .mfc d c => some (formS 8 d 0 c)
  | .mfcFflags d => some (formS 8 d 0 6)
  | .mtc c a => some (formS 9 0 a c)
  | .mtcFflags a => some (formS 9 0 a 6)
  | .mtcSrseed a => some (formS 9 0 a 8)
  | .mtcLspace a => some (formS 9 0 a 16)
  | .mtcFbstat a => some (formS 9 0 a 30)
  | .mtcTracectl a => some (formS 9 0 a 32)
  | .tlbinvPage a => some (formS 0xA 0 a 0)
  | .tlbinvContext => some (formS 0xA 0 0 1)
  | .tlbinvPartition => some (formS 0xA 0 0 2)
  | .freplay => some (formS 0xB 0 0 0)
  | .wayset d a => some (formS 0xC d a 0)
  | .waysetQ d a => some (formS 0xD d a 0)
  | .trace a i => some (formS 0xE 0 a i)
  | .sample d => some (formS 0xF d 0 0)
  | .add d a b => some (formT 0x01 d a b 0x0)
  | .sub d a b => some (formT 0x01 d a b 0x1)
  | .and d a b => some (formT 0x01 d a b 0x2)
  | .or d a b => some (formT 0x01 d a b 0x3)
  | .xor d a b => some (formT 0x01 d a b 0x4)
  | .andn d a b => some (formT 0x01 d a b 0x5)
  | .orn d a b => some (formT 0x01 d a b 0x6)
  | .sll d a b => some (formT 0x01 d a b 0x8)
  | .srl d a b => some (formT 0x01 d a b 0x9)
  | .sra d a b => some (formT 0x01 d a b 0xa)
  | .rol d a b => some (formT 0x01 d a b 0xb)
  | .ror d a b => some (formT 0x01 d a b 0xc)
  | .min d a b => some (formT 0x01 d a b 0x10)
  | .max d a b => some (formT 0x01 d a b 0x11)
  | .minn d a b => some (formT 0x01 d a b 0x12)
  | .maxn d a b => some (formT 0x01 d a b 0x13)
  | .seq d a b => some (formT 0x01 d a b 0x18)
  | .sne d a b => some (formT 0x01 d a b 0x19)
  | .slt d a b => some (formT 0x01 d a b 0x1a)
  | .sltn d a b => some (formT 0x01 d a b 0x1b)
  | .sel d n a b => some (formT 0x01 d a b ((4 : BitVec 8) ++ n))
  | .clz d a => some (formT 0x01 d a 0 0x30)
  | .ctz d a => some (formT 0x01 d a 0 0x31)
  | .popc d a => some (formT 0x01 d a 0 0x32)
  | .brev d a => some (formT 0x01 d a 0 0x33)
  | .bswap d a => some (formT 0x01 d a 0 0x34)
  | .addi d a i => some (formI 0x2 d a i)
  | .andi d a i => some (formI 0x3 d a i)
  | .ori d a i => some (formI 0x4 d a i)
  | .xori d a i => some (formI 0x5 d a i)
  | .slti d a i => some (formI 0x6 d a i)
  | .sltni d a i => some (formI 0x7 d a i)
  | .slli d a s => some (formI 0x08 d a ((0 : BitVec 8) ++ (0 : BitVec 2) ++ s))
  | .srli d a s => some (formI 0x08 d a ((0 : BitVec 8) ++ (1 : BitVec 2) ++ s))
  | .srai d a s => some (formI 0x08 d a ((0 : BitVec 8) ++ (2 : BitVec 2) ++ s))
  | .roli d a s => some (formI 0x08 d a ((0 : BitVec 8) ++ (3 : BitVec 2) ++ s))
  | .lui d k i => some (formL 0x09 d ((0 : BitVec 3) ++ k ++ i))
  | .luiK d k i => some (formL 0x09 d ((1 : BitVec 3) ++ k ++ i))
  | .adpc d o => some (formL 0x0A d o)
  | .mul d a b => some (formT 0x0B d a b 0)
  | .mulh d a b => some (formT 0x0B d a b 1)
  | .mulhn d a b => some (formT 0x0B d a b 2)
  | .div d a b => some (formT 0x0B d a b 4)
  | .divn d a b => some (formT 0x0B d a b 5)
  | .rem d a b => some (formT 0x0B d a b 6)
  | .remn d a b => some (formT 0x0B d a b 7)
  | .bpermi d i => some (formI 0x0C d 0 i)
  | .bext d a p l => some (formI 0x0C d a ((0 : BitVec 4) ++ p ++ l))
  | .bins d a p l => some (formI 0x0C d a ((4 : BitVec 4) ++ p ++ l))
  | .bperm d a b => some (formI 0x0C d a ((2 : BitVec 2) ++ b ++ (0 : BitVec 9)))
  | .bsrinit a => some (formT 0x0D 0 a 0 ((0 : BitVec 5) ++ (0 : BitVec 6)))
  | .bsget d n => some (formT 0x0D d 0 0 ((1 : BitVec 5) ++ n))
  | .bspeek d n => some (formT 0x0D d 0 0 ((2 : BitVec 5) ++ n))
  | .bsskip n => some (formT 0x0D 0 0 0 ((3 : BitVec 5) ++ n))
  | .bsgetg d k => some (formT 0x0D d 0 0 ((4 : BitVec 5) ++ (0 : BitVec 1) ++ k))
  | .bswinit a => some (formT 0x0D 0 a 0 ((8 : BitVec 5) ++ (0 : BitVec 6)))
  | .bsemit a n => some (formT 0x0D 0 a 0 ((9 : BitVec 5) ++ n))
  | .bsflush => some (formT 0x0D 0 0 0 ((10 : BitVec 5) ++ (0 : BitVec 6)))
  | .fadd d a b => some (formQ 0x0E d a b 0 0)
  | .fsub d a b => some (formQ 0x0E d a b 0 1)
  | .fmul d a b => some (formQ 0x0E d a b 0 2)
  | .fmin d a b => some (formQ 0x0E d a b 0 4)
  | .fmax d a b => some (formQ 0x0E d a b 0 5)
  | .fcmpEq d a b => some (formQ 0x0E d a b 0 8)
  | .fcmpLt d a b => some (formQ 0x0E d a b 0 9)
  | .fcmpLe d a b => some (formQ 0x0E d a b 0 10)
  | .fcmpUn d a b => some (formQ 0x0E d a b 0 11)
  | .ffma d a b c => some (formQ 0x0E d a b c 3)
  | .fcvt k d a => some (formQ 0x0E d a 0 k.code 16)
  | .bCond c a b o => some (formB 0x10 c.code a b o)
  | .jl o => some (formJ 0x11 o)
  | .jlr d a i => some (formI 0x12 d a i)
  | .rpt n k sd sa sb => some (formP 0x13 n k sd sa sb)
  | .ld s d a o => some (formM 0x14 d a s.code 0 o)
  | .ldAcq s d a o => some (formM 0x14 d a s.code 1 o)
  | .ldnt s d a o => some (formM 0x14 d a s.code 2 o)
  | .st s d a o => some (formM 0x15 d a s.code 0 o)
  | .stRel s d a o => some (formM 0x15 d a s.code 1 o)
  | .stnt s d a o => some (formM 0x15 d a s.code 2 o)
  | .amoAdd o s d a b => some (formT 0x16 d a b ((0 : BitVec 3) ++ o.code ++ s.code ++ (0 : BitVec 4)))
  | .amoAnd o s d a b => some (formT 0x16 d a b ((0 : BitVec 3) ++ o.code ++ s.code ++ (1 : BitVec 4)))
  | .amoOr o s d a b => some (formT 0x16 d a b ((0 : BitVec 3) ++ o.code ++ s.code ++ (2 : BitVec 4)))
  | .amoXor o s d a b => some (formT 0x16 d a b ((0 : BitVec 3) ++ o.code ++ s.code ++ (3 : BitVec 4)))
  | .amoMin o s d a b => some (formT 0x16 d a b ((0 : BitVec 3) ++ o.code ++ s.code ++ (4 : BitVec 4)))
  | .amoMax o s d a b => some (formT 0x16 d a b ((0 : BitVec 3) ++ o.code ++ s.code ++ (5 : BitVec 4)))
  | .amoMinn o s d a b => some (formT 0x16 d a b ((0 : BitVec 3) ++ o.code ++ s.code ++ (6 : BitVec 4)))
  | .amoMaxn o s d a b => some (formT 0x16 d a b ((0 : BitVec 3) ++ o.code ++ s.code ++ (7 : BitVec 4)))
  | .amoSwap o s d a b => some (formT 0x16 d a b ((0 : BitVec 3) ++ o.code ++ s.code ++ (8 : BitVec 4)))
  | .amoCas o s d a b => some (formT 0x16 d a b ((0 : BitVec 3) ++ o.code ++ s.code ++ (9 : BitVec 4)))
  | .amoFadd o d a b => some (formT 0x16 d a b ((0 : BitVec 3) ++ o.code ++ (0 : BitVec 2) ++ (10 : BitVec 4)))
  | .redAdd s a b => some (formT 0x17 0 a b ((0 : BitVec 5) ++ s.code ++ (0 : BitVec 4)))
  | .redAnd s a b => some (formT 0x17 0 a b ((0 : BitVec 5) ++ s.code ++ (1 : BitVec 4)))
  | .redOr s a b => some (formT 0x17 0 a b ((0 : BitVec 5) ++ s.code ++ (2 : BitVec 4)))
  | .redXor s a b => some (formT 0x17 0 a b ((0 : BitVec 5) ++ s.code ++ (3 : BitVec 4)))
  | .redMin s a b => some (formT 0x17 0 a b ((0 : BitVec 5) ++ s.code ++ (4 : BitVec 4)))
  | .redMax s a b => some (formT 0x17 0 a b ((0 : BitVec 5) ++ s.code ++ (5 : BitVec 4)))
  | .redFadd a b => some (formT 0x17 0 a b ((0 : BitVec 5) ++ (0 : BitVec 2) ++ (10 : BitVec 4)))
  | .memred o a b => some (formQ 0x18 0 a b 0 (o.code ++ (0 : BitVec 2)))
  | .memcas d a b => some (formQ 0x18 d a b 0 1)
  | .memsax a b c => some (formQ 0x18 0 a b c 2)
  | .cinit a b c => some (formQ 0x19 0 a b c 0)
  | .cdec d a b => some (formQ 0x19 d a b 0 1)
  | .cinc a b => some (formQ 0x19 0 a b 0 2)
  | .cread d a => some (formQ 0x19 d a 0 0 3)
  | .clocal d a => some (formQ 0x19 d a 0 0 4)
  | .fence s => some (formT 0x1A 0 0 0 s.code)
  | .fenceLx => some (formT 0x1A 0 0 0 8)
  | .drain => some (formT 0x1A 0 0 0 0x10)
  | .l1inv a b => some (formT 0x1A 0 a b 0x18)
  | .l1wb a b => some (formT 0x1A 0 a b 0x19)
  | .icinv a b => some (formT 0x1A 0 a b 0x1A)
  | .isync => some (formT 0x1A 0 0 0 0x1B)
  | .pause n => some (formT 0x1B 0 0 0 ((0 : BitVec 3) ++ n))
  | .waita a b => some (formT 0x1B 0 a b ((1 : BitVec 3) ++ (0 : BitVec 8)))
  | .evsig a => some (formT 0x1B 0 a 0 ((2 : BitVec 3) ++ (0 : BitVec 8)))
  | .evarm a b => some (formT 0x1B 0 a b ((3 : BitVec 3) ++ (0 : BitVec 8)))
  | .bar a => some (formT 0x1B 0 a 0 ((4 : BitVec 3) ++ (0 : BitVec 8)))
  | .sync l => some (formT 0x1B 0 0 0 ((5 : BitVec 3) ++ (0 : BitVec 6) ++ l))
  | .send a b i => some (formT 0x1C 0 a b ((0 : BitVec 4) ++ i ++ (0 : BitVec 2)))
  | .take d i => some (formT 0x1C d 0 0 ((0 : BitVec 4) ++ i ++ (1 : BitVec 2)))
  | .peeki d i => some (formT 0x1C d 0 0 ((0 : BitVec 4) ++ i ++ (2 : BitVec 2)))
  | .assume d a n => some (formT 0x1D d a 0 (n ++ (0 : BitVec 4)))
  | .lget d a => some (formT 0x1D d a 0 ((0 : BitVec 7) ++ (1 : BitVec 4)))
  | .lset d a b => some (formT 0x1D d a b ((0 : BitVec 7) ++ (2 : BitVec 4)))
  | .lprod d a b => some (formT 0x1D d a b ((0 : BitVec 7) ++ (3 : BitVec 4)))
  | .lunion d a b => some (formT 0x1D d a b ((0 : BitVec 7) ++ (4 : BitVec 4)))
  | .leq d a b => some (formT 0x1D d a b ((0 : BitVec 7) ++ (5 : BitVec 4)))
  | .nogood a => some (formT 0x1D 0 a 0 ((0 : BitVec 7) ++ (6 : BitVec 4)))
  | .nogoode a b => some (formT 0x1D 0 a b ((0 : BitVec 7) ++ (7 : BitVec 4)))
  | .lvis n a => some (formT 0x1D 0 a 0 (((0 : BitVec 4) ++ n) ++ (8 : BitVec 4)))
  | .lsel d a b => some (formT 0x1D d a b ((0 : BitVec 7) ++ (9 : BitVec 4)))
  | .lcount d a => some (formT 0x1D d a 0 ((0 : BitVec 7) ++ (10 : BitVec 4)))
  | .lenv d a e h => some (formT 0x1D d a 0 (((0 : BitVec 2) ++ BitVec.ofBool h ++ e) ++ (11 : BitVec 4)))
  | .lfocus a b => some (formT 0x1D 0 a b ((0 : BitVec 7) ++ (12 : BitVec 4)))
  | .xcopy o d a b c => some (formQ 0x1E d a b c ((0 : BitVec 1) ++ o))
  | .xpub a => some (formQ 0x1E 0 a 0 0 0x20)
  | .xstat d => some (formQ 0x1E d 0 0 0 0x21)
  | .mma m a b => some (formT 0x1F ((0 : BitVec 3) ++ m) a b 0)
  | .mzero m => some (formT 0x1F ((0 : BitVec 3) ++ m) 0 0 1)
  | .mld m a => some (formT 0x1F ((0 : BitVec 3) ++ m) a 0 2)
  | .mst a m => some (formT 0x1F 0 a ((0 : BitVec 3) ++ m) 3)
  | .mwait m => some (formT 0x1F ((0 : BitVec 3) ++ m) 0 0 4)
  | .mtest d => some (formT 0x1F d 0 0 5)
  | .launch a b => some (formT 0x20 0 a b 0)
  | .exit a => some (formT 0x20 0 a 0 1)
  | .gform d a => some (formT 0x21 d a 0 ((0 : BitVec 7) ++ (0 : BitVec 4)))
  | .grejoin i => some (formT 0x21 0 0 0 (i ++ (1 : BitVec 4)))
  | .gleave => some (formT 0x21 0 0 0 ((0 : BitVec 7) ++ (2 : BitVec 4)))
  | .gstat d => some (formT 0x21 d 0 0 ((0 : BitVec 7) ++ (3 : BitVec 4)))
  | .vaddInt t p d a b => some (formV 0x28 d a b p t.code ((0 : BitVec 4) ++ (0 : BitVec 3)))
  | .vsubInt t p d a b => some (formV 0x28 d a b p t.code ((1 : BitVec 4) ++ (0 : BitVec 3)))
  | .vmulInt t p d a b => some (formV 0x28 d a b p t.code ((2 : BitVec 4) ++ (0 : BitVec 3)))
  | .vminInt t p d a b => some (formV 0x28 d a b p t.code ((3 : BitVec 4) ++ (0 : BitVec 3)))
  | .vmaxInt t p d a b => some (formV 0x28 d a b p t.code ((4 : BitVec 4) ++ (0 : BitVec 3)))
  | .vabsInt t p d a => some (formV 0x28 d a 0 p t.code ((5 : BitVec 4) ++ (0 : BitVec 3)))
  | .vnegInt t p d a => some (formV 0x28 d a 0 p t.code ((6 : BitVec 4) ++ (0 : BitVec 3)))
  | .vand t p d a b => some (formV 0x28 d a b p t.code ((7 : BitVec 4) ++ (0 : BitVec 3)))
  | .vor t p d a b => some (formV 0x28 d a b p t.code ((8 : BitVec 4) ++ (0 : BitVec 3)))
  | .vxor t p d a b => some (formV 0x28 d a b p t.code ((9 : BitVec 4) ++ (0 : BitVec 3)))
  | .vshl t p d a b => some (formV 0x28 d a b p t.code ((10 : BitVec 4) ++ (0 : BitVec 3)))
  | .vshr t p d a b => some (formV 0x28 d a b p t.code ((11 : BitVec 4) ++ (0 : BitVec 3)))
  | .vsra t p d a b => some (formV 0x28 d a b p t.code ((12 : BitVec 4) ++ (0 : BitVec 3)))
  | .vbcast t p d g => some (formV 0x28 d g 0 p t.code ((13 : BitVec 4) ++ (0 : BitVec 3)))
  | .vaddFloat t p d a b => some (formV 0x29 d a b p t.code ((0 : BitVec 4) ++ (0 : BitVec 3)))
  | .vsubFloat t p d a b => some (formV 0x29 d a b p t.code ((1 : BitVec 4) ++ (0 : BitVec 3)))
  | .vmulFloat t p d a b => some (formV 0x29 d a b p t.code ((2 : BitVec 4) ++ (0 : BitVec 3)))
  | .vfma t p d a b => some (formV 0x29 d a b p t.code ((3 : BitVec 4) ++ (0 : BitVec 3)))
  | .vfms t p d a b => some (formV 0x29 d a b p t.code ((4 : BitVec 4) ++ (0 : BitVec 3)))
  | .vminFloat t p d a b => some (formV 0x29 d a b p t.code ((5 : BitVec 4) ++ (0 : BitVec 3)))
  | .vmaxFloat t p d a b => some (formV 0x29 d a b p t.code ((6 : BitVec 4) ++ (0 : BitVec 3)))
  | .vabsFloat t p d a => some (formV 0x29 d a 0 p t.code ((7 : BitVec 4) ++ (0 : BitVec 3)))
  | .vnegFloat t p d a => some (formV 0x29 d a 0 p t.code ((8 : BitVec 4) ++ (0 : BitVec 3)))
  | .vcmp c t p d a b => some (formV 0x2A ((0 : BitVec 1) ++ d) a b p t.code ((0 : BitVec 4) ++ c.code))
  | .vsel t p d a b => some (formV 0x2A d a b p t.code ((1 : BitVec 4) ++ (0 : BitVec 3)))
  | .pand d a b => some (formV 0x2A ((0 : BitVec 1) ++ d) ((0 : BitVec 1) ++ a) ((0 : BitVec 1) ++ b) 0 0 ((2 : BitVec 4) ++ (0 : BitVec 3)))
  | .por d a b => some (formV 0x2A ((0 : BitVec 1) ++ d) ((0 : BitVec 1) ++ a) ((0 : BitVec 1) ++ b) 0 0 ((3 : BitVec 4) ++ (0 : BitVec 3)))
  | .pxor d a b => some (formV 0x2A ((0 : BitVec 1) ++ d) ((0 : BitVec 1) ++ a) ((0 : BitVec 1) ++ b) 0 0 ((4 : BitVec 4) ++ (0 : BitVec 3)))
  | .pnot d a => some (formV 0x2A ((0 : BitVec 1) ++ d) ((0 : BitVec 1) ++ a) 0 0 0 ((5 : BitVec 4) ++ (0 : BitVec 3)))
  | .pset d v => some (formV 0x2A ((0 : BitVec 1) ++ d) 0 0 0 0 ((6 : BitVec 4) ++ ((0 : BitVec 2) ++ BitVec.ofBool v)))
  | .pcnt g a => some (formV 0x2A g ((0 : BitVec 1) ++ a) 0 0 0 ((7 : BitVec 4) ++ (0 : BitVec 3)))
  | .pfirst g a => some (formV 0x2A g ((0 : BitVec 1) ++ a) 0 0 0 ((8 : BitVec 4) ++ (0 : BitVec 3)))
  | .vred o t p d a => some (formV 0x2B d a 0 p t.code ((0 : BitVec 4) ++ o.code))
  | .vtrans t d a => some (formV 0x2B d a 0 0 t.code ((1 : BitVec 4) ++ (0 : BitVec 3)))
  | .vrot t d a n => some (formV 0x2B d a (n.extractLsb' 3 4) 0 t.code ((2 : BitVec 4) ++ n.extractLsb' 0 3))
  | .vshape a => some (formV 0x2B 0 a 0 0 0 ((3 : BitVec 4) ++ (0 : BitVec 3)))
  | .vld t p d a s => some (formV 0x2C d a s p t.code ((0 : BitVec 4) ++ (0 : BitVec 3)))
  | .vst t p d a s => some (formV 0x2C d a s p t.code ((1 : BitVec 4) ++ (0 : BitVec 3)))
  | .vgather t p d a b => some (formV 0x2C d a b p t.code ((2 : BitVec 4) ++ (0 : BitVec 3)))
  | .vscatter t p d a b => some (formV 0x2C d a b p t.code ((3 : BitVec 4) ++ (0 : BitVec 3)))
  | .vamo o t p d a b => some (formV 0x2C d a b p t.code ((4 : BitVec 4) ++ o.code))
  | .vcvt t s p d a => some (formV 0x2D d a 0 p t.code ((0 : BitVec 3) ++ s.code))
  | .vquant t s d a b => some (formV 0x2D d a b 0 t.code ((1 : BitVec 3) ++ s.code))
  | .vdeq t s d a b => some (formV 0x2D d a b 0 t.code ((2 : BitVec 3) ++ s.code))
  | .vexp t p d a => some (formV 0x2E d a 0 p t.code ((0 : BitVec 4) ++ (0 : BitVec 3)))
  | .vlog t p d a => some (formV 0x2E d a 0 p t.code ((1 : BitVec 4) ++ (0 : BitVec 3)))
  | .vrcp t p d a => some (formV 0x2E d a 0 p t.code ((2 : BitVec 4) ++ (0 : BitVec 3)))
  | .vrsq t p d a => some (formV 0x2E d a 0 p t.code ((3 : BitVec 4) ++ (0 : BitVec 3)))
  | .vsqrt t p d a => some (formV 0x2E d a 0 p t.code ((4 : BitVec 4) ++ (0 : BitVec 3)))
  | .vsin t p d a => some (formV 0x2E d a 0 p t.code ((5 : BitVec 4) ++ (0 : BitVec 3)))
  | .vcos t p d a => some (formV 0x2E d a 0 p t.code ((6 : BitVec 4) ++ (0 : BitVec 3)))
  | .vtanh t p d a => some (formV 0x2E d a 0 p t.code ((7 : BitVec 4) ++ (0 : BitVec 3)))
  | .vsigm t p d a => some (formV 0x2E d a 0 p t.code ((8 : BitVec 4) ++ (0 : BitVec 3)))
  | .vgelu t p d a => some (formV 0x2E d a 0 p t.code ((9 : BitVec 4) ++ (0 : BitVec 3)))
  | .vlget g a => some (formV 0x2F g a 0 0 0 ((0 : BitVec 4) ++ (0 : BitVec 3)))
  | .vlset d a b => some (formV 0x2F d a b 0 0 ((1 : BitVec 4) ++ (0 : BitVec 3)))
  | .vlvis d a => some (formV 0x2F ((0 : BitVec 1) ++ d) a 0 0 0 ((2 : BitVec 4) ++ (0 : BitVec 3)))
  | _ => none

/-- The instruction's word, which R59, R99 and R338 put into EINFO; zero for a step that is no word. -/
def Instr.word (i : Instr) : HWord := (encode i).getD 0

/-! ### Words in memory (R56) -/

/-- The bytes of a word, the first at the lowest address (R1, R56). -/
def bytesOfWord (w : HWord) : List Byte := [w.extractLsb' 0 8, w.extractLsb' 8 8, w.extractLsb' 16 8, w.extractLsb' 24 8]

/-- The word of four bytes in memory; bytes that are not there read as zero. -/
def wordOfBytes : List Byte → HWord
  | b0 :: b1 :: b2 :: b3 :: _ => b3 ++ b2 ++ b1 ++ b0
  | [b0, b1, b2] => (0 : Byte) ++ b2 ++ b1 ++ b0
  | [b0, b1] => (0 : BitVec 16) ++ b1 ++ b0
  | [b0] => (0 : BitVec 24) ++ b0
  | [] => 0

/-- What the decoder reads from an instruction of the opcode table's numbering: bit 0 is the least significant bit of the one
word; an instruction of the Idorn is one word, and bits beyond the `nbits` given are zero. -/
def decodeTableWord (nbits w : Nat) : Option Instr :=
  match decode (wordOfBytes (bytesOfWord (BitVec.ofNat 32 (w % 2 ^ (min nbits 32))))) with
  | .ok i => some i
  | .error _ => none

end Sys2Proof
end

