-- ==== Sys2Proof/Machine/Map.lean ====
section
/-! DEFINITION. Sparse data by number: a list of keys and values in rising order of key, an unlisted key reading as a default
value. Setting a key to the default removes it, so equal contents are equal lists. -/

namespace Sys2Proof.Machine

/-- Values by number, in rising order of key, none equal to the default of the reader. -/
abbrev AMap (α : Type) := List (Nat × α)

/-- The value at key k; d where it is not listed. -/
def AMap.get {α : Type} (m : AMap α) (d : α) (k : Nat) : α :=
  match m with
  | [] => d
  | (j, v) :: r => if k < j then d else if k = j then v else AMap.get r d k

/-- The value listed at key k. -/
def AMap.find? {α : Type} (m : AMap α) (k : Nat) : Option α :=
  match m with
  | [] => none
  | (j, v) :: r => if k < j then none else if k = j then some v else AMap.find? r k

/-- The map without key k. -/
def AMap.erase {α : Type} (m : AMap α) (k : Nat) : AMap α :=
  match m with
  | [] => []
  | (j, v) :: r => if k < j then (j, v) :: r else if k = j then r else (j, v) :: AMap.erase r k

/-- The map with key k at v, listed. -/
def AMap.put {α : Type} (m : AMap α) (k : Nat) (v : α) : AMap α :=
  match m with
  | [] => [(k, v)]
  | (j, w) :: r => if k < j then (k, v) :: (j, w) :: r else if k = j then (k, v) :: r else (j, w) :: AMap.put r k v

/-- The map with key k at v, unlisted where v is the default. -/
def AMap.set {α : Type} [DecidableEq α] (m : AMap α) (d : α) (k : Nat) (v : α) : AMap α :=
  if v = d then AMap.erase m k else AMap.put m k v

/-- Keys strictly rising from lo on, and no value equal to the default. -/
def AMap.wfFrom {α : Type} [DecidableEq α] (d : α) (lo : Nat) (m : AMap α) : Bool :=
  match m with
  | [] => true
  | (j, v) :: r => decide (lo ≤ j) && decide (v ≠ d) && AMap.wfFrom d (j + 1) r

/-- The canonical form. -/
def AMap.wf {α : Type} [DecidableEq α] (d : α) (m : AMap α) : Bool := AMap.wfFrom d 0 m

/-- The entries whose key and value satisfy p. -/
def AMap.keep {α : Type} (p : Nat → α → Bool) (m : AMap α) : AMap α := m.filter (fun e => p e.1 e.2)

/-- A value put into a list that rises by f, behind its equals. -/
def insertBy {α : Type} (f : α → Nat) (k : α) : List α → List α
  | [] => [k]
  | j :: r => if f k < f j then k :: j :: r else j :: insertBy f k r
/-- A list in the order of f. (DESIGN CHOICE, notes/assumptions/9.md.) -/
def sortBy {α : Type} (f : α → Nat) (l : List α) : List α := l.foldl (fun a k => insertBy f k a) []

/-- Two lists that rise by f as one that does; n bounds the members compared. -/
def mergeBy {α : Type} (f : α → Nat) : Nat → List α → List α → List α
  | n + 1, x :: a, y :: b => if f y < f x then y :: mergeBy f n (x :: a) b else x :: mergeBy f n a (y :: b)
  | _, a, b => a ++ b

/-- The member of a list that f is least for. -/
def least (f : Nat → Nat) (l : List Nat) : Nat := (sortBy f l).headD 0

end Sys2Proof.Machine
end

