-- ==== Sys2Proof/Machine/State.lean ====
section
/-! DEFINITION. The state of the Idorn: its cores, clusters, layers, towers, links, partitions, contexts and kernels, its
memory with the label tags, and the messages in flight; the machine after reset; the reasons a step can stop. -/

namespace Sys2Proof.Machine

/-- 256 bytes of a tile register (R116). -/
abbrev Tile := BitVec 2048
/-- 64 bytes of a line, byte i at bits 8i. -/
abbrev Line := BitVec 512
/-- The 16 word tags of a line, word i at bits 16i. -/
abbrev LineTags := BitVec 256

/-! ### Memory -/

/-- Memory: bytes by location number, in canonical form, an unlisted byte reading as zero.
Locations: a physical address (below 2^48); byte o of the local store of physical core n at 2^48 + n × 2^17 + o; byte o of the
scratchpad window at 2^49 + o. (DESIGN CHOICE, notes/assumptions/1.md.) -/
abbrev Memory := AMap Byte
/-- Label tags by the number of the aligned 32-bit word (location / 4), an unlisted word carrying TRUE (R200).
(DESIGN CHOICE, notes/assumptions/1.md.) -/
abbrev Tags := AMap Label

/-- The canonical form of memory: rising locations, no listed zero. -/
abbrev Memory.wf (m : Memory) : Prop := AMap.wf (0 : Byte) m = true
/-- The canonical form of the tags. -/
abbrev Tags.wf (t : Tags) : Prop := AMap.wf labelTrue t = true

/-- Where the local store of physical core n begins. -/
def lsBase (n : Nat) : Nat := 2 ^ 48 + n * 2 ^ 17
/-- Where the scratchpad window begins. -/
def scratchBase : Nat := 2 ^ 49

/-! ### The core -/

/-- Run states (R90). -/
inductive RunState where
  | running | stalled | sleeping | gated | faultwait | retired | halted | saved
deriving DecidableEq, Repr

/-- What a LAUNCH captured (R303): the queue, the records of its kernels, and for a graph its member array, its slot count, where its
slots begin, the patch, each word with its tag, and the slot that the patch has been copied into. -/
structure Captured where
  queue   : Nat
  records : List (List Word)
  array   : Option Nat
  slots   : Nat
  slot0   : Nat
  patch   : List (Nat × Label)
  taken   : Option Nat
deriving DecidableEq, Repr

/-- What a core that does not run waits for, and what a wait that has been met delivers at the next issue of its
instruction. -/
inductive Wait where
  | none
  /-- The awaited condition was met; the waiting instruction completes with this value. -/
  | granted (v : Word)
  | waita (off : Nat) (value : BitVec 32)
  | inbox (i : Nat)
  /-- SEND to a core: until its earlier accesses have performed, then until the inbox is free (R273). -/
  | send (target : Nat)
  | line (e : Nat) | barrier (b : Nat) | mutex (x : Nat)
  | sync (level : Nat)
  /-- LAUNCH with what it captured, until its slot and its queue have room (R303). -/
  | launch (c : Captured)
  /-- PCNT or PFIRST, until its beat (R118, R124). -/
  | result
  /-- XPUB, until its publish (R288). -/
  | publish
  | gform | rejoin (id : Nat) | leaderRejoin (id : Nat)
  | pause (upto : Nat)
  | sample (tick : Nat)
  /-- LAUNCH, until the core's earlier accesses have performed (R303). -/
  | launching
  /-- A fault posted, or dropped, at this layer (R326). -/
  | fault (layer : Nat)
  /-- A fault of the fetch of the core's next word, posted, or dropped, at this layer (R326). -/
  | fetch (layer : Nat)
  /-- Another condition of R88: a full queue, a store buffer to drain, a line in a transient state. -/
  | busy
  /-- The instruction issues again and makes its wait anew (R346, R349). -/
  | again
  /-- An armed stop: the core is past its SYNC and halts when its queues and buffers are empty (R342, R381). -/
  | halting
  /-- A counter request of this line under way, until its reply (R251). -/
  | reply (line : Nat)
  /-- A counter instruction that its home decided behind a CINIT with chunk 0: it finds no counter (R251). -/
  | noCounter
deriving DecidableEq, Repr

/-- The second word of a guarded pair, waiting for its issue cycle, the guard's factor, and whether the guard holds (R61). -/
structure Pair where
  guard : HWord
  word  : HWord
  label : Label
  runs  : Bool
deriving DecidableEq, Repr

/-- A repeat frame: the captured words, the counts and steps, and the next iteration and word (R83, R108). -/
structure Frame where
  words : List HWord
  k  : Nat
  sd : Nat
  sa : Nat
  sb : Nat
  j  : Nat
  i  : Nat
deriving DecidableEq, Repr

/-- An inbox register, with the core that sent the last message delivered into it (R271, R276). -/
structure InboxReg where
  present : Bool
  data : Word
  tag : Label
  sender : Option Nat
deriving DecidableEq, Repr

/-- A label fault of a queued matrix command, and a recorded copy failure (R160, R289): cause code, count of R176, word; the address of a
word that could not be read (R203, R341, R366). -/
structure Mark where
  cause : Nat
  count : Nat
  word  : HWord
  addr  : Option Nat
deriving DecidableEq, Repr

/-- A resolved address: what kind of storage holds the location, the location, and whether its page is plain. -/
inductive Place where
  | local | scratch | tracked | untracked | hostUncached | hostCached | peer
deriving DecidableEq, Repr

structure Loc where
  place : Place
  key   : Nat
  plain : Bool
deriving DecidableEq, Repr

/-- Operations on memory words: the AMO, RED and MEM families (R235). -/
inductive MemOp where
  | add | and | or | xor | min | max | minn | maxn | swap | cas | fadd
deriving DecidableEq, Repr

/-- What a store buffer entry does when it performs (R205, R238, R239); a trace record of the core is ordered as a store
(R379): its payload, the SSC, PNUM, LCORE and time of its TRACE, its type, and the TRACECTL that it was issued under. -/
inductive SbKind where
  | trace (payload ssc : Word) (pnum lcore time typ : Nat) (ring : Word)
  | store
  | red (op : MemOp)
  | memred (op : MemOp)
  | memsax (x : Loc) (s : BitVec 32)
deriving DecidableEq, Repr

/-- An entry of the store buffer: its effective address, location and size, its data, the operand label (for MEMSAX that of
gc, ga, gb) and whether the old tag is a factor. -/
structure SbEntry where
  kind : SbKind
  ea   : Nat
  loc  : Loc
  size : Nat
  data : Word
  label : Label
deriving DecidableEq, Repr

/-- A store in a combining buffer (R213). -/
structure NtStore where
  ea   : Nat
  loc  : Loc
  size : Nat
  data : Word
  label : Label
deriving DecidableEq, Repr

/-- A combining buffer: one line and its stores, oldest first (R213). -/
structure NtBuf where
  line : Nat
  stores : List NtStore
deriving DecidableEq, Repr

/-- A queued tile instruction with what it sampled at issue (R121): the shape, FRM, its reserved draws, its g operands, the
label product formed at issue, and the beats it still needs (R123). -/
structure VEntry where
  op    : Instr
  rows  : Nat
  cols  : Nat
  frm   : Nat
  seed  : Word
  ga    : Word
  gb    : Word
  label : Label
  beats : Nat
deriving DecidableEq, Repr

/-- A queued matrix command with what it sampled at issue (R150, R156, R158); label is the product formed at issue, and prior the
label of md that entered it. -/
structure MEntry where
  op    : Instr
  word  : HWord
  locA  : Nat
  locB  : Nat
  locs  : List Loc
  fmtA  : Nat
  fmtB  : Nat
  scla  : Word
  sclb  : Word
  supa  : Word
  supb  : Word
  ovm   : Bool
  label : Label
  prior : Label
deriving DecidableEq, Repr

/-- A queued copy command: its operands and issue label, and its progress (R278, R283); carry holds the bytes read of a destination word
that the next beat completes, each with the source words it comes from. -/
structure CEntry where
  pub   : Bool
  opts  : BitVec 5
  dst   : Word
  src   : Word
  shape : Word
  cpl   : Word
  l0    : Label
  ovm   : Bool
  word  : HWord
  started : Bool
  row   : Nat
  col   : Nat
  done  : Bool
  nans  : Nat
  big   : BitVec 32
  sum   : Word
  sumsq : Word
  carry : List (Nat × List (Nat × Label))
deriving DecidableEq, Repr

/-- Group states (R309). -/
inductive GState where
  | none | forming | attached | detached | rejoining
deriving DecidableEq, Repr

/-- What became of a forwarded word on the leader: it waits in it, it went to an address, by a taken branch or not, or it trapped
there (R310, R311). -/
inductive FwdOut where
  | waits
  | went (next : Word) (taken : Bool)
  | trapped
deriving DecidableEq, Repr

/-- A forwarded entry: the word or words the leader issued, where, and what became of them; no words where only the leader's trap is
told (R310, R311). -/
structure FwdEntry where
  pc : Word
  words : List HWord
  out : FwdOut
deriving DecidableEq, Repr

/-- A core's group membership (R308-R313): with since when its buffer has no room, whether its present word has been forwarded, and
whether its group is over. -/
structure Group where
  st   : GState
  mask : BitVec 16
  pc   : Word
  buf  : List FwdEntry
  fullSince : Option Nat
  sent : Bool
  ended : Bool
deriving DecidableEq, Repr

/-- The engines that can stand at a page that is not present (R408, R410). -/
inductive Engine where
  | store | tile | matrix | copy
deriving DecidableEq, Repr

/-- The state of one core (R12, R82, R90). Control registers are named as R82 names them. (DEDUCED, notes/assumptions/23.md.) -/
structure Core where
  run   : RunState
  wait  : Wait
  since : Nat
  held  : HWord     -- the word of the instruction that waits
  pc    : Word
  pair  : Option Pair
  frame : Option Frame
  prefetch : List (Word × HWord)
  g   : Vector Word 32
  gl  : Vector Label 32
  sg  : Vector Word 2
  sgl : Vector Label 2
  p   : Vector Pred 8
  pl  : Vector Label 8
  v   : Vector Tile 16
  vl  : Vector Label 16
  m   : Vector (AMap (BitVec 32)) 4
  ml  : Vector Label 4
  mmark : Vector (Option Mark) 4
  inbox : Vector InboxReg 32
  domain : Word
  ssc    : Word
  shape  : Word
  vshare : Word
  fflags : Word
  frm    : Word
  srseed : Word
  fmta   : Word
  fmtb   : Word
  scla   : Word
  sclb   : Word
  supa   : Word
  supb   : Word
  mweight : Word
  lflags : Word
  focus  : Env
  brbuf  : Word
  brptr  : Word
  bwbuf  : Word
  bwptr  : Word
  brl    : Label
  bwl    : Label
  epc    : Word
  ecause : Word
  einfo  : Word
  status : Word
  preempt : Word
  preemptSince : Nat
  sb  : List SbEntry
  nt  : List NtBuf
  vq  : List VEntry
  mq  : List MEntry
  cq  : List CEntry
  cfail : Option Mark
  paused : List Engine
  seen : Vector (BitVec 16) 32
  arrival : Vector (Option (BitVec 16)) 16
  arr  : Vector Nat 4
  group : Group
  pts  : Nat
  va   : Int
  vstarve : Nat
  sfua : Int
  sfustarve : Nat
  recorded : RunState   -- the state a SAVED core was in (R90)
  formed : Label × Bool   -- the label of the result that it waits for, formed before the wait, and whether it was cut (R61, R254)
deriving DecidableEq, Repr

/-! ### The cluster -/

/-- An event line (R257). -/
structure EvLine where
  target : BitVec 16
  count  : BitVec 16
  gen    : BitVec 16
deriving DecidableEq, Repr

/-- A barrier (R258). -/
structure Barrier where
  phase   : BitVec 16
  arrived : BitVec 8
  members : BitVec 8
deriving DecidableEq, Repr

/-- A mutex: its owner, and the cores that wait for it, first come first (R258). -/
structure Mutex where
  owner : Option Nat
  queue : List Nat
deriving DecidableEq, Repr

/-- A partial of an update-only line: byte offset in the line, value, label, and the context whose space the label is of (R232). -/
structure UPart where
  off   : Nat
  value : Word
  label : Label
  ctx   : Nat
deriving DecidableEq, Repr

/-- A line of the L1D (R223, R209, R232, R242); bad marks the words that hold an uncorrectable error (R203). -/
inductive L1Line where
  /-- V: a lease on the value it holds, and the cycle the lease was granted. -/
  | v (wts rts granted : Nat) (data : Line) (tags : LineTags) (bad : BitVec 16)
  /-- U: partials of REDs of one operation and size. -/
  | u (op : MemOp) (size : Nat) (parts : List UPart)
  /-- A: an allowance of a split counter. -/
  | a (allowance : Nat)
  /-- The cluster's own copy of a line without leases. -/
  | copy (dirty : Bool) (data : Line) (tags : LineTags) (bad : BitVec 16)
deriving DecidableEq, Repr

/-- A TLB entry: partition and context tags, the page it covers and its leaf (R321). -/
structure TlbEntry where
  part : Nat
  ctx  : Nat
  va   : Nat
  size : Nat
  leaf : Word
deriving DecidableEq, Repr

/-- An entry of the product cache (R174, R178). -/
structure PEntry where
  op : FullerOp
  x  : Label
  y  : Label
  r  : Word
deriving DecidableEq, Repr

/-- One cluster: what it runs, its event unit, caches, Fuller and matrix unit (R11). -/
structure Cluster where
  ctx    : Option Nat
  kernel : Option Nat
  kclus  : Nat
  lines  : Vector EvLine 32
  bars   : Vector Barrier 16
  mutexes : Vector Mutex 16
  l1     : AMap L1Line
  tlb    : List TlbEntry
  icache : AMap HWord
  filter : List Env
  pcache : List PEntry
  mturn  : Nat
  mgot   : Nat
  mweight : Nat
  mrun   : Option Nat
  mops   : Nat
  mpass  : Nat
  mtest : List Nat   -- the cores whose MTEST waits for the array (R161)
  mdue   : Bool   -- the unit's next known-pattern product is due (R163)
  fenced : BitVec 16
  offline : Bool
  throttled : Bool
  round  : Nat   -- the core of the cluster whose copy command moved the last beat (R278)
deriving DecidableEq, Repr

/-! ### Layers, towers, the directory -/

/-- Layer states (R351). -/
inductive LayerState where
  | active | draining | flushing | reenumerating | offline
deriving DecidableEq, Repr

structure Layer where
  role : Role
  st   : LayerState
  tlb  : List TlbEntry
deriving DecidableEq, Repr

/-- A message in flight between a home, the agents, the L1Ds and the Fullers: what its arrival does is the step of its name. -/
inductive Msg where
  | dirGets (line t : Nat) | dirGetx (line t : Nat) | dirUpg (line t : Nat)
  | dirPut (line t : Nat) (dirty : Bool) (rts inc : Nat) | dirRedJoin (line t : Nat)
  | invalidationAck (line t maxrts inc : Nat) | agentInvalidation (line t : Nat)
  | forwardedGets (line o t : Nat) | forwardedGetx (line o t : Nat)
  | dataGrant (line t : Nat) (excl : Bool) (wts rts : Nat) | writebackAck (line t : Nat)
  | recallComplete (line : Nat)
  | counterRecall (line k : Nat) | allowanceReturn (line k n : Nat) | roundComplete (line : Nat)
  | counterReply (line c value : Nat)
  | nogoodInstall (k : Nat)
  | fillReply (k line wts rts : Nat)
deriving DecidableEq, Repr

/-- Agent states of a line at the serving slices of a tower (R229). -/
inductive AgentState where
  | i | is | im | s | sm | e | m | o | mi
deriving DecidableEq, Repr

/-- A line at a tower's serving slice: its state and logical times, the image its home's DRAM still holds where the agent owns
it dirty, the partials evicted to it, whether a forward was served from the write-back buffer, the messages it holds until its data
comes, the cores whose stores wait for it (R229, R402), and whether it is the next victim of its set (R212). -/
structure Agent where
  st   : AgentState
  wts  : Nat
  rts  : Nat
  dram : Option (Line × LineTags)
  parts : List (Nat × MemOp × Nat × List UPart)
  leaving : Bool
  held   : List Msg
  queued : List Nat
  next   : Bool
deriving DecidableEq, Repr

/-- A line without leases at its home slice: while its write-back bit is set, what DRAM still holds of it (R230), and whether it is the
next victim of its set (R212). -/
structure HomeLine where
  dram : Option (Line × LineTags)
  next : Bool
deriving DecidableEq, Repr

/-- Directory states (R228). -/
inductive DirState where
  | i
  | s (set : List Nat)
  | x (o : Nat)
  | o (o : Nat) (set : List Nat)
  | u (set : List Nat) (op : MemOp) (size : Nat)
  /-- Invalidating: the agents still to answer, the requester, whether it is owed data, the stamp of the value it will hold, and
  the largest rts received. -/
  | bInv (left : List Nat) (req : Nat) (data : Bool) (wts maxrts : Nat)
  /-- Forwarded to the owner o for r; exclusive where r asked to write; the set that stays. -/
  | bFwd (o r : Nat) (excl : Bool) (set : List Nat)
  | bRec (set : List Nat) (op : MemOp) (size : Nat)
deriving DecidableEq, Repr

/-- A request waiting at the directory (R227). -/
inductive DirReq where
  | gets (t : Nat) | getx (t : Nat) | upg (t : Nat) | red (t : Nat)
deriving DecidableEq, Repr

/-- A directory entry; sent is the time since which a message to an agent is unanswered (R233). -/
structure Dir where
  st    : DirState
  queue : List DirReq
  sent  : Option Nat
deriving DecidableEq, Repr

/-- A request waiting at a counter's home (R244, R245): the core, what it asks, the guard's factor, and whether it is in the round's
snapshot. -/
structure CReq where
  core : Nat
  op   : CounterOp
  label : Label
  snap : Bool
deriving DecidableEq, Repr

/-- A split counter at its home (R241, R246): with since when its recall round is unanswered (R245), and the CDECs held at the L1Ds in
arrival order: core and n (R251). -/
structure Counter where
  reserve : Nat
  chunk   : Nat
  holders : List Nat
  queue   : List CReq
  recalling : Bool
  asked   : Nat
  held    : List (Nat × Nat)
deriving DecidableEq, Repr

/-- A tower: its slice table, MTS, incarnations of the agents, energy, temperature and firmware (R221, R222, R233, R300,
R301, R372). -/
structure Tower where
  sht    : List Nat
  mts    : Nat
  incarn : Vector (BitVec 8) 4
  known  : Vector (BitVec 8) 4
  budget : Nat
  watts  : Nat
  placed : Nat
  before : Nat   -- the estimates placed in the last completed window (R300)
  temp   : Int
  t1     : Int
  t2     : Int
  throttle : Bool
  hot    : Bool
  fwVersion : BitVec 32
  fwHash : BitVec 256
  recovery : Bool
  rollback : BitVec 32
deriving DecidableEq, Repr

/-! ### Partitions, contexts, kernels -/

/-- A partition: its descriptor and the ways it has lent, by slice slot (R333, R357). -/
structure Partition where
  desc : PartDesc
  lent : AMap Nat
deriving DecidableEq, Repr

/-- Context states (R335). -/
inductive CtxState where
  | free | loading | running | preempting | swapped | faulted | terminated
deriving DecidableEq, Repr

/-- An entry of a launch queue and its kernels: one, or the members of a graph (R295, R302). -/
structure QEntry where
  id      : Nat
  members : List Nat
deriving DecidableEq, Repr

/-- A launch queue (R295, R296). -/
structure LQueue where
  prio    : BitVec 2
  entries : List QEntry
  doneCnt : BitVec 48
  stopped : Bool
deriving DecidableEq, Repr

/-- A pending shadow of a 64 KiB page: its virtual page, and the frames in force (R288). -/
structure Shadow where
  page    : Nat
  visible : Nat
  hidden  : Nat
deriving DecidableEq, Repr

/-- A core's image in shadow storage: its place in its cluster, its record, and its local store (R348).
(DESIGN CHOICE, notes/assumptions/75.md.) -/
structure CoreImage where
  slot : Nat
  core : Core
  mem  : AMap Byte
  tags : AMap Label
deriving DecidableEq, Repr

/-- The images of one cluster, by the physical cluster they were taken on (R348, R349). (DESIGN CHOICE, notes/assumptions/75.md.) -/
structure ClusterImage where
  cluster : Nat
  wide   : Bool
  kernel : Option Nat
  kclus  : Nat
  lines  : Vector EvLine 32
  bars   : Vector Barrier 16
  mutexes : Vector Mutex 16
  cores  : List CoreImage
deriving DecidableEq, Repr

/-- An asynchronous MACHINE_CHECK that waits for delivery: the core it names, and its EINFO (R341). -/
structure AsyncMc where
  core  : Option Nat
  einfo : Word
deriving DecidableEq, Repr

/-- A context record and what the plinth holds for the context (R334). -/
structure Context where
  st       : CtxState
  part     : Nat
  root     : Nat
  lspace   : Word
  fbdepth  : Word
  fbstat   : Word
  tvec     : Word
  tracectl : Word
  ssbase   : Nat
  ssize    : Nat
  mcbase   : Nat
  mcseq    : BitVec 32
  queues   : AMap LQueue
  deficit  : Vector Nat 4
  shadows  : List Shadow
  images   : List ClusterImage
  async    : List AsyncMc
  replays  : AMap Nat
deriving DecidableEq, Repr

/-- Kernel states (R297). -/
inductive KState where
  | submitted | waiting | ready | placing | running | succeeded | done | faulted
deriving DecidableEq, Repr

/-- A kernel: its launch record, its entry and place in a graph (slot address, member array), and its placement: the cluster of
each KCLUS, those started, inherited, or waiting for a page of the image; its predecessor and successor; the decisions in a row at
which it fitted (R293, R297, R298, R302, R304, R306). -/
structure Kernel where
  ctx    : Nat
  queue  : Nat
  st     : KState
  record : List Word
  entry  : Nat
  member : Nat
  gslot  : Nat
  array  : Option Nat
  places : List (Nat × Nat)
  started : List Nat
  inherited : List Nat
  waits  : List Nat
  pred   : Option Nat
  successor : Option Nat
  fits   : Nat
deriving DecidableEq, Repr

/-! ### Links, lanes, notifications, Blocking -/

/-- Link states (R365). -/
inductive LinkState where
  | down | training | negotiating | up | degraded | fenced
deriving DecidableEq, Repr

/-- (DESIGN CHOICE, notes/assumptions/91.md.) -/
structure Link where
  st       : LinkState
  narrow   : Bool
  endpoint : Option Nat
  accepted : BitVec 128
  rxSeq    : BitVec 8
  resume   : Bool   -- it trains after a thaw, and what was under way waits for it (R389)
deriving DecidableEq, Repr

/-- Lane-group states (R362). -/
inductive LaneState where
  | normal | quiescing | switching | repaired | narrow
deriving DecidableEq, Repr

structure LaneGroup where
  st     : LaneState
  spares : Nat
deriving DecidableEq, Repr

/-- A message to an endpoint in VC 3, or a line of a plinth's log (R163, R326, R341, R362, R371). -/
inductive Note where
  | pend (ctx layer : Nat)
  | machineCheck (ctx : Nat)
  | contextFaulted (ctx : Nat)
  | kernelFaulted (kernel : Nat)
  | refused (reason : Nat)
  | accepted
  | stopComplete (ctx : Nat)
  | blockingDone (tower : Nat)
  | subarray (unit lastPass count : Nat)
  | laneRepaired (group : Nat)
  | laneNarrow (group : Nat)
  | badFeatures (port : Nat)
  | chain (number length : Nat)
  | attestation (report : List Byte)
  | staleMessage (tower : Nat)
  | discardedWrite (line : Nat)
  | hostData (pa value : Nat)
  | dramLine (pa : Nat) (data : Line) (tags : LineTags) (bad : BitVec 16)
deriving DecidableEq, Repr

/-- The running Blocking: its tower and the roles asked for (R352, R353). -/
structure Blocking where
  tower : Nat
  roles : List Role
  before : List Role
deriving DecidableEq, Repr

/-! ### The whole machine -/

/-- What a cache or TLB may drop at any time, by a replacement the manual does not fix. -/
inductive Evict where
  | l1 (cluster line : Nat)
  | tlb1 (cluster va : Nat)
  | tlb2 (layer va : Nat)
  | icache (cluster word : Nat)
  | product (cluster : Nat)
deriving DecidableEq, Repr

/-- One move of the package: a core issues, a step of an engine or of the outside world happens, cycles pass, a message in
flight is delivered, a line is replaced, or a core fetches ahead.
(DESIGN CHOICE, notes/assumptions/4.md; DESIGN CHOICE, notes/assumptions/13.md.) -/
inductive Move where
  | core (c : Nat)
  | event (i : Instr)
  | tick (n : Nat)
  | flight (k : Nat)
  | evict (e : Evict)
  | prefetch (c : Nat) (va : Word)
  /-- A word of storage holds an uncorrectable error from now on (R203). -/
  | damage (word : Nat)
  | damageL1 (cluster line word : Nat)
  /-- The host, or a peer, writes its own memory (R368). -/
  | outside (pa size v : Nat)
  /-- H names the management endpoint at bring-up (R371). -/
  | manage (endpoint : Nat)
  /-- H sets a tower's budget and thresholds (R300, R301). -/
  | limits (tower budget : Nat) (t1 t2 : Int)
  /-- The plinth of a frozen package reads a line of DRAM out (R388). -/
  | readLine (pa : Nat)
  /-- A step that waits is tried again, by its place among them (R370, R408). -/
  | retry (k : Nat)
deriving DecidableEq, Repr

/-- What a step of the surroundings or of a plinth that could not be made waits for: its endpoint's turn; room for a launch of context
x, by an endpoint, with what it captured, or a page of its slot; a FREPLAY of a context; or its next turn (R303, R370, R371, R408). -/
inductive Waits where
  | endpoint (e : Nat)
  | launch (e x : Nat) (c : Captured)
  | launchPage (e x : Nat) (c : Captured)
  | page (ctx : Nat)
  | again
deriving DecidableEq, Repr

/-- A step that waits, as its row gives it, or as the message whose arrival makes it. -/
inductive Task where
  | step (i : Instr)
  | message (m : Msg)
deriving DecidableEq, Repr

/-- A step that waits, on what, and since when (R303). -/
structure Waiting where
  on    : Waits
  what  : Task
  since : Nat
deriving DecidableEq, Repr

/-- A SEND that waits for its inbox (R273). -/
structure PendingSend where
  sender : Nat
  target : Nat
  inbox  : Nat
  data   : Word
  tag    : Label
deriving DecidableEq, Repr

/-- The machine: decided counts the 64-cycle slots up to the dispatcher's last decision (R298); cur names the core that acts; agenda
holds the moves that the surroundings order, oldest first; flight the messages in flight between the units; waiting the steps that
could not be made yet, and undone what the step just tried waits for; mgmt the management endpoint (R371); damaged the words of storage
that hold an uncorrectable error (R203); slices the lines without leases at their home slices (R230); free numbers the free values drawn so far (a field of the model, not of the part). -/
structure State where
  cur      : Nat
  cores    : AMap Core
  clusters : AMap Cluster
  layers   : AMap Layer
  towers   : AMap Tower
  mem      : Memory
  tags     : Tags
  damaged  : AMap Bool
  dirs     : AMap Dir
  agents   : AMap Agent
  slices   : AMap HomeLine
  counters : AMap Counter
  aliases  : AMap Nat
  parts    : AMap Partition
  ctxs     : AMap Context
  kernels  : AMap Kernel
  links    : AMap Link
  lanes    : AMap LaneGroup
  sends    : List PendingSend
  blocking : Option Blocking
  ring     : Vector Nat 4
  nextId   : Nat
  decided  : Nat
  time     : Nat
  pulses   : Nat
  pulseDue : List Nat
  lastPulse : Nat
  frozen   : Bool
  notes    : List Note
  agenda   : List Move
  flight   : List Msg
  waiting  : List Waiting
  undone   : Option Waits
  mgmt     : Option Nat
  free     : Nat
deriving DecidableEq, Repr

/-! ### Reset -/

/-- SRSEED after reset (R30). -/
def seedReset : Word := 0x6C8E9CF5701342B1#64
/-- SHAPE after reset: 8 × 8 (R117). -/
def shapeReset : Word := 0x00080008#64
/-- A scale register after reset: KB = 1 (R148). -/
def sclReset : Word := 0x00100000#64
/-- FBDEPTH after reset: DEPTH = 8 (R323). -/
def fbdepthReset : Word := 8#64

/-- No group (R309). -/
def Group.reset : Group := { st := .none, mask := 0, pc := 0, buf := [], fullSince := none, sent := false, ended := false }
/-- An empty inbox (R271). -/
def InboxReg.reset : InboxReg := { present := false, data := 0, tag := labelTrue, sender := none }

/-- p0 is all ones; the other predicates are zero (R81, R304). -/
def predReset : Vector Pred 8 := ⟨#[BitVec.allOnes 256, 0, 0, 0, 0, 0, 0, 0], rfl⟩

/-- A core after reset: no kernel runs on it, so it is RETIRED; its control registers have their reset values; its other
registers hold zero with label TRUE. (DESIGN CHOICE, notes/assumptions/2.md.) -/
def Core.reset : Core :=
  { run := .retired, wait := .none, since := 0, held := 0, pc := 0, pair := none, frame := none, prefetch := []
    g := Vector.replicate 32 0, gl := Vector.replicate 32 labelTrue, sg := Vector.replicate 2 0
    sgl := Vector.replicate 2 labelTrue, p := predReset, pl := Vector.replicate 8 labelTrue
    v := Vector.replicate 16 0, vl := Vector.replicate 16 labelTrue, m := Vector.replicate 4 []
    ml := Vector.replicate 4 labelTrue, mmark := Vector.replicate 4 none, inbox := Vector.replicate 32 InboxReg.reset
    domain := 0, ssc := 0, shape := shapeReset, vshare := 4, fflags := 0, frm := 0, srseed := seedReset
    fmta := 0, fmtb := 0, scla := sclReset, sclb := sclReset, supa := 0, supb := 0, mweight := 1, lflags := 0
    focus := BitVec.allOnes 128, brbuf := 0, brptr := 0, bwbuf := 0, bwptr := 0, brl := labelTrue, bwl := labelTrue
    epc := 0, ecause := 0, einfo := 0, status := 0, preempt := 0, preemptSince := 0
    sb := [], nt := [], vq := [], mq := [], cq := [], cfail := none, paused := []
    seen := Vector.replicate 32 0, arrival := Vector.replicate 16 none, arr := Vector.replicate 4 0
    group := Group.reset, pts := 0, va := 0, vstarve := 0, sfua := 0, sfustarve := 0, recorded := .running
    formed := (labelTrue, false) }

/-- A cluster after reset: nothing runs on it, its caches are empty, its event unit is clear (R256).
(DESIGN CHOICE, notes/assumptions/2.md.) -/
def Cluster.reset : Cluster :=
  { ctx := none, kernel := none, kclus := 0, lines := Vector.replicate 32 ⟨0, 0, 0⟩
    bars := Vector.replicate 16 ⟨0, 0, 0⟩, mutexes := Vector.replicate 16 ⟨none, []⟩
    l1 := [], tlb := [], icache := [], filter := [], pcache := []
    mturn := 0, mgot := 0, mweight := 1, mrun := none, mops := 0, mpass := 0, mtest := [], mdue := false, fenced := 0, offline := false
    throttled := false, round := 0 }

/-- The role of layer number l after reset: M at L0, L2, L4, L6 and C at L1, L3, L5, L7 (R13). -/
def roleReset (l : Nat) : Role := if l % 2 = 0 then .m else .c

/-- Layer number l after reset (R13, R351). -/
def Layer.reset (l : Nat) : Layer := { role := roleReset l, st := .active, tlb := [] }

/-- The slice table of a tower with n slices (R221). (DESIGN CHOICE, notes/assumptions/5.md.) -/
def shtOf (n : Nat) : List Nat := if n = 0 then [] else (List.range 64).map (· % n)

/-- A tower after reset: 16 slices by R13, thresholds of R301, a budget of five C layers' logic, a firmware image running
(notes/assumptions/3.md). (DESIGN CHOICE, notes/assumptions/3.md; DESIGN CHOICE, notes/assumptions/5.md.) -/
def Tower.reset : Tower :=
  { sht := shtOf 16, mts := 0, incarn := Vector.replicate 4 0, known := Vector.replicate 4 0, budget := 575, watts := 0
    placed := 0, before := 0, temp := 0, t1 := 95, t2 := 102, throttle := false, hot := false, fwVersion := 0, fwHash := 0
    recovery := false, rollback := 0 }

/-- No copy at an agent. -/
def Agent.reset : Agent := { st := .i, wts := 0, rts := 0, dram := none, parts := [], leaving := false, held := [], queued := [], next := false }
/-- No copy anywhere. -/
def Dir.reset : Dir := { st := .i, queue := [], sent := none }
/-- A link after reset: DOWN (R365). (DESIGN CHOICE, notes/assumptions/3.md.) -/
def Link.reset : Link :=
  { st := .down, narrow := false, endpoint := none, accepted := 0, rxSeq := 0, resume := false }
/-- A lane group after reset. -/
def LaneGroup.reset : LaneGroup := { st := .normal, spares := 2 }

/-- A descriptor that owns nothing. -/
def PartDesc.empty : PartDesc :=
  { id := 0, clusters := [], ranges := [], tagged := [], windows := [], ways := [], shadows := [], endpoint := 0 }
def Partition.reset : Partition := { desc := PartDesc.empty, lent := [] }

/-- A context that is FREE; FBDEPTH has its reset value (R323, R334). -/
def Context.reset : Context :=
  { st := .free, part := 0, root := 0, lspace := 0, fbdepth := fbdepthReset, fbstat := 0, tvec := 0, tracectl := 0
    ssbase := 0, ssize := 0, mcbase := 0, mcseq := 0, queues := [], deficit := Vector.replicate 4 0, shadows := []
    images := [], async := [], replays := [] }

def Kernel.reset : Kernel :=
  { ctx := 0, queue := 0, st := .faulted, record := [], entry := 0, member := 0, gslot := 0, array := none, places := []
    started := [], inherited := [], waits := [], pred := none, successor := none, fits := 0 }

/-- The machine right after reset: no partition, context or kernel, every core retired, memory with nothing listed. -/
def State.reset : State :=
  { cur := 0, cores := [], clusters := [], layers := [], towers := [], mem := [], tags := [], damaged := [], dirs := [], agents := [], slices := []
    counters := [], aliases := [], parts := [], ctxs := [], kernels := [], links := [], lanes := [], sends := []
    blocking := none, ring := Vector.replicate 4 0, nextId := 0, decided := 0, time := 0, pulses := 0
    pulseDue := [], lastPulse := 0, frozen := false, notes := [], agenda := [], flight := [], waiting := [], undone := none, mgmt := none, free := 0 }

/-! ### Why a step stops -/

/-- Faults of the model. -/
inductive Fault where
  /-- Raised by a step whose operand names a core, cluster, tower or unit that the package does not have: no such step exists
  on the part, so stopping is safe. -/
  | noSuchUnit
deriving DecidableEq, Repr

/-- Refusals of the model. -/
inductive Refusal where
  /-- An instruction that has no meaning yet, by its mnemonic: raised by Dispatch alone; safe. -/
  | notModelled (mnemonic : String)
deriving DecidableEq, Repr

end Sys2Proof.Machine
end

