-- ==== Sys2Proof/Machine/Parts.lean ====
section
/-! DEFINITION. The parts of the state, and what every operation reaches memory with: bytes and words, physical addresses (R220,
R368), the directory, the agents and the L1Ds, what a home answers while partials stand (R232), the writes of a plinth. -/

namespace Sys2Proof.Machine

/-! ### The parts of the state -/

def State.core (s : State) (n : Nat) : Core := s.cores.get Core.reset n
def State.setCore (s : State) (n : Nat) (c : Core) : State := { s with cores := s.cores.put n c }
def State.modCore (s : State) (n : Nat) (f : Core → Core) : State := s.setCore n (f (s.core n))
/-- The core that acts. -/
def State.me (s : State) : Core := s.core s.cur

def State.cluster (s : State) (k : Nat) : Cluster := s.clusters.get Cluster.reset k
def State.setCluster (s : State) (k : Nat) (c : Cluster) : State := { s with clusters := s.clusters.put k c }
def State.modCluster (s : State) (k : Nat) (f : Cluster → Cluster) : State := s.setCluster k (f (s.cluster k))

def State.layer (s : State) (l : Nat) : Layer := s.layers.get (Layer.reset l) l
def State.modLayer (s : State) (l : Nat) (f : Layer → Layer) : State := { s with layers := s.layers.put l (f (s.layer l)) }

def State.tower (s : State) (t : Nat) : Tower := s.towers.get Tower.reset t
def State.modTower (s : State) (t : Nat) (f : Tower → Tower) : State := { s with towers := s.towers.put t (f (s.tower t)) }

def State.ctx (s : State) (x : Nat) : Context := s.ctxs.get Context.reset x
def State.modCtx (s : State) (x : Nat) (f : Context → Context) : State := { s with ctxs := s.ctxs.put x (f (s.ctx x)) }

def State.part (s : State) (p : Nat) : Partition := s.parts.get Partition.reset p
def State.modPart (s : State) (p : Nat) (f : Partition → Partition) : State := { s with parts := s.parts.put p (f (s.part p)) }

def State.kernel (s : State) (k : Nat) : Kernel := s.kernels.get Kernel.reset k
def State.modKernel (s : State) (k : Nat) (f : Kernel → Kernel) : State := { s with kernels := s.kernels.put k (f (s.kernel k)) }

def State.link (s : State) (p : Nat) : Link := s.links.get Link.reset p
def State.modLink (s : State) (p : Nat) (f : Link → Link) : State := { s with links := s.links.put p (f (s.link p)) }

/-- The cluster, layer and tower of physical core n (R91). -/
def clusterOf (n : Nat) : Nat := n / 8
def layerOf (n : Nat) : Nat := n / 512
def towerOf (n : Nat) : Nat := n / 4096
/-- The cores of cluster k. -/
def coresOf (k : Nat) : List Nat := (List.range 8).map (fun c => 8 * k + c)

/-- The context that core n runs (R335). -/
def State.ctxOf (s : State) (n : Nat) : Nat := (s.cluster (clusterOf n)).ctx.getD 0
/-- The partition of core n's context. -/
def State.partOf (s : State) (n : Nat) : Nat := (s.ctx (s.ctxOf n)).part
/-- The clusters that run context x. -/
def State.clustersOfCtx (s : State) (x : Nat) : List Nat :=
  (s.clusters.filter (fun e => e.2.ctx == some x)).map (·.1)
/-- The cores on the clusters of context x. -/
def State.coresOfCtx (s : State) (x : Nat) : List Nat := (s.clustersOfCtx x).flatMap coresOf

/-- The C-layer ordinal of layer l (R4). -/
def State.ordinal (s : State) (l : Nat) : Nat := ((List.range l).filter (fun j => (s.layer j).role == .c)).length
/-- The logical cluster number of cluster k (R91). -/
def State.lclus (s : State) (k : Nat) : Nat := s.ordinal (k / 64) * 64 + k % 64
/-- The logical core number of core n (R4). -/
def State.lcore (s : State) (n : Nat) : Nat := s.lclus (n / 8) * 8 + n % 8
/-- Whether cluster k is wide (R10). -/
def isWide (k : Nat) : Bool := k % 64 < 32

/-- The latest logical time of any core (R222). -/
def State.latest (s : State) : Nat := s.cores.foldl (fun m e => max m e.2.pts) 0
/-- Core n has observed another party's access outside the lines with leases: what it reads next is no older, so its logical time
rises to the latest (R206, R207, R222). (DEDUCED, notes/assumptions/43.md.) -/
def State.observe (s : State) (n : Nat) : State :=
  let t := s.latest
  s.modCore n (fun c => { c with pts := max c.pts t })

/-! ### Bytes and words of memory -/

/-- n bytes of memory from location k on, the first the least significant (R1). -/
def readNat (m : Memory) (k : Nat) : Nat → Nat
  | 0 => 0
  | n + 1 => (m.get 0 k).toNat + 256 * readNat m (k + 1) n

/-- Memory with the n low bytes of v stored from location k on. -/
def writeNat (m : Memory) (k v : Nat) : Nat → Memory
  | 0 => m
  | n + 1 => writeNat (m.set 0 k (BitVec.ofNat 8 (v % 256))) (k + 1) (v / 256) n

def State.read (s : State) (k n : Nat) : Nat := readNat s.mem k n
def State.read64 (s : State) (k : Nat) : Word := BitVec.ofNat 64 (s.read k 8)
def State.read32 (s : State) (k : Nat) : BitVec 32 := BitVec.ofNat 32 (s.read k 4)
def State.tagAt (s : State) (k : Nat) : Label := s.tags.get labelTrue (k / 4)

/-- The tags of n consecutive words, from word number w on, set to l. -/
def setTags (t : Tags) (w : Nat) (l : Label) : Nat → Tags
  | 0 => t
  | n + 1 => setTags (t.set labelTrue w l) (w + 1) l n

/-- The words that n bytes from location k touch, as word numbers, ascending. -/
def wordsOf (k n : Nat) : List Nat := if n = 0 then [] else (List.range ((k + n - 1) / 4 - k / 4 + 1)).map (k / 4 + ·)

/-- A core that sleeps in WAITA on a word of its local store is woken by a write that leaves the word equal (R263). -/
def Core.seeLocal (c : Core) (m : Memory) (n : Nat) : Core :=
  match c.wait with
  | .waita off v => if BitVec.ofNat 32 (readNat m (lsBase n + off) 4) = v then { c with wait := .granted 0 } else c
  | _ => c

/-- The core whose local store holds location k. -/
def localOwner (k : Nat) : Option Nat := if 2 ^ 48 ≤ k ∧ k < 2 ^ 49 then some ((k - 2 ^ 48) / 2 ^ 17) else none

/-- After a write at location k: a sleeping WAITA of the owning core looks at its word. -/
def State.wakeLocal (s : State) (k : Nat) : State :=
  match localOwner k with
  | none => s
  | some n =>
    match (s.core n).wait with
    | .waita _ _ => s.modCore n (fun c => c.seeLocal s.mem n)
    | _ => s

/-- The damaged words that a write of the n bytes from k leaves damaged: one that it overwrites whole is repaired (R203). -/
def repaired (d : AMap Bool) (k n : Nat) : AMap Bool := d.filter (fun e => !(k ≤ 4 * e.1 && 4 * e.1 + 4 ≤ k + n))

/-- Whether a word that the n bytes at k touch holds an uncorrectable error (R203). -/
def State.badAt (s : State) (k n : Nat) : Bool := !s.damaged.isEmpty && (wordsOf k n).any (s.damaged.get false)

/-- n bytes stored at location k, tags untouched. -/
def State.poke (s : State) (k v n : Nat) : State :=
  ({ s with mem := writeNat s.mem k v n, damaged := repaired s.damaged k n }).wakeLocal k

def L1Line.isLease : L1Line → Bool
  | .v _ _ _ _ _ _ => true
  | _ => false

def L1Line.isDirty : L1Line → Bool
  | .copy d _ _ _ => d
  | _ => false

/-- The leases on the lines of n bytes from location k leave every L1D, which they may at any time (R223).
(DEDUCED, notes/assumptions/44.md.) -/
def State.dropLeases (s : State) (k n : Nat) : State :=
  let hit (e : Nat × L1Line) : Bool := L1Line.isLease e.2 && decide (k / 64 ≤ e.1 / 64) && decide (e.1 / 64 ≤ (k + n - 1) / 64)
  if s.clusters.any (fun c => c.2.l1.any hit) then
    { s with clusters := s.clusters.map (fun c => (c.1, { c.2 with l1 := c.2.l1.filter (fun e => !hit e) })) }
  else s

/-! ### Physical addresses (R220, R368) -/

/-- The line of a physical address. -/
def lineOf (pa : Nat) : Nat := pa / 64 * 64

/-- Whether a physical address lies in the package's DRAM. -/
def isDram (pa : Nat) : Bool := pa < 0x8000000000
def isHost (pa : Nat) : Bool := 0x100000000000 ≤ pa && pa < 0x200000000000
def isPeer (pa : Nat) : Bool := 0x800000000000 ≤ pa && pa < 0x1000000000000
/-- The peer device of a physical address. -/
def peerOf (pa : Nat) : Nat := (pa - 0x800000000000) / 0x10000000000

/-- Granule number, home tower, layer and die index (R220). -/
def granuleOf (pa : Nat) : Nat := pa / 2 ^ 21
def granuleTower (g : Nat) : Nat := ((g % 4) ^^^ (g / 2 ^ 8 % 4)) ^^^ (g / 2 ^ 16 % 4)
def granuleLayer (g : Nat) : Nat := g / 4 % 8
def granuleIndex (g : Nat) : Nat := g / 32 % 8192
/-- The die of a granule, as 8 × tower + layer. -/
def granuleDie (g : Nat) : Nat := 8 * granuleTower g + granuleLayer g
/-- The home tower of a physical address. -/
def homeTower (pa : Nat) : Nat := granuleTower (granuleOf pa)

/-- The endpoint numbers of the model: peer d is d, the host 128. (DESIGN CHOICE, notes/assumptions/12.md.) -/
def hostEndpoint : Nat := 128
/-- The endpoint of a physical address outside the package. (DESIGN CHOICE, notes/assumptions/12.md.) -/
def endpointOf (pa : Nat) : Nat := if isHost pa then hostEndpoint else peerOf pa
/-- The fabric port of the links to an endpoint, the lowest (R341, R364). (DESIGN CHOICE, notes/assumptions/12.md.) -/
def State.portTo (s : State) (e : Nat) : Nat := ((List.find? (fun (l : Nat × Link) => l.2.endpoint == some e) s.links).map Prod.fst).getD 0

/-! ### The directory, the agents, the L1Ds: where a line stands -/

def State.agent (s : State) (t L : Nat) : Agent := s.agents.get Agent.reset (4 * L + t)
def State.setAgent (s : State) (t L : Nat) (a : Agent) : State := { s with agents := s.agents.put (4 * L + t) a }
def State.dir (s : State) (L : Nat) : Dir := s.dirs.get Dir.reset L
def State.setDir (s : State) (L : Nat) (d : Dir) : State := { s with dirs := s.dirs.put L d }
/-- A directory entry in a state; in a stable one no answer is awaited. -/
def State.setDirSt (s : State) (L : Nat) (d : DirState) : State := s.setDir L { s.dir L with st := d, sent := none }
/-- A directory entry in a transient state, its messages to the agents sent now (R233). -/
def State.askDir (s : State) (L : Nat) (d : DirState) : State := s.setDir L { s.dir L with st := d, sent := some s.time }

/-- The L1D line of cluster k at L, and the L1D changed there. -/
def State.l1 (s : State) (k L : Nat) : Option L1Line := (s.cluster k).l1.find? L
def State.setL1 (s : State) (k L : Nat) (e : L1Line) : State := s.modCluster k (fun c => { c with l1 := c.l1.put L e })
def State.dropL1 (s : State) (k L : Nat) : State := s.modCluster k (fun c => { c with l1 := c.l1.erase L })

/-- Whether a line's home is held by a Blocking: from the flush of its tower until the resume, what needs the home waits (R354). -/
def State.heldLine (s : State) (L : Nat) : Bool := match s.blocking with
  | none => false
  | some b => isDram L && homeTower L == b.tower &&
    ((s.layer (8 * b.tower)).st == .flushing || (s.layer (8 * b.tower)).st == .reenumerating)

/-! ### What a home answers (R232, R235) -/

def f32Of (v : Nat) : FVal := fmtF32.decode (v % 2 ^ 32)

/-- op of R235 on values of w bytes: the new value for old and the operand b (CAS is decided apart). -/
def memOp (op : MemOp) (w old b : Nat) : Nat :=
  let n := 8 * w
  let x := old % 2 ^ n
  let y := b % 2 ^ n
  let sx : Int := if x < 2 ^ (n - 1) then x else (x : Int) - 2 ^ n
  let sy : Int := if y < 2 ^ (n - 1) then y else (y : Int) - 2 ^ n
  match op with
  | .add => (x + y) % 2 ^ n
  | .and => x &&& y
  | .or => x ||| y
  | .xor => x ^^^ y
  | .min => if sy < sx then y else x
  | .max => if sx < sy then y else x
  | .minn => min x y
  | .maxn => max x y
  | .swap => y
  | .cas => y
  | .fadd => (fmtF32.fadd .rne (f32Of x) (f32Of y)).1

/-- The partials held anywhere for a line, by logical cluster, in ascending order: in the L1Ds and at the slices. -/
def State.partials (s : State) (L : Nat) : List (Nat × MemOp × Nat × List UPart) :=
  let inL1 := s.clusters.filterMap (fun e => match e.2.l1.find? L with
    | some (.u op size ps) => some (s.lclus e.1, op, size, ps)
    | _ => none)
  let atSlice := (List.range 4).flatMap (fun t => (s.agent t L).parts)
  let all := atSlice ++ inL1
  (List.range (18 * 64)).flatMap (fun c => all.filter (fun e => e.1 == c))

/-- The operation and size of the partials of a line, where there are any. -/
def State.partialOp (s : State) (L : Nat) : Option (MemOp × Nat) := (s.partials L).head?.map (fun e => (e.2.1, e.2.2.1))

/-- Whether a line is in U at its directory. -/
def State.isU (s : State) (L : Nat) : Bool := match (s.dir L).st with
  | .u _ _ _ | .bRec _ _ _ => true
  | _ => false

/-- n bytes as the home of their line answers a reader that holds no copy: with every partial folded in (R232).
(DEDUCED, notes/assumptions/103.md.) -/
def State.homeRead (s : State) (k n : Nat) : Nat :=
  let L := lineOf k
  if s.isU L then
    readNat ((s.partials L).foldl (fun m e => e.2.2.2.foldl (fun m p =>
      writeNat m (L + p.off) (memOp e.2.1 e.2.2.1 (readNat m (L + p.off) e.2.2.1) p.value.toNat) e.2.2.1) m) s.mem) k n
  else s.read k n

/-! ### Messages, recalls -/

/-- A message on its way. -/
def State.send (s : State) (m : Msg) : State := { s with flight := s.flight ++ [m] }

/-- A recall of a line in U is asked for (R228, R232). -/
def State.askRecall (s : State) (L : Nat) : State := match (s.dir L).st with
  | .u set op size => (s.askDir L (.bRec set op size)).send (.recallComplete L)
  | _ => s

/-! ### Stores of the plinths -/

/-- MTS of the home of a line (R222). -/
def State.mts (s : State) (L : Nat) : Nat := (s.tower (homeTower L)).mts
/-- (DEDUCED, notes/assumptions/27.md.) -/
def State.raiseMts (s : State) (L rts : Nat) : State := s.modTower (homeTower L) (fun t => { t with mts := max t.mts rts })

/-- Whether n bytes at k and m bytes at a touch a common word. -/
def sameWord (k n a m : Nat) : Bool := a / 4 ≤ (k + n - 1) / 4 && k / 4 ≤ (a + m - 1) / 4

/-- Partials that p says of gone from a cluster's L1D line. -/
def L1Line.without (p : Nat → UPart → Bool) : L1Line → L1Line
  | .u op size ps => .u op size (ps.filter (fun q => !p size q))
  | e => e

/-- Under a plinth's write of n bytes at k to a line in U: the partials of the words written are folded into the bytes below, the write
takes the tags of those words; the recall of the line is asked for, and folds the others (R232). (DEDUCED, notes/assumptions/103.md.) -/
def State.foldUnder (s : State) (k n : Nat) : State :=
  let L := lineOf k
  if !s.isU L then s
  else
    let hit (size : Nat) (p : UPart) : Bool := sameWord k n (L + p.off) size
    let mem := (s.partials L).foldl (fun m e => (e.2.2.2.filter (hit e.2.2.1)).foldl (fun m p =>
      writeNat m (L + p.off) (memOp e.2.1 e.2.2.1 (readNat m (L + p.off) e.2.2.1) p.value.toNat) e.2.2.1) m) s.mem
    let s := { s with mem := mem }
    let s := s.clusters.foldl (fun s e => match e.2.l1.find? L with
      | some l => s.setL1 e.1 L (l.without hit)
      | none => s) s
    let s := (List.range 4).foldl (fun s t =>
      let a := s.agent t L
      if a.parts = [] then s
      else s.setAgent t L { a with parts := a.parts.map (fun e => (e.1, e.2.1, e.2.2.1, e.2.2.2.filter (fun p => !hit e.2.2.1 p))) }) s
    s.askRecall L

/-- The logical time of a store made at the home of a line for none of the cores: later than every access made so far, and than every
lease on the line (R206, R222, R224). (DEDUCED, notes/assumptions/44.md.) -/
def State.homeStamp (s : State) (L : Nat) : Nat :=
  (List.range 4).foldl (fun m t => max m (s.agent t L).rts) (max s.latest (s.mts L)) + 1

/-- A line stamped by a store at its home: a later load binds no earlier (R206, R222, R224). (DEDUCED, notes/assumptions/44.md.) -/
def State.stampLine (s : State) (L : Nat) : State :=
  if isDram L then
    let p := s.homeStamp L
    (List.range 4).foldl (fun s t =>
      let a := s.agent t L
      if a.st = .i then s else s.setAgent t L { a with wts := p, rts := p }) (s.raiseMts L p)
  else s

/-- A plinth's physical write of n bytes, tags TRUE (R325, R341, R377); a load that follows reads it.
(DEDUCED, notes/assumptions/44.md.) -/
def State.plinthWrite (s : State) (k v n : Nat) : State :=
  let s := (((s.foldUnder k n).poke k v n).dropLeases k n).stampLine (lineOf k)
  { s with tags := (wordsOf k n).foldl (fun t w => t.set labelTrue w labelTrue) s.tags }

end Sys2Proof.Machine
end

