-- ==== Sys2Proof/Machine/Walk.lean ====
section
/-! DEFINITION. Page tables: the entries and the walk (R317-R319). -/

namespace Sys2Proof.Machine

/-! ### Page-table entries (R317-R319) -/

def pteV (e : Word) : Bool := e.getLsbD 63
def pteLeaf (e : Word) : Bool := e.getLsbD 62
def pteW (e : Word) : Bool := e.getLsbD 61
def pteX (e : Word) : Bool := e.getLsbD 60
def pteT (e : Word) : Bool := e.getLsbD 59
def pteP (e : Word) : Bool := e.getLsbD 58
def pteS (e : Word) : Bool := e.getLsbD 57
def pteSel (e : Word) : Bool := e.getLsbD 56
def pteAddr (e : Word) : Nat := e.toNat % 2 ^ 48

/-- The lowest bit and the width of the VA field that a level indexes, and its table's alignment (R317). -/
def levelLo : Nat → Nat
  | 0 => 16 | 1 => 21 | 2 => 29 | _ => 38
def levelBits : Nat → Nat
  | 0 => 5 | 1 => 8 | 2 => 9 | _ => 10
def tableAlign (l : Nat) : Nat := 8 * 2 ^ levelBits l

/-- What one entry says (R319). -/
inductive Pte where
  | absent
  | guard
  | malformed
  | leaf
  | pointer (next : Nat)
deriving DecidableEq, Repr

/-- An entry read at a level, classified (R319). -/
def classify (level : Nat) (e : Word) : Pte :=
  if e = 0 then .absent
  else if !pteV e then .guard
  else if (e.extractLsb' 48 8) ≠ 0 then .malformed
  else if pteLeaf e then
    if level = 3 then .malformed
    else if pteAddr e % 2 ^ levelLo level ≠ 0 then .malformed
    else if pteS e && (level != 0 || e.getLsbD 16) then .malformed
    else .leaf
  else if level = 0 then .malformed
  else if (e.extractLsb' 56 6) ≠ 0 then .malformed
  else if pteAddr e % tableAlign (level - 1) ≠ 0 then .malformed
  else .pointer (pteAddr e)

/-- How a walk ends (R319). -/
inductive Walk where
  /-- An entry's home is held by a Blocking (R354). -/
  | held
  /-- An entry holds an uncorrectable error (R203). -/
  | bad
  | absent (level : Nat)
  | page (level : Nat) (malformed : Bool)
  | leaf (e : Word) (size : Nat) (at' : Nat)
deriving DecidableEq, Repr

/-- The walk from the table at a level down; each entry is read as its home answers (R232, R354).
(DEDUCED, notes/assumptions/19.md; DEDUCED, notes/assumptions/103.md.) -/
def State.walkFrom (s : State) (va : Nat) : Nat → Nat → Walk
  | level, table =>
    let a := table + 8 * (va / 2 ^ levelLo level % 2 ^ levelBits level)
    let e := BitVec.ofNat 64 (s.homeRead a 8)
    if s.heldLine (lineOf a) then .held
    else if s.badAt a 8 then .bad
    else match classify level e with
    | .absent => .absent level
    | .guard => .page level false
    | .malformed => .page level true
    | .leaf => .leaf e (2 ^ levelLo level) a
    | .pointer next =>
      match level with
      | 0 => .page 0 true
      | l + 1 => s.walkFrom va l next

/-- The entries that a walk reads, by their addresses. -/
def State.walkPath (s : State) (va : Nat) : Nat → Nat → List Nat
  | level, table =>
    let a := table + 8 * (va / 2 ^ levelLo level % 2 ^ levelBits level)
    a :: match classify level (BitVec.ofNat 64 (s.homeRead a 8)) with
      | .pointer next => match level with
        | 0 => []
        | l + 1 => s.walkPath va l next
      | _ => []

/-- The walk of a context's page table (R317). (DEDUCED, notes/assumptions/19.md.) -/
def State.walk (s : State) (x va : Nat) : Walk := s.walkFrom va 3 (s.ctx x).root

/-- What a walk does to the lines it reads: one in U is recalled (R232). (DEDUCED, notes/assumptions/103.md.) -/
def State.walked (s : State) (x va : Nat) : State :=
  (s.walkPath va 3 (s.ctx x).root).foldl (fun s a => s.askRecall (lineOf a)) s

end Sys2Proof.Machine
end

