-- ==== Sys2Proof/Machine/Ops.lean ====
section
/-! DEFINITION. The operations that every instruction is written with: the registers, the step's early endings, taking an exception
and returning from one (R337-R342), moving past an instruction, posting faults and machine checks. -/

namespace Sys2Proof.Machine

/-! ### The step's monad -/

/-- The causes of traps (R336). -/
inductive Cause where
  | illegal | illZero | misalign | page | protect | mapAlias | labelPlain | labelOverflow | labelSpaceFull | nogoodFull
  | labelBranch | scratchRange | deadlock | watchdog | brk | trap | machineCheck | preempt
deriving DecidableEq, Repr

/-- The code of a cause (R336). -/
def Cause.code : Cause → Nat
  | .illegal => 1 | .illZero => 2 | .misalign => 3 | .page => 4 | .protect => 5 | .mapAlias => 6 | .labelPlain => 7
  | .labelOverflow => 8 | .labelSpaceFull => 9 | .nogoodFull => 10 | .labelBranch => 11 | .scratchRange => 12
  | .deadlock => 13 | .watchdog => 14 | .brk => 15 | .trap => 16 | .machineCheck => 17 | .preempt => 18

/-- The cause of a code (R336). -/
def Cause.ofCode (n : Nat) : Cause :=
  ([.illZero, .misalign, .page, .protect, .mapAlias, .labelPlain, .labelOverflow, .labelSpaceFull, .nogoodFull, .labelBranch,
    .scratchRange, .deadlock, .watchdog, .brk, .trap, .machineCheck, .preempt].find? (fun (c : Cause) => c.code == n)).getD .illegal

/-- What a trap leaves in EINFO (R338): the instruction word, an address, other bits; with the operand-value mark. -/
inductive Info where
  | word (value : Bool)
  | labelWord (count : Nat)
  | other (w : Word) (value : Bool)
deriving DecidableEq, Repr

/-- Why the current step does not complete its instruction. -/
inductive Stop where
  /-- A precise trap of the instruction. -/
  | trap (c : Cause) (i : Info)
  /-- A page that is not present: the context it is a page of, the layer whose TLB asked, the virtual address, the access, the level, and
  whether a label step needs it (R326, R408). -/
  | absent (ctx layer va : Nat) (acc : Access) (level : Nat) (fuller : Bool)
  /-- A recall of this line must come first, and cannot be made within the step: it is asked for (R228, R232, R408). -/
  | recalls (line : Nat)
  /-- The core waits, in this run state, and issues the instruction again. -/
  | hold (r : RunState) (w : Wait)
deriving DecidableEq, Repr

/-- A step: it changes the state and may end early; what it changed before it ended stays. -/
abbrev M := EStateM Stop State

def getMe : M Core := fun s => .ok s.me s
def modMe (f : Core → Core) : M Unit := fun s => .ok () (s.modCore s.cur f)
def modS (f : State → State) : M Unit := fun s => .ok () (f s)
/-- The current core observes. (DEDUCED, notes/assumptions/43.md.) -/
def observeMe : M Unit := modS (fun s => s.observe s.cur)
def raise {α : Type} (c : Cause) (i : Info) : M α := throw (.trap c i)
/-- A trap whose rule gives the word (R338). -/
def raiseWord {α : Type} (c : Cause) : M α := raise c (.word false)
/-- A trap whose rule sets EINFO[40] and gives the word (R338). -/
def raiseValue {α : Type} (c : Cause) : M α := raise c (.word true)
/-- A trap whose rule gives an address (R338). (DEDUCED, notes/assumptions/14.md.) -/
def raiseAddr {α : Type} (c : Cause) (a : Nat) : M α := raise c (.other (BitVec.ofNat 64 a) false)
/-- A trap whose rule gives an address and sets the mark (R338). -/
def raiseAddrValue {α : Type} (c : Cause) (a : Nat) : M α := raise c (.other (BitVec.ofNat 64 a) true)
/-- A condition of R88 that does not hold: the core is STALLED at the instruction. (DEDUCED, notes/assumptions/100.md.) -/
def stall {α : Type} : M α := throw (.hold .stalled .busy)
/-- (DEDUCED, notes/assumptions/100.md.) -/
def holdOn {α : Type} (r : RunState) (w : Wait) : M α := throw (.hold r w)
/-- Stall unless b. -/
def needs (b : Bool) : M Unit := if b then pure () else stall
/-- m as one: where it ends early, nothing of it is done. -/
def whole {α : Type} (m : M α) : M α := fun s => match m s with
  | .ok a t => .ok a t
  | .error e _ => .error e s
/-- What a step leaves that ended early with nothing done: a recall that it needs is asked for. -/
def State.unless (s : State) : Stop → State
  | .recalls L => s.askRecall L
  | _ => s
/-- Raise unless b. -/
def orRaise (b : Bool) (c : Cause) (i : Info) : M Unit := if b then pure () else raise c i

/-- A recorded copy failure is raised before any effect of the instruction, and the record is cleared (R289). -/
def raiseRecorded : M Unit := do
  match (← getMe).cfail with
  | none => pure ()
  | some m =>
    modMe (fun c => { c with cfail := none })
    raise (Cause.ofCode m.cause) (.other (m.word.zeroExtend 64 ||| (1 <<< 40)) true)

/-! ### Registers (R81, R340) -/

/-- LVL of STATUS: at S (R339). -/
def Core.atS (c : Core) : Bool := c.status.getLsbD 0
/-- INTRAP of STATUS. -/
def Core.inTrap (c : Core) : Bool := c.status.getLsbD 2

/-- Which banked register a number names at S: 30 and 31 name SG30 and SG31 (R340). (DEDUCED, notes/assumptions/30.md.) -/
def bankOf (c : Core) (r : GReg) : Option (Fin 2) :=
  if c.atS then (if r = 30 then some 0 else if r = 31 then some 1 else none) else none

/-- The contents of g register r: g0 reads zero (R81). -/
def Core.rg (c : Core) (r : GReg) : Word :=
  if r = 0 then 0 else match bankOf c r with
  | some b => c.sg[b]
  | none => c.g[r.toNat]'(by have := r.isLt; omega)

/-- The label of g register r: g0 carries TRUE (R81). -/
def Core.lg (c : Core) (r : GReg) : Label :=
  if r = 0 then labelTrue else match bankOf c r with
  | some b => c.sgl[b]
  | none => c.gl[r.toNat]'(by have := r.isLt; omega)

/-- g register r set to v under label l: a write to g0 is discarded (R81). (DEDUCED, notes/assumptions/30.md.) -/
def Core.wg (c : Core) (r : GReg) (v : Word) (l : Label) : Core :=
  if r = 0 then c else match bankOf c r with
  | some b => { c with sg := c.sg.set b v, sgl := c.sgl.set b l }
  | none => { c with g := c.g.set r.toNat v (by have := r.isLt; omega), gl := c.gl.set r.toNat l (by have := r.isLt; omega) }

/-- A g register named by a V-form field: g0-g15 (R58). -/
def lowG (r : GLow) : GReg := r.zeroExtend 5

/-- Predicate p: p0 reads all ones under TRUE (R81). -/
def Core.rp (c : Core) (n : PReg) : Pred := if n = 0 then BitVec.allOnes 256 else c.p[n.toNat]'(by have := n.isLt; omega)
def Core.lp (c : Core) (n : PReg) : Label := if n = 0 then labelTrue else c.pl[n.toNat]'(by have := n.isLt; omega)
/-- Predicate p set; a write to p0 is discarded. -/
def Core.wp (c : Core) (n : PReg) (v : Pred) : Core :=
  if n = 0 then c else { c with p := c.p.set n.toNat v (by have := n.isLt; omega) }
def Core.wpl (c : Core) (n : PReg) (l : Label) : Core :=
  if n = 0 then c else { c with pl := c.pl.set n.toNat l (by have := n.isLt; omega) }

def Core.rv (c : Core) (n : VReg) : Tile := c.v[n.toNat]'(by have := n.isLt; omega)
def Core.lv (c : Core) (n : VReg) : Label := c.vl[n.toNat]'(by have := n.isLt; omega)
def Core.wv (c : Core) (n : VReg) (t : Tile) : Core := { c with v := c.v.set n.toNat t (by have := n.isLt; omega) }
def Core.wvl (c : Core) (n : VReg) (l : Label) : Core := { c with vl := c.vl.set n.toNat l (by have := n.isLt; omega) }

def Core.rm (c : Core) (n : MReg) : AMap (BitVec 32) := c.m[n.toNat]'(by have := n.isLt; omega)
def Core.lm (c : Core) (n : MReg) : Label := c.ml[n.toNat]'(by have := n.isLt; omega)
def Core.rmk (c : Core) (n : MReg) : Option Mark := c.mmark[n.toNat]'(by have := n.isLt; omega)
def Core.wm (c : Core) (n : MReg) (a : AMap (BitVec 32)) (l : Label) : Core :=
  { c with m := c.m.set n.toNat a (by have := n.isLt; omega), ml := c.ml.set n.toNat l (by have := n.isLt; omega) }
def Core.wmk (c : Core) (n : MReg) (k : Option Mark) : Core :=
  { c with mmark := c.mmark.set n.toNat k (by have := n.isLt; omega) }

def Core.ri (c : Core) (i : IReg) : InboxReg := c.inbox[i.toNat]'(by have := i.isLt; omega)
def Core.wi (c : Core) (i : IReg) (r : InboxReg) : Core := { c with inbox := c.inbox.set i.toNat r (by have := i.isLt; omega) }

/-! ### Where the core stands -/

/-- The address of the word that executes: the second word of a guarded pair stands after its guard (R61). -/
def Core.here (c : Core) : Word := if c.pair.isSome then c.pc + 4 else c.pc
/-- The guard's factor, where the word is guarded (R61). -/
def Core.guardLabel (c : Core) : Label := match c.pair with
  | some p => p.label
  | none => labelTrue

/-- The core running at pc, with nothing of its last instruction left. -/
def Core.at (c : Core) (pc : Word) : Core := { c with run := .running, wait := .none, pc := pc, pair := none }

/-- The core past its instruction: within a repeat frame at the frame's next word, after its last at the word behind the
frame; else at the next word (R83, R108). -/
def Core.past (c : Core) : Core :=
  match c.frame with
  | none => c.at (c.here + 4)
  | some f =>
    if f.i + 1 < f.words.length then { c with run := .running, wait := .none, frame := some { f with i := f.i + 1 } }
    else if f.j + 1 < f.k then { c with run := .running, wait := .none, frame := some { f with i := 0, j := f.j + 1 } }
    else { c.at (c.pc + 4 + BitVec.ofNat 64 (4 * f.words.length)) with frame := none }

/-- Move past the instruction. -/
def advance : M Unit := modMe Core.past

/-! ### Notifications, contexts that stop (R335, R337) -/

/-- The wait of core n is met: its instruction completes with v at its next issue. -/
def State.grant (s : State) (n : Nat) (v : Word) : State := s.modCore n (fun c => { c with wait := .granted v })

def State.note (s : State) (n : Note) : State := { s with notes := s.notes ++ [n] }

/-- Every queue of a context STOPPED (R296). -/
def Context.stopQueues (c : Context) : Context := { c with queues := c.queues.map (fun e => (e.1, { e.2 with stopped := true })) }

/-- Every core of context x that is not RETIRED stops (R335). (DEDUCED, notes/assumptions/57.md.) -/
def State.stopCores (s : State) (x : Nat) : State :=
  (s.coresOfCtx x).foldl (fun s n => s.modCore n (fun c => if c.run == .retired then c else { c with run := .halted, wait := .none })) s

/-- STOP of TRACECTL (R376). -/
def trcStop (v : Word) : Bool := v.getLsbD 7

/-- An armed stop is complete when every core of the context is HALTED, RETIRED or SAVED: STOP reads 0 and the endpoint is told
(R381). -/
def State.stopCheck (s : State) (x : Nat) : State :=
  let t := (s.ctx x).tracectl
  if trcStop t && (s.coresOfCtx x).all (fun n =>
      (s.core n).run == .halted || (s.core n).run == .retired || (s.core n).run == .saved) then
    (s.modCtx x (fun c => { c with tracectl := c.tracectl &&& ~~~0x80 })).note (.stopComplete x)
  else s

/-- A fatal trap: the context is FAULTED, its cores stop, its queues stop, H is notified, and an armed stop is complete (R335, R337,
R381). -/
def State.faultContext (s : State) (x : Nat) : State :=
  (((s.stopCores x).modCtx x (fun c => { c.stopQueues with st := .faulted })).note (.contextFaulted x)).stopCheck x

/-! ### Taking an exception and returning (R337-R342) -/

/-- ECAUSE of a trap (R337). -/
def ecauseOf (async value : Bool) (code : Nat) : Word :=
  BitVec.ofNat 64 ((if async then 2 ^ 63 else 0) + (if value then 2 ^ 8 else 0) + code % 256)

/-- STATUS at trap entry: PLVL takes LVL, LVL becomes S, INTRAP is set (R340). -/
def statusEnter (st : Word) : Word := (st &&& ~~~(0x7#64)) ||| (if st.getLsbD 0 then 0x2 else 0) ||| 0x5
/-- STATUS at ERET: LVL takes PLVL, INTRAP is cleared (R342). -/
def statusLeave (st : Word) : Word := (st &&& ~~~(0x5#64)) ||| (if st.getLsbD 1 then 0x1 else 0)

/-- The supervisor stack pointer that trap entry from K writes into SG30: SSBASE + (CORE[31:18] + 1) × SSIZE (R340). -/
def State.stackTop (s : State) (n : Nat) : Word :=
  let x := s.ctx (s.ctxOf n)
  BitVec.ofNat 64 (x.ssbase + (n + 1) * x.ssize)

/-- The registers of a core that takes a trap (R340); bits 63:48 of EPC are reserved and read as zero (R5, R339). -/
def Core.enter (c : Core) (tvec sp : Word) (epc ecause einfo : Word) : Core :=
  { c with
    epc := epc &&& 0xFFFFFFFFFFFF, ecause := ecause, einfo := einfo
    sg := if c.atS then c.sg else c.sg.set 0 sp
    sgl := if c.atS then c.sgl else c.sgl.set 0 labelTrue
    status := statusEnter c.status
    prefetch := [], pc := tvec, pair := none, frame := none, run := .running, wait := .none }

/-- A core's bit in the member mask of a group of its cluster pair (R308). -/
def memberBit (n : Nat) : Nat := n % 16
/-- The core that bit b of a mask names, for the pair of core n. -/
def memberCore (n b : Nat) : Nat := n / 16 * 16 + b
/-- The lowest set bit of a mask: the leader's (R308). -/
def leaderBit (mask : BitVec 16) : Nat := ((List.range 16).find? (fun b => mask.getLsbD b)).getD 16
/-- Whether core n leads its group. -/
def Group.leads (g : Group) (n : Nat) : Bool := leaderBit g.mask == memberBit n
/-- The members of core n's group that are attached to the same mask, itself left out. -/
def State.attachedTo (s : State) (n : Nat) : List Nat :=
  let g := (s.core n).group
  ((List.range 16).filter (fun b => g.mask.getLsbD b && b != memberBit n)).map (memberCore n) |>.filter
    (fun m => (s.core m).group.st == .attached && (s.core m).group.mask == g.mask)

/-- A follower detached: of a group that is over it is a member no more (R309, R313). -/
def Group.detach (g : Group) : Group := if g.ended then Group.reset else { g with st := .detached, buf := [] }

/-- A leader's trap told to a follower: at the word it waits in, which the follower has not begun, or behind what it forwarded. -/
def Group.leaderTraps (g : Group) (sent : Bool) (pc : Word) : Group :=
  let mark : FwdEntry := ⟨pc, [], .trapped⟩
  match sent, g.buf.getLast? with
  | true, some ⟨_, _, .waits⟩ => { g with buf := g.buf.dropLast ++ [mark] }
  | _, _ => { g with buf := g.buf ++ [mark] }

/-- The group when a member traps: a follower detaches; a leader's attached followers will detach at this word (R311). -/
def State.groupTrap (s : State) (n : Nat) : State :=
  let c := s.core n
  if c.group.st != .attached then s
  else if c.group.leads n then
    ((s.attachedTo n).foldl (fun s m => s.modCore m (fun d => { d with group := d.group.leaderTraps c.group.sent c.pc })) s).modCore n
      (fun d => { d with group := { d.group with sent := false } })
  else s.modCore n (fun d => { d with group := d.group.detach })

/-- A follower past a forwarded word: where its outcome is not its leader's, it detaches; of a word that the leader still waits in the
outcome is no branch (R311). (DEDUCED, notes/assumptions/29.md; DEDUCED, notes/assumptions/95.md.) -/
def Core.follow (taken : Bool) (c : Core) : Core :=
  match c.group.buf with
  | [] => c
  | e :: r =>
    let on : Group := match e.out with
      | .waits => { c.group with buf := r, fullSince := none }
      | .went next t => if next = c.pc ∧ t = taken then { c.group with buf := r, fullSince := none } else c.group.detach
      | .trapped => c.group.detach
    { c with group := on }

/-- What became of the word that the leader waited in, told to a follower that has not yet left it behind (R311). -/
def Group.told (g : Group) (next : Word) (taken : Bool) : Group := match g.buf.getLast? with
  | some ⟨pc, ws, .waits⟩ => { g with buf := g.buf.dropLast ++ [⟨pc, ws, .went next taken⟩] }
  | _ => g

/-- A leader that waited in a forwarded word is past it: followers ms know its outcome. -/
def State.tellFollowers (s : State) (ms : List Nat) (next : Word) (taken : Bool) : State :=
  ms.foldl (fun s m => s.modCore m (fun c => if c.group.st == .attached then { c with group := c.group.told next taken } else c)) s

/-- Core n is past an instruction that another core's step completed: its group knows (R310, R311). -/
def State.passed (s : State) (n : Nat) : State :=
  let c := s.core n
  if c.group.st != .attached then s
  else if c.group.leads n then
    (if c.group.sent then s.tellFollowers (s.attachedTo n) c.pc false else s).modCore n
      (fun c => { c with group := { c.group with sent := false } })
  else s.modCore n (Core.follow false)

/-- Whether a trap of core n is fatal (R337). -/
def State.fatal (s : State) (n : Nat) : Bool := (s.core n).inTrap || (s.ctx (s.ctxOf n)).tvec == 0

/-- Core n takes a trap (R340): fatal by R337, its context is FAULTED and the trap is not taken. -/
def State.takeTrap (s : State) (n : Nat) (epc : Word) (cause : Cause) (async value : Bool) (einfo : Word) : State :=
  if s.fatal n then s.faultContext (s.ctxOf n)
  else (s.groupTrap n).modCore n (fun c => c.enter ((s.ctx (s.ctxOf n)).tvec) (s.stackTop n) epc (ecauseOf async value cause.code) einfo)

/-- A return from an exception (R342): the level of PLVL, INTRAP clear, the pc from EPC. -/
def Core.leave (c : Core) : Core := { c.at c.epc with status := statusLeave c.status, prefetch := [] }

/-- EINFO and the mark of a trap by instruction word w (R338); where a repeat frame runs, bits 39:32 are its iteration j (R83).
(DEDUCED, notes/assumptions/14.md; DEDUCED, notes/assumptions/41.md.) -/
def einfoOf (i : Info) (w : HWord) (j : Option Nat) : Word × Bool :=
  let base : Word × Bool := match i with
    | .word v => (w.zeroExtend 64 ||| (if v then 1 <<< 40 else 0), v)
    | .labelWord n => (w.zeroExtend 64 ||| (1 <<< 40) ||| (BitVec.ofNat 64 (min n 255) <<< 48), true)
    | .other e v => (e, v)
  match j with
  | none => base
  | some j => ((base.1 &&& ~~~(0xFF#64 <<< 32)) ||| BitVec.ofNat 64 (j * 2 ^ 32), base.2)

/-- The trap of an instruction of core n: EPC is the pc the core holds: the instruction, its guard, or its RPT (R61, R83). -/
def State.trapInstr (s : State) (n : Nat) (w : HWord) (cause : Cause) (i : Info) : State :=
  let c := s.core n
  let e := einfoOf i w (c.frame.map (·.j))
  s.takeTrap n c.pc cause false e.2 e.1

/-! ### The fault buffer (R323-R326) -/

/-- The buffer of layer l of a context (R325). -/
def Context.faultBuffer (x : Context) (l : Nat) : Nat := x.fbdepth.toNat / 2 ^ 16 % 2 ^ 32 * 2 ^ 16 + 2048 * l
def Context.depth (x : Context) : Nat := x.fbdepth.toNat % 64
/-- PEND[l] of FBSTAT. (DEDUCED, notes/assumptions/76.md.) -/
def Context.pend (x : Context) (l : Nat) : Bool := x.fbstat.getLsbD l
def Context.drop (x : Context) (l : Nat) : Bool := x.fbstat.getLsbD (32 + l)

/-- KIND of a fault-buffer entry (R325). -/
def faultKind (acc : Access) (copy fuller : Bool) : Nat :=
  (if acc == .write then 1 else 0) + (if acc == .fetch then 2 else 0) + (if copy then 4 else 0) + (if fuller then 8 else 0)

/-- The entries of a buffer hold one for this page: its number, among the first n (R326). -/
def State.fbFind (s : State) (b n va : Nat) : Option Nat :=
  (List.range n).find? (fun i => s.read (b + 0x40 + 32 * i) 8 / 2 ^ 16 == va / 2 ^ 16)

/-- Entry e of a fault buffer written (R325). -/
def State.fbEntry (s : State) (e va who kind level : Nat) : State :=
  (((((s.plinthWrite e va 8).plinthWrite (e + 8) 1 4).plinthWrite (e + 12) who 2).plinthWrite (e + 14) kind 1).plinthWrite
    (e + 15) level 1).plinthWrite (e + 16) 0 16

/-- A posted fault in the buffer at b: counted in the entry of its page, in an entry of its own, or dropped (R326). -/
def State.fbPost (s : State) (x l b va who kind level : Nat) : State :=
  let n := s.read b 4
  match s.fbFind b n va with
  | some i => s.plinthWrite (b + 0x48 + 32 * i) (s.read (b + 0x48 + 32 * i) 4 + 1) 4
  | none =>
    if n < (s.ctx x).depth then (s.fbEntry (b + 0x40 + 32 * n) va who kind level).plinthWrite b (n + 1) 4
    else
      (s.plinthWrite (b + 4) (s.read (b + 4) 4 + 1) 4).modCtx x
        (fun c => { c with fbstat := c.fbstat ||| BitVec.ofNat 64 (2 ^ (32 + l)) })

/-- Whether a link carries traffic (R365). -/
def Link.carries (l : Link) : Bool := l.st == .up || l.st == .degraded
/-- Whether a link to an endpoint carries traffic (R365). -/
def State.reaches (s : State) (e : Nat) : Bool := s.links.any (fun l => l.2.endpoint == some e && l.2.carries)
/-- Whether a link trains again after a thaw: it stands as it stood until then (R389). (DEDUCED, notes/assumptions/90.md.) -/
def Link.resumes (l : Link) : Bool := l.resume && (l.st == .training || l.st == .negotiating)
/-- Whether a link to an endpoint trains again after a thaw: what is under way to it waits (R389). -/
def State.retrains (s : State) (e : Nat) : Bool := s.links.any (fun l => l.2.endpoint == some e && l.2.resumes)
/-- Whether feature bit b is accepted on a link to an endpoint that carries traffic, or will again after a thaw (R367, R389). -/
def State.accepts (s : State) (e b : Nat) : Bool :=
  s.links.any (fun l => l.2.endpoint == some e && (l.2.carries || l.2.resumes) && l.2.accepted.getLsbD b)
/-- Whether the endpoint of context x's partition takes fault notifications; else FBSTAT is polled (R326, R367). -/
def State.tellsFaults (s : State) (x : Nat) : Bool := s.accepts (s.part (s.ctx x).part).desc.endpoint 4

/-- FAULT_POST: a not-present access of context x is posted, coalesced or dropped at layer l (R326). -/
def State.postFault (s : State) (x l va : Nat) (who kind level : Nat) : State :=
  let t := ((s.walked x va).fbPost x l ((s.ctx x).faultBuffer l) va who kind level).modCtx x
    (fun c => { c with fbstat := c.fbstat ||| BitVec.ofNat 64 (2 ^ l) })
  if (s.ctx x).pend l || !s.tellsFaults x then t else t.note (.pend x l)

/-! ### The machine-check log (R341) -/

/-- The log at b has room for a record: fewer than 255 wait (R341). -/
def State.mcRoom (s : State) (b : Nat) : Bool := (s.read b 4 + 2 ^ 32 - s.read (b + 4) 4) % 2 ^ 32 < 255

/-- Record r of a log written: KIND, the number of addresses, SEQ, ORIGIN and six addresses (R341). -/
def State.mcPut (s : State) (r kind origin seq : Nat) (addrs : List Nat) : State :=
  (List.range 6).foldl (fun s i => s.plinthWrite (r + 16 + 8 * i) (addrs.getD i 0) 8)
    ((((s.plinthWrite r kind 2).plinthWrite (r + 2) addrs.length 2).plinthWrite (r + 4) seq 4).plinthWrite (r + 8) origin 8)

/-- One record of an event appended to the log at b, or counted as lost (R341). -/
def State.mcAppend (s : State) (b kind origin seq : Nat) (addrs : List Nat) : State :=
  if s.mcRoom b then (s.mcPut (b + 64 * (1 + s.read b 4 % 255)) kind origin seq addrs).plinthWrite b (s.read b 4 + 1) 4
  else s.plinthWrite (b + 8) (s.read (b + 8) 4 + 1) 4

/-- One record of an event in the log of context x, and whether it was written. -/
def State.mcRecord (s : State) (x kind origin : Nat) (addrs : List Nat) : State × Bool :=
  (s.mcAppend (s.ctx x).mcbase kind origin (s.ctx x).mcseq.toNat addrs, s.mcRoom (s.ctx x).mcbase)

/-- Six addresses at a time; one empty record where there is none. -/
def sixes : Nat → List Nat → List (List Nat)
  | 0, _ => []
  | n + 1, l => if l.length ≤ 6 then [l] else l.take 6 :: sixes n (l.drop 6)

/-- The records of an event: the state, how many were written, and whether one was lost. -/
def State.mcRecords (s : State) (x kind origin : Nat) (addrs : List Nat) : State × Nat × Bool :=
  if (s.ctx x).mcbase = 0 then (s, 0, true)
  else (sixes (addrs.length + 1) addrs).foldl
    (fun (a : State × Nat × Bool) l =>
      let w := a.1.mcRecord x kind origin l
      (w.1, if w.2 then a.2.1 + 1 else a.2.1, a.2.2 || !w.2)) (s, 0, false)

/-- EINFO of an asynchronous machine check: the slot of the first record, how many were written, whether one was lost (R341). -/
def mcInfo (base first n : Nat) (lost : Bool) : Word :=
  BitVec.ofNat 64 ((if base = 0 ∨ n = 0 then 0 else 1 + first % 255) + 2 ^ 8 * min n 255 + (if lost then 2 ^ 16 else 0))

/-- MC_LOG_WRITE: the records of an event are written where there is a log, H is notified, and the asynchronous MACHINE_CHECK
waits for delivery to the core named, or to the running core with the lowest LCORE (R341). -/
def State.machineCheck (s : State) (x kind origin : Nat) (addrs : List Nat) (core : Option Nat) : State :=
  let c := s.ctx x
  let r := s.mcRecords x kind origin addrs
  let e := mcInfo c.mcbase (s.read c.mcbase 4) r.2.1 r.2.2
  (r.1.modCtx x (fun c => { c with async := c.async ++ [⟨core, e⟩], mcseq := c.mcseq + 1 })).note (.machineCheck x)

/-! ### Running a step -/

/-- LFLAGS as the step found it: an instruction that does not complete sets no LOSS (R59, R176). -/
def State.keepLoss (t s : State) : State := t.modCore t.cur (fun c => { c with lflags := s.me.lflags })

/-- Two waits of one instruction that count as one: those of LAUNCH (R303). -/
def Wait.same (a b : Wait) : Bool := a == b || (match a, b with
  | .launching, .launch _ | .launch _, .launch _ => true
  | _, _ => false)

/-- The current core waits at instruction i; a wait that goes on keeps the time it began. -/
def State.waitIn (s : State) (i : Instr) (r : RunState) (w : Wait) : State :=
  s.modCore s.cur (fun d => { d with run := r, wait := w, held := i.word, since := if Wait.same d.wait w then d.since else s.time })

/-- How an instruction that ended early leaves the machine: a trap is taken; a wait holds the core at its instruction; a missing
page is posted, the core is in FAULTWAIT, and the step it needs begins again at the retry (R326, R408). s is the machine before
the step and t what the step had reached. -/
def endStep (i : Instr) (stop : Stop) (s t : State) : Host.Outcome State Fault Refusal :=
  match stop with
  | .trap c info => .next ((t.keepLoss s).trapInstr s.cur i.word c info)
  | .absent x l va acc level fuller =>
    let who := if fuller then 0xFFFF else s.lcore s.cur
    let s := s.postFault x l va who (faultKind acc false fuller) level
    .next (s.modCore s.cur (fun c => { c with run := .faultwait, wait := .fault l, since := s.time, held := i.word }))
  | .hold r w => .next ((t.keepLoss s).waitIn i r w)
  | .recalls L => .next ((s.askRecall L).waitIn i .stalled .busy)

/-- An instruction as a step. -/
def runI (i : Instr) (m : M Unit) (s : State) : Host.Outcome State Fault Refusal :=
  match m s with
  | .ok _ t => .next t
  | .error stop t => endStep i stop s t

/-- A step of an engine of core n (R408, R410): a missing page is posted for the engine, which pauses; a step that cannot be made
now changes nothing. A copy command's label step sets bit 2 of KIND beside bit 3. (DESIGN CHOICE, notes/assumptions/121.md.) -/
def runEngine (n : Nat) (e : Engine) (m : M Unit) (s : State) : Host.Outcome State Fault Refusal :=
  match m s with
  | .ok _ t => .next t
  | .error (.absent x l va acc level fuller) _ =>
    let s := s.postFault x l va 0xFFFF (faultKind acc (e == .copy) fuller) level
    .next (s.modCore n (fun c => { c with paused := if c.paused.contains e then c.paused else c.paused ++ [e] }))
  | .error stop _ => .next (s.unless stop)

/-- A step of a plinth, a link or the surroundings, which holds or faults for itself alone.
(DESIGN CHOICE, notes/assumptions/101.md.) -/
def runEvent (m : M Unit) (s : State) : Host.Outcome State Fault Refusal :=
  match m s with
  | .ok _ t => .next t
  | .error stop _ => .next (s.unless stop)

/-- The step cannot be made now: it is kept until what it waits for (R303, R370, R408). -/
def State.later (s : State) (on : Waits) : State := { s with undone := some on }

/-- A step of the surroundings whose operands must name parts of the package. (DESIGN CHOICE, notes/assumptions/101.md.) -/
def onUnits (b : Bool) (f : State → State) (s : State) : Host.Outcome State Fault Refusal :=
  if b then .next (f s) else .fault .noSuchUnit

end Sys2Proof.Machine
end

