-- ==== Sys2Proof/Machine/Space.lean ====
section
/-! DEFINITION. Addresses and translation: the windows (R197), which slice serves a line (R221) and its room there (R10, R18), TLBs, the checks
of a leaf and the alias records (R320-R322, R231). -/

namespace Sys2Proof.Machine

/-! ### Effective addresses (R197) -/

/-- What an effective address names. -/
inductive Target where
  | localStore (core off : Nat)
  | peerAbsent
  | event (off : Nat)
  | scratch (off : Nat)
  | global (va : Nat)
  | hole
deriving DecidableEq, Repr

def recField (r : List Word) (w lo n : Nat) : Nat := (r.getD w 0).toNat / 2 ^ lo % 2 ^ n
/-- CORES and OUTCL of a launch record (R293). -/
def recCores (r : List Word) : Nat := recField r 3 0 14
def recOutcl (r : List Word) : Nat := recField r 3 24 8
/-- The clusters a kernel's cores fill, without the outlier clusters (R293, R304). -/
def recBody (r : List Word) : Nat := (recCores r + 7) / 8
/-- The cluster count of a kernel (R293). -/
def recClusters (r : List Word) : Nat := recBody r + recOutcl r

/-- Whether core c of the cluster with KCLUS q is a core of a kernel with this record (R304). -/
def rankStarts (r : List Word) (q c : Nat) : Bool := if q < recBody r then 8 * q + c < recCores r else q < recClusters r

/-- Whether core n is a core of the kernel that its cluster runs, and has not retired (R304). -/
def State.inKernel (s : State) (n : Nat) : Bool :=
  match (s.cluster (clusterOf n)).kernel with
  | none => false
  | some k => rankStarts (s.kernel k).record (s.cluster (clusterOf n)).kclus (n % 8) && (s.core n).run != .retired

/-- The object an effective address of core n names; a core's own peer window names its own local store (R197).
(DEDUCED, notes/assumptions/17.md.) -/
def State.target (s : State) (n : Nat) (ea : Word) : Target :=
  let a := ea.toNat
  if 2 ^ 48 ≤ a then .hole
  else if a < 0x7F0000000000 ∨ 0x800000000000 ≤ a then .global a
  else
    let o := a - 0x7F0000000000
    if o < 0x20000 then .localStore n o
    else if o < 0x100000 then .hole
    else if o < 0x200000 then
      let m := 8 * clusterOf n + (o - 0x100000) / 0x20000
      if m = n ∨ s.inKernel m then .localStore m ((o - 0x100000) % 0x20000) else .peerAbsent
    else if o < 0x100000000 then .hole
    else if o < 0x200000000 then .event (o - 0x100000000)
    else if o < 0x240000000 then .scratch (o - 0x200000000)
    else .hole

/-- Whether a virtual address lies among the windows and holes (R197). -/
def inWindows (va : Nat) : Bool := 0x7F0000000000 ≤ va && va < 0x800000000000

/-! ### Slices (R221, R357) -/

/-- Tower, layer and position of a slice slot. -/
def slotTower (z : Nat) : Nat := z / 32
def slotLayer (z : Nat) : Nat := z / 4
def slotPos (z : Nat) : Nat := z % 4

/-- The M layers of tower t from its base up (R221). -/
def State.mLayers (s : State) (t : Nat) : List Nat := (List.range 8).filter (fun l => (s.layer (8 * t + l)).role == .m)
/-- The number of a slice within its tower: 4 × the ordinal of its M layer + its position (R221). -/
def State.sliceNumber (s : State) (z : Nat) : Nat :=
  let t := slotTower z
  4 * ((s.mLayers t).filter (fun l => decide (8 * t + l < slotLayer z))).length + slotPos z
/-- The slot of the slice with a number in tower t. -/
def State.slotOf (s : State) (t j : Nat) : Nat := 4 * (8 * t + (s.mLayers t).getD (j / 4) 0) + j % 4

/-- The serving slice of a line for tower t, by its number (R221). -/
def State.serving (s : State) (t L : Nat) : Nat :=
  (s.tower t).sht.getD ((L / 2 ^ 6 % 64) ^^^ (L / 2 ^ 12 % 64) ^^^ (L / 2 ^ 18 % 64) ^^^ (L / 2 ^ 24 % 64)) 0

/-- A partition's way mask of a slice. -/
def State.wayMask (s : State) (p z : Nat) : BitVec 16 :=
  (((s.part p).desc.ways.find? (fun e => e.1 == z)).map (·.2)).getD 0
/-- The ways of slot z that are cache of partition p: those of its mask that it has not lent (R18, R357). -/
def State.cacheWays (s : State) (p z : Nat) : Nat :=
  ((List.range 16).filter (fun w => (s.wayMask p z).getLsbD w)).length - (s.part p).lent.get 0 z
/-- The partition whose ranges a line lies in (R333). -/
def State.owner (s : State) (L : Nat) : Option Nat :=
  (List.find? (fun (q : Nat × Partition) => q.2.desc.ranges.any (fun r => r.1 ≤ L && L < r.2)) s.parts).map Prod.fst

/-! ### Room in a slice (R10, R18, R230, R243) -/

/-- A counter line with holders: its home slice keeps it (R243). -/
def State.pinned (s : State) (L : Nat) : Bool := match s.counters.find? L with
  | some c => !c.holders.isEmpty
  | none => false

/-- Whether a slice of tower t holds line L: an agent has it, or has asked for it, or its home keeps it without leases or as a counter
with holders. -/
def State.atSlice (s : State) (t L : Nat) : Bool :=
  let a := s.agent t L
  a.st != .i || a.parts != [] || (homeTower L == t && ((s.slices.find? L).isSome || s.pinned L))

/-- The lines of L's set at its serving slice in tower t that are of partition p (R10, R18). -/
def State.setMates (s : State) (p t L : Nat) : List Nat :=
  let j := s.serving t L
  let all : List Nat := (s.agents.filter (fun e => e.1 % 4 == t)).map (fun e => e.1 / 4) ++ s.slices.map Prod.fst ++ s.counters.map Prod.fst
  all.eraseDups.filter (fun K => s.atSlice t K && s.owner K == some p && s.serving t K == j &&
    Config.sliceSet K % 16384 == Config.sliceSet L % 16384)

/-- How many lines must leave before line L has a way in its set at tower t, and those that may. None where it is served without a way: its
partition has none there, or they all hold counter lines with holders (R243). (DESIGN CHOICE, notes/assumptions/13.md.) -/
def State.crowd (s : State) (t L : Nat) : Option (Nat × List Nat) :=
  match s.owner L with
  | none => none
  | some p =>
    let n := s.cacheWays p (s.slotOf t (s.serving t L))
    if n = 0 then none
    else if s.agents.length + s.slices.length + s.counters.length < n ∨ s.atSlice t L then some (0, [])
    else
      let mine := s.setMates p t L
      if n ≤ mine.length ∧ mine.all s.pinned then none else some (mine.length + 1 - n, mine.filter (fun K => !s.pinned K))

/-- Whether a line at tower t is the next victim of its set (R212). -/
def State.isNext (s : State) (t L : Nat) : Bool := (s.agent t L).next || (match s.slices.find? L with
  | some h => h.next
  | none => false)

/-- The line that a full set gives up, of those that can leave: one marked as its next victim, else any, after a free value (R212).
(DESIGN CHOICE, notes/assumptions/13.md.) -/
def State.victimOf (s : State) (t : Nat) (go : List Nat) : Nat :=
  least (Config.victim s.free) (if go.any (s.isNext t) then go.filter (s.isNext t) else go)

/-! ### The checks of a leaf (R320) -/

/-- Whether [lo, hi) lies within the ranges, one after another, which may abut; n bounds how many of them. -/
def coveredBy (rs : List (Nat × Nat)) (hi : Nat) : Nat → Nat → Bool
  | 0, _ => false
  | n + 1, lo => match rs.find? (fun r => decide (r.1 ≤ lo) && decide (lo < r.2)) with
    | none => false
    | some r => decide (hi ≤ r.2) || coveredBy rs hi n r.2
/-- Whether [lo, hi) lies within the ranges. -/
def within (rs : List (Nat × Nat)) (lo hi : Nat) : Bool := coveredBy rs hi rs.length lo

/-- The bytes a leaf maps: both frames of a shadow-capable one (R320). -/
def leafSpan (e : Word) (size : Nat) : Nat := if pteS e then 2 * size else size
/-- The first byte of the visible frame (R320). -/
def leafFrame (e : Word) : Nat := pteAddr e + (if pteS e && pteSel e then 2 ^ 16 else 0)

/-- Whether the data of a granule lies in a tagged range of the partition (R200, R333). (DEDUCED, notes/assumptions/120.md.) -/
def taggedGranule (d : PartDesc) (g : Nat) : Bool :=
  d.tagged.any (fun t => t.1 == granuleDie g && t.2 ≤ granuleIndex g && granuleIndex g < t.2 + 32)

/-- The granules of [lo, hi). -/
def granules (lo hi : Nat) : List Nat := (List.range ((hi - 1) / 2 ^ 21 - lo / 2 ^ 21 + 1)).map (lo / 2 ^ 21 + ·)
/-- The 64 KiB frames of [lo, hi). -/
def framesOf (lo hi : Nat) : List Nat := (List.range ((hi - lo) / 2 ^ 16)).map (lo / 2 ^ 16 + ·)

/-- The value of an alias record that the T bit of a leaf sets: 1 TRACKED, 2 UNTRACKED (R231). -/
def aliasOf (e : Word) : Nat := if pteT e then 1 else 2

/-- A leaf checked against an access: W and X (R320). (DEDUCED, notes/assumptions/25.md.) -/
def accessCheck (acc : Access) (e : Word) : Option Cause :=
  match acc with
  | .write => if pteW e then none else some .protect
  | .fetch => if pteX e then none else some .protect
  | .read => none

/-- A leaf of a cached host page must not carry W, whenever it fills a TLB or the L1D (R369). -/
def State.hostCheck (s : State) (e : Word) : Bool :=
  isHost (pteAddr e) && !pteT e && pteW e && s.accepts hostEndpoint 2

/-- A leaf checked at its fill, for partition p: the ranges, the plain ranges, the host rules, the alias records (R320, R200,
R231, R368, R369). (DEDUCED, notes/assumptions/25.md.) -/
def State.fillCheck (s : State) (p : Nat) (e : Word) (size : Nat) : Option Cause :=
  let d := (s.part p).desc
  let lo := pteAddr e
  let hi := lo + leafSpan e size
  if !(within d.ranges lo hi || within d.windows lo hi) then some .protect
  else if isDram lo then
    if !pteP e && !(granules lo hi).all (taggedGranule d) then some .protect
    else if (framesOf lo hi).any (fun f => s.aliases.get 0 f != 0 && s.aliases.get 0 f != aliasOf e) then some .mapAlias
    else none
  else if !(isHost lo || isPeer lo) then some .protect
  else if !pteP e || pteS e then some .protect
  else if s.hostCheck e then some .protect
  else none

/-! ### Translation (R321) -/

/-- The outcome of a translation. -/
inductive XOut where
  | ok (leaf : Word) (pa : Nat)
  | held
  | absent (level : Nat)
  | trap (c : Cause) (einfo : Word)
deriving DecidableEq, Repr

/-- The entry of a TLB for a page of a context. -/
def tlbFind (t : List TlbEntry) (p x va : Nat) : Option TlbEntry :=
  t.find? (fun e => e.part == p && e.ctx == x && va / e.size == e.va / e.size)

def TlbEntry.pa (e : TlbEntry) (va : Nat) : Nat := leafFrame e.leaf + va % e.size

/-- A TLB with sets of n entries, by f, with one more; of a full set one leaves, after the free value i.
(DESIGN CHOICE, notes/assumptions/13.md.) -/
def tlbAdd (n : Nat) (f : Nat → Nat) (i : Nat) (t : List TlbEntry) (e : TlbEntry) : List TlbEntry :=
  if t.length < n then e :: t
  else
    let mine := (t.zipIdx.filter (fun d => f d.1.va == f e.va)).map (·.2)
    e :: if mine.length < n then t else t.eraseIdx (least (Config.victim i) mine)

/-- An entry taken into the L2 TLB of layer l: 16 ways of 256 sets (R321). (DESIGN CHOICE, notes/assumptions/13.md.) -/
def State.fillL2 (s : State) (l : Nat) (e : TlbEntry) : State :=
  { s.modLayer l (fun c => { c with tlb := tlbAdd 16 (fun va => Config.tlbSet va % 256) s.free c.tlb e }) with
    free := if (s.layer l).tlb.length < 16 then s.free else s.free + 1 }

/-- An entry taken into the L1 TLB of cluster k, of 64 (R321). (DESIGN CHOICE, notes/assumptions/13.md.) -/
def State.fillL1Tlb (s : State) (k : Nat) (e : TlbEntry) : State :=
  { s.modCluster k (fun c => { c with tlb := tlbAdd 64 (fun _ => 0) s.free c.tlb e }) with
    free := if (s.cluster k).tlb.length < 64 then s.free else s.free + 1 }

/-- The alias records set by a fill (R231). -/
def State.setAliases (s : State) (e : Word) (size : Nat) : State :=
  if isDram (pteAddr e) then
    { s with aliases := (framesOf (pteAddr e) (pteAddr e + leafSpan e size)).foldl (fun a f => a.put f (aliasOf e)) s.aliases }
  else s

/-- A virtual global address translated for context x at layer l; through the L1 TLB of cluster k where one is given. A hit
checks the access; a miss walks, checks and fills (R320, R321). -/
def State.translate (s : State) (x l : Nat) (k : Option Nat) (acc : Access) (va : Nat) : State × XOut :=
  let p := (s.ctx x).part
  let bad (c : Cause) : XOut := .trap c (BitVec.ofNat 64 va)
  let use (e : TlbEntry) : XOut := match accessCheck acc e.leaf with
    | some c => bad c
    | none => if s.hostCheck e.leaf then bad .protect else .ok e.leaf (e.pa va)
  let fill1 (s : State) (e : TlbEntry) : State := match k with
    | some k => s.fillL1Tlb k e
    | none => s
  match k.bind (fun k => tlbFind (s.cluster k).tlb p x va) with
  | some e => (s, use e)
  | none =>
    match tlbFind (s.layer l).tlb p x va with
    | some e => (fill1 s e, use e)
    | none =>
      let w := s.walk x va
      let s := s.walked x va
      match w with
      | .held => (s, .held)
      | .bad => (s, bad .machineCheck)
      | .absent level => (s, .absent level)
      | .page level m => (s, .trap .page (BitVec.ofNat 64 (va + level % 16 * 2 ^ 48 + (if m then 2 ^ 52 else 0))))
      | .leaf e size _ =>
        match accessCheck acc e with
        | some c => (s, bad c)
        | none =>
          match s.fillCheck p e size with
          | some c => (s, bad c)
          | none =>
            let t : TlbEntry := ⟨p, x, va / size * size, size, e⟩
            let s := (s.setAliases e size).fillL2 l t
            (fill1 s t, .ok e (t.pa va))

/-- The location a leaf gives an access: how its line is held (R209, R230, R368, R369). (DEDUCED, notes/assumptions/17.md.) -/
def State.locOf (s : State) (leaf : Word) (pa : Nat) : Loc :=
  let place :=
    if isDram pa then (if pteT leaf then Place.tracked else .untracked)
    else if isPeer pa then .peer
    else if pteT leaf || !s.accepts hostEndpoint 2 then .hostUncached else .hostCached
  ⟨place, pa, pteP leaf⟩

/-- Whether a location lies in a peer window that the link to it does not serve (R367). -/
def State.peerBarred (s : State) (loc : Loc) : Bool :=
  loc.place == .peer && (s.reaches (endpointOf loc.key) || s.retrains (endpointOf loc.key)) && !s.accepts (endpointOf loc.key) 3

/-- Whether a partition has lent the way that a scratchpad offset lies in (R357). -/
def State.lentAt (s : State) (p off : Nat) : Bool := off % 0x800000 / 0x100000 < (s.part p).lent.get 0 (off / 0x800000)

/-- BASE and EN of LSPACE (R169). -/
def lspaceBase (w : Word) : Nat := w.toNat % 2 ^ 48 / 2 ^ 21 * 2 ^ 21
def lspaceEn (w : Word) : Bool := w.getLsbD 0
/-- Whether [va, va + n) meets the region of the active space: 18 MiB at BASE (R170, R173). -/
def inRegion (w : Word) (va n : Nat) : Bool :=
  lspaceEn w && va < lspaceBase w + 0x1200000 && lspaceBase w < va + n

/-- The translation of an access of core n, for the core: a missing page holds it, another failure traps (R211, R320). -/
def translateMe (acc : Access) (va : Nat) (fuller : Bool := false) : M Loc := fun s =>
  let n := s.cur
  match s.translate (s.ctxOf n) (layerOf n) (some (clusterOf n)) acc va with
  | (t, .ok leaf pa) => .ok (t.locOf leaf pa) t
  | (t, .held) => .error (.hold .stalled .busy) t
  | (t, .absent level) => .error (.absent (s.ctxOf n) (layerOf n) va acc level fuller) t
  | (t, .trap c e) => .error (.trap c (.other e false)) t

end Sys2Proof.Machine
end

