-- ==== Sys2Proof/Machine/Fuller.lean ====
section
/-! DEFINITION. Labels: the label space in memory (R168-R172), the Fuller's product and union (R174-R176), folds before and
after issue (R175, R410), nogoods (R182-R184) and the visibility test (R187). -/

namespace Sys2Proof.Machine

/-! ### Environments (R167, R168) -/

/-- The number of assumptions of an environment. -/
def cardinal (e : Env) : Nat := ((List.range 128).filter (fun b => e.getLsbD b)).length
/-- Whether f is a subset of e. -/
def subset (f e : Env) : Bool := f &&& ~~~e == 0

/-- The canonical order: cardinality, then mask value (R168). -/
def envBefore (a b : Env) : Bool :=
  let m := cardinal a
  let n := cardinal b
  decide (m < n) || (m == n && decide (a.toNat < b.toNat))

/-- An environment put into a canonically ordered list, once. -/
def envInsert (e : Env) : List Env → List Env
  | [] => [e]
  | f :: r => if e = f then f :: r else if envBefore e f then e :: f :: r else f :: envInsert e r

/-- A list in canonical order without repeats. -/
def envSort (l : List Env) : List Env := l.foldl (fun a e => envInsert e a) []

/-- Environments without those that contain a nogood, without proper supersets, in canonical order: Finish up to its last
steps (R174). -/
def minimise (ngs s : List Env) : List Env :=
  let s := envSort (s.filter (fun e => !ngs.any (fun n => subset n e)))
  s.filter (fun e => !s.any (fun f => f != e && subset f e))

/-- The candidates of a product (R174). -/
def envProduct (x y : List Env) : List Env := x.flatMap (fun a => y.map (fun b => a ||| b))

/-! ### The region of a label space (R170) -/

/-- Who makes a label step: the context it is made for, and the layer and the cluster of the Fuller, or the layer of the plinth that
allocates for the space (R171, R410). -/
structure Who where
  ctx    : Nat
  layer  : Nat
  clus   : Nat
  plinth : Bool
deriving DecidableEq, Repr

/-- The Fuller of core n's cluster. -/
def State.who (s : State) (n : Nat) : Who := ⟨s.ctxOf n, layerOf n, clusterOf n, false⟩
/-- The Fuller of cluster k, for the context it runs. -/
def State.fuller (s : State) (k : Nat) : Who := ⟨(s.cluster k).ctx.getD 0, k / 64, k, false⟩

/-- The plinth that allocates for the space at base: that of the die that homes the header line, whose L2 TLB it uses (R171, R321); where
the header is mapped nowhere, that of layer 0. (DEDUCED, notes/assumptions/20.md; DESIGN CHOICE, notes/assumptions/121.md.) -/
def State.plinthAt (s : State) (x base : Nat) : Who :=
  let l := match s.walk x base with
    | .leaf e size _ => granuleDie (granuleOf (leafFrame e + base % size))
    | _ => 0
  ⟨x, l, 0, true⟩
/-- The plinth of a context's active space. -/
def State.plinthOf (s : State) (x : Nat) : Who := s.plinthAt x (lspaceBase (s.ctx x).lspace)

/-- The location of an address of the region (R171, R408). -/
def spaceAt (w : Who) (write : Bool) (va : Nat) : M Nat := fun s =>
  match s.translate w.ctx w.layer none .read va with
  | (t, .ok _ pa) => .ok pa t
  | (t, .held) => .error (.hold .stalled .busy) t
  | (t, .absent level) => .error (.absent w.ctx w.layer va (if write then .write else .read) level true) t
  | (t, .trap c e) => .error (.trap c (.other e false)) t

/-- n bytes of the region as their home answers; a line in U is recalled, an uncorrectable error fails the read (R203, R232). -/
def spaceRead (w : Who) (va n : Nat) : M Nat := do
  let k ← spaceAt w false va
  if (← get).badAt k n then raiseAddr .machineCheck va
  modS (fun s => s.askRecall (lineOf k))
  return (← get).homeRead k n

def spaceWrite (w : Who) (va v n : Nat) : M Unit := do
  let k ← spaceAt w true va
  modS (fun s => s.plinthWrite k v n)

/-- The active space of a context: its base where one is active. -/
def spaceOf (w : Who) : M (Option Nat) := fun s =>
  let v := (s.ctx w.ctx).lspace
  .ok (if lspaceEn v then some (lspaceBase v) else none) s

/-- The environments of an entry, in its order (R170). -/
def entryEnvs (w : Who) (base v : Nat) : M (List Env) := do
  let d ← spaceRead w (base + 0x10000 + 8 * v) 8
  let line := d / 2 ^ 8 % 2 ^ 18
  (List.range (d % 32)).mapM (fun e => do
    return BitVec.ofNat 128 (← spaceRead w (base + 0x200000 + 64 * (line + e / 4) + 16 * (e % 4)) 16))

/-- The environments of a label; a stale ID holds nowhere (R409). -/
def labelEnvs (w : Who) (l : Label) : M (List Env) := do
  if l = labelTrue then return [0]
  else if l = labelFalse then return []
  else
    match ← spaceOf w with
    | none => return []
    | some base =>
      let next ← spaceRead w (base + 4) 4
      if l.toNat < next then entryEnvs w base l.toNat else return []

/-- A label as every Fuller step takes it: a stale ID is FALSE (R409). (DEDUCED, notes/assumptions/18.md.) -/
def liveLabel (w : Who) (l : Label) : M Label := do
  if l = labelTrue ∨ l = labelFalse then return l
  else
    match ← spaceOf w with
    | none => return labelFalse
    | some base => return (if l.toNat < (← spaceRead w (base + 4) 4) then l else labelFalse)

/-- The first ID from v on, of n of them, whose entry holds these environments: the entries are read in order up to it (R171).
(DESIGN CHOICE, notes/assumptions/121.md.) -/
def findEntry (w : Who) (base : Nat) (envs : List Env) (v : Nat) : Nat → M (Option Nat)
  | 0 => return none
  | n + 1 => do
    if (← entryEnvs w base v) = envs then return some v
    else findEntry w base envs (v + 1) n

/-- What interning answers. -/
inductive Interned where
  | id (l : Label)
  | full
deriving DecidableEq, Repr

/-- INTERN_REQUEST: the ID of these environments, given in canonical order, in the space at base: found by its allocating plinth, or
allocated, or the space is full, and then its STATE becomes FULL (R171, R172). (DESIGN CHOICE, notes/assumptions/8.md.) -/
def internAt (w : Who) (base : Nat) (envs : List Env) : M Interned := do
  let w := (← get).plinthAt w.ctx base
  let next ← spaceRead w (base + 4) 4
  match ← findEntry w base envs 1 (next - 1) with
  | some v => return .id (BitVec.ofNat 16 v)
  | none =>
    let st ← spaceRead w base 4
    let line ← spaceRead w (base + 8) 4
    let need := (envs.length + 3) / 4
    if st ≠ 0 then return .full
    else if 0xFFFE < next ∨ 262144 < line + need then
      spaceWrite w base 1 4
      return .full
    else
      (List.range (4 * need)).forM (fun e =>
        spaceWrite w (base + 0x200000 + 64 * (line + e / 4) + 16 * (e % 4)) ((envs.getD e 0).toNat) 16)
      spaceWrite w (base + 0x10000 + 8 * next) (line * 2 ^ 8 + envs.length) 8
      spaceWrite w (base + 0x100000 + 8 * (Config.indexSlot next % 131072)) (Config.indexEntry next).toNat 8
      spaceWrite w (base + 4) (next + 1) 4
      spaceWrite w (base + 8) (line + need) 4
      return .id (BitVec.ofNat 16 next)

/-- How a fold treats overflow and a full space: trap or truncate by OVM (R176), or never trap (R410). -/
inductive Policy where
  | issue (ovm : Bool)
  | deferred
deriving DecidableEq, Repr

/-- What a label step came to: the label, and whether it was truncated (or lost, in a deferred fold). -/
structure Formed where
  label : Label
  cut   : Bool
deriving DecidableEq, Repr

/-- The last steps of Finish on minimised environments (R174, R176, R410). (DESIGN CHOICE, notes/assumptions/8.md.) -/
def finish (w : Who) (pol : Policy) (s : List Env) : M Formed := do
  if s = [] then return ⟨labelFalse, false⟩
  else
    let many := decide (16 < s.length)
    if many && pol == .issue false then raise .labelOverflow (.labelWord s.length)
    else
      let s := s.take 16
      if s = [0] then return ⟨labelTrue, many⟩
      else
        match ← spaceOf w with
        | none => if pol == .deferred then return ⟨labelFalse, true⟩ else raise .labelSpaceFull (.labelWord 0)
        | some base =>
          match ← internAt w base s with
          | .id l => return ⟨l, many⟩
          | .full => if pol == .deferred then return ⟨labelFalse, true⟩ else raise .labelSpaceFull (.labelWord 0)

/-- The cluster's product cache, up to 4,096 entries (R174, R178). -/
def pcacheFind (c : List PEntry) (op : FullerOp) (x y : Label) : Option Word :=
  (c.find? (fun e => e.op == op && e.x == x && e.y == y)).map (·.r)

def pcacheAdd (w : Who) (op : FullerOp) (x y : Label) (r : Word) : M Unit :=
  modS (fun s => s.modCluster w.clus (fun c => { c with pcache := (⟨op, x, y, r⟩ :: c.pcache).take 4096 }))

/-- A step whose operands need it: at a Fuller from the product cache, or formed, and then kept there unless it was truncated; at a
plinth formed. -/
def cached (w : Who) (op : FullerOp) (x y : Label) (form : M Formed) : M Formed := do
  if w.plinth then form
  else match pcacheFind ((← get).cluster w.clus).pcache op x y with
  | some r => return ⟨r.truncate 16, false⟩
  | none =>
    let r ← form
    if !r.cut then pcacheAdd w op x y (r.label.zeroExtend 64)
    return r

/-- The nogoods recorded in a space (R170). -/
def recordedNogoods (w : Who) (base : Nat) : M (List Env) := do
  let n ← spaceRead w (base + 12) 4
  (List.range n).mapM (fun i => do return BitVec.ofNat 128 (← spaceRead w (base + 0x1000 + 16 * i) 16))

/-- The current nogood set: as the cluster's Fuller holds it, or as the plinth records it (R184). -/
def filterOf (w : Who) : M (List Env) := do
  if w.plinth then
    match ← spaceOf w with
    | some base => recordedNogoods w base
    | none => return []
  else return ((← get).cluster w.clus).filter

/-- Prod of two labels (R174). (DEDUCED, notes/assumptions/18.md.) -/
def prod (w : Who) (pol : Policy) (x y : Label) : M Formed := do
  if x = labelTrue then return ⟨y, false⟩
  else if y = labelTrue then return ⟨x, false⟩
  else
    let x ← liveLabel w x
    let y ← liveLabel w y
    if x = labelFalse ∨ y = labelFalse then return ⟨labelFalse, false⟩
    else cached w .prod x y (do
      let ex ← labelEnvs w x
      let ey ← labelEnvs w y
      finish w pol (minimise (← filterOf w) (envProduct ex ey)))

/-- Union of two labels (R174). -/
def union (w : Who) (pol : Policy) (x y : Label) : M Formed := do
  if x = labelTrue ∨ y = labelTrue then return ⟨labelTrue, false⟩
  else
    let x ← liveLabel w x
    let y ← liveLabel w y
    if x = labelFalse then return ⟨y, false⟩
    else if y = labelFalse then return ⟨x, false⟩
    else cached w .union x y (do
      let ex ← labelEnvs w x
      let ey ← labelEnvs w y
      finish w pol (minimise (← filterOf w) (ex ++ ey)))

/-- The product of a label with the environment of assumption n, which is not interned by itself; of TRUE it is that environment,
unfiltered (R174, R190). -/
def assumeStep (w : Who) (pol : Policy) (x : Label) (n : Nat) : M Formed := do
  let x ← liveLabel w x
  let a : Env := BitVec.ofNat 128 (2 ^ n)
  if x = labelFalse then return ⟨labelFalse, false⟩
  else cached w (.assume n) x labelTrue (do
    if x = labelTrue then finish w pol [a]
    else
      let ex ← labelEnvs w x
      finish w pol (minimise (← filterOf w) (envProduct ex [a])))

/-- Several factors folded from left to right; TRUE factors are skipped (R175). -/
def foldProd (w : Who) (pol : Policy) : Formed → List Label → M Formed
  | a, [] => return a
  | a, l :: r => do
    let f ← prod w pol a.label l
    foldProd w pol ⟨f.label, a.cut || f.cut⟩ r

/-! ### Folds of an instruction -/

/-- OVM of LFLAGS (R177). -/
def Core.ovm (c : Core) : Bool := c.lflags.getLsbD 0
def Core.strict (c : Core) : Bool := c.lflags.getLsbD 1
/-- LOSS set (R176). -/
def Core.lose (c : Core) : Core := { c with lflags := c.lflags ||| 4 }

/-- A label step made for the current core at issue: a truncation sets its LOSS (R176). -/
def forMe (f : Who → Policy → M Formed) : M Label := do
  let s ← get
  let r ← f (s.who s.cur) (.issue s.me.ovm)
  if r.cut then modMe Core.lose
  return r.label

/-- The product of the factors of an instruction, in the order its definition lists them, the guard's factor last (R61, R92,
R175). -/
def formLabel (ls : List Label) : M Label :=
  forMe (fun w pol => do
    let g := (← get).me.guardLabel
    foldProd w pol ⟨labelTrue, false⟩ (ls ++ [g]))

/-- The result of an instruction: g register d takes v under the product of the factors; with d = g0 nothing is written and no
product is formed (R92). -/
def writeG (d : GReg) (v : Word) (ls : List Label) : M Unit := do
  if d = 0 then return ()
  let l ← formLabel ls
  modMe (fun c => c.wg d v l)

/-- The result written and the instruction done. -/
def result (d : GReg) (v : Word) (ls : List Label) : M Unit := do
  writeG d v ls
  advance

/-- The label of a result formed before the instruction takes effect or waits, so that its traps are precise (R61, R88, R254). -/
def formEarly (d : GReg) (ls : List Label) : M Formed := do
  if d = 0 then return ⟨labelTrue, false⟩
  let s ← get
  foldProd (s.who s.cur) (.issue s.me.ovm) ⟨labelTrue, false⟩ (ls ++ [s.me.guardLabel])

/-- The result written under a label formed earlier, and the instruction done. -/
def resultFormed (d : GReg) (v : Word) (f : Formed) : M Unit := do
  modMe (fun c => if d = 0 then c else (if f.cut then c.lose else c).wg d v f.label)
  advance

/-- The core waits, and keeps the label that it formed. -/
def holdFormed {α : Type} (r : RunState) (w : Wait) (f : Formed) : M α := do
  modMe (fun c => { c with formed := (f.label, f.cut) })
  holdOn r w

/-- The result of a wait that is over, under the label formed before it. -/
def resultKept (d : GReg) (v : Word) : M Unit := do
  let c ← getMe
  resultFormed d v ⟨c.formed.1, c.formed.2⟩

/-! ### Folds after issue (R410) -/

/-- A fold made after issue for a word of location k: a translation failure of the region other than an absent page gives FALSE
(R408); a truncation or a loss writes a KIND 6 record naming the line and raises an asynchronous MACHINE_CHECK.
(DESIGN CHOICE, notes/assumptions/62.md.) -/
def deferredFold (w : Who) (k : Nat) (ls : List Label) : M Label := fun s =>
  match foldProd w .deferred ⟨labelTrue, false⟩ ls s with
  | .ok f t => .ok f.label (if f.cut then t.machineCheck w.ctx 6 (homeTower k) [lineOf k] none else t)
  | .error (.trap _ _) t => .ok labelFalse (t.machineCheck w.ctx 6 (homeTower k) [lineOf k] none)
  | .error e t => .error e t

/-! ### Nogoods and visibility -/

/-- The set with one more nogood, minimised: one that contains a recorded one is not stored, recorded ones that contain it are
removed, the empty one is never one (R182). -/
def addNogood (ngs : List Env) (e : Env) : List Env :=
  if e = 0 ∨ ngs.any (fun n => subset n e) then ngs else ngs.filter (fun n => !subset e n) ++ [e]

/-- NOGOOD_REQUEST at the allocating plinth: false where the set would exceed 1,024 and nothing is recorded (R182). The order of
the array is open (R170): DESIGN CHOICE, a free value for each request. (DESIGN CHOICE, notes/assumptions/9.md.) -/
def recordNogoods (w : Who) (base : Nat) (envs : List Env) : M Bool := do
  let w := (← get).plinthAt w.ctx base
  let old ← recordedNogoods w base
  let new := sortBy (Config.nogoodRank (← get).free) (envs.foldl addNogood old)
  if 1024 < new.length then return false
  else
    modS (fun s => { s with free := s.free + 1 })
    (List.range new.length).forM (fun i => spaceWrite w (base + 0x1000 + 16 * i) ((new.getD i 0).toNat) 16)
    spaceWrite w (base + 12) new.length 4
    return true

/-- NOGOOD_INSTALL: a cluster's Fuller takes the set into its filter and drops its product cache (R184). -/
def Cluster.install (c : Cluster) (ngs : List Env) : Cluster := { c with filter := ngs, pcache := [] }

/-- Every cluster running a context installs the set that its space records (R173, R184). -/
def installAll (w : Who) : M Unit := do
  let ngs ← match ← spaceOf w with
    | some base => recordedNogoods w base
    | none => pure []
  modS (fun s => (s.clustersOfCtx w.ctx).foldl (fun s k => s.modCluster k (fun c => c.install ngs)) s)

/-- Visible(L) for core n: some environment of L within FOCUS and containing no nogood of the filter (R187). -/
def visible (l : Label) : M Bool := do
  let s ← get
  if l = labelTrue then return true
  else if l = labelFalse then return false
  else
    let w := s.who s.cur
    let ngs ← filterOf w
    let es ← labelEnvs w l
    return es.any (fun e => subset e s.me.focus && !ngs.any (fun n => subset n e))

end Sys2Proof.Machine
end

