-- ==== Sys2Proof/Machine/Operands.lean ====
section
/-! DEFINITION. Operand forms and the functions of the scalar instructions on 64-bit values (R58, R93-R100, R105). -/

namespace Sys2Proof.Machine

/-- What a step answers. -/
abbrev Step := Host.Outcome State Fault Refusal

/-! ### Integer functions (R93, R94, R96) -/

/-- The count of a shift or rotation: b[5:0] (R93). -/
def shiftOf (b : Word) : Nat := b.toNat % 64
def b2w (b : Bool) : Word := if b then 1 else 0
def smin (a b : Word) : Word := if b.slt a then b else a
def smax (a b : Word) : Word := if a.slt b then b else a
def umin (a b : Word) : Word := if b.ult a then b else a
def umax (a b : Word) : Word := if a.ult b then b else a

/-- The number of leading zero bits of the n low bits of a (R94). -/
def clzFrom (a : Word) : Nat → Nat
  | 0 => 0
  | n + 1 => if a.getLsbD n then 0 else 1 + clzFrom a n
/-- The number of trailing zero bits from bit i on, n bits in all (R94). -/
def ctzFrom (a : Word) (i : Nat) : Nat → Nat
  | 0 => 0
  | n + 1 => if a.getLsbD i then 0 else 1 + ctzFrom a (i + 1) n
def popcount (a : Word) : Nat := ((List.range 64).filter (fun i => a.getLsbD i)).length
/-- Bit i of the result is bit 63 − i (R94). -/
def bitReverse (a : Word) : Word :=
  BitVec.ofNat 64 ((List.range 64).foldl (fun n i => n + (if a.getLsbD (63 - i) then 2 ^ i else 0)) 0)
def byteOf (a : Word) (i : Nat) : Byte := a.extractLsb' (8 * i) 8
/-- Byte i of the result is byte 7 − i (R94). -/
def byteSwap (a : Word) : Word :=
  byteOf a 0 ++ byteOf a 1 ++ byteOf a 2 ++ byteOf a 3 ++ byteOf a 4 ++ byteOf a 5 ++ byteOf a 6 ++ byteOf a 7

/-- A sign-extended and a zero-extended immediate (R58). -/
def sext {n : Nat} (i : BitVec n) : Word := i.signExtend 64
def zext {n : Nat} (i : BitVec n) : Word := i.zeroExtend 64

/-- imm16 × 2^(16k) (R96). -/
def luiValue (k : BitVec 2) (i : BitVec 16) : Word := zext i <<< (16 * k.toNat)
/-- Bits [16k+15:16k] replaced (R96). -/
def luiInsert (g : Word) (k : BitVec 2) (i : BitVec 16) : Word :=
  (g &&& ~~~((0xFFFF : Word) <<< (16 * k.toNat))) ||| (zext i <<< (16 * k.toNat))

/-! ### Multiply and divide (R97) -/

/-- Bits 127:64 of the signed product. -/
def mulHigh (a b : Word) : Word := BitVec.ofInt 64 ((a.toInt * b.toInt) / 2 ^ 64)
/-- Bits 127:64 of the unsigned product. -/
def mulHighN (a b : Word) : Word := BitVec.ofNat 64 (a.toNat * b.toNat / 2 ^ 64)
/-- DIV: −1 for a zero divisor; the quotient truncated toward zero, −2^63 where it overflows. -/
def divS (a b : Word) : Word := if b = 0 then BitVec.allOnes 64 else BitVec.ofInt 64 (a.toInt.tdiv b.toInt)
def divN (a b : Word) : Word := if b = 0 then BitVec.allOnes 64 else BitVec.ofNat 64 (a.toNat / b.toNat)
/-- REM: a for a zero divisor; else a − b × DIV(a, b), which is 0 where DIV overflows. -/
def remS (a b : Word) : Word := if b = 0 then a else a - b * divS a b
def remN (a b : Word) : Word := if b = 0 then a else BitVec.ofNat 64 (a.toNat % b.toNat)

/-! ### Bit fields and byte permutes (R98-R100) -/

/-- 2^len − 1. -/
def maskOf (len : Nat) : Word := BitVec.ofNat 64 (2 ^ len - 1)
def bextValue (a : Word) (pos len : Nat) : Word := (a >>> pos) &&& maskOf len
def binsValue (g a : Word) (pos len : Nat) : Word :=
  let m := maskOf len <<< pos
  (g &&& ~~~m) ||| ((a <<< pos) &&& m)

/-- One result byte of BPERM: byte index and mode; none for mode 0b11 (R99). -/
def permByte (a : Word) (index mode : Nat) : Option Byte :=
  let x := byteOf a index
  match mode with
  | 0 => some x
  | 1 => some 0
  | 2 => some (if x.getLsbD 7 then 0xFF else 0)
  | _ => none

/-- Result bytes 0-3, bytes 4-7 zero. -/
def fourBytes (b0 b1 b2 b3 : Byte) : Word := (b3 ++ b2 ++ b1 ++ b0 : BitVec 32).zeroExtend 64

/-- BPERM's result; none where a selector has mode 0b11 (R99). -/
def bpermValue (a b : Word) : Option Word :=
  let sel (i : Nat) : Option Byte := permByte a (b.toNat / 2 ^ (5 * i) % 8) (b.toNat / 2 ^ (5 * i + 3) % 4)
  match sel 0, sel 1, sel 2, sel 3 with
  | some x, some y, some z, some u => some (fourBytes x y z u)
  | _, _, _, _ => none

/-- BPERMI's result on the old gd (R100). -/
def bpermiValue (g : Word) (imm : BitVec 16) : Word :=
  let sel (i : Nat) : Byte :=
    let n := imm.toNat / 2 ^ (4 * i) % 16
    let x := byteOf g (n / 2)
    if n % 2 = 0 then x else if x.getLsbD 7 then 0xFF else 0
  fourBytes (sel 0) (sel 1) (sel 2) (sel 3)

/-! ### Branches (R105) -/

def BCond.holds (c : BCond) (a b : Word) : Bool :=
  match c with
  | .eq => a == b
  | .ne => a != b
  | .lt => a.slt b
  | .ge => !a.slt b
  | .ltn => a.ult b
  | .gen => !a.ult b

/-! ### Loads and stores (R71, R210) -/

/-- The access size in bytes. -/
def LdSize.bytes : LdSize → Nat
  | .s8 | .n8 => 1
  | .s16 | .n16 => 2
  | .s32 | .n32 => 4
  | .d64 => 8
def StSize.bytes : StSize → Nat
  | .b8 => 1 | .b16 => 2 | .b32 => 4 | .b64 => 8

/-- The loaded bytes extended (R210). -/
def LdSize.extend (z : LdSize) (x : Nat) : Word :=
  match z with
  | .s8 => sext (BitVec.ofNat 8 x)
  | .n8 => zext (BitVec.ofNat 8 x)
  | .s16 => sext (BitVec.ofNat 16 x)
  | .n16 => zext (BitVec.ofNat 16 x)
  | .s32 => sext (BitVec.ofNat 32 x)
  | .n32 => zext (BitVec.ofNat 32 x)
  | .d64 => BitVec.ofNat 64 x

/-- ea := (g[A] + sext(OFF) × w) mod 2^64 (R210). -/
def effective (base : Word) (off : BitVec 11) (w : Nat) : Word := base + sext off * BitVec.ofNat 64 w

/-- The size in bytes of an atomic (R72). -/
def AmoSize.bytes : AmoSize → Nat
  | .w32 => 4 | .w64 => 8

def MemredOp.op : MemredOp → MemOp
  | .add => .add | .and => .and | .or => .or | .xor => .xor | .min => .min | .max => .max | .fadd => .fadd
/-- 8 bytes, 4 for FADD (R240). -/
def MemredOp.bytes : MemredOp → Nat
  | .fadd => 4
  | _ => 8

/-- Acquire and release of an AMO order (R72). -/
def AmoOrder.isRel : AmoOrder → Bool
  | .rel | .ar => true
  | _ => false

end Sys2Proof.Machine
end

