-- ==== Sys2Proof/Machine/Flags.lean ====
section
/-! DEFINITION. Flags and modes: FFLAGS (R35), the rounding mode and the draws of an instruction (R27, R31), and which values an
MTC accepts in each control register (R343). -/

namespace Sys2Proof.Machine

/-- FFLAGS with more flags: sticky, never cleared by an instruction (R35). -/
def Core.accrue (c : Core) (f : Flags) : Core := { c with fflags := c.fflags ||| f.zeroExtend 64 }

/-- FRM.MODE (R27). -/
def Core.mode (c : Core) : Nat := c.frm.toNat % 8
/-- The rounding mode of a scalar instruction that issues now (R27, R31). -/
def Core.rnd (c : Core) : RMode := rmode c.mode c.srseed
/-- n draws consumed where FRM.MODE is SR (R31). (DEDUCED, notes/assumptions/66.md.) -/
def Core.draws (c : Core) (n : Nat) : Core := if c.mode = 4 then { c with srseed := seedSteps n c.srseed } else c

/-- The predicate a queued tile instruction writes (R130, R132). -/
def Instr.predDest : Instr → Option PReg
  | .vcmp _ _ _ d _ _ | .pand d _ _ | .por d _ _ | .pxor d _ _ | .pnot d _ | .pset d _ => some d
  | _ => none
/-- Whether predicate n awaits the result of a queued tile instruction (R88). -/
def Core.predPending (c : Core) (n : PReg) : Bool := n != 0 && c.vq.any (fun e => Instr.predDest e.op == some n)

/-- SHAPE: rows and columns (R117). -/
def shapeRows (v : Word) : Nat := v.toNat % 128
def shapeCols (v : Word) : Nat := v.toNat / 2 ^ 16 % 512
/-- A value SHAPE accepts (R117). -/
def shapeOk (v : Word) : Bool :=
  let r := shapeRows v
  let c := shapeCols v
  v.toNat < 2 ^ 25 && v.toNat / 2 ^ 7 % 2 ^ 9 == 0 && 1 ≤ r && r ≤ 64 && 1 ≤ c && c ≤ 256 && r * c ≤ 256

/-- SZk of DOMAIN, k from 1 to 3 (R266). -/
def domSize (v : Word) (k : Nat) : Nat := v.toNat / 2 ^ (11 * (k - 1)) % 2 ^ 11
/-- KCLUS of DOMAIN. -/
def domKclus (v : Word) : Nat := v.toNat / 2 ^ 33 % 2 ^ 11
/-- The rules for valid domain sizes (R266). -/
def domainOk (v : Word) : Bool :=
  let a := domSize v 1
  let b := domSize v 2
  let c := domSize v 3
  a != 1 && (a != 0 || b == 0) && (b != 0 || c == 0) && (b == 0 || b % a == 0) && (c == 0 || c % b == 0)

/-- KB, KS, AUTO and ADDR of a scale register (R148). -/
def sclKs (v : Word) : Nat := v.toNat / 2 ^ 32 % 2 ^ 12
def sclKb (v : Word) : Nat := v.toNat / 2 ^ 20 % 2 ^ 12
def sclAuto (v : Word) : Bool := v.getLsbD 19
def sclAddr (v : Word) : Nat := v.toNat % 2 ^ 17
def sclOk (v : Word) : Bool := v.toNat < 2 ^ 44 && v.toNat / 2 ^ 17 % 4 == 0 && sclKb v != 0 && sclKs v < sclKb v
/-- KS advanced by an MMA under AUTO (R150). -/
def sclNext (v : Word) : Word :=
  if sclAuto v then
    BitVec.ofNat 64 (v.toNat % 2 ^ 32 + (sclKs v + 1) % sclKb v * 2 ^ 32)
  else v

/-- A super-scale register's value (R149). -/
def supOk (v : Word) : Bool := v.toNat < 2 ^ 17 && v.toNat % 4 == 0
end Sys2Proof.Machine
end

