-- ==== Sys2Proof/Machine/Coherence.lean ====
section
/-! DEFINITION. Lines: the data and tags of a line, leases in the L1D (R222-R226), the directory and the agents (R227-R229,
R402), untracked and host copies (R209, R230, R369), update-only lines and their recall (R232). The value of a tracked line in
the order M stands in memory; an L1D lease keeps the value it was granted with. -/

namespace Sys2Proof.Machine

/-! ### Lines -/

def lineGet (d : Line) (off size : Nat) : Nat := (d >>> (8 * off)).toNat % 2 ^ (8 * size)
def lineSet (d : Line) (off size v : Nat) : Line :=
  (d &&& ~~~(BitVec.ofNat 512 (2 ^ (8 * size) - 1) <<< (8 * off))) ||| (BitVec.ofNat 512 (v % 2 ^ (8 * size)) <<< (8 * off))
/-- The tag of word i of a line. -/
def tagGet (t : LineTags) (i : Nat) : Label := (t >>> (16 * i)).truncate 16
def tagSet (t : LineTags) (i : Nat) (l : Label) : LineTags :=
  (t &&& ~~~((0xFFFF : LineTags) <<< (16 * i))) ||| (l.zeroExtend 256 <<< (16 * i))

/-- The line at L as memory holds it, and its 16 tags. -/
def State.lineData (s : State) (L : Nat) : Line := BitVec.ofNat 512 (s.read L 64)
def State.lineTags (s : State) (L : Nat) : LineTags :=
  (List.range 16).foldl (fun t i => tagSet t i (s.tagAt (L + 4 * i))) 0

/-- A line as a reader finds it: data, tags, and the words that hold an uncorrectable error (R203). -/
structure LineVal where
  data : Line
  tags : LineTags
  bad  : BitVec 16
deriving DecidableEq, Repr

/-- The words of a line that hold an uncorrectable error (R203). -/
def State.lineBad (s : State) (L : Nat) : BitVec 16 :=
  if s.damaged.isEmpty then 0
  else (List.range 16).foldl (fun b i => if s.damaged.get false (L / 4 + i) then b ||| ((1 : BitVec 16) <<< i) else b) 0

/-- The line at L as its home answers. -/
def State.lineVal (s : State) (L : Nat) : LineVal := ⟨s.lineData L, s.lineTags L, s.lineBad L⟩

/-- The words of a line marked as holding an uncorrectable error, or not. -/
def State.markBad (s : State) (L : Nat) (bad : BitVec 16) : State :=
  { s with damaged := (List.range 16).foldl (fun d i => d.set false (L / 4 + i) (bad.getLsbD i)) s.damaged }

/-- What a read of a location finds: its bytes, the tags of the words it touches, and whether one of them holds an uncorrectable
error. -/
structure Got where
  value  : Nat
  labels : List Label
  bad    : Bool
deriving DecidableEq, Repr

/-- A part of a line; a plain page reads as TRUE (R181). -/
def LineVal.got (v : LineVal) (plain : Bool) (off size : Nat) : Got :=
  ⟨lineGet v.data off size, if plain then [] else (wordsOf off size).map (tagGet v.tags), (wordsOf off size).any v.bad.getLsbD⟩

/-- A location as the storage behind every copy holds it. -/
def State.got (s : State) (loc : Loc) (size : Nat) : Got :=
  ⟨s.read loc.key size, if loc.plain then [] else (wordsOf loc.key size).map (fun w => s.tags.get labelTrue w), s.badAt loc.key size⟩

def addTo (l : List Nat) (t : Nat) : List Nat := if l.contains t then l else l ++ [t]

/-- Whether a line is a counter line (R241). (DEDUCED, notes/assumptions/24.md.) -/
def State.isCounter (s : State) (L : Nat) : Bool := (s.counters.find? L).isSome

/-! ### Update-only lines (R232) -/

/-- One partial folded into its word or words by the plinth of its label's space; what cannot be corrected stays so (R180, R203, R232,
R410). -/
def foldPart (L : Nat) (op : MemOp) (size : Nat) (p : UPart) : M Unit := do
  let s ← get
  let k := L + p.off
  let v := memOp op size (s.read k size) p.value.toNat
  let l ← deferredFold (s.plinthOf p.ctx) k ((wordsOf k size).map (fun i => s.tags.get labelTrue i) ++ [p.label])
  modS (fun t => { t.poke k v size with
    tags := (wordsOf k size).foldl (fun g i => g.set labelTrue i l) t.tags, damaged := s.damaged })

/-- A recall folds every partial held anywhere, ascending by LCLUS, as one; the line is U no more (R232). -/
def foldLine (L : Nat) : M Unit := whole (do
  let s ← get
  (s.partials L).forM (fun e => e.2.2.2.forM (foldPart L e.2.1 e.2.2.1))
  modS (fun s =>
    let s := s.clusters.foldl (fun s e => match e.2.l1.find? L with
      | some (.u _ _ _) => s.dropL1 e.1 L
      | _ => s) s
    let s := (List.range 4).foldl (fun s t => if (s.agent t L).parts = [] then s else s.setAgent t L { s.agent t L with parts := [] }) s
    match (s.dir L).st with
    | .u _ _ _ | .bRec _ _ _ => s.setDirSt L .i
    | _ => s))

/-- An access other than a RED of the same kind recalls a line in U (R232). It waits for a recall that is under way, and for one whose
fold meets a page that is not present, which is then a step of its own (R227, R408). -/
def recallLine (L : Nat) : M Unit := do
  match ((← get).dir L).st with
  | .u _ _ _ => fun s => match foldLine L s with
    | .error (.absent _ _ _ _ _ _) _ => .error (.recalls L) s
    | r => r
  | .bRec _ _ _ => stall
  | _ => pure ()

/-! ### Permission at a serving slice (R224, R227-R229) -/

/-- Whether agent t has asked the home of a line for an upgrade that is not yet answered. -/
def State.upgrading (s : State) (L t : Nat) : Bool := s.flight.contains (.dirUpg L t) || (s.dir L).queue.contains (.upg t)

/-- An agent without its copy: one whose upgrade is under way waits for data (R229). -/
def AgentState.lost (upgrading : Bool) : AgentState → AgentState
  | .sm => .im
  | _ => if upgrading then .im else .i

/-- Agents made to drop a line: the state without their copies, and the largest rts they granted (R227). -/
def State.invalidate (s : State) (L : Nat) (ts : List Nat) : State × Nat :=
  ts.foldl (fun (a : State × Nat) t =>
    let g := a.1.agent t L
    (a.1.setAgent t L { g with st := g.st.lost (s.upgrading L t), dram := none }, max a.2 g.rts)) (s, 0)

/-- The image the home's DRAM keeps while an agent owns the line dirty (R233). -/
def State.imageOf (s : State) (L : Nat) (from' : Agent) : Option (Line × LineTags) :=
  match from'.dram with
  | some i => some i
  | none => some (s.lineData L, s.lineTags L)

/-- An access that needs a line's home waits while the home is held, and behind the requests that wait there (R227, R354). -/
def awaitHome (L : Nat) : M Unit := do
  let s ← get
  needs (!s.heldLine L && (s.dir L).queue.isEmpty)

/-- Whether data or a grant of a line is on its way to an agent, which acts on nothing of the line before it (R402). -/
def State.granting (s : State) (L : Nat) (p : Nat → Bool) : Bool :=
  s.flight.any (fun m => match m with
    | .dataGrant K t _ _ _ => K == L && p t
    | _ => false)

/-- Whether the home serves a new request of a line at once: it is not held, no data of the line is on its way, and no request waits
there (R227, R354, R402). -/
def State.turnOf (s : State) (L : Nat) : Bool := !s.heldLine L && !s.granting L (fun _ => true) && (s.dir L).queue.isEmpty

/-- Agent t gains read permission to a line whose directory entry is in a stable state, the whole exchange at once (R228,
R229); none where the line is in a transient state. -/
def State.gets (s : State) (t L : Nat) : Option State :=
  let a := s.agent t L
  let m := s.mts L
  match a.st with
  | .s | .e | .m | .o => some s
  | .i =>
    if !s.turnOf L then none
    else match (s.dir L).st with
    | .i => some ((s.setAgent t L { a with st := .e, wts := m, rts := m }).setDirSt L (.x t))
    | .s set => some ((s.setAgent t L { a with st := .s, wts := m, rts := m }).setDirSt L (.s (addTo set t)))
    | .x o =>
      let b := s.agent o L
      match b.st with
      | .e => some (((s.setAgent o L { b with st := .s }).setAgent t L { a with st := .s, wts := b.wts, rts := b.rts }).setDirSt L (.s [o, t]))
      | .m => some (((s.setAgent o L { b with st := .o }).setAgent t L { a with st := .s, wts := b.wts, rts := b.rts }).setDirSt L (.o o [t]))
      | _ => none
    | .o o set =>
      let b := s.agent o L
      match b.st with
      | .o => some ((s.setAgent t L { a with st := .s, wts := b.wts, rts := b.rts }).setDirSt L (.o o (addTo set t)))
      | _ => none
    | _ => none
  | _ => none

/-- Agent t gains write permission, the whole exchange at once (R228, R229). -/
def State.getx (s : State) (t L : Nat) : Option State :=
  let a := s.agent t L
  let m := s.mts L
  let own (s : State) (wts rts : Nat) (img : Option (Line × LineTags)) : State :=
    (s.setAgent t L { s.agent t L with st := .m, wts := wts, rts := rts, dram := img }).setDirSt L (.x t)
  match a.st with
  | .m => some s
  | .e => some (s.setAgent t L { a with st := .m, dram := s.imageOf L a })
  | .s | .o | .i =>
    if !s.turnOf L then none
    else match (s.dir L).st with
    | .i => some (own s m m (s.imageOf L a))
    | .s set =>
      let r := s.invalidate L (set.filter (· != t))
      if a.st == .s then some (own r.1 a.wts (max a.rts r.2) (s.imageOf L a))
      else some (own r.1 m (max m r.2) (s.imageOf L a))
    | .x o =>
      let b := s.agent o L
      if b.st == .e || b.st == .m then
        let r := s.invalidate L [o]
        some (own r.1 b.wts (max b.rts r.2) (s.imageOf L b))
      else none
    | .o o set =>
      let b := s.agent o L
      if b.st == .o then
        let r := s.invalidate L ((addTo set o).filter (· != t))
        some (own r.1 b.wts (max (max a.rts b.rts) r.2) (s.imageOf L b))
      else none
    | _ => none
  | _ => none

/-- Every agent gives the line up to its home: DRAM holds the value, MTS takes the largest rts (R228, R239). -/
def State.bringHome (s : State) (L : Nat) : Option State :=
  let holders := (List.range 4).filter (fun t => (s.agent t L).st != .i)
  if s.granting L (fun _ => true) || holders.any (fun t => (s.agent t L).st == .mi) then none
  else
    match (s.dir L).st with
    | .bInv _ _ _ _ _ | .bFwd _ _ _ _ | .bRec _ _ _ => none
    | _ =>
      let r := s.invalidate L (holders.filter (fun t => let a := (s.agent t L).st; a != .is && a != .im))
      some ((r.1.raiseMts L r.2).setDirSt L .i)

/-- LEASE (R223). -/
def lease : Nat := 16

/-- A transient state of the line holds the access (R227). -/
def orStall (f : State → Option State) : M Unit := fun s => match f s with
  | some t => .ok () t
  | none => .error (.hold .stalled .busy) s

/-! ### Room in the caches (R10, R11) -/

/-- Agent t gives one of its lines up at once, as an eviction does (R228, R229): a clean or dirty PUT. -/
def State.evictAgent (s : State) (t L : Nat) : State :=
  let a := s.agent t L
  let s := (s.setAgent t L { a with st := .i, dram := none }).raiseMts L a.rts
  match (s.dir L).st with
  | .x _ => s.setDirSt L .i
  | .o o set => if o = t then s.setDirSt L (if set = [] then .i else .s set) else s.setDirSt L (.o o (set.filter (· != t)))
  | .s set => let l := set.filter (· != t); s.setDirSt L (if l = [] then .i else .s l)
  | _ => s

/-- Whether agent t can give line L up at once. -/
def State.canEvict (s : State) (t L : Nat) : Bool :=
  let a := s.agent t L
  (a.st == .s || a.st == .e || a.st == .m || a.st == .o) && !s.heldLine L && !s.granting L (fun _ => true) && !s.upgrading L t &&
    (match (s.dir L).st with
      | .x _ | .o _ _ | .s _ => true
      | _ => false)

/-- A line of tower t that its slice gives up: one without leases with its write-back to DRAM, another as an eviction does (R230). -/
def State.yieldLine (s : State) (t L : Nat) : State :=
  if (s.slices.find? L).isSome then { s with slices := s.slices.erase L } else if s.canEvict t L then s.evictAgent t L else s

/-- Whether a slice of tower t can give line L up at once. -/
def State.canYield (s : State) (t L : Nat) : Bool := (s.slices.find? L).isSome || s.canEvict t L

/-- Room for line L at its serving slice in tower t: of a full set lines leave, or one with partials is recalled, each after a free value;
n bounds how many (R10, R229, R232). (DESIGN CHOICE, notes/assumptions/13.md.) -/
def sliceRoomN (t L : Nat) : Nat → M Unit
  | 0 => pure ()
  | n + 1 => do
    let s ← get
    match s.crowd t L with
    | none | some (0, _) => pure ()
    | some (_, mine) =>
      let go := mine.filter (fun K => s.canYield t K || (s.agent t K).parts != [])
      if go = [] then stall
      let v := s.victimOf t go
      modS (fun s => { s with free := s.free + 1 })
      recallLine v
      modS (fun s => s.yieldLine t v)
      sliceRoomN t L n

/-- Room for a line; of a set that holds too many, as many leave as it needs. -/
def sliceRoom (t L : Nat) : M Unit := do sliceRoomN t L (((← get).crowd t L).getD (0, [])).1

/-- The same where only lines that can leave at once do; none where there are not enough of them. -/
def State.roomFor (s : State) (t L : Nat) : Nat → Option State
  | 0 => some s
  | n + 1 => match s.crowd t L with
    | none | some (0, _) => some s
    | some (_, mine) => match mine.filter (s.canYield t) with
      | [] => none
      | go => ({ s with free := s.free + 1 }.yieldLine t (s.victimOf t go)).roomFor t L n
/-- Room for a line at its serving slice in tower t, at once. -/
def State.slotFor (s : State) (t L : Nat) : Option State := s.roomFor t L ((s.crowd t L).getD (0, [])).1

/-- The home slice takes an untracked line: with what DRAM holds of it, where it is about to be written, or as the next victim; where no way
can be had at once it goes on to DRAM (R212, R230). (DESIGN CHOICE, notes/assumptions/13.md.) -/
def State.homeTake (s : State) (L : Nat) (dirty next : Bool) : State :=
  let image (s : State) : Option (Line × LineTags) := some (s.lineData L, s.lineTags L)
  if !isDram L || (s.crowd (homeTower L) L).isNone then s
  else match s.slices.find? L with
  | some h => if dirty && h.dram.isNone then { s with slices := s.slices.put L { h with dram := image s } } else s
  | none => match s.slotFor (homeTower L) L with
    | none => s
    | some s => { s with slices := s.slices.put L ⟨if dirty then image s else none, next⟩ }

/-- A whole line written back to its home. -/
def State.putLine (s : State) (L : Nat) (d : Line) (t : LineTags) : State :=
  let s := { s with mem := writeNat s.mem L d.toNat 64 }
  { s with tags := (List.range 16).foldl (fun g i => g.set labelTrue (L / 4 + i) (tagGet t i)) s.tags }

/-- An untracked dirty copy written back to its home slice, one store event, and dropped if asked (R216, R230). -/
def State.writeBack (s : State) (k L : Nat) (drop : Bool) : State :=
  match s.l1 k L with
  | some (.copy dirty d t b) =>
    let s := if dirty then ((s.homeTake L true false).putLine L d t).markBad L b else s
    if drop then s.dropL1 k L else s.setL1 k L (.copy false d t b)
  | some (.v _ _ _ _ _ _) => if drop then s.dropL1 k L else s
  | _ => s

/-- Whether the L1D line of cluster k at L can leave now: a dirty copy waits for a held home (R354), partials for room at the serving
slice (R10, R232). -/
def State.canLeave (s : State) (k L : Nat) : Bool := match s.l1 k L with
  | some (.copy true _ _ _) => !s.heldLine L
  | some (.u _ _ _) => (s.slotFor (k / 512) L).isSome
  | _ => true

/-- An L1D line leaves cluster k: a lease silently, a dirty copy through its write-back, a partial to the serving slice, an allowance
home (R223, R230, R232, R242). -/
def State.evictL1 (s : State) (k L : Nat) : State :=
  match s.l1 k L with
  | some (.u op size ps) =>
    let t := k / 512
    match s.slotFor t L with
    | none => s
    | some s =>
      let a := s.agent t L
      (s.dropL1 k L).setAgent t L { a with parts := a.parts ++ [(s.lclus k, op, size, ps)] }
  | some (.a n) => { s.dropL1 k L with flight := s.flight ++ [.allowanceReturn L k n] }
  | _ => if s.canLeave k L then s.writeBack k L true else s

/-- Room for line L in cluster k's L1D, 8 ways of 1,024 sets: of a full set one line leaves, after a free value (R11, R223); none where
none of them can leave now. (DESIGN CHOICE, notes/assumptions/13.md.) -/
def State.roomL1 (s : State) (k L : Nat) : Option State :=
  let l := (s.cluster k).l1
  if l.length < 8 || (l.find? L).isSome then some s
  else
    let mine := (l.filter (fun e => Config.l1Set e.1 % 1024 == Config.l1Set L % 1024)).map (·.1)
    if mine.length < 8 then some s
    else match mine.filter (s.canLeave k) with
      | [] => none
      | go => some { s.evictL1 k (least (Config.victim s.free) go) with free := s.free + 1 }

def l1Room (k L : Nat) : M Unit := orStall (fun s => s.roomL1 k L)

/-- A line filled into cluster k's L1D. -/
def fillL1 (k L : Nat) (e : L1Line) : M Unit := do
  l1Room k L
  modS (fun s => s.setL1 k L e)

/-- Agent t learns that a home has given it a newer incarnation: it invalidates every line of that home that it holds, and their
partials are dropped (R233). (DEDUCED, notes/assumptions/70.md.) -/
def State.learn (s : State) (home t : Nat) : State :=
  let inc : BitVec 8 := if h : t < 4 then (s.tower home).incarn[t] else 0
  if inc = (s.tower t).known[home % 4] then s
  else
    let lines := (s.agents.filter (fun e => e.1 % 4 == t && homeTower (e.1 / 4) == home)).map (fun e => e.1 / 4)
    let s := lines.foldl (fun s L => s.setAgent t L Agent.reset) s
    let s := s.clusters.foldl (fun (s : State) (c : Nat × Cluster) =>
      if c.1 / 512 = t then
        s.modCluster c.1 (fun d => { d with l1 := d.l1.filter (fun e => match e.2 with
          | .u _ _ _ => homeTower e.1 != home
          | _ => true) })
      else s) s
    s.modTower t (fun w => { w with known := w.known.set (home % 4) inc })

/-- Tower t's serving slice gains permission to a line: what its home has told it is known, partials are recalled, a way is found, the
exchange made; a line that comes in is marked as next says (R212, R224, R228, R232, R233). -/
def acquire (t L : Nat) (next : Bool) (f : State → Option State) : M Unit := do
  modS (fun s => s.learn (homeTower L) t)
  recallLine L
  let miss := ((← get).agent t L).st == .i
  sliceRoom t L
  orStall f
  modS (fun s => if miss && (s.agent t L).next != next then s.setAgent t L { s.agent t L with next := next } else s)

def readable (t L : Nat) (next : Bool := false) : M Unit := acquire t L next (fun s => s.gets t L)
def writable (t L : Nat) : M Unit := acquire t L false (fun s => s.getx t L)

/-! ### Loads of lines -/

/-- Core n's logical time is at least p (R222). -/
def State.raisePts (s : State) (n p : Nat) : State :=
  if p ≤ (s.core n).pts then s else s.modCore n (fun c => { c with pts := p })

/-- A tracked line as a load of core n finds it: a hit on a lease that stands (pts ≤ rts, granted under 1,024 cycles ago), or a
fill or renewal at the serving slice; the load binds no earlier than the line's wts (R222-R225). -/
def loadTracked (n L : Nat) : M LineVal := do
  let s ← get
  let k := clusterOf n
  let c := s.core n
  match s.l1 k L with
  | some (.v wts rts granted d t b) =>
    if c.pts ≤ rts ∧ s.time < granted + 1024 then
      modS (fun s => s.raisePts n wts)
      return ⟨d, t, b⟩
  | _ => pure ()
  readable (towerOf n) L
  let s ← get
  let a := s.agent (towerOf n) L
  let rts := max a.rts (max (a.wts + lease) (c.pts + lease))
  let v := s.lineVal L
  fillL1 k L (.v a.wts rts s.time v.data v.tags v.bad)
  modS (fun s => (s.setAgent (towerOf n) L { a with rts := rts }).raisePts n a.wts)
  return v

/-- The cluster's own copy of a line without leases: present, or filled from its home (R209, R369). -/
def loadCopy (k L : Nat) : M LineVal := do
  match (← get).l1 k L with
  | some (.copy _ d t b) => return ⟨d, t, b⟩
  | _ =>
    awaitHome L
    modS (fun s => s.homeTake L false false)
    let v := (← get).lineVal L
    fillL1 k L (.copy false v.data v.tags v.bad)
    return v

/-- w bytes at a location as core n loads them. A plain page reads as TRUE (R181). -/
def loadAt (n : Nat) (loc : Loc) (size : Nat) : M Got := do
  match loc.place with
  | .tracked => return (← loadTracked n (lineOf loc.key)).got loc.plain (loc.key % 64) size
  | .untracked | .hostCached =>
    modS (fun s => s.observe n)
    return (← loadCopy (clusterOf n) (lineOf loc.key)).got loc.plain (loc.key % 64) size
  | _ =>
    modS (fun s => s.observe n)
    return (← get).got loc size

/-! ### Stores to lines -/

/-- The stamp of a store of core n at the serving slice, which has write permission (R224); the core's own lease takes the
value and the stamp (R223). (DEDUCED, notes/assumptions/15.md.) -/
def stampStore (n L : Nat) : M Unit := do
  writable (towerOf n) L
  modS (fun s =>
    let a := s.agent (towerOf n) L
    let stamp := max (s.core n).pts (a.rts + 1)
    let s := s.setAgent (towerOf n) L { a with wts := stamp, rts := stamp }
    s.modCore n (fun c => { c with pts := stamp }))

/-- After a store of core n to a tracked line: its cluster's lease, where there is one, takes the new value and counts as granted now (R223).
(DESIGN CHOICE, notes/assumptions/122.md.) -/
def State.refreshLease (s : State) (n L : Nat) : State :=
  match s.l1 (clusterOf n) L with
  | some (.v _ _ _ _ _ _) =>
    let p := (s.core n).pts
    let v := s.lineVal L
    s.setL1 (clusterOf n) L (.v p p s.time v.data v.tags v.bad)
  | _ => s

/-- The bytes and tags of a location set in memory; a plain page stores no tag (R181, R201). -/
def State.store (s : State) (loc : Loc) (size v : Nat) (tags : List (Nat × Label)) : State :=
  let s := s.poke loc.key v size
  if loc.plain then s else { s with tags := tags.foldl (fun t e => t.set labelTrue e.1 e.2) s.tags }

/-- The words of a line that a write of size bytes at an offset leaves damaged (R203). -/
def badAfter (b : BitVec 16) (off size : Nat) : BitVec 16 :=
  if b = 0 then 0
  else (List.range 16).foldl (fun b i => if off ≤ 4 * i ∧ 4 * i + 4 ≤ off + size then b &&& ~~~((1 : BitVec 16) <<< i) else b) b

/-- The bytes and tags of a cluster's copy set, the copy dirty (R209). -/
def State.storeCopy (s : State) (k : Nat) (loc : Loc) (size v : Nat) (tags : List (Nat × Label)) : State :=
  match s.l1 k (lineOf loc.key) with
  | some (.copy _ d t b) =>
    let t := if loc.plain then t else tags.foldl (fun t e => tagSet t (e.1 % 16) e.2) t
    s.setL1 k (lineOf loc.key) (.copy true (lineSet d (loc.key % 64) size v) t (badAfter b (loc.key % 64) size))
  | _ => s

/-- A value and its tags placed at a location by core n, wherever the location is kept (R205, R209, R223). -/
def placeAt (n : Nat) (loc : Loc) (size v : Nat) (tags : List (Nat × Label)) : M Unit := do
  match loc.place with
  | .tracked =>
    stampStore n (lineOf loc.key)
    modS (fun s => (s.store loc size v tags).refreshLease n (lineOf loc.key))
  | .untracked =>
    let _ ← loadCopy (clusterOf n) (lineOf loc.key)
    modS (fun s => s.storeCopy (clusterOf n) loc size v tags)
  | _ => modS (fun s => s.store loc size v tags)

/-- The old tags of the words of a location as a write's own event finds them. (DEDUCED, notes/assumptions/15.md.) -/
def oldTags (n : Nat) (loc : Loc) (size : Nat) : M (List (Nat × Label)) := do
  if loc.plain then return (wordsOf loc.key size).map (fun w => (w, labelTrue))
  match loc.place with
  | .untracked | .hostCached =>
    let r ← loadCopy (clusterOf n) (lineOf loc.key)
    return (wordsOf loc.key size).map (fun w => (w, tagGet r.tags (w % 16)))
  | _ =>
    let s ← get
    return (wordsOf loc.key size).map (fun w => (w, s.tags.get labelTrue w))

/-- Who folds a label after issue for an access of core n: its cluster's Fuller at a local store and at the L1D, the allocating plinth
at a slice and at a bank (R410). -/
def State.foldWho (s : State) (n : Nat) (loc : Loc) : Who := match loc.place with
  | .tracked | .scratch => s.plinthOf (s.ctxOf n)
  | _ => s.who n

/-- A plain store of core n performs, w making its folds: whole words take the operand label; a word written in part folds its old tag
(R180, R410). -/
def performStoreBy (w : State → Who) (n : Nat) (loc : Loc) (size v : Nat) (label : Label) : M Unit := do
  if loc.place == .tracked then recallLine (lineOf loc.key)
  let old ← oldTags n loc size
  let w := w (← get)
  let tags ← old.mapM (fun e => do
    if 4 ≤ size || loc.plain then return (e.1, label)
    else return (e.1, ← deferredFold w loc.key [label, e.2]))
  placeAt n loc size v tags

def performStore (n : Nat) (loc : Loc) (size v : Nat) (label : Label) : M Unit :=
  performStoreBy (fun s => s.foldWho n loc) n loc size v label

end Sys2Proof.Machine
end

