-- ==== Sys2Proof/Machine/Ring.lean ====
section
/-! DEFINITION. The trace ring of a context (R376, R377): allocating slots and writing records. -/

namespace Sys2Proof.Machine

/-- TRACECTL: the fields (R376). -/
def trcEn (v : Word) : Bool := v.getLsbD 0
def trcAuto (v : Word) : Bool := v.getLsbD 3
def trcSmp (v : Word) : Bool := v.getLsbD 4
def trcWrap (v : Word) : Bool := v.getLsbD 5
def trcFull (v : Word) : Bool := v.getLsbD 6
def trcStopLevel (v : Word) : Nat := v.toNat / 2 ^ 8 % 4
def trcSize (v : Word) : Nat := 2 ^ 16 * 2 ^ (v.toNat / 2 ^ 10 % 8)
def trcPer (v : Word) : Nat := v.toNat / 2 ^ 13 % 16
def trcBase (v : Word) : Nat := v.toNat / 2 ^ 20 % 2 ^ 28 * 2 ^ 20

/-- A record of the trace ring (R377). -/
structure TraceRec where
  payload : Word
  ssc     : Word
  pnum    : Nat
  lcore   : Nat
  typ     : Nat
  time    : Nat
deriving DecidableEq, Repr

/-- m slots from HEAD on, and HEAD and LAPS behind them; none where a slot finds the ring full and WRAP is 0. -/
def ringSlots (size : Nat) (wrap : Bool) : Nat → Nat → Nat → Option (List Nat × Nat × Nat)
  | 0, head, laps => some ([], head, laps)
  | m + 1, head, laps =>
    let go (head laps : Nat) : Option (List Nat × Nat × Nat) :=
      (ringSlots size wrap m (head + 32) laps).map (fun r => (head :: r.1, r.2))
    if head = size then (if wrap then go 64 (laps + 1) else none) else go head laps

/-- A request of several 32-byte slots, each given as its 32 bytes' number, to the ring of TRACECTL t: written, or dropped whole; FULL is
that of the ring in force (R343, R377, R378). (DEDUCED, notes/assumptions/38.md.) -/
def State.ringWriteTo (s : State) (x : Nat) (t : Word) (slots : List Nat) : State :=
  let b := trcBase t
  match ringSlots (trcSize t) (trcWrap t) slots.length (s.read b 4) (s.read (b + 4) 4) with
  | none =>
    (s.plinthWrite (b + 8) (s.read (b + 8) 4 + 1) 4).modCtx x (fun c =>
      if trcBase c.tracectl = b then { c with tracectl := c.tracectl ||| 0x40 } else c)
  | some (offs, head, laps) =>
    let s := (offs.zip slots).foldl (fun s e => s.plinthWrite (b + e.1) e.2 32) s
    (s.plinthWrite (b + 4) laps 4).plinthWrite b head 4

/-- A request to the ring of the context's TRACECTL. -/
def State.ringWrite (s : State) (x : Nat) (slots : List Nat) : State := s.ringWriteTo x (s.ctx x).tracectl slots

/-- The bytes of a record (R377). -/
def TraceRec.bytes (r : TraceRec) : Nat :=
  r.payload.toNat + 2 ^ 64 * r.ssc.toNat + 2 ^ 128 * (r.pnum % 2 ^ 16) + 2 ^ 144 * (r.lcore % 2 ^ 16) + 2 ^ 160 * (r.typ % 256)
    + 2 ^ 192 * (r.time % 2 ^ 64)

/-- A record of core n as it stands (R378, R379). -/
def State.traceRec (s : State) (n : Nat) (payload : Word) (typ : Nat) : TraceRec :=
  ⟨payload, (s.core n).ssc, n, s.lcore n, typ, s.time⟩

/-- A hardware record of core n: types 64 and 65 where EN and AUTO are 1, type 66 where EN is (R376, R381). -/
def State.autoRec (s : State) (n : Nat) (payload : Word) (typ : Nat) : State :=
  let x := s.ctxOf n
  let t := (s.ctx x).tracectl
  if trcEn t && (trcAuto t || typ == 66) then s.ringWrite x [(s.traceRec n payload typ).bytes] else s

end Sys2Proof.Machine
end

