-- ==== Sys2Proof/Machine/Memory.lean ====
section
/-! DEFINITION. The accesses of a core: the checks of R211, the store buffer and its forwarding (R205), the combining buffers
(R213), operations on memory words (R235-R240), cache maintenance (R216, R217). -/

namespace Sys2Proof.Machine

/-! ### Resolving an address (R211) -/

/-- A tile instruction that reads or writes a local store (R135). -/
def Instr.isTileMem : Instr → Bool
  | .vld _ _ _ _ _ | .vst _ _ _ _ _ | .vgather _ _ _ _ _ | .vscatter _ _ _ _ _ | .vamo _ _ _ _ _ _ => true
  | _ => false

/-- Whether a tile memory instruction of the core is still queued (R126). -/
def Core.tileMem (c : Core) : Bool := c.vq.any (fun e => Instr.isTileMem e.op)
/-- Whether an MLD or MST of the core is still queued. -/
def Core.transferQueued (c : Core) : Bool := c.mq.any (fun e => match e.op with
  | .mst _ _ | .mld _ _ => true
  | _ => false)
/-- Whether an MST of the core is still queued: its stores come before later accesses (R158). (DEDUCED, notes/assumptions/21.md.) -/
def Core.mstQueued (c : Core) : Bool := c.mq.any (fun e => match e.op with
  | .mst _ _ => true
  | _ => false)

/-- Whether n bytes at a and m bytes at b share a byte. -/
def overlaps (a n b m : Nat) : Bool := a < b + m && b < a + n

/-- A scalar access of core cur resolved, with the checks of R211 in their order; the event window is no plain location
(R253). -/
def resolve (acc : Access) (ea : Word) (size : Nat) : M Loc := do
  let s ← get
  if ea.toNat % size ≠ 0 then raiseAddr .misalign ea.toNat
  match s.target s.cur ea with
  | .hole | .peerAbsent | .event _ => raiseAddr .protect ea.toNat
  | .localStore m off => return ⟨.local, lsBase m + off, false⟩
  | .scratch off =>
    if !s.lentAt (s.partOf s.cur) off then raiseAddr .scratchRange ea.toNat
    return ⟨.scratch, scratchBase + off, false⟩
  | .global va =>
    let loc ← translateMe acc va
    if acc == .write && inRegion ((← get).ctx (s.ctxOf s.cur)).lspace va size then raiseAddr .protect va
    if (← get).peerBarred loc then raiseAddr .protect va
    return loc

/-- A local-store access waits for queued tile memory instructions, and every access for a queued MST (R126, R158).
(DEDUCED, notes/assumptions/21.md.) -/
def awaitOrder (loc : Loc) : M Unit := do
  let c ← getMe
  needs (!(loc.place == .local && c.tileMem) && !c.mstQueued)

/-- Whether the link that an access to host or peer memory needs carries traffic (R366). -/
def linkUp (s : State) (loc : Loc) : Bool :=
  match loc.place with
  | .hostUncached | .hostCached | .peer => s.reaches (endpointOf loc.key)
  | _ => true

/-- Whether the link that an access needs carries traffic; while one trains again the access waits (R366, R389). -/
def linkReady (loc : Loc) : M Bool := do
  let s ← get
  if linkUp s loc then return true
  else if s.retrains (endpointOf loc.key) then stall
  else return false

/-! ### Loads (R205, R210, R212) -/

/-- What the store buffer says of a load (R205). -/
inductive Forward where
  | memory
  | take (e : SbEntry)
  | wait
deriving DecidableEq, Repr

/-- The youngest buffered store that touches the load's bytes by the same effective address decides: it covers them all, or the
load waits. Entries that are no plain store are waited for. -/
def forward (sb : List SbEntry) (ea size : Nat) : Forward :=
  match sb.reverse.find? (fun e => overlaps e.ea e.size ea size) with
  | none => .memory
  | some e => if e.kind = .store ∧ e.ea ≤ ea ∧ ea + size ≤ e.ea + e.size then .take e else .wait

/-- Whether a pending STNT covers a byte of an access by the same effective address (R213). -/
def Core.ntCovers (c : Core) (ea size : Nat) : Bool := c.nt.any (fun b => b.stores.any (fun e => overlaps e.ea e.size ea size))

/-- A load without an L1D line of its own; a line that it brings to a slice is the next victim of its set (R212). -/
def loadNt (n : Nat) (loc : Loc) (size : Nat) : M Got := do
  match loc.place with
  | .tracked =>
    let L := lineOf loc.key
    let s ← get
    match s.l1 (clusterOf n) L with
    | some (.v _ _ _ _ _ _) => loadAt n loc size
    | _ =>
      readable (towerOf n) L true
      modS (fun s =>
        let a := s.agent (towerOf n) L
        let p := max (s.core n).pts a.wts
        (s.setAgent (towerOf n) L { a with rts := max a.rts p }).raisePts n p)
      return (← get).got loc size
  | .untracked | .hostCached =>
    let s ← get
    match s.l1 (clusterOf n) (lineOf loc.key) with
    | some (.copy _ _ _ _) => loadAt n loc size
    | _ =>
      awaitHome (lineOf loc.key)
      modS (fun s => (s.homeTake (lineOf loc.key) false true).observe n)
      return (← get).got loc size
  | _ => loadAt n loc size

/-- The labels of word w of a location as a read of core n would take them from where it is kept: its tag, and those of the partials that
stand over it (R180, R232). -/
def State.wordLabels (s : State) (n : Nat) (loc : Loc) (w : Nat) : List Label :=
  if loc.plain then [labelTrue]
  else
    let L := lineOf loc.key
    match loc.place with
    | .untracked | .hostCached => match s.l1 (clusterOf n) L with
      | some (.copy _ _ t _) => [tagGet t (w % 16)]
      | _ => [s.tags.get labelTrue w]
    | _ => s.tags.get labelTrue w :: (s.partials L).flatMap (fun e =>
        (e.2.2.2.filter (fun p => (wordsOf (L + p.off) e.2.2.1).contains w)).map (·.label))

/-- The labels whose product is the tag of word w of a location once entries of core n's store buffer have performed, the youngest first: a
store of the whole word gives its operand label, a store of a part folds the old tag, a reduction those of its words, MEMSAX those of
its words of y and x (R180, R205). -/
def entryTags (s : State) (n : Nat) : List SbEntry → Loc → Nat → List Label
  | [], loc, w => s.wordLabels n loc w
  | e :: older, loc, w =>
    if loc.plain then [labelTrue]
    else if (wordsOf e.loc.key e.size).contains w then
      match e.kind with
      | .store => if 4 ≤ e.size then [e.label] else e.label :: entryTags s n older loc w
      | .memsax x _ => entryTags s n older loc w ++ entryTags s n older x (x.key / 4 + w % 16) ++ [e.label]
      | .trace _ _ _ _ _ _ _ => entryTags s n older loc w
      | .red _ | .memred _ => (wordsOf e.loc.key e.size).flatMap (entryTags s n older loc) ++ [e.label]
    else entryTags s n older loc w

/-- Whether a location lies in a counter line, a line of DRAM, through whatever leaf (R243). -/
def State.inCounter (s : State) (loc : Loc) : Bool := (loc.place == .tracked || loc.place == .untracked) && s.isCounter (lineOf loc.key)

/-- A load of core cur from a resolved location: forwarded, or read; a counter line refuses it (R243), a lost link is a
MACHINE_CHECK (R366). -/
def loadFrom (ea : Word) (loc : Loc) (size : Nat) (nt : Bool) : M Got := do
  let s ← get
  let c := s.me
  if s.inCounter loc then raiseAddrValue .protect ea.toNat
  awaitOrder loc
  needs (!c.ntCovers ea.toNat size)
  match forward c.sb ea.toNat size with
  | .wait => stall
  | .take e =>
    let older := (c.sb.reverse.dropWhile (fun d => d != e)).drop 1
    return ⟨e.data.toNat / 2 ^ (8 * (ea.toNat - e.ea)) % 2 ^ (8 * size),
      if loc.plain then []
      else (wordsOf loc.key size).flatMap (fun w => if e.size < 4 then e.label :: entryTags s s.cur older loc w else [e.label]), false⟩
  | .memory =>
    if !(← linkReady loc) then raiseAddr .machineCheck ea.toNat
    if nt then loadNt s.cur loc size else loadAt s.cur loc size

/-- The result of a load into gd: its label is formed, then an uncorrectable error in what it consumes is a MACHINE_CHECK at its
address (R203, R211, R341). -/
def loaded (d : GReg) (ea : Word) (v : Word) (r : Got) (ls : List Label) : M Unit := do
  let f ← formEarly d (r.labels ++ ls)
  if r.bad then raiseAddr .machineCheck ea.toNat
  resultFormed d v f

/-! ### Stores (R205, R210, R213) -/

/-- A label for words of a plain page must be TRUE (R181). (DEDUCED, notes/assumptions/24.md.) -/
def plainCheck (ea : Word) (loc : Loc) (l : Label) : M Unit := do
  if loc.plain && l != labelTrue then raiseAddr .labelPlain ea.toNat

/-- A store-like operation enters the store buffer, which holds 16 entries (R205), behind the core's queued tile stores and MST
(R126, R158). -/
def pushSb (e : SbEntry) : M Unit := do
  let c ← getMe
  needs (c.sb.length < 16 && !c.ntCovers e.ea e.size && !c.tileMem && !c.mstQueued)
  modMe (fun c => { c with sb := c.sb ++ [e] })

/-- A plain store of core cur to a resolved location (R210). -/
def storeTo (ea : Word) (loc : Loc) (size : Nat) (data : Word) (label : Label) : M Unit := do
  plainCheck ea loc label
  pushSb ⟨.store, ea.toNat, loc, size, data, label⟩

/-- One store of a combining buffer performs at home; the own L1D copy of the line goes, a dirty one after its write-back
(R213). On a counter line it is discarded and reported (R243). (DEDUCED, notes/assumptions/22.md.) -/
def performNt (n : Nat) (e : NtStore) : M Unit := do
  let L := lineOf e.loc.key
  if (← get).inCounter e.loc then
    modS (fun s => (s.note (.discardedWrite L)).machineCheck (s.ctxOf n) 3 (homeTower L) [L] none)
  else match e.loc.place with
  | .tracked =>
    performStore n e.loc e.size e.data.toNat e.label
    modS (fun s => match s.l1 (clusterOf n) L with
      | some (.v _ _ _ _ _ _) => s.dropL1 (clusterOf n) L
      | _ => s)
  | .untracked =>
    awaitHome L
    modS (fun s => (s.writeBack (clusterOf n) L true).homeTake L true false)
    performStoreBy (fun s => s.plinthOf (s.ctxOf n)) n { e.loc with place := .hostUncached } e.size e.data.toNat e.label
  | _ =>
    if ← linkReady e.loc then performStore n e.loc e.size e.data.toNat e.label
    else modS (fun s => s.machineCheck (s.ctxOf n) 5 (s.portTo (endpointOf L)) [L] none)

/-- A combining buffer performs, as one: its stores in program order (R213). (DEDUCED, notes/assumptions/22.md.) -/
def performBuf (n : Nat) (b : NtBuf) : M Unit := whole (do
  b.stores.forM (performNt n)
  modS (fun s => s.modCore n (fun c => { c with nt := c.nt.erase b })))

/-- Whether every byte of the line stands in the buffer (R213). -/
def NtBuf.full (b : NtBuf) : Bool :=
  (List.range 64).all (fun i => b.stores.any (fun e => e.loc.key ≤ b.line + i && b.line + i < e.loc.key + e.size))

/-- STNT to global memory: into the buffer of its line, a fifth line making the oldest perform, a full one performing; where one cannot
perform now, the STNT is not begun (R213). (DESIGN CHOICE, notes/assumptions/122.md.) -/
def storeNt (ea : Word) (loc : Loc) (size : Nat) (data : Word) (label : Label) : M Unit := whole (do
  plainCheck ea loc label
  let s ← get
  let c := s.me
  needs (!c.mstQueued && !c.sb.any (fun e => overlaps e.ea e.size ea.toNat size))
  let L := lineOf loc.key
  let e : NtStore := ⟨ea.toNat, loc, size, data, label⟩
  if !c.nt.any (fun b => b.line == L) && 4 ≤ c.nt.length then
    match c.nt with
    | b :: _ => performBuf s.cur b
    | [] => pure ()
  modMe (fun c =>
    if c.nt.any (fun b => b.line == L) then
      { c with nt := c.nt.map (fun b => if b.line == L then { b with stores := b.stores ++ [e] } else b) }
    else { c with nt := c.nt ++ [⟨L, [e]⟩] })
  match (← getMe).nt.find? (fun b => b.line == L && b.full) with
  | some b => performBuf s.cur b
  | none => pure ())

/-! ### Operations on words (R235, R236, R238) -/

/-- What an access does with the old bytes and the old tags of a location: a value of its own, and what to write, if anything. -/
abbrev Update (α : Type) := Nat → List (Nat × Label) → M (α × Option (Nat × List (Nat × Label)))

/-- The old tags of a location as the event that updates it finds them. -/
def State.tagsAt (s : State) (loc : Loc) (size : Nat) : List (Nat × Label) :=
  (wordsOf loc.key size).map (fun w => (w, if loc.plain then labelTrue else s.tags.get labelTrue w))

/-- An uncorrectable error in what an AMO consumes is a MACHINE_CHECK at its address; what reads it without a result leaves the word
as it is, damaged (R203). (DEDUCED, notes/assumptions/104.md.) -/
def consumed (ea : Option Nat) (bad : Bool) : M Unit := match ea with
  | some a => if bad then raiseAddr .machineCheck a else pure ()
  | none => pure ()

/-- What was damaged before an update stays so (R203). -/
def keepDamage (s : State) : M Unit := modS (fun t => if s.damaged.isEmpty then t else { t with damaged := s.damaged })

/-- A read and a write of one location in one event of M by core n, where an AMO executes (R236). A load of the core, a CAS that fails
among them, binds no earlier than the value it reads (R206, R222). -/
def indivisible {α : Type} (n : Nat) (loc : Loc) (size : Nat) (ea : Option Nat) (f : Update α) : M (Nat × α) := do
  let L := lineOf loc.key
  match loc.place with
  | .tracked => writable (towerOf n) L
  | .untracked =>
    awaitHome L
    modS (fun s => (s.writeBack (clusterOf n) L true).observe n)
  | _ => modS (fun s => s.observe n)
  let s ← get
  let old := s.read loc.key size
  let r ← f old (s.tagsAt loc size)
  consumed ea (s.badAt loc.key size)
  match r.2 with
  | none =>
    if loc.place == .tracked then
      modS (fun s =>
        let a := s.agent (towerOf n) L
        let p := max (s.core n).pts a.wts
        (s.setAgent (towerOf n) L { a with rts := max a.rts p }).raisePts n p)
  | some (v, t) =>
    match loc.place with
    | .tracked => placeAt n loc size v t
    | .untracked => modS (fun s => (s.homeTake L true false).store loc size v t)
    | _ => modS (fun s => s.store loc size v t)
    keepDamage s
  return (old, r.1)

/-- An operation of core n on a tracked line at home is stamped as a store there (R224, R239). -/
def State.stampHome (s : State) (n L : Nat) : State :=
  let stamp := max (s.core n).pts (s.mts L + 1)
  (s.raiseMts L stamp).modCore n (fun c => { c with pts := stamp })

/-- A reduction joins its cluster's partial of a tracked line: a recall first where another operation or size holds it, the
owner written back and the holders invalidated where the line is not yet U; while a recall is under way it waits. It is a store of the core
(R228, R232, R238). -/
def joinPartial (n : Nat) (op : MemOp) (loc : Loc) (size : Nat) (v : Word) (label : Label) : M Unit := do
  let L := lineOf loc.key
  let k := clusterOf n
  let t := towerOf n
  modS (fun s => s.learn (homeTower L) t)
  match (← get).partialOp L with
  | some p => if p ≠ (op, size) then recallLine L
  | none => pure ()
  let s ← get
  match (s.dir L).st with
  | .bRec _ _ _ => stall
  | .u set _ _ => modS (fun s => s.setDirSt L (.u (addTo set t) op size))
  | _ =>
    awaitHome L
    orStall (fun s => s.bringHome L)
    modS (fun s => s.setDirSt L (.u [t] op size))
  modS (fun s => s.stampHome n L)
  let s ← get
  let off := loc.key % 64
  let x := s.ctxOf n
  let parts : List UPart := match s.l1 k L with
    | some (.u _ _ ps) => ps
    | _ => []
  match parts.find? (fun p => p.off == off && p.ctx == x) with
  | none => fillL1 k L (.u op size (parts ++ [⟨off, v, label, x⟩]))
  | some p =>
    let l ← deferredFold (s.who n) loc.key [p.label, label]
    let y := BitVec.ofNat 64 (memOp op size p.value.toNat v.toNat)
    modS (fun s => s.setL1 k L (.u op size (parts.map (fun q => if q = p then ⟨off, y, l, x⟩ else q))))

/-- A read-modify-write without a result at one location: the tags are folded with the operand label by the unit there (R238, R240,
R410). -/
def reduceAt (n : Nat) (op : MemOp) (loc : Loc) (size : Nat) (v : Word) (label : Label) : M Unit := do
  let s ← get
  let w := if loc.place == .local then s.who n else s.plinthOf (s.ctxOf n)
  let _ ← indivisible n loc size none (fun old tags => do
    let l ← deferredFold w loc.key (tags.map (·.2) ++ [label])
    return ((), some (memOp op size old v.toNat, tags.map (fun e => (e.1, l)))))

/-- Before a DRAM bank executes at a line for core n: partials are folded, and every L2 copy is written back and invalidated; on an untracked
line the core observes (R206, R209, R239). -/
def bankLine (n : Nat) (loc : Loc) : M Unit := do
  let L := lineOf loc.key
  awaitHome L
  if loc.place == .tracked then
    recallLine L
    orStall (fun s => s.bringHome L)
  else modS (fun s => { s with slices := s.slices.erase L }.observe n)

/-- A DRAM bank executes at a line for core n: on a tracked line the operation is stamped as a store (R224, R239). -/
def toBank (n : Nat) (loc : Loc) : M Unit := do
  bankLine n loc
  if loc.place == .tracked then modS (fun s => s.stampHome n (lineOf loc.key))

/-- The old value and tags at a bank, given to f (R240). -/
def atBank {α : Type} (n : Nat) (loc : Loc) (size : Nat) (ea : Option Nat) (f : Update α) : M (Nat × α) := do
  toBank n loc
  let s ← get
  let old := s.read loc.key size
  let r ← f old (s.tagsAt loc size)
  consumed ea (s.badAt loc.key size)
  match r.2 with
  | none => pure ()
  | some (v, t) =>
    modS (fun s => s.store loc size v t)
    keepDamage s
  return (old, r.1)

/-- MEMRED at its bank (R240). -/
def bankRed (n : Nat) (op : MemOp) (loc : Loc) (size : Nat) (v : Word) (label : Label) : M Unit := do
  let s ← get
  let _ ← atBank n loc size none (fun old tags => do
    let l ← deferredFold (s.plinthOf (s.ctxOf n)) loc.key (tags.map (·.2) ++ [label])
    return ((), some (memOp op size old v.toNat, tags.map (fun e => (e.1, l)))))

/-- The line of x that MEMSAX reads as one load of core n: of a tracked page at its home, of an untracked one the cluster's own copy (R206,
R209, R240). -/
def saxLoad (n : Nat) (x : Loc) : M LineVal := do
  let L := lineOf x.key
  match x.place with
  | .tracked =>
    bankLine n x
    modS (fun s => s.raisePts n (s.mts L))
    return (← get).lineVal L
  | _ =>
    modS (fun s => s.observe n)
    loadCopy (clusterOf n) L

/-- MEMSAX at its bank: y_i := RoundRNE(s × y_i + x_i), x read first as one load of the core, which is bound before the stamp of y (R206,
R240). A page of y that is plain takes the values and no tag, the x tags too; an error in x or y stays in y (R203,
R410). (DEDUCED, notes/assumptions/104.md; DESIGN CHOICE, notes/assumptions/105.md.) -/
def bankSax (n : Nat) (y x : Loc) (sc : BitVec 32) (label : Label) : M Unit := do
  let xv ← saxLoad n x
  toBank n y
  if x.place == .tracked then modS (fun s => s.raiseMts (lineOf x.key) (s.core n).pts)
  let s ← get
  let w := s.plinthOf (s.ctxOf n)
  (List.range 16).forM (fun i => do
    let k := y.key + 4 * i
    let v := (fmtF32.ffma .rne (f32Of sc.toNat) (f32Of (s.read k 4)) (f32Of (lineGet xv.data (4 * i) 4))).1
    let old := if y.plain then labelTrue else s.tagAt k
    let l ← if y.plain then pure labelTrue
      else deferredFold w k [old, if x.plain then labelTrue else tagGet xv.tags i, label]
    let bad := s.badAt k 4 || xv.bad.getLsbD i
    modS (fun t => { t.store { y with key := k } 4 v [(k / 4, l)] with
      damaged := if bad then t.damaged.put (k / 4) true else t.damaged }))

/-! ### Performing the head of the store buffer (R205) -/

/-- One store buffer entry of core n performs. A write to a counter line is discarded, logged, and reported (R243); a write
whose link is lost is reported (R366). -/
def performEntry (n : Nat) (e : SbEntry) : M Unit := do
  let s ← get
  let L := lineOf e.loc.key
  let lost : M Unit := modS (fun s => s.machineCheck (s.ctxOf n) 5 (s.portTo (endpointOf L)) [L] none)
  let discard : M Unit := modS (fun s => (s.note (.discardedWrite L)).machineCheck (s.ctxOf n) 3 (homeTower L) [L] none)
  match e.kind with
  | .trace payload ssc pnum lcore time typ ring =>
    modS (fun s => s.ringWriteTo (s.ctxOf n) ring [(TraceRec.mk payload ssc pnum lcore typ time).bytes])
  | kind =>
  if s.inCounter e.loc then discard
  else if !(← linkReady e.loc) then lost
  else match kind with
    | .trace _ _ _ _ _ _ _ => pure ()
    | .store => performStore n e.loc e.size e.data.toNat e.label
    | .red op =>
      if e.loc.place == .tracked then joinPartial n op e.loc e.size e.data e.label
      else reduceAt n op e.loc e.size e.data e.label
    | .memred op => bankRed n op e.loc e.size e.data e.label
    | .memsax x sc => bankSax n e.loc x sc e.label

/-- The head of core n's store buffer performs and leaves it. -/
def performHead (n : Nat) : M Unit := do
  match ((← get).core n).sb with
  | [] => pure ()
  | e :: _ =>
    performEntry n e
    modS (fun s => s.modCore n (fun c => { c with sb := c.sb.drop 1 }))

/-! ### Cache maintenance (R216, R217) -/

/-- Where a virtual address is mapped now, without a fill or a fault (R216). -/
def State.mapped (s : State) (x l : Nat) (va : Nat) : Option Nat :=
  match tlbFind (s.layer l).tlb (s.ctx x).part x va with
  | some e => some (e.pa va)
  | none => match s.walk x va with
    | .leaf e size _ => some (leafFrame e + va % size)
    | _ => none

/-- The physical units of u bytes that a virtual range covers; none stands for all of them, where the range is longer than
max (R216, R217). -/
def State.unitsOf (s : State) (x l lo n u max : Nat) : Option (List Nat) :=
  if max < n then none
  else some ((List.range ((lo + n - 1) / u - lo / u + 1)).filterMap (fun i =>
    (s.mapped x l ((lo / u + i) * u)).map (fun pa => pa / u * u)))

end Sys2Proof.Machine
end

