-- ==== Sys2Proof/Machine/Fetch.lean ====
section
/-! DEFINITION. Fetching instruction words: the forwarding buffer of a follower (R310, R311), the prefetch buffer (R218), the
L1I (R217), memory (R197, R320); and the words of repeat frames (R83, R108). -/

namespace Sys2Proof.Machine

/-- The core takes its words from its leader (R309, R310). -/
def Core.follows (c : Core) (n : Nat) : Bool := c.group.st == .attached && !c.group.leads n

/-- A word taken into cluster k's L1I, which holds 64 KiB: of a full one a word leaves, after a free value (R11).
(DESIGN CHOICE, notes/assumptions/13.md.) -/
def State.fillL1i (s : State) (k a : Nat) (w : HWord) : State :=
  let held := (s.cluster k).icache
  if held.length < 16384 then s.modCluster k (fun c => { c with icache := c.icache.put a w })
  else
    { s.modCluster k (fun c => { c with icache := (c.icache.erase (least (Config.victim s.free) (held.map (·.1)))).put a w }) with
      free := s.free + 1 }

/-- The word at va from the cluster's L1I, or from memory, which fills it. Windows, holes and addresses beyond 48 bits cannot be
fetched from (R197), nor can a counter line (R243); an uncorrectable error in it, or a lost link, is a MACHINE_CHECK (R203, R366).
(DEDUCED, notes/assumptions/24.md.) -/
def fetchMem (va : Word) : M HWord := do
  if 2 ^ 48 ≤ va.toNat ∨ inWindows va.toNat then raiseAddr .protect va.toNat
  let loc ← translateMe .fetch va.toNat
  let s ← get
  let k := clusterOf s.cur
  if s.peerBarred loc then raiseAddr .protect va.toNat
  match (s.cluster k).icache.find? loc.key with
  | some w => return w
  | none =>
    if s.inCounter loc then raiseAddrValue .protect va.toNat
    if !(← linkReady loc) then raiseAddr .machineCheck va.toNat
    awaitHome (lineOf loc.key)
    if loc.place == .tracked then recallLine (lineOf loc.key)
    let s ← get
    if s.badAt loc.key 4 then raiseAddr .machineCheck va.toNat
    let w := s.read32 loc.key
    modS (fun s => s.fillL1i k loc.key w)
    return w

/-- A word fetched earlier and not yet issued is taken from the prefetch buffer. -/
def fetchOwn (va : Word) : M HWord := do
  match (← getMe).prefetch.find? (fun e => e.1 == va) with
  | some e =>
    modMe (fun c => { c with prefetch := c.prefetch.filter (fun f => f.1 != va) })
    return e.2
  | none => fetchMem va

/-- The k-th word from the program counter on. A follower takes it from its forwarding buffer, waits where it is empty, and
detaches where its leader trapped at this word (R311). -/
def fetchNth (k : Nat) : M HWord := do
  let s ← get
  let c := s.me
  let va := c.pc + BitVec.ofNat 64 (4 * k)
  if c.follows s.cur then
    match c.group.buf with
    | [] =>
      if c.group.ended then
        modMe (fun c => { c with group := Group.reset })
        fetchOwn va
      else stall
    | e :: _ =>
      match e.words with
      | [] =>
        modMe (fun c => { c with group := c.group.detach })
        fetchOwn va
      | ws => match ws[k]? with
        | some w => return w
        | none => fetchOwn va
  else fetchOwn va

/-! ### Repeat frames -/

/-- The instructions a repeat frame may hold, with D, A and B of iteration j (R83): each register field raised by j times its
step, modulo 32 for g and modulo 16 for v; what is no register field stays. None where the frame may not hold it.
(DEDUCED, notes/assumptions/26.md.) -/
def Instr.stepped (i : Instr) (j sd sa sb : Nat) : Option Instr :=
  let D (r : GReg) : GReg := r + BitVec.ofNat 5 (j * sd)
  let A (r : GReg) : GReg := r + BitVec.ofNat 5 (j * sa)
  let B (r : GReg) : GReg := r + BitVec.ofNat 5 (j * sb)
  let vD (r : VReg) : VReg := r + BitVec.ofNat 4 (j * sd)
  let vA (r : VReg) : VReg := r + BitVec.ofNat 4 (j * sa)
  let vB (r : VReg) : VReg := r + BitVec.ofNat 4 (j * sb)
  match i with
  | .add d a b => some (.add (D d) (A a) (B b))
  | .sub d a b => some (.sub (D d) (A a) (B b))
  | .and d a b => some (.and (D d) (A a) (B b))
  | .or d a b => some (.or (D d) (A a) (B b))
  | .xor d a b => some (.xor (D d) (A a) (B b))
  | .andn d a b => some (.andn (D d) (A a) (B b))
  | .orn d a b => some (.orn (D d) (A a) (B b))
  | .sll d a b => some (.sll (D d) (A a) (B b))
  | .srl d a b => some (.srl (D d) (A a) (B b))
  | .sra d a b => some (.sra (D d) (A a) (B b))
  | .rol d a b => some (.rol (D d) (A a) (B b))
  | .ror d a b => some (.ror (D d) (A a) (B b))
  | .min d a b => some (.min (D d) (A a) (B b))
  | .max d a b => some (.max (D d) (A a) (B b))
  | .minn d a b => some (.minn (D d) (A a) (B b))
  | .maxn d a b => some (.maxn (D d) (A a) (B b))
  | .seq d a b => some (.seq (D d) (A a) (B b))
  | .sne d a b => some (.sne (D d) (A a) (B b))
  | .slt d a b => some (.slt (D d) (A a) (B b))
  | .sltn d a b => some (.sltn (D d) (A a) (B b))
  | .sel d n a b => some (.sel (D d) n (A a) (B b))
  | .clz d a => some (.clz (D d) (A a))
  | .ctz d a => some (.ctz (D d) (A a))
  | .popc d a => some (.popc (D d) (A a))
  | .brev d a => some (.brev (D d) (A a))
  | .bswap d a => some (.bswap (D d) (A a))
  | .addi d a i => some (.addi (D d) (A a) i)
  | .andi d a i => some (.andi (D d) (A a) i)
  | .ori d a i => some (.ori (D d) (A a) i)
  | .xori d a i => some (.xori (D d) (A a) i)
  | .slti d a i => some (.slti (D d) (A a) i)
  | .sltni d a i => some (.sltni (D d) (A a) i)
  | .slli d a n => some (.slli (D d) (A a) n)
  | .srli d a n => some (.srli (D d) (A a) n)
  | .srai d a n => some (.srai (D d) (A a) n)
  | .roli d a n => some (.roli (D d) (A a) n)
  | .lui d k i => some (.lui (D d) k i)
  | .luiK d k i => some (.luiK (D d) k i)
  | .mul d a b => some (.mul (D d) (A a) (B b))
  | .mulh d a b => some (.mulh (D d) (A a) (B b))
  | .mulhn d a b => some (.mulhn (D d) (A a) (B b))
  | .div d a b => some (.div (D d) (A a) (B b))
  | .divn d a b => some (.divn (D d) (A a) (B b))
  | .rem d a b => some (.rem (D d) (A a) (B b))
  | .remn d a b => some (.remn (D d) (A a) (B b))
  | .bpermi d i => some (.bpermi (D d) i)
  | .bext d a p l => some (.bext (D d) (A a) p l)
  | .bins d a p l => some (.bins (D d) (A a) p l)
  | .bperm d a b => some (.bperm (D d) (A a) b)
  | .fadd d a b => some (.fadd (D d) (A a) (B b))
  | .fsub d a b => some (.fsub (D d) (A a) (B b))
  | .fmul d a b => some (.fmul (D d) (A a) (B b))
  | .ffma d a b c => some (.ffma (D d) (A a) (B b) c)
  | .fmin d a b => some (.fmin (D d) (A a) (B b))
  | .fmax d a b => some (.fmax (D d) (A a) (B b))
  | .fcmpEq d a b => some (.fcmpEq (D d) (A a) (B b))
  | .fcmpLt d a b => some (.fcmpLt (D d) (A a) (B b))
  | .fcmpLe d a b => some (.fcmpLe (D d) (A a) (B b))
  | .fcmpUn d a b => some (.fcmpUn (D d) (A a) (B b))
  | .fcvt k d a => some (.fcvt k (D d) (A a))
  | .vaddInt t p d a b => some (.vaddInt t p (vD d) (vA a) (vB b))
  | .vsubInt t p d a b => some (.vsubInt t p (vD d) (vA a) (vB b))
  | .vmulInt t p d a b => some (.vmulInt t p (vD d) (vA a) (vB b))
  | .vminInt t p d a b => some (.vminInt t p (vD d) (vA a) (vB b))
  | .vmaxInt t p d a b => some (.vmaxInt t p (vD d) (vA a) (vB b))
  | .vabsInt t p d a => some (.vabsInt t p (vD d) (vA a))
  | .vnegInt t p d a => some (.vnegInt t p (vD d) (vA a))
  | .vand t p d a b => some (.vand t p (vD d) (vA a) (vB b))
  | .vor t p d a b => some (.vor t p (vD d) (vA a) (vB b))
  | .vxor t p d a b => some (.vxor t p (vD d) (vA a) (vB b))
  | .vshl t p d a b => some (.vshl t p (vD d) (vA a) (vB b))
  | .vshr t p d a b => some (.vshr t p (vD d) (vA a) (vB b))
  | .vsra t p d a b => some (.vsra t p (vD d) (vA a) (vB b))
  | .vbcast t p d g => some (.vbcast t p (vD d) (vA g))
  | .vaddFloat t p d a b => some (.vaddFloat t p (vD d) (vA a) (vB b))
  | .vsubFloat t p d a b => some (.vsubFloat t p (vD d) (vA a) (vB b))
  | .vmulFloat t p d a b => some (.vmulFloat t p (vD d) (vA a) (vB b))
  | .vfma t p d a b => some (.vfma t p (vD d) (vA a) (vB b))
  | .vfms t p d a b => some (.vfms t p (vD d) (vA a) (vB b))
  | .vminFloat t p d a b => some (.vminFloat t p (vD d) (vA a) (vB b))
  | .vmaxFloat t p d a b => some (.vmaxFloat t p (vD d) (vA a) (vB b))
  | .vabsFloat t p d a => some (.vabsFloat t p (vD d) (vA a))
  | .vnegFloat t p d a => some (.vnegFloat t p (vD d) (vA a))
  | .vred o t p d a => some (.vred o t p (vD d) (vA a))
  | .vtrans t d a => some (.vtrans t (vD d) (vA a))
  | .vrot t d a n => some (.vrot t (vD d) (vA a) n)
  | .vcvt t u p d a => some (.vcvt t u p (vD d) (vA a))
  | .vquant t u d a b => some (.vquant t u (vD d) (vA a) (vB b))
  | .vdeq t u d a b => some (.vdeq t u (vD d) (vA a) (vB b))
  | .vexp t p d a => some (.vexp t p (vD d) (vA a))
  | .vlog t p d a => some (.vlog t p (vD d) (vA a))
  | .vrcp t p d a => some (.vrcp t p (vD d) (vA a))
  | .vrsq t p d a => some (.vrsq t p (vD d) (vA a))
  | .vsqrt t p d a => some (.vsqrt t p (vD d) (vA a))
  | .vsin t p d a => some (.vsin t p (vD d) (vA a))
  | .vcos t p d a => some (.vcos t p (vD d) (vA a))
  | .vtanh t p d a => some (.vtanh t p (vD d) (vA a))
  | .vsigm t p d a => some (.vsigm t p (vD d) (vA a))
  | .vgelu t p d a => some (.vgelu t p (vD d) (vA a))
  | _ => none

/-- Whether a word may stand in a repeat frame (R83). (DEDUCED, notes/assumptions/26.md; DEDUCED, notes/assumptions/41.md.) -/
def frameWord (w : HWord) : Bool := match decode w with
  | .ok i => (Instr.stepped i 0 0 0 0).isSome
  | .error _ => false

/-- The instruction that a frame executes next. -/
def Frame.now (f : Frame) : Option Instr := match f.words[f.i]? with
  | none => none
  | some w => match decode w with
    | .ok i => Instr.stepped i f.j f.sd f.sa f.sb
    | .error _ => none

/-- The RPT word of a frame. -/
def Frame.rptWord (f : Frame) : HWord :=
  formP 0x13#6 (BitVec.ofNat 4 (f.words.length - 1)) (BitVec.ofNat 4 (f.k - 1)) (BitVec.ofNat 4 f.sd) (BitVec.ofNat 4 f.sa)
    (BitVec.ofNat 4 f.sb)

end Sys2Proof.Machine
end

