-- ==== Sys2Proof/Machine/Control.lean ====
section
/-! DEFINITION. Control flow (R105-R108), the guard (R61), the traps and returns a program asks for (R342, R374), HALT, and the
traps of words that are no instruction and of fetches (R59, R106). -/

namespace Sys2Proof.Machine

/-- The level S that an instruction needs (R60). -/
def needS : M Unit := do
  let c ← getMe
  orRaise c.atS .protect (.word false)

/-- Under LFLAGS.STRICT a label that is not TRUE stops a control transfer (R107). (DEDUCED, notes/assumptions/31.md.) -/
def strictCheck (ls : List Label) : M Unit := do
  let c ← getMe
  if c.strict && ls.any (· != labelTrue) then raiseWord .labelBranch

/-- The core goes on at an address. -/
def goTo (a : Word) : M Unit := modMe (fun c => c.at a)

/-! ### Branches and jumps (R105, R106) -/

def execBCond (k : BCond) (a b : GReg) (o : BitVec 13) (s : State) : Step :=
  runI (.bCond k a b o) (do
    let c ← getMe
    strictCheck [c.lg a, c.lg b]
    goTo (if BCond.holds k (c.rg a) (c.rg b) then c.here + 4 * sext o else c.here + 4)) s

def execJl (o : BitVec 26) (s : State) : Step :=
  runI (.jl o) (do
    let c ← getMe
    let here := c.here
    writeG 31 (here + 4) []
    goTo (here + 4 * sext o)) s

def execJlr (d a : GReg) (i : BitVec 16) (s : State) : Step :=
  runI (.jlr d a i) (do
    let c ← getMe
    strictCheck [c.lg a]
    let here := c.here
    let target := c.rg a + sext i
    if target.toNat % 4 ≠ 0 then raiseAddr .misalign target.toNat
    writeG d (here + 4) []
    goTo target) s

/-! ### The guard (R61) -/

/-- Whether a word may not follow a guard: an S-form word, a guard among them, RPT, a V-form word. -/
def unguardable (w : HWord) : Bool := opOf w == 0 || opOf w == 0x13 || (0x28 ≤ opOf w && opOf w ≤ 0x2F)

/-- The first cycle of a guarded pair: both words are checked, then the predicate decides whether the second word executes in the
second cycle. It waits for a queued tile instruction that writes the predicate (R88). (DEDUCED, notes/assumptions/31.md.) -/
def execGuard (v : Bool) (n : PReg) (s : State) : Step :=
  runI (.guard v n) (do
    let w ← fetchNth 1
    if unguardable w then raiseWord .illegal
    match decode w with
    | .error _ => raise .illegal (.other (w.zeroExtend 64) false)
    | .ok _ =>
      let c ← getMe
      needs (!c.predPending n)
      strictCheck [c.lp n]
      modMe (fun c => { c with
        run := .running, wait := .none
        pair := some ⟨Instr.word (.guard v n), w, c.lp n, (c.rp n).getLsbD 0 != v⟩ })) s

/-! ### Repeat frames (R83, R108) -/

/-- RPT captures its words and checks them; the frame then issues word by word. (DEDUCED, notes/assumptions/29.md.) -/
def execRpt (n k sd sa sb : BitVec 4) (s : State) : Step :=
  runI (.rpt n k sd sa sb) (do
    let ws ← (List.range (n.toNat + 1)).mapM (fun i => fetchNth (1 + i))
    if !ws.all frameWord then raiseWord .illegal
    modMe (fun c => { c with
      run := .running, wait := .none, pair := none
      frame := some ⟨ws, k.toNat + 1, sd.toNat, sa.toNat, sb.toNat, 0, 0⟩ })) s

/-! ### Traps, returns, HALT (R342, R374) -/

def execBrk (s : State) : Step := runI .brk (raise .brk (.other 0 false)) s

/-- TRAP: EPC is the word behind it, EINFO its operand (R336). -/
def execTrap (i : BitVec 6) (s : State) : Step :=
  .next (s.takeTrap s.cur (s.me.pc + 4) .trap false false (i.zeroExtend 64))

def execEret (s : State) : Step :=
  runI .eret (do
    needS
    let c ← getMe
    if c.epc.toNat % 4 ≠ 0 then raiseWord .illegal
    modMe Core.leave) s

/-- The STNT buffers of the current core perform, oldest first (R213, R214). -/
def drainNt : M Unit := do
  let s ← get
  s.me.nt.forM (performBuf s.cur)

/-- The current core is HALTED once every queue and buffer of it is empty; an armed stop may be complete with it (R342, R381). -/
def haltMe : M Unit := do
  let c ← getMe
  needs (c.vq.isEmpty && c.mq.isEmpty && c.cq.isEmpty && c.sb.isEmpty)
  drainNt
  modS (fun s => (s.modCore s.cur (fun c => { c with run := .halted, wait := .none })).stopCheck (s.ctxOf s.cur))

/-- HALT: HALTED at the next word. -/
def execHalt (s : State) : Step :=
  runI .halt (do
    needS
    haltMe
    modMe (fun c => { c.past with run := .halted })) s

/-- A core past the SYNC at which an armed stop takes it halts as HALT does (R381). -/
def State.haltStep (s : State) : Step := runEvent haltMe s

/-! ### Words that are no instruction, and fetches (R59, R106) -/

/-- A fetched word that is no instruction: ILL_ZERO for zero, else ILLEGAL. A word that is one raises nothing. -/
def execWordNotAnInstruction (w : HWord) (s : State) : Step :=
  match decode w with
  | .ok _ => .next s
  | .error .zero => .next (s.trapInstr s.cur 0 .illZero (.other 0 false))
  | .error _ => .next (s.trapInstr s.cur w .illegal (.word false))

/-- A fetch at va, for the core: it traps or holds the core where the word cannot be fetched. -/
def execFetchFault (va : Word) (s : State) : Step :=
  runI .brk (do
    let _ ← fetchMem va
    pure ()) s

end Sys2Proof.Machine
end

