-- ==== Sys2Proof/Machine/Events.lean ====
section
/-! DEFINITION. The event unit (R253-R260, R264, R265), PAUSE (R262), WAITA (R263) and SYNC (R266-R268). -/

namespace Sys2Proof.Machine

/-! ### The event unit (R257-R259) -/

/-- No operation of the event unit issues before the core's earlier accesses have performed (R254). -/
def quiet : M Unit := do
  let c ← getMe
  needs (c.sb.isEmpty && !c.tileMem && !c.mstQueued)

def Cluster.line (k : Cluster) (e : Fin 32) : EvLine := k.lines[e]
def Cluster.bar (k : Cluster) (b : Fin 16) : Barrier := k.bars[b]
/-- (DEDUCED, notes/assumptions/32.md.) -/
def Cluster.mutex (k : Cluster) (x : Fin 16) : Mutex := k.mutexes[x]
def Cluster.setLine (k : Cluster) (e : Fin 32) (l : EvLine) : Cluster := { k with lines := k.lines.set e l }
def Cluster.setBar (k : Cluster) (b : Fin 16) (l : Barrier) : Cluster := { k with bars := k.bars.set b l }
def Cluster.setMutex (k : Cluster) (x : Fin 16) (l : Mutex) : Cluster := { k with mutexes := k.mutexes.set x l }

/-- The cores of cluster k that satisfy p change by f. -/
def State.eachCore (s : State) (k : Nat) (p : Core → Bool) (f : Core → Core) : State :=
  (coresOf k).foldl (fun s n => if p (s.core n) then s.modCore n f else s) s

/-- A fire (R257): GEN rises, and the cores that wait on the line wake with it. -/
def State.fire (s : State) (k : Nat) (e : Fin 32) : State :=
  let g := ((s.cluster k).line e).gen + 1
  let s := s.modCluster k (fun c => c.setLine e { c.line e with gen := g })
  s.eachCore k (fun c => c.wait == .line e) (fun c => { c with wait := .granted (g.zeroExtend 64), seen := c.seen.set e g })

/-- COUNT reaching TARGET fires the line (R258). -/
def State.lineCheck (s : State) (k : Nat) (e : Fin 32) : State :=
  let l := (s.cluster k).line e
  if l.target ≠ 0 ∧ l.target ≤ l.count then
    (s.modCluster k (fun c => c.setLine e { l with count := l.count - l.target })).fire k e
  else s

/-- The bit of core n in a barrier's masks. -/
def coreBit (n : Nat) : BitVec 8 := BitVec.ofNat 8 (2 ^ (n % 8))
/-- The RETIRED cores of cluster k, those that its kernel never started among them: they count as arrived in every barrier (R258,
R304). -/
def State.retiredMask (s : State) (k : Nat) : BitVec 8 :=
  (coresOf k).foldl (fun m n => if (s.core n).run == .retired then m ||| coreBit n else m) 0

/-- A barrier all of whose members have arrived, or retired, advances (R258): the phase counts up, waiters wake with it. An arrival, or a
member's EXIT, looks at it. (DEDUCED, notes/assumptions/34.md.) -/
def State.barCheck (s : State) (k : Nat) (b : Fin 16) : State :=
  let r := (s.cluster k).bar b
  if r.members ≠ 0 ∧ r.members &&& ~~~(r.arrived ||| s.retiredMask k) = 0 then
    let p := r.phase + 1
    let s := s.modCluster k (fun c => c.setBar b { r with phase := p, arrived := 0 })
    s.eachCore k (fun c => c.wait == .barrier b) (fun c => { c with wait := .granted (p.zeroExtend 64), arrival := c.arrival.set b none })
  else s

/-- A mutex passes to the head of its queue, or is free (R258). -/
def State.release (s : State) (k : Nat) (x : Fin 16) : State :=
  match ((s.cluster k).mutex x).queue with
  | [] => s.modCluster k (fun c => c.setMutex x ⟨none, []⟩)
  | n :: r => (s.modCluster k (fun c => c.setMutex x ⟨some n, r⟩)).grant n 1

/-- What the event unit does when core n retires (R258). -/
def State.retireEvents (s : State) (n : Nat) : State :=
  let k := clusterOf n
  let s := (List.finRange 16).foldl (fun s x => if ((s.cluster k).mutex x).owner == some n then s.release k x else s) s
  (List.finRange 16).foldl (fun s b =>
    let r := (s.cluster k).bar b
    if r.members &&& coreBit n ≠ 0 then
      (s.modCluster k (fun c => c.setBar b { r with arrived := r.arrived ||| coreBit n })).barCheck k b
    else s) s

/-! ### The event window (R253) -/

/-- The number of entries an offset of the window indexes from base on. (DEDUCED, notes/assumptions/32.md.) -/
def slotOf (off base : Nat) : Nat := (off - base) / 8

/-- A 64-bit load at an offset of the event window, its wait among it; ls are the factors of the result's label.
(DEDUCED, notes/assumptions/33.md.) -/
def eventLoad (d : GReg) (off : Nat) (ls : List Label) : M Unit := do
  let s ← get
  let c := s.me
  let n := s.cur
  let k := clusterOf n
  let bad {α : Type} : M α := raiseAddr .protect (0x7F0100000000 + off)
  match c.wait with
  | .granted v =>
    observeMe
    resultKept d v
  | _ =>
  quiet
  observeMe
  if off % 8 ≠ 0 ∨ 0x400 ≤ off then bad
  else if h : off < 0x100 then
    let e : Fin 32 := ⟨off / 8, by omega⟩
    let g := ((s.cluster k).line e).gen
    let f ← formEarly d ls
    if g = c.seen[e] then holdFormed .gated (.line e) f
    modMe (fun c => { c with seen := c.seen.set e g })
    resultFormed d (g.zeroExtend 64) f
  else if h : off < 0x200 then
    let l := (s.cluster k).line ⟨slotOf off 0x100, by unfold slotOf; omega⟩
    result d (BitVec.ofNat 64 (l.count.toNat + 2 ^ 16 * l.target.toNat + 2 ^ 32 * l.gen.toNat)) ls
  else if h : off < 0x280 then
    let b : Fin 16 := ⟨slotOf off 0x200, by unfold slotOf; omega⟩
    let r := (s.cluster k).bar b
    let f ← formEarly d ls
    match c.arrival[b] with
    | some ap =>
      if ap = r.phase then holdFormed .gated (.barrier b) f
      modMe (fun c => { c with arrival := c.arrival.set b none })
      resultFormed d (r.phase.zeroExtend 64) f
    | none => holdFormed .gated (.barrier b) f
  else if h : off < 0x300 then
    let r := (s.cluster k).bar ⟨slotOf off 0x280, by unfold slotOf; omega⟩
    result d (BitVec.ofNat 64 (r.members.toNat + 2 ^ 8 * r.arrived.toNat + 2 ^ 16 * r.phase.toNat)) ls
  else if h : off < 0x380 then
    let x : Fin 16 := ⟨slotOf off 0x300, by unfold slotOf; omega⟩
    let m := (s.cluster k).mutex x
    if m.owner = some n then raiseValue .protect
    let f ← formEarly d ls
    if m.owner = none then
      modS (fun s => s.modCluster k (fun c => c.setMutex x { m with owner := some n }))
      resultFormed d 1 f
    else
      if !m.queue.contains n then modS (fun s => s.modCluster k (fun c => c.setMutex x { m with queue := m.queue ++ [n] }))
      holdFormed .gated (.mutex x) f
  else if h : off < 0x400 then
    let m := (s.cluster k).mutex ⟨slotOf off 0x380, by unfold slotOf; omega⟩
    let waiting := (m.queue.foldl (fun w q => w ||| coreBit q) 0).toNat
    result d (match m.owner with
      | some o => BitVec.ofNat 64 (2 ^ 63 + 2 ^ 8 * (o % 8) + waiting)
      | none => BitVec.ofNat 64 waiting) ls
  else bad

/-- A 64-bit store of v at an offset of the event window. (DEDUCED, notes/assumptions/33.md.) -/
def eventStore (off : Nat) (v : Word) : M Unit := do
  quiet
  let s ← get
  let k := clusterOf s.cur
  let bad {α : Type} : M α := raiseAddr .protect (0x7F0100000000 + off)
  if off % 8 ≠ 0 then bad
  else if h : 0x280 ≤ off ∧ off < 0x300 then
    let b : Fin 16 := ⟨slotOf off 0x280, by unfold slotOf; omega⟩
    let r := (s.cluster k).bar b
    if 256 ≤ v.toNat ∨ r.arrived ≠ 0 ∨ v = 0 then raiseValue .protect
    modS (fun s => s.modCluster k (fun c => c.setBar b { r with members := v.truncate 8 }))
    advance
  else if h : 0x300 ≤ off ∧ off < 0x380 then
    let x : Fin 16 := ⟨slotOf off 0x300, by unfold slotOf; omega⟩
    if ((s.cluster k).mutex x).owner ≠ some s.cur then raiseValue .protect
    modS (fun s => s.release k x)
    advance
  else bad

def execEventWindowLoad (d : GReg) (off : BitVec 10) (s : State) : Step :=
  runI (.eventWindowLoad d off) (eventLoad d off.toNat []) s

def execEventWindowStore (off : BitVec 10) (b : GReg) (s : State) : Step :=
  runI (.eventWindowStore off b) (do
    let c ← getMe
    eventStore off.toNat (c.rg b)) s

/-! ### EVSIG, EVARM, BAR (R264, R265) -/

def execEvsig (a : GReg) (s : State) : Step :=
  runI (.evsig a) (do
    quiet
    let s ← get
    let v := (s.me.rg a).toNat
    if h : v < 32 then
      let e : Fin 32 := ⟨v, h⟩
      let k := clusterOf s.cur
      let l := (s.cluster k).line e
      modS (fun s => (s.modCluster k (fun c => c.setLine e { l with count := if l.count = 0xFFFF then l.count else l.count + 1 })).lineCheck k e)
      advance
    else raiseValue .illegal) s

def execEvarm (a b : GReg) (s : State) : Step :=
  runI (.evarm a b) (do
    quiet
    let s ← get
    let v := (s.me.rg a).toNat
    if h : v < 32 then
      if 2 ^ 16 ≤ (s.me.rg b).toNat then raiseValue .illegal
      let e : Fin 32 := ⟨v, h⟩
      let k := clusterOf s.cur
      modS (fun t => (t.modCluster k (fun c => c.setLine e { c.line e with target := (s.me.rg b).truncate 16 })).lineCheck k e)
      advance
    else raiseValue .illegal) s

def execBar (a : GReg) (s : State) : Step :=
  runI (.bar a) (do
    quiet
    let s ← get
    let v := (s.me.rg a).toNat
    if h : v < 16 then
      let b : Fin 16 := ⟨v, h⟩
      let k := clusterOf s.cur
      let bit := coreBit s.cur
      let r := (s.cluster k).bar b
      if r.members &&& bit = 0 then raiseValue .protect
      if r.arrived &&& bit = 0 then
        modMe (fun c => { c with arrival := c.arrival.set b (some r.phase) })
        modS (fun s => (s.modCluster k (fun c => c.setBar b { r with arrived := r.arrived ||| bit })).barCheck k b)
      advance
    else raiseValue .illegal) s

/-! ### PAUSE, WAITA (R262, R263) -/

/-- PAUSE n stops issue for n cycles of the package's count. (DEDUCED, notes/assumptions/42.md.) -/
def execPause (n : BitVec 8) (s : State) : Step :=
  runI (.pause n) (do
    let s ← get
    match s.me.wait with
    | .granted _ => advance
    | .pause u => if u ≤ s.time then advance else holdOn .stalled (.pause u)
    | _ => holdOn .stalled (.pause (s.time + n.toNat + 1))) s

/-- PAUSE_END: a pause of core c whose cycles have passed ends. (DEDUCED, notes/assumptions/42.md.) -/
def execPauseEnd (n : Nat) (s : State) : Step :=
  onUnits (n < nCores) (fun s => match (s.core n).wait with
    | .pause u => if u ≤ s.time then s.grant n 0 else s
    | _ => s) s

/-- WAITA: the checks, the core's local-store stores performed, then the word compared; an uncorrectable error in it is a MACHINE_CHECK
(R203, R263). -/
def execWaita (a b : GReg) (s : State) : Step :=
  runI (.waita a b) (do
    let s ← get
    let c := s.me
    raiseRecorded
    match c.wait with
    | .granted _ =>
      observeMe
      advance
    | _ =>
    let ea := (c.rg a).toNat
    if ea % 4 ≠ 0 then raiseAddr .misalign ea
    if ea < 0x7F0000000000 ∨ 0x7F0000020000 ≤ ea then raiseAddr .protect ea
    needs (!c.sb.any (fun e => e.loc.place == .local) && !c.tileMem && !c.mstQueued)
    let off := ea - 0x7F0000000000
    if s.badAt (lsBase s.cur + off) 4 then raiseAddr .machineCheck ea
    let v : BitVec 32 := (c.rg b).truncate 32
    if s.read32 (lsBase s.cur + off) = v then
      observeMe
      advance
    else holdOn .sleeping (.waita off v)) s

/-- WAITA_WAKE: a sleeping WAITA of core c whose word has the awaited value completes. -/
def execWaitaWake (n : Nat) (s : State) : Step :=
  onUnits (n < nCores) (fun s => s.modCore n (fun c => c.seeLocal s.mem n)) s

/-! ### SYNC (R266-R268) -/

/-- The highest level that a DOMAIN value defines. -/
def domLevel (v : Word) : Nat := if domSize v 3 ≠ 0 then 3 else if domSize v 2 ≠ 0 then 2 else if domSize v 1 ≠ 0 then 1 else 0

/-- The count of a level in SSC. -/
def sscAt (v : Word) (l : Nat) : Nat := v.toNat / 2 ^ (16 * l) % 2 ^ 16
/-- SSC with a level counted up, modulo 2^16. -/
def sscNext (v : Word) (l : Nat) : Word :=
  BitVec.ofNat 64 (v.toNat - sscAt v l * 2 ^ (16 * l) + (sscAt v l + 1) % 2 ^ 16 * 2 ^ (16 * l))

/-- The KCLUS numbers of the domain of core n at a level (R266). -/
def State.domainOf (s : State) (n l : Nat) : List Nat :=
  let v := (s.core n).domain
  let q := domKclus v
  if l = 0 then [q]
  else
    let z := domSize v l
    match (s.cluster (clusterOf n)).kernel with
    | none => [q]
    | some k => ((List.range z).map (fun i => q / z * z + i)).filter (· < recClusters (s.kernel k).record)

/-- Whether every member of core n's domain has arrived as often as core n at a level; a retired member counts (R268). -/
def State.syncMet (s : State) (n : Nat) (l : Fin 4) : Bool :=
  let mine := (s.core n).arr[l]
  match (s.cluster (clusterOf n)).kernel with
  | none => true
  | some k =>
    let r := (s.kernel k).record
    (s.domainOf n l).all (fun q =>
      (s.kernel k).started.contains q &&
      match (s.kernel k).places.find? (fun e => e.1 == q) with
      | none => false
      | some (_, cl) =>
        (s.cluster cl).kernel != some k ||
        (coresOf cl).all (fun m => !rankStarts r q (m % 8) || (s.core m).run == .retired || mine ≤ (s.core m).arr[l]))

/-- The level at which an armed stop halts core n (R381). -/
def State.stopLevel (s : State) (n : Nat) : Option Nat :=
  let t := (s.ctx (s.ctxOf n)).tracectl
  if trcStop t then some (min (trcStopLevel t) (domLevel (s.core n).domain)) else none

/-- The SYNC of core n at a level completes (R268, R379, R381): SSC counts up, records are written, and with a stop armed the core
halts at the next word, once its queues and buffers are empty. -/
def State.syncDone (s : State) (n : Nat) (l : Fin 4) : State :=
  let s := s.modCore n (fun c => { c with ssc := sscNext c.ssc l })
  let s := s.autoRec n (BitVec.ofNat 64 l) 64
  if s.stopLevel n = some l.val then
    let s := s.autoRec n (BitVec.ofNat 64 l) 66
    let t := s.modCore n (fun c => { c.past with run := .stalled, wait := .halting })
    if (s.core n).wait == .sync l then t.passed n else t
  else s.grant n 0

/-- The waiting members of core n's domain whose condition is met complete. -/
def State.syncRelease (s : State) (n : Nat) (l : Fin 4) : State :=
  match (s.cluster (clusterOf n)).kernel with
  | none => s
  | some k =>
    let ms := (s.domainOf n l).flatMap (fun q => match (s.kernel k).places.find? (fun e => e.1 == q) with
      | none => []
      | some (_, cl) => if (s.cluster cl).kernel == some k then coresOf cl else [])
    ms.foldl (fun s m => if (s.core m).wait == .sync l && s.syncMet m l then s.syncDone m l else s) s

/-- SYNC: the core arrives once, and completes with its domain. -/
def execSync (l : BitVec 2) (s : State) : Step :=
  runI (.sync l) (do
    let s ← get
    let c := s.me
    let n := s.cur
    let lv : Fin 4 := l.toFin
    match c.wait with
    | .granted _ =>
      observeMe
      advance
    | _ =>
    if domLevel c.domain < l.toNat then raiseValue .illegal
    quiet
    drainNt
    if c.arr[lv] % 2 ^ 16 = sscAt c.ssc lv then
      modMe (fun c => { c with arr := c.arr.set lv (c.arr[lv] + 1) })
    if (← get).syncMet n lv then
      modS (fun s => (s.syncRelease n lv).syncDone n lv)
      observeMe
      if (← getMe).wait != .halting then advance
    else holdOn .gated (.sync lv)) s

/-- SYNC_RELEASE: core c's domain at a level is released once every member has arrived. -/
def execSyncRelease (n : Nat) (l : BitVec 2) (s : State) : Step :=
  onUnits (n < nCores) (fun s => s.syncRelease n l.toFin) s

end Sys2Proof.Machine
end

