-- ==== Sys2Proof/Machine/LoadStore.lean ====
section
/-! DEFINITION. Loads and stores (R210-R213), the store buffer's steps (R205, R213). -/

namespace Sys2Proof.Machine

/-! ### Loads (R210, R212) -/

/-- A load: from the event window with 64 bits only (R253), else from memory; its label is the product of the tags and of
Label(ga) (R180). -/
def loadAs (z : LdSize) (d a : GReg) (o : BitVec 11) (nt : Bool) : M Unit := do
  let s ← get
  let c := s.me
  let n := LdSize.bytes z
  let ea := effective (c.rg a) o n
  match s.target s.cur ea with
  | .event off =>
    if ea.toNat % n ≠ 0 then raiseAddr .misalign ea.toNat
    if n ≠ 8 then raiseAddr .protect ea.toNat
    eventLoad d off [c.lg a]
  | _ =>
    let loc ← resolve .read ea n
    let r ← loadFrom ea loc n nt
    loaded d ea (LdSize.extend z r.value) r [c.lg a]

def execLd (z : LdSize) (d a : GReg) (o : BitVec 11) (s : State) : Step := runI (.ld z d a o) (loadAs z d a o false) s

/-- LD.acq: loads bind at issue and later accesses follow, so it is a load (R207); it does not pass a queued tile memory
instruction (R126). -/
def execLdAcq (z : LdSize) (d a : GReg) (o : BitVec 11) (s : State) : Step :=
  runI (.ldAcq z d a o) (do
    let c ← getMe
    needs (!c.tileMem)
    loadAs z d a o false) s

def execLdnt (z : LdSize) (d a : GReg) (o : BitVec 11) (s : State) : Step := runI (.ldnt z d a o) (loadAs z d a o true) s

/-! ### Stores (R210, R213) -/

/-- A store: to the event window with 64 bits only, else into the store buffer, or for STNT on global memory into a combining
buffer; each word's label is Prod(Label(gd), Label(ga)) (R180). -/
def storeOp (i : Instr) (z : StSize) (d a : GReg) (o : BitVec 11) (nt : Bool) (s : State) : Step :=
  runI i (do
    let s ← get
    let c := s.me
    let n := StSize.bytes z
    let ea := effective (c.rg a) o n
    match s.target s.cur ea with
    | .event off =>
      if ea.toNat % n ≠ 0 then raiseAddr .misalign ea.toNat
      if n ≠ 8 then raiseAddr .protect ea.toNat
      eventStore off (c.rg d)
    | _ =>
      let loc ← resolve .write ea n
      let l ← formLabel [c.lg d, c.lg a]
      if nt && loc.place != .local && loc.place != .scratch then storeNt ea loc n (c.rg d) l
      else storeTo ea loc n (c.rg d) l
      advance) s

def execSt (z : StSize) (d a : GReg) (o : BitVec 11) (s : State) : Step := storeOp (.st z d a o) z d a o false s
/-- ST.rel: the store buffer performs in program order and loads have bound, so it is a store (R207). -/
def execStRel (z : StSize) (d a : GReg) (o : BitVec 11) (s : State) : Step := storeOp (.stRel z d a o) z d a o false s
def execStnt (z : StSize) (d a : GReg) (o : BitVec 11) (s : State) : Step := storeOp (.stnt z d a o) z d a o true s

/-! ### The steps of the buffers (R205, R213) -/

/-- Whether core n is in PAUSE (R262). -/
def State.pausing (s : State) (n : Nat) : Bool := match (s.core n).wait with
  | .pause u => decide (s.time < u)
  | _ => false

/-- Whether a buffered operation goes through the cluster's L1D port: one on a local store or the scratchpads does not. -/
def SbEntry.usesPort (e : SbEntry) : Bool := e.loc.place != .local && e.loc.place != .scratch
/-- Whether the cluster's Fuller makes the label fold of a buffered operation (R410). -/
def SbEntry.usesFuller (e : SbEntry) : Bool := !e.loc.plain && (match e.kind with
  | .store => decide (e.size < 4) && e.loc.place != .tracked && e.loc.place != .scratch
  | .red _ => e.loc.place == .tracked || e.loc.place == .local
  | _ => false)

/-- Whether core n has a request at its cluster's L1D port: the head of its store buffer. -/
def Core.atPort (c : Core) : Bool := !c.paused.contains .store && (match c.sb with
  | e :: _ => e.usesPort
  | [] => false)
/-- Whether core n has a request at its cluster's Fuller: of the head of its store buffer, of a tile memory instruction or a transfer that is
due to complete, or of its operation on the array. -/
def State.atFuller (s : State) (n : Nat) : Bool :=
  let c := s.core n
  (!c.paused.contains .store && (match c.sb with
    | e :: _ => e.usesFuller
    | [] => false)) ||
  (!c.paused.contains .tile && (match c.vq with
    | e :: _ => Instr.isTileMem e.op && e.beats == 0
    | [] => false)) ||
  (!c.paused.contains .matrix && (match c.mq with
    | e :: _ => (match e.op with
      | .mld _ _ => true
      | .mma _ _ _ => (s.cluster (clusterOf n)).mrun == some n
      | _ => false)
    | [] => false))

/-- Whether core n is in PAUSE while another core of its cluster has a request as p says: its own are served after those (R262). -/
def State.yieldsTo (s : State) (n : Nat) (p : Nat → Bool) : Bool :=
  s.pausing n && (coresOf (clusterOf n)).any (fun m => m != n && !s.pausing m && p m)
def State.yieldsPort (s : State) (n : Nat) : Bool := s.yieldsTo n (fun m => (s.core m).atPort)
def State.yieldsFuller (s : State) (n : Nat) : Bool := s.yieldsTo n s.atFuller

/-- Core n's store buffer may perform: its engine does not stand at a missing page, and no other core goes first at what its head needs
(R262, R410). -/
def storeReady (n : Nat) : M Unit := do
  let s ← get
  let c := s.core n
  needs (!c.paused.contains .store)
  match c.sb with
  | e :: _ => needs (!(e.usesPort && s.yieldsPort n) && !(e.usesFuller && s.yieldsFuller n))
  | [] => pure ()

/-- STORE_PERFORM: the head of core c's store buffer performs. -/
def execStorePerform (c : Nat) (s : State) : Step :=
  if c < nCores then runEngine c .store (do
    storeReady c
    performHead c) s
  else .fault .noSuchUnit

/-- STNT_BUFFER_PERFORM: core c's combining buffer of a line performs. (DEDUCED, notes/assumptions/97.md.) -/
def execStntBufferPerform (c line : Nat) (s : State) : Step :=
  if c < nCores then runEngine c .store (do
    let s ← get
    needs (!(s.core c).paused.contains .store && !s.yieldsPort c)
    match (s.core c).nt.find? (fun b => b.line == line) with
    | some b => performBuf c b
    | none => pure ()) s
  else .fault .noSuchUnit

end Sys2Proof.Machine
end

