-- ==== Sys2Proof/Machine/Atomics.lean ====
section
/-! DEFINITION. Atomics (R234-R237), reductions (R238), operations at the DRAM banks (R239, R240). -/

namespace Sys2Proof.Machine

/-- Host-side atomics: where the link to the endpoint carries traffic and the feature is not accepted, PROTECT (R367); a load or
AMO whose link is lost is a MACHINE_CHECK (R366). -/
def farAtomic (ea : Word) (op : MemOp) (loc : Loc) (returns : Bool) : M Unit := do
  let s ← get
  match loc.place with
  | .hostUncached | .hostCached | .peer =>
    let e := endpointOf loc.key
    if !s.reaches e && s.retrains e then stall
    if !s.reaches e && returns then raiseAddr .machineCheck ea.toNat
    if s.reaches e && (!s.accepts e 0 || (op == .fadd && !s.accepts e 1)) then raiseValue .protect
  | _ => pure ()

/-- The old value in gd: sign-extended, zero-extended for MINN, MAXN and FADD (R235). -/
def amoResult (op : MemOp) (size old : Nat) : Word :=
  if size = 8 then BitVec.ofNat 64 old
  else if op = .minn ∨ op = .maxn ∨ op = .fadd then zext (BitVec.ofNat 32 old)
  else sext (BitVec.ofNat 32 old)

/-- What an AMO does with the old value and tags (R180, R235): the result's label, then the new value and its tags, if it
writes. A CAS that fails writes no word and forms no label for one, on a plain page either. (DEDUCED, notes/assumptions/16.md; DESIGN
CHOICE, notes/assumptions/102.md.) -/
def amoStep (c : Core) (op : MemOp) (size : Nat) (ea : Word) (loc : Loc) (d a b : GReg) (old : Nat) (tags : List (Nat × Label)) :
    M (Label × Option (Nat × List (Nat × Label))) := do
  let ts := tags.map (·.2)
  let expected := if op = .cas then [c.lg d] else []
  let gl ← if d = 0 then pure labelTrue else formLabel (ts ++ [c.lg a] ++ expected)
  let equal := decide (old = (c.rg d).toNat % 2 ^ (8 * size))
  if op = .cas ∧ !equal then return (gl, none)
  let wl ← formLabel (if op = .swap then [c.lg b, c.lg a] else ts ++ [c.lg b, c.lg a] ++ expected)
  plainCheck ea loc wl
  return (gl, some (memOp op size old (c.rg b).toNat, tags.map (fun e => (e.1, wl))))

/-- An AMO issues with the store buffer empty and behind the core's queued tile stores and MST (R126, R236). -/
def amoReady (ea : Word) (size : Nat) : M Unit := do
  let c ← getMe
  needs (c.sb.isEmpty && !c.tileMem && !c.mstQueued && !c.ntCovers ea.toNat size)

/-- An AMO (R235, R236): the checks, then the one event that reads and writes.
(DEDUCED, notes/assumptions/16.md; DEDUCED, notes/assumptions/35.md.) -/
def amo (i : Instr) (op : MemOp) (size : Nat) (d a b : GReg) (s : State) : Step :=
  runI i (do
    let c ← getMe
    let ea := c.rg a
    let loc ← resolve .write ea size
    if (← get).inCounter loc then raiseAddrValue .protect ea.toNat
    farAtomic ea op loc true
    amoReady ea size
    let r ← indivisible s.cur loc size (some ea.toNat) (amoStep c op size ea loc d a b)
    modMe (fun e => e.wg d (amoResult op size r.1) r.2)
    advance) s

def execAmoAdd (o : AmoOrder) (z : AmoSize) (d a b : GReg) (s : State) : Step :=
  amo (.amoAdd o z d a b) .add (AmoSize.bytes z) d a b s
def execAmoAnd (o : AmoOrder) (z : AmoSize) (d a b : GReg) (s : State) : Step :=
  amo (.amoAnd o z d a b) .and (AmoSize.bytes z) d a b s
def execAmoOr (o : AmoOrder) (z : AmoSize) (d a b : GReg) (s : State) : Step :=
  amo (.amoOr o z d a b) .or (AmoSize.bytes z) d a b s
def execAmoXor (o : AmoOrder) (z : AmoSize) (d a b : GReg) (s : State) : Step :=
  amo (.amoXor o z d a b) .xor (AmoSize.bytes z) d a b s
def execAmoMin (o : AmoOrder) (z : AmoSize) (d a b : GReg) (s : State) : Step :=
  amo (.amoMin o z d a b) .min (AmoSize.bytes z) d a b s
def execAmoMax (o : AmoOrder) (z : AmoSize) (d a b : GReg) (s : State) : Step :=
  amo (.amoMax o z d a b) .max (AmoSize.bytes z) d a b s
def execAmoMinn (o : AmoOrder) (z : AmoSize) (d a b : GReg) (s : State) : Step :=
  amo (.amoMinn o z d a b) .minn (AmoSize.bytes z) d a b s
def execAmoMaxn (o : AmoOrder) (z : AmoSize) (d a b : GReg) (s : State) : Step :=
  amo (.amoMaxn o z d a b) .maxn (AmoSize.bytes z) d a b s
def execAmoSwap (o : AmoOrder) (z : AmoSize) (d a b : GReg) (s : State) : Step :=
  amo (.amoSwap o z d a b) .swap (AmoSize.bytes z) d a b s
/-- (DEDUCED, notes/assumptions/35.md.) -/
def execAmoCas (o : AmoOrder) (z : AmoSize) (d a b : GReg) (s : State) : Step :=
  amo (.amoCas o z d a b) .cas (AmoSize.bytes z) d a b s
def execAmoFadd (o : AmoOrder) (d a b : GReg) (s : State) : Step := amo (.amoFadd o d a b) .fadd 4 d a b s

/-! ### Reductions (R238) -/

/-- A reduction: its traps and its label at issue, then the store buffer. -/
def red (i : Instr) (op : MemOp) (size : Nat) (a b : GReg) (s : State) : Step :=
  runI i (do
    let c ← getMe
    let ea := c.rg a
    let loc ← resolve .write ea size
    farAtomic ea op loc false
    let l ← formLabel [c.lg b, c.lg a]
    plainCheck ea loc l
    pushSb ⟨.red op, ea.toNat, loc, size, c.rg b, l⟩
    advance) s

def execRedAdd (z : AmoSize) (a b : GReg) (s : State) : Step := red (.redAdd z a b) .add (AmoSize.bytes z) a b s
def execRedAnd (z : AmoSize) (a b : GReg) (s : State) : Step := red (.redAnd z a b) .and (AmoSize.bytes z) a b s
def execRedOr (z : AmoSize) (a b : GReg) (s : State) : Step := red (.redOr z a b) .or (AmoSize.bytes z) a b s
def execRedXor (z : AmoSize) (a b : GReg) (s : State) : Step := red (.redXor z a b) .xor (AmoSize.bytes z) a b s
def execRedMin (z : AmoSize) (a b : GReg) (s : State) : Step := red (.redMin z a b) .min (AmoSize.bytes z) a b s
def execRedMax (z : AmoSize) (a b : GReg) (s : State) : Step := red (.redMax z a b) .max (AmoSize.bytes z) a b s
def execRedFadd (a b : GReg) (s : State) : Step := red (.redFadd a b) .fadd 4 a b s

/-! ### Operations at the banks (R239, R240) -/

/-- An address for a DRAM bank: no window and no memory outside the package; the other checks are those of R211. -/
def resolveBank (acc : Access) (ea : Word) (size : Nat) : M Loc := do
  let s ← get
  match s.target s.cur ea with
  | .localStore _ _ | .peerAbsent | .event _ | .scratch _ => raiseAddr .protect ea.toNat
  | _ => pure ()
  let loc ← resolve acc ea size
  match loc.place with
  | .tracked | .untracked => return loc
  | _ => raiseAddr .protect ea.toNat

def execMemred (o : MemredOp) (a b : GReg) (s : State) : Step :=
  runI (.memred o a b) (do
    let c ← getMe
    let ea := c.rg a
    let loc ← resolveBank .write ea (MemredOp.bytes o)
    let l ← formLabel [c.lg b, c.lg a]
    plainCheck ea loc l
    pushSb ⟨.memred (MemredOp.op o), ea.toNat, loc, MemredOp.bytes o, c.rg b, l⟩
    advance) s

/-- MEMCAS: as AMO.CAS.64, at the bank (R240). -/
def execMemcas (d a b : GReg) (s : State) : Step :=
  runI (.memcas d a b) (do
    let c ← getMe
    let ea := c.rg a
    let loc ← resolveBank .write ea 8
    if (← get).inCounter loc then raiseAddrValue .protect ea.toNat
    amoReady ea 8
    let r ← atBank s.cur loc 8 (some ea.toNat) (amoStep c .cas 8 ea loc d a b)
    modMe (fun e => e.wg d (amoResult .cas 8 r.1) r.2)
    advance) s

/-- MEMSAX: the line of y is written and that of x read at the bank (R240). (DESIGN CHOICE, notes/assumptions/105.md.) -/
def execMemsax (a b e : GReg) (s : State) : Step :=
  runI (.memsax a b e) (do
    let c ← getMe
    let y ← resolveBank .write (c.rg a) 64
    let x ← resolveBank .read (c.rg b) 64
    if (← get).inCounter x then raiseAddrValue .protect (c.rg b).toNat
    let l ← formLabel [c.lg e, c.lg a, c.lg b]
    plainCheck (c.rg a) y l
    -- a word of y takes the tag of its x word too (R180, R181), as it stands at issue
    let s ← get
    if y.plain && (wordsOf x.key 64).any (fun w => (entryTags s s.cur c.sb.reverse x w).any (· != labelTrue)) then
      raiseAddr .labelPlain (c.rg a).toNat
    needs (!c.ntCovers (c.rg b).toNat 64)
    pushSb ⟨.memsax x ((c.rg e).truncate 32), (c.rg a).toNat, y, 64, 0, l⟩
    advance) s

/-- MEM_BANK_EXECUTE: the operation at the head of core c's store buffer, one of a DRAM bank, executes there. -/
def execMemBankExecute (c : Nat) (s : State) : Step :=
  if c < nCores then runEngine c .store (do
    storeReady c
    match ((← get).core c).sb with
    | e :: _ => match e.kind with
      | .memred _ | .memsax _ _ => performHead c
      | _ => pure ()
    | [] => pure ()) s
  else .fault .noSuchUnit

end Sys2Proof.Machine
end

