-- ==== Sys2Proof/Machine/Counters.lean ====
section
/-! DEFINITION. The split counter (R241-R252): the home's rules, the L1D's allowances, the instructions and the steps. -/

namespace Sys2Proof.Machine

def State.counter (s : State) (L : Nat) : Option Counter := s.counters.find? L
def State.setCounter (s : State) (L : Nat) (c : Counter) : State := { s with counters := s.counters.put L c }

def CounterOp.isCdec : CounterOp → Bool
  | .cdec _ => true
  | _ => false

/-- The image of a counter line in memory, tags TRUE (R241). -/
def State.counterImage (s : State) (L : Nat) (c : Counter) : State :=
  s.plinthWrite L (c.reserve + 2 ^ 64 * c.chunk) 64

/-- The allowance of cluster k, where its L1D holds the line in A (R223). -/
def State.allowance (s : State) (k L : Nat) : Option Nat := match s.l1 k L with
  | some (.a n) => some n
  | _ => none

/-- Whether a request of cluster k for the line is outstanding: in W, or its reply under way (R251). -/
def State.outstanding (s : State) (k L : Nat) : Bool :=
  (match s.counter L with
    | some c => c.queue.any (fun q => clusterOf q.core == k)
    | none => false) ||
  s.flight.any (fun m => match m with
    | .counterReply l c _ => l == L && clusterOf c == k
    | _ => false)

/-! ### The home (R244, R245) -/

/-- Whether units of a counter are still with cluster k, in its L1D or on their way home. -/
def State.holdsUnits (s : State) (k L : Nat) : Bool :=
  (s.allowance k L).isSome || s.flight.any (fun m => match m with
    | .allowanceReturn K j _ => K == L && j == k
    | _ => false)

/-- An allowance of cluster k comes home (R242): the reserve takes it, and the cluster is no holder unless it was granted another
since. -/
def State.takeHome (s : State) (L k n : Nat) : State :=
  match s.counter L with
  | none => s
  | some c =>
    let left := if s.holdsUnits k L then c.holders else c.holders.filter (· != k)
    let c := { c with reserve := min (c.reserve + n) (2 ^ 64 - 1), holders := left }
    let s := s.setCounter L c
    if c.recalling && c.holders.isEmpty then s.send (.roundComplete L) else s

/-- A counter is set up, or the line becomes ordinary with the value in bytes 0-7, its words under the label TRUE times the guard's
(R61, R246). (DEDUCED, notes/assumptions/108.md.) -/
def State.initCounter (s : State) (L v chunk : Nat) (l : Label) (queue : List CReq) (held : List (Nat × Nat)) : State :=
  if chunk = 0 then
    let s := s.plinthWrite L v 64
    { s with counters := s.counters.erase L
             tags := if l = labelTrue then s.tags else (wordsOf L 64).foldl (fun t w => t.set labelTrue w l) s.tags }
  else
    let c : Counter := ⟨v, chunk, [], queue, false, 0, held⟩
    (s.setCounter L c).counterImage L c

/-- A counter instruction of core n finds no counter at its home (R250, R251). -/
def State.refuseCounter (s : State) (n : Nat) : State := s.modCore n (fun c => { c with wait := .noCounter })

/-- The requests behind a CINIT that ended the counter are decided afresh, in arrival order: a CINIT acts on the ordinary line, later
ones join its counter; the others find none (R250, R251). -/
def State.afresh (s : State) (L : Nat) (qs : List CReq) : State :=
  qs.foldl (fun s q =>
    match s.counter L with
    | some c => s.setCounter L { c with queue := c.queue ++ [q] }
    | none => match q.op with
      | .cinit v chunk => (s.initCounter L v chunk q.label [] []).send (.counterReply L q.core 0)
      | _ => s.refuseCounter q.core) s

/-- A CINIT with chunk 0 ended a counter with these CDECs held at the L1Ds: the requests behind it are decided afresh, then those, which
are sent home afterwards (R251). -/
def State.ended (s : State) (L : Nat) (qs : List CReq) (held : List (Nat × Nat)) : State :=
  held.foldl (fun s h => match s.counter L with
    | none => s.refuseCounter h.1
    | some c =>
      if s.outstanding (clusterOf h.1) L then s.setCounter L { c with held := c.held ++ [h] }
      else s.setCounter L { c with queue := c.queue ++ [⟨h.1, .cdec h.2, labelTrue, false⟩] }) (s.afresh L qs)

/-- The grant of a CDEC of n (R244): the share of the reserve, exactly n where the cluster would be a 65th holder (R248). -/
def grantOf (c : Counter) (k n : Nat) : Nat × Bool :=
  let waiting := (c.queue.filter (fun q => CounterOp.isCdec q.op)).length
  let full := decide (64 ≤ c.holders.length) && !c.holders.contains k
  (if full then n else min c.reserve (max n (min c.chunk (c.reserve / waiting))), full)

/-- An allowance of n units granted to cluster k (R242). -/
def State.putAllowance (s : State) (k L n : Nat) : State := match s.roomL1 k L with
  | some s => s.setL1 k L (.a ((s.allowance k L).getD 0 + n))
  | none => s.send (.allowanceReturn L k n)

/-- Serve (R244). Each turn decides the head of W; the fuel is the number of requests that can be decided. A granted allowance stands in
the L1D from the grant on; an L1D with no room for it gives it up at once, as an eviction does (R11, R242).
(DESIGN CHOICE, notes/assumptions/122.md.) -/
def State.serve (s : State) (L : Nat) : Nat → State
  | 0 => s
  | fuel + 1 =>
    match s.counter L with
    | none => s
    | some c =>
      if c.recalling then s
      else match c.queue with
      | [] => if c.holders.isEmpty then s.counterImage L c else s
      | q :: rest =>
        let k := clusterOf q.core
        let decided (s : State) (c : Counter) (v : Nat) : State :=
          ((s.setCounter L { c with queue := rest }).send (.counterReply L q.core v)).serve L fuel
        let round : State :=
          let s := s.setCounter L { c with recalling := true, asked := s.time, queue := c.queue.map (fun q => { q with snap := true }) }
          c.holders.foldl (fun s h => s.send (.counterRecall L h)) s
        match q.op with
        | .cdec n =>
          if n ≤ c.reserve then
            let g := grantOf c k n
            let s := match g.2, c.holders with
              | true, h :: _ => s.send (.counterRecall L h)
              | _, _ => s
            let s := if n < g.1 then s.putAllowance k L (g.1 - n) else s
            decided s { c with reserve := c.reserve - g.1, holders := if n < g.1 then addTo c.holders k else c.holders } 1
          else if c.holders.isEmpty then decided s c 0
          else round
        | .cread => if c.holders.isEmpty then decided s c c.reserve else round
        | .cinit v chunk =>
          if c.holders.isEmpty then
            let s := s.send (.counterReply L q.core 0)
            if chunk = 0 then ((s.initCounter L v 0 q.label [] []).ended L rest c.held).serve L fuel
            else (s.initCounter L v chunk q.label rest c.held).serve L fuel
          else round

/-- Fuel for every request in W and every CDEC held. -/
def State.serveAll (s : State) (L : Nat) : State :=
  match s.counter L with
  | none => s
  | some c => s.serve L (c.queue.length + c.held.length + 1)

/-- A request of core n reaches the home: its cluster's allowance comes with it, it joins W, and Serve runs (R242, R244).
(DEDUCED, notes/assumptions/40.md.) -/
def State.counterRequest (s : State) (L n : Nat) (op : CounterOp) (l : Label) : State :=
  let k := clusterOf n
  let s := match s.allowance k L with
    | some a => (s.dropL1 k L).takeHome L k a
    | none => s
  match s.counter L with
  | some c => (s.setCounter L { c with queue := c.queue ++ [⟨n, op, l, false⟩] }).serveAll L
  | none => s.afresh L [⟨n, op, l, false⟩]

/-- The end of a recall round: the snapshot is decided with the exact value, then Serve (R245). -/
def State.roundPass (s : State) (L : Nat) (snap : List CReq) : State :=
  match snap with
  | [] =>
    match s.counter L with
    | none => s
    | some c => (s.setCounter L { c with recalling := false }).serveAll L
  | q :: r =>
    match s.counter L with
    | none => s.afresh L (q :: r)
    | some c =>
      let c := { c with queue := c.queue.filter (fun p => p.core != q.core) }
      let decided (c : Counter) (v : Nat) : State := ((s.setCounter L c).send (.counterReply L q.core v)).roundPass L r
      match q.op with
      | .cdec n => if n ≤ c.reserve then decided { c with reserve := c.reserve - n } 1 else decided c 0
      | .cread => decided c c.reserve
      | .cinit v chunk =>
        if chunk = 0 then
          (((s.send (.counterReply L q.core 0)).initCounter L v 0 q.label [] []).ended L c.queue c.held).serveAll L
        else decided { c with reserve := v, chunk := chunk } 0

def State.roundComplete (s : State) (L : Nat) : State :=
  match s.counter L with
  | some c => if c.recalling && c.holders.isEmpty then s.roundPass L (c.queue.filter (·.snap)) else s
  | none => s

/-- The allowances of cluster k return home (R242, R252). -/
def State.returnAllowances (s : State) (k : Nat) : State :=
  (s.cluster k).l1.foldl (fun s e => match e.2 with
    | .a n => ((s.dropL1 k e.1).takeHome e.1 k n).serveAll e.1
    | _ => s) s

/-! ### The L1D (R251) -/

/-- The CDECs that cluster k's L1D holds are served from its allowance, in arrival order; one that it does not cover becomes the
cluster's next request. -/
def State.serveHeld (s : State) (k L : Nat) : Nat → State
  | 0 => s
  | fuel + 1 =>
    match s.counter L with
    | none => s
    | some c =>
      match c.held.find? (fun h => clusterOf h.1 == k) with
      | none => s
      | some (m, n) =>
        if s.outstanding k L then s
        else
          let s := s.setCounter L { c with held := c.held.filter (fun h => h.1 != m) }
          match s.allowance k L with
          | some a =>
            if n ≤ a then ((s.setL1 k L (.a (a - n))).grant m 1).serveHeld k L fuel
            else s.counterRequest L m (.cdec n) labelTrue
          | none => s.counterRequest L m (.cdec n) labelTrue

/-- A reply reaches core c's L1D: its instruction completes with the value, and the CDECs held there are served.
(DEDUCED, notes/assumptions/40.md.) -/
def State.counterReply (s : State) (L c v : Nat) : State :=
  let s := { s with flight := s.flight.filter (fun m => match m with
    | .counterReply l d _ => !(l == L && d == c)
    | _ => true) }
  let s := s.grant c (BitVec.ofNat 64 v)
  match s.counter L with
  | some k => s.serveHeld (clusterOf c) L (k.held.length + 1)
  | none => s

/-! ### The instructions (R250, R251) -/

/-- The checks 1 to 5 of R250: where the line is. (DEDUCED, notes/assumptions/36.md.) -/
def resolveCounter (acc : Access) (ea : Word) : M Loc := do
  if ea.toNat % 64 ≠ 0 then raiseAddr .misalign ea.toNat
  let s ← get
  match s.target s.cur ea with
  | .global va =>
    let loc ← translateMe acc va
    match loc.place with
    | .tracked =>
      if inRegion (s.ctx (s.ctxOf s.cur)).lspace va 64 then raiseAddr .protect va
      return loc
    | _ => raiseAddrValue .protect va
  | _ => raiseAddr .protect ea.toNat

/-- Check 6: a value operand under TRUE. (DEDUCED, notes/assumptions/36.md.) -/
def plainValue (ea : Word) (l : Label) : M Unit := do
  if l != labelTrue then raiseAddr .labelPlain ea.toNat

/-- Check 7: the home finds a counter. -/
def needCounter (ea : Word) (L : Nat) : M Unit := do
  if !(← get).isCounter L then raiseAddrValue .protect ea.toNat

/-- The value of a reply on its way to the current core. -/
def replyFor (L : Nat) : M (Option Nat) := do
  let s ← get
  return s.flight.findSome? (fun m => match m with
    | .counterReply l c v => if l = L ∧ c = s.cur then some v else none
    | _ => none)

/-- The reply to the current core, where it has come, is taken; else the core stays STALLED. -/
def awaitReply (L : Nat) (done : Word → M Unit) : M Unit := do
  match ← replyFor L with
  | some v =>
    modS (fun s => s.counterReply L s.cur v)
    observeMe
    done (BitVec.ofNat 64 v)
  | none => holdOn .stalled (.reply L)

/-- A request to the home under a guard's factor; the core waits for its reply. -/
def askHome (L : Nat) (op : CounterOp) (done : Word → M Unit) : M Unit := do
  awaitHome L
  modS (fun s => s.counterRequest L s.cur op s.me.guardLabel)
  awaitReply L done

/-- A counter instruction that has asked: it completes with its reply, or finds no counter (R251); else it begins. -/
def counterResumes (a : GReg) (done : Word → M Unit) (begin : M Unit) : M Unit := do
  let c ← getMe
  match c.wait with
  | .granted v =>
    observeMe
    done v
  | .reply L => awaitReply L done
  | .noCounter => raiseAddrValue .protect (c.rg a).toNat
  | _ => begin

/-- A counter instruction issues with the store buffer empty and the core's queued stores performed (R251). -/
def counterReady : M Unit := do
  let c ← getMe
  needs (c.sb.isEmpty && !c.tileMem && !c.mstQueued)

def execCinit (a b e : GReg) (s : State) : Step :=
  runI (.cinit a b e) (counterResumes a (fun _ => advance) (do
    let c ← getMe
    let loc ← resolveCounter .write (c.rg a)
    let L := loc.key
    plainValue (c.rg a) (c.lg b)
    plainValue (c.rg a) (c.lg e)
    if c.rg e = 0 then plainCheck (c.rg a) loc c.guardLabel
    counterReady
    let s ← get
    if !s.isCounter L then toBank s.cur ⟨.tracked, L, false⟩
    askHome L (.cinit (c.rg b).toNat (c.rg e).toNat) (fun _ => advance))) s

/-- CDEC: its label is formed before it draws or asks, so that its traps are precise (R88, R251). -/
def execCdec (d a b : GReg) (s : State) : Step :=
  runI (.cdec d a b) (counterResumes a (resultKept d) (do
    let c ← getMe
    let L := (← resolveCounter .write (c.rg a)).key
    plainValue (c.rg a) (c.lg b)
    counterReady
    let n := (c.rg b).toNat
    if n = 0 then result d 1 [c.lg a]
    else
      needCounter (c.rg a) L
      let f ← formEarly d [c.lg a]
      modMe (fun c => { c with formed := (f.label, f.cut) })
      let s ← get
      let k := clusterOf s.cur
      if s.outstanding k L then
        modS (fun s => match s.counter L with
          | some q => s.setCounter L { q with held := q.held ++ [(s.cur, n)] }
          | none => s)
        holdOn .stalled (.reply L)
      else
        let m := (s.allowance k L).getD 0
        if n ≤ m then
          modS (fun s => s.setL1 k L (.a (m - n)))
          observeMe
          resultKept d 1
        else askHome L (.cdec n) (resultKept d))) s

/-- CINC: the reserve saturates at 2^64 − 1 (R251). -/
def execCinc (a b : GReg) (s : State) : Step :=
  runI (.cinc a b) (do
    let c ← getMe
    let L := (← resolveCounter .write (c.rg a)).key
    plainValue (c.rg a) (c.lg b)
    counterReady
    needCounter (c.rg a) L
    awaitHome L
    modS (fun s =>
      let k := clusterOf s.cur
      let s := match s.allowance k L with
        | some m => (s.dropL1 k L).takeHome L k m
        | none => s
      match s.counter L with
      | some q => (s.setCounter L { q with reserve := min (q.reserve + (c.rg b).toNat) (2 ^ 64 - 1) }).serveAll L
      | none => s)
    advance) s

def execCread (d a : GReg) (s : State) : Step :=
  runI (.cread d a) (counterResumes a (resultKept d) (do
    let c ← getMe
    let L := (← resolveCounter .write (c.rg a)).key
    counterReady
    needCounter (c.rg a) L
    let f ← formEarly d [c.lg a]
    modMe (fun c => { c with formed := (f.label, f.cut) })
    askHome L .cread (resultKept d))) s

def execClocal (d a : GReg) (s : State) : Step :=
  runI (.clocal d a) (do
    let c ← getMe
    let L := (← resolveCounter .read (c.rg a)).key
    let s ← get
    let k := clusterOf s.cur
    let v := if s.outstanding k L then 0 else (s.allowance k L).getD 0
    result d (BitVec.ofNat 64 v) [c.lg a]) s

/-! ### The steps -/

/-- COUNTER_REQUEST: a request of core c reaches the line's home, which a Blocking may hold (R354). -/
def execCounterRequest (line c : Nat) (op : CounterOp) (s : State) : Step :=
  onUnits (c < nCores) (fun s =>
    if s.heldLine (lineOf line) then s.later .again else s.counterRequest (lineOf line) c op labelTrue) s

/-- COUNTER_RECALL: cluster k sends its allowance home. -/
def execCounterRecall (line k : Nat) (s : State) : Step :=
  onUnits (k < nClusters) (fun s => match s.allowance k (lineOf line) with
    | some n => (s.dropL1 k (lineOf line)).send (.allowanceReturn (lineOf line) k n)
    | none => s) s

/-- ALLOWANCE_RETURN: n units of cluster k reach the home; outside a round Serve runs (R246). -/
def execAllowanceReturn (line k n : Nat) (s : State) : Step :=
  onUnits (k < nClusters) (fun s => (s.takeHome (lineOf line) k n).serveAll (lineOf line)) s

/-- RECALL_ROUND_COMPLETE: with every holder's return home, the snapshot is decided. -/
def execRecallRoundComplete (line : Nat) (s : State) : Step := .next (s.roundComplete (lineOf line))

/-- COUNTER_REPLY: a reply reaches core c. -/
def execCounterReply (line c value : Nat) (s : State) : Step :=
  onUnits (c < nCores) (fun s => s.counterReply (lineOf line) c value) s

end Sys2Proof.Machine
end

