-- ==== Sys2Proof/Machine/LabelOps.lean ====
section
/-! DEFINITION. The label instructions (R188-R194) and the steps of the Fuller and of the allocating plinth. -/

namespace Sys2Proof.Machine

/-- A label formed by f, and then multiplied by the guard's factor (R61, R190). -/
def formed (f : Who → Policy → M Formed) : M Label :=
  forMe (fun w pol => do
    let r ← f w pol
    foldProd w pol r [(← get).me.guardLabel])

/-- g[D] := v under a label formed by f; with g0 nothing is formed (R92, R190). -/
def labelled (d : GReg) (v : Word) (f : Who → Policy → M Formed) : M Unit := do
  if d ≠ 0 then
    let l ← formed f
    modMe (fun c => c.wg d v l)
  advance

def execAssume (d a : GReg) (n : BitVec 7) (s : State) : Step :=
  runI (.assume d a n) (do
    let c ← getMe
    labelled d (c.rg a) (fun w pol => assumeStep w pol (c.lg a) n.toNat)) s

def execLget (d a : GReg) (s : State) : Step :=
  runI (.lget d a) (do
    let c ← getMe
    result d ((c.lg a).zeroExtend 64) []) s

/-- Whether an ID is valid as data (R189). -/
def idValid (l : Label) : M Bool := do
  if l = labelTrue ∨ l = labelFalse then return true
  else
    let s ← get
    match ← spaceOf (s.who s.cur) with
    | none => return false
    | some base => return decide (l.toNat < (← spaceRead (s.who s.cur) (base + 4) 4))

def execLset (d a b : GReg) (s : State) : Step :=
  runI (.lset d a b) (do
    let c ← getMe
    let l : Label := (c.rg b).truncate 16
    if !(← idValid l) then raiseValue .illegal
    result d (c.rg a) [l]) s

def execLprod (d a b : GReg) (s : State) : Step :=
  runI (.lprod d a b) (do
    let c ← getMe
    result d (c.rg a) [c.lg a, c.lg b]) s

def execLunion (d a b : GReg) (s : State) : Step :=
  runI (.lunion d a b) (do
    let c ← getMe
    labelled d (c.rg a) (fun w pol => union w pol (c.lg a) (c.lg b))) s

def execLeq (d a b : GReg) (s : State) : Step :=
  runI (.leq d a b) (do
    let c ← getMe
    result d (b2w (c.lg a == c.lg b)) []) s

/-! ### Nogoods (R182, R184, R191) -/

/-- A request of the core, whole: recorded, and installed in every Fuller of the context before the instruction completes.
(DEDUCED, notes/assumptions/37.md.) -/
def requestNogoods (envs : List Env) : M Unit := do
  let s ← get
  let w := s.who s.cur
  match ← spaceOf w with
  | none => raiseWord .nogoodFull
  | some base =>
    if !(← recordNogoods w base envs) then raiseWord .nogoodFull
    installAll w

/-- (DEDUCED, notes/assumptions/37.md.) -/
def execNogood (a : GReg) (s : State) : Step :=
  runI (.nogood a) (do
    let s ← get
    let l := s.me.lg a
    if l = labelTrue then raiseValue .illegal
    if l ≠ labelFalse then
      let w := s.who s.cur
      let envs ← labelEnvs w l
      -- an ID that holds nowhere has nothing to record in an active space (R409)
      if !(envs.isEmpty && (← spaceOf w).isSome) then requestNogoods envs
    advance) s

def execNogoode (a b : GReg) (s : State) : Step :=
  runI (.nogoode a b) (do
    let c ← getMe
    let e : Env := c.rg b ++ c.rg a
    if e = 0 then raiseValue .illegal
    requestNogoods [e]
    advance) s

/-! ### Visibility, counts, focus (R187, R192-R194) -/

/-- A predicate written at issue: it waits for the queued tile instructions, which may still read or write it (R88). -/
def predReady (n : PReg) : M Unit := do
  let c ← getMe
  needs (n == 0 || c.vq.isEmpty)

/-- All bits of a predicate set to b, under TRUE and the guard's factor; p0 discards it. -/
def setPred (n : PReg) (b : Bool) : M Unit := do
  if n ≠ 0 then
    let l ← formLabel []
    modMe (fun c => (c.wp n (if b then BitVec.allOnes 256 else 0)).wpl n l)

def execLvis (n : PReg) (a : GReg) (s : State) : Step :=
  runI (.lvis n a) (do
    predReady n
    let c ← getMe
    setPred n (← visible (c.lg a))
    advance) s

def execLsel (d a b : GReg) (s : State) : Step :=
  runI (.lsel d a b) (do
    let c ← getMe
    if ← visible (c.lg a) then result d (c.rg a) [c.lg a]
    else if ← visible (c.lg b) then result d (c.rg b) [c.lg b]
    else result d 0 [labelFalse]) s

/-- A Fuller step that reads an entry: from the product cache, or read and kept (R193). -/
def readStep (w : Who) (op : FullerOp) (l : Label) (f : List Env → Word) : M Word := do
  match pcacheFind ((← get).cluster w.clus).pcache op l labelTrue with
  | some r => return r
  | none =>
    let es ← labelEnvs w l
    if !(l = labelTrue ∨ l = labelFalse ∨ es.isEmpty) then pcacheAdd w op l labelTrue (f es)
    return f es

/-- Half h of environment e of a label, 0 where there is none (R193). -/
def envHalf (es : List Env) (e h : Nat) : Word := ((es.getD e 0) >>> (64 * h)).truncate 64

def execLcount (d a : GReg) (s : State) : Step :=
  runI (.lcount d a) (do
    let s ← get
    let v ← readStep (s.who s.cur) .count (s.me.lg a) (fun es => BitVec.ofNat 64 es.length)
    result d v []) s

def execLenv (d a : GReg) (e : BitVec 4) (h : Bool) (s : State) : Step :=
  runI (.lenv d a e h) (do
    let s ← get
    let v ← readStep (s.who s.cur) (.env e.toNat h.toNat) (s.me.lg a) (fun es => envHalf es e.toNat h.toNat)
    result d v []) s

def execLfocus (a b : GReg) (s : State) : Step :=
  runI (.lfocus a b) (do
    let c ← getMe
    modMe (fun e => { e with focus := c.rg b ++ c.rg a })
    advance) s

/-! ### The steps of the Fuller and the plinth -/

/-- A step made outside a core: at a missing page of a context's region it posts the fault there and is made again at the next
FREPLAY; where something else holds it, at its next turn (R408). (DEDUCED, notes/assumptions/20.md.) -/
def runPlinth (m : M Unit) (s : State) : Step :=
  match m s with
  | .ok _ t => .next t
  | .error (.absent x l va acc level fuller) _ =>
    .next ((s.postFault x l va 0xFFFF (faultKind acc false fuller) level).later (.page x))
  | .error (.trap _ _) _ => .next s
  | .error stop _ => .next ((s.unless stop).later .again)

/-- INTERN_REQUEST: the content is found or gets an ID in the context's active space. -/
def execInternRequest (ctx : Nat) (envs : List Env) (s : State) : Step :=
  let w := s.plinthOf ctx
  runPlinth (do
    match ← spaceOf w with
    | some base =>
      let e := envSort envs
      if !e.isEmpty && e.length ≤ 16 && e != [0] then
        let _ ← internAt w base e
        pure ()
    | none => pure ()) s

/-- FULLER_MISS_COMPLETE: a step of cluster k's Fuller for the context that it runs is formed and kept in the product cache (R178). -/
def execFullerMissComplete (k ctx : Nat) (op : FullerOp) (x y : Label) (s : State) : Step :=
  let w : Who := ⟨ctx, k / 64, k, false⟩
  if !(k < nClusters) then .fault .noSuchUnit
  else if (s.cluster k).ctx != some ctx then .next s
  else runPlinth (do
    match op with
    | .prod => let _ ← prod w .deferred x y
    | .union => let _ ← union w .deferred x y
    | .assume n => let _ ← assumeStep w .deferred x n
    | .count => let _ ← readStep w .count x (fun es => BitVec.ofNat 64 es.length)
    | .env e h => let _ ← readStep w (.env e h) x (fun es => envHalf es e h)) s

/-- NOGOOD_REQUEST: the plinth records the nogoods and sends the change to every cluster of the context (R182, R184). -/
def execNogoodRequest (ctx : Nat) (envs : List Env) (s : State) : Step :=
  let w := s.plinthOf ctx
  runPlinth (do
    match ← spaceOf w with
    | some base =>
      if ← recordNogoods w base envs then
        modS (fun s => (s.clustersOfCtx ctx).foldl (fun s k => s.send (.nogoodInstall k)) s)
    | none => pure ()) s

/-- NOGOOD_INSTALL: cluster k's Fuller takes the current set and drops its product cache (R184). -/
def execNogoodInstall (k : Nat) (s : State) : Step :=
  let w := s.fuller k
  if k < nClusters then runPlinth (do
    let ngs ← match ← spaceOf w with
      | some base => recordedNogoods w base
      | none => pure []
    modS (fun s => s.modCluster k (fun c => c.install ngs))) s
  else .fault .noSuchUnit

/-- DEFERRED_LABEL_FOLD: the tag of the word at a location takes a factor at the write's event, without a trap (R410). -/
def execDeferredLabelFold (ctx loc : Nat) (l : Label) (s : State) : Step :=
  let w := s.plinthOf ctx
  runPlinth (do
    let t ← deferredFold w loc [(← get).tagAt loc, l]
    modS (fun s => { s with tags := s.tags.set labelTrue (loc / 4) t })) s

end Sys2Proof.Machine
end

