-- ==== Sys2Proof/Machine/Matrix.lean ====
section
/-! DEFINITION. The matrix unit (R145-R166): the six instructions, the steps of its queue, its self-test, its throttle; the
summation order of tile products (R41, R42). -/

namespace Sys2Proof.Machine

/-! ### Values (R21, R36, R146) -/

/-- The width in bits of a format code of FMTA or FMTB (R146, R147). -/
def matBits (f : Nat) : Nat := if f < 2 then 16 else if f < 6 then 8 else 4
/-- Whether a format has block scales (R39). -/
def matScaled (f : Nat) : Bool := f == 6 || f == 7
/-- Whether cluster k's unit accepts a pair of formats (R145). -/
def matAccepts (k fa fb : Nat) : Bool := isWide k || (matBits fa == 4 && matBits fb == 4)

/-- The value of an element pattern in a format (R146). -/
def matValue (f c : Nat) : FVal :=
  match f with
  | 0 => fmtBf16.decode c
  | 1 => fmtF16.decode c
  | 2 => fmtE4m3.decode c
  | 3 => fmtE5m2.decode c
  | 4 => .fin (Ex.ofInt (if c < 128 then c else (c : Int) - 256))
  | 5 => .fin (Ex.ofInt c)
  | 6 => fmtE2m1.decode c
  | _ => .fin (nq4Value c)

/-- Plane p, row q of an operand at a location (R146). -/
def State.planeWord (s : State) (loc p q : Nat) : Nat := s.read (loc + 512 * p + 8 * q) 8
/-- Element k of row q: its bits, one from each plane (R146). -/
def State.planeElem (s : State) (loc b q k : Nat) : Nat :=
  (List.range b).foldl (fun n p => n + (if (s.planeWord loc p q).testBit k then 2 ^ p else 0)) 0

/-- The 64 elements of row q of an operand. -/
def State.operandRow (s : State) (loc f q : Nat) : List FVal :=
  (List.range 64).map (fun k => matValue f (s.planeElem loc (matBits f) q k))

/-- The local-store offsets of the block scale and the super-scale that row q uses (R148, R149). -/
def scaleOffset (scl : Word) (q : Nat) : Nat := (sclAddr scl + q * sclKb scl + sclKs scl) % 2 ^ 17
def superOffset (scl sup : Word) (q : Nat) : Nat := (sup.toNat % 2 ^ 17 + 4 * ((q * sclKb scl + sclKs scl) / 256)) % 2 ^ 17

/-- BlockScale × SuperScale of row q in the local store of core n, 1 where the format has none (R39, R41). -/
def State.scaleOf (s : State) (n f : Nat) (scl sup : Word) (q : Nat) : FVal :=
  if matScaled f then
    (FVal.mul (scaleValue (s.read (lsBase n + scaleOffset scl q) 1)) (f32Of (s.read (lsBase n + superOffset scl sup q) 4))).1
  else .fin (Ex.ofInt 1)

/-! ### The tile product (R41, R42) -/

/-- The exact sum of a chunk's products; of an integer's zero the sign is that of the factors. (DESIGN CHOICE, notes/assumptions/110.md.) -/
def chunkSum (a b : List FVal) : FVal :=
  match List.zipWith (fun x y => (FVal.mul x y).1) a b with
  | [] => .fin Ex.zero
  | p :: r => r.foldl (fun s q => (FVal.add false s q).1) p

/-- One chunk added to an accumulator element: scaled exactly, rounded once, and added with one rounding. -/
def chunkStep (sa sb : FVal) (acc : BitVec 32) (a b : List FVal) : BitVec 32 :=
  let t := (FVal.mul (FVal.mul (chunkSum a b) sa).1 sb).1
  BitVec.ofNat 32 (fmtF32.fadd .rne (f32Of acc.toNat) (f32Of (fmtF32.arith .rne t).1)).1

/-- One element of a tile operation: the four chunks in order. -/
def tileElem (sa sb : FVal) (acc : BitVec 32) (a b : List FVal) : BitVec 32 :=
  (List.range 4).foldl (fun v c => chunkStep sa sb v ((a.drop (16 * c)).take 16) ((b.drop (16 * c)).take 16)) acc

/-- 4,096 elements, element (i, j) at 64i + j, zeros unlisted. -/
def accOf (f : Nat → BitVec 32) : AMap (BitVec 32) :=
  (List.range 4096).filterMap (fun e => let v := f e; if v = 0 then none else some (e, v))

/-- The accumulator after an MMA of core n (R156). -/
def State.product (s : State) (n : Nat) (e : MEntry) (acc : AMap (BitVec 32)) : AMap (BitVec 32) :=
  let a := (List.range 64).map (s.operandRow e.locA e.fmtA)
  let b := (List.range 64).map (s.operandRow e.locB e.fmtB)
  let sa := (List.range 64).map (s.scaleOf n e.fmtA e.scla e.supa)
  let sb := (List.range 64).map (s.scaleOf n e.fmtB e.sclb e.supb)
  let one : FVal := .fin (Ex.ofInt 1)
  accOf (fun x => tileElem (sa.getD (x / 64) one) (sb.getD (x % 64) one) (acc.get 0 x) (a.getD (x / 64) []) (b.getD (x % 64) []))

/-- A word of a local store in the order of its address as core n sees it: its own window, then the peers' (R180, R197). -/
def windowRank (n w : Nat) : Nat := let o := 4 * w - 2 ^ 48; if o / 2 ^ 17 = n then o % 2 ^ 17 else o + 2 ^ 17

/-- The words an MMA of core n reads, planes and scales, in ascending address order (R156, R180). -/
def MEntry.words (e : MEntry) (n : Nat) : List Nat :=
  let planes (loc f : Nat) : List Nat := (List.range (128 * matBits f)).map (fun i => loc / 4 + i)
  let scales (f : Nat) (scl sup : Word) : List Nat :=
    if matScaled f then (List.range 64).flatMap (fun q =>
      [(lsBase n + scaleOffset scl q) / 4, (lsBase n + superOffset scl sup q) / 4])
    else []
  mergeBy (windowRank n) 8192 (mergeBy (windowRank n) 8192 (planes e.locA e.fmtA) (planes e.locB e.fmtB))
    (sortBy (windowRank n) (scales e.fmtA e.scla e.supa ++ scales e.fmtB e.sclb e.supb))

/-! ### The queue -/

/-- The accumulator a command names. -/
def Instr.accOf : Instr → Option MReg
  | .mma m _ _ | .mzero m | .mld m _ => some m
  | .mst _ m => some m
  | _ => none
def MEntry.names (e : MEntry) (m : MReg) : Bool := Instr.accOf e.op == some m
def Core.names (c : Core) (m : MReg) : Bool := c.mq.any (fun e => e.names m)

/-- EINFO and the mark of a recorded failure: the word of the command with the mark and the count, or an address (R160, R338, R341). -/
def Mark.info (k : Mark) : Info := match k.addr with
  | some a => .other (BitVec.ofNat 64 a) false
  | none => .other (k.word.zeroExtend 64 ||| (1 <<< 40) ||| (BitVec.ofNat 64 (min k.count 255) <<< 48)) true

/-- A label fault of an earlier command naming m is raised before any effect, and the mark cleared (R160).
(DEDUCED, notes/assumptions/56.md.) -/
def raiseMark (m : MReg) : M Unit := do
  match (← getMe).rmk m with
  | none => pure ()
  | some k =>
    modMe (fun c => c.wmk m none)
    raise (Cause.ofCode k.cause) k.info

/-- What every instruction that names m checks first: the mark, then whether the unit is offline (R160, R164).
(DESIGN CHOICE, notes/assumptions/123.md.) -/
def matrixReady (m : MReg) : M Unit := do
  raiseMark m
  let s ← get
  if (s.cluster (clusterOf s.cur)).offline then raise .machineCheck (.other 0 false)

/-- A command enters the queue, which holds four (R151). -/
def pushM (e : MEntry) : M Unit := do
  needs ((← getMe).mq.length < 4)
  modMe (fun c => { c with mq := c.mq ++ [e] })

/-- The label of m as program order has it at issue: that formed at issue by the youngest queued command that writes it, else the
accumulator's. (DEDUCED, notes/assumptions/45.md.) -/
def Core.issueLabel (c : Core) (m : MReg) : Label :=
  match c.mq.reverse.find? (fun e => e.names m && !(match e.op with
    | .mst _ _ => true
    | _ => false)) with
  | some e => e.label
  | none => c.lm m

/-- A command with nothing sampled. -/
def MEntry.plain (i : Instr) (ovm : Bool) : MEntry :=
  { op := i, word := i.word, locA := 0, locB := 0, locs := [], fmtA := 0, fmtB := 0, scla := 0, sclb := 0, supa := 0, supb := 0
    ovm := ovm, label := labelTrue, prior := labelTrue }

/-! ### The instructions (R156-R161) -/

/-- The location of n bytes that lie in one local-store window (R156). -/
def oneWindow (ea : Word) (n : Nat) : M Nat := do
  let s ← get
  match s.target s.cur ea with
  | .localStore m off =>
    if 2 ^ 17 < off + n then raiseAddr .protect (ea.toNat + (2 ^ 17 - off))
    return lsBase m + off
  | _ => raiseAddr .protect ea.toNat

/-- (DEDUCED, notes/assumptions/45.md.) -/
def execMma (m : MReg) (a b : GReg) (s : State) : Step :=
  runI (.mma m a b) (do
    matrixReady m
    let s ← get
    let c := s.me
    let fa := c.fmta.toNat
    let fb := c.fmtb.toNat
    if !matAccepts (clusterOf s.cur) fa fb then raiseValue .illegal
    let ea := c.rg a
    let eb := c.rg b
    if ea.toNat % 64 ≠ 0 then raiseAddr .misalign ea.toNat
    if eb.toNat % 64 ≠ 0 then raiseAddr .misalign eb.toNat
    let la ← oneWindow ea (512 * matBits fa)
    let lb ← oneWindow eb (512 * matBits fb)
    needs (!c.tileMem && c.mq.length < 4)
    let prior := c.issueLabel m
    let l ← formLabel [prior, c.lg a, c.lg b]
    pushM { op := .mma m a b, word := Instr.word (.mma m a b), locA := la, locB := lb, locs := [], fmtA := fa, fmtB := fb
            scla := c.scla, sclb := c.sclb, supa := c.supa, supb := c.supb, ovm := c.ovm, label := l, prior := prior }
    modMe (fun c => { c with
      scla := if matScaled fa then sclNext c.scla else c.scla
      sclb := if matScaled fb then sclNext c.sclb else c.sclb })
    advance) s

def execMzero (m : MReg) (s : State) : Step :=
  runI (.mzero m) (do
    matrixReady m
    let c ← getMe
    needs (c.mq.length < 4)
    let l ← formLabel []
    pushM { MEntry.plain (.mzero m) c.ovm with label := l, prior := l }
    advance) s

/-- The 256 lines of an accumulator in memory: all in one local-store window, or all in global memory (R158). -/
def accLines (acc : Access) (ea : Word) : M (List Loc) := do
  if ea.toNat % 256 ≠ 0 then raiseAddr .misalign ea.toNat
  let s ← get
  match s.target s.cur ea with
  | .localStore _ _ =>
    let k ← oneWindow ea 16384
    return (List.range 256).map (fun i => ⟨.local, k + 64 * i, false⟩)
  | .global _ =>
    (List.range 256).mapM (fun i => do
      let e := ea + BitVec.ofNat 64 (64 * i)
      match s.target s.cur e with
      | .global _ => resolve acc e 64
      | _ => raiseAddr .protect e.toNat)
  | _ => raiseAddr .protect ea.toNat

/-- Transfers come after the core's earlier accesses of the same bytes, and behind its queued tile instructions of memory (R126,
R158, R405). (DEDUCED, notes/assumptions/47.md.) -/
def transferReady (ea : Word) : M Unit := do
  let c ← getMe
  needs (c.mq.length < 4 && c.sb.isEmpty && !c.tileMem && !c.ntCovers ea.toNat 16384)

/-- (DEDUCED, notes/assumptions/47.md.) -/
def execMld (m : MReg) (a : GReg) (s : State) : Step :=
  runI (.mld m a) (do
    matrixReady m
    let c ← getMe
    let ea := c.rg a
    let locs ← accLines .read ea
    let t ← get
    match (List.range 256).find? (fun i => match locs[i]? with
      | some loc => t.inCounter loc
      | none => false) with
    | some i => raiseAddrValue .protect (ea.toNat + 64 * i)
    | none => pure ()
    (List.range 256).forM (fun i => match locs[i]? with
      | some loc => do if !(← linkReady loc) then raiseAddr .machineCheck (ea.toNat + 64 * i)
      | none => pure ())
    transferReady ea
    let l ← formLabel [c.lg a]
    pushM { MEntry.plain (.mld m a) c.ovm with locA := ea.toNat, locs := locs, label := l, prior := l }
    advance) s

def execMst (a : GReg) (m : MReg) (s : State) : Step :=
  runI (.mst a m) (do
    matrixReady m
    let c ← getMe
    let ea := c.rg a
    let locs ← accLines .write ea
    needs (!c.names m)
    transferReady ea
    let l ← formLabel [c.lm m, c.lg a]
    match (List.range 256).find? (fun i => match locs[i]? with
      | some loc => loc.plain && l != labelTrue
      | none => false) with
    | some i => raiseAddr .labelPlain (ea.toNat + 64 * i)
    | none => pure ()
    pushM { MEntry.plain (.mst a m) c.ovm with locA := ea.toNat, locs := locs, label := l, prior := l }
    advance) s

/-- MWAIT waits until no queued command names md (R159). -/
def execMwait (m : MReg) (s : State) : Step :=
  runI (.mwait m) (do
    matrixReady m
    let c ← getMe
    needs (!c.names m)
    advance) s

/-! ### Self-test, offline (R163, R164) -/

def bits16 (m : BitVec 16) : List Nat := (List.range 16).filter (fun b => m.getLsbD b)

/-- A unit goes offline: queued commands are abandoned, no test is due, and every core that had one takes an asynchronous MACHINE_CHECK. -/
def State.unitOffline (s : State) (k : Nat) : State :=
  let hit := (coresOf k).filter (fun n => !(s.core n).mq.isEmpty)
  let s := (coresOf k).foldl (fun s n => s.modCore n (fun c => { c with mq := [] })) s
  let s := s.modCluster k (fun c => { c with offline := true, mrun := none, mdue := false })
  match hit with
  | [] => s
  | n :: r =>
    let x := s.ctxOf n
    let s := s.machineCheck x 2 k [] (some n)
    match (s.ctx x).async.getLast? with
    | none => s
    | some e => s.modCtx x (fun c => { c with async := c.async ++ r.map (fun m => ⟨some m, e.einfo⟩) })

/-- A known-pattern product between operations: failing sub-arrays are fenced and logged; more than four fenced put the unit
offline. -/
def State.selfTest (s : State) (k : Nat) (failed : BitVec 16) : State :=
  let c := s.cluster k
  let fenced := c.fenced ||| failed
  let s := (bits16 failed).foldl (fun s _ => s.note (.subarray k c.mpass c.mops)) s
  let s := s.modCluster k (fun c => { c with fenced := fenced, mpass := if failed = 0 then c.mops else c.mpass })
  if 4 < (bits16 fenced).length then s.unitOffline k else s

/-- MTEST: the test at once, after the operation in progress and ahead of every queued command, each waiting core's in its turn; an offline
unit answers without one (R161). -/
def execMtest (d : GReg) (s : State) : Step :=
  runI (.mtest d) (do
    let s ← get
    let k := clusterOf s.cur
    modS (fun s => s.modCluster k (fun c => { c with mtest := c.mtest.filter (· != s.cur) }))
    if (s.cluster k).offline then result d 0xFFFFFFFF []
    else
      if (s.cluster k).mrun.isSome then modS (fun s => s.modCluster k (fun c => { c with mtest := c.mtest ++ [s.cur] }))
      needs (s.cluster k).mrun.isNone
      let f := Config.selfTest s.free
      modS (fun s => ({ s with free := s.free + 1 }).selfTest k f)
      let t ← get
      result d (BitVec.ofNat 64 (f.toNat + 2 ^ 16 * (t.cluster k).fenced.toNat)) []) s

/-- MATRIX_SELF_TEST: the test of unit k that is due after 65,536 operations, between operations (R163). -/
def execMatrixSelfTest (k : Nat) (failed : BitVec 16) (s : State) : Step :=
  onUnits (k < nClusters) (fun s =>
    if (s.cluster k).mdue && (s.cluster k).mrun.isNone && !(s.cluster k).offline then
      (s.modCluster k (fun c => { c with mdue := false })).selfTest k failed
    else s) s

/-- THROTTLE_CHANGE: between operations unit k follows its tower (R162, R301). -/
def execThrottleChange (k : Nat) (on : Bool) (s : State) : Step :=
  onUnits (k < nClusters) (fun s =>
    if (s.cluster k).mrun.isNone && (s.tower (k / 512)).throttle == on then s.modCluster k (fun c => { c with throttled := on })
    else s) s

/-! ### The array and the transfer port (R153, R154, R160) -/

/-- Whether core n's head can start on the array: an MMA waits for the core's buffered stores to local-store windows (R156). -/
def Core.arrayReady (c : Core) : Bool := match c.mq with
  | e :: _ => (match e.op with
    | .mma _ _ _ => !c.sb.any (fun x => x.loc.place == .local)
    | .mzero _ => true
    | _ => false)
  | [] => false

/-- The choice of R153 on cluster k: the core that starts, and the unit with its turn. A core whose MMA still waits for its own buffered
stores is passed over (R156). (DESIGN CHOICE, notes/assumptions/115.md.) -/
def State.nextTurn (s : State) (k : Nat) : Option (Nat × Cluster) :=
  let c := s.cluster k
  let turn := c.mturn % 8
  let ready (i : Nat) : Bool := (s.core (8 * k + i)).arrayReady
  if ready turn && c.mgot < c.mweight then some (turn, { c with mgot := c.mgot + 1 })
  else
    match ((List.range 8).map (fun d => (turn + 1 + d) % 8)).find? ready with
    | none => none
    | some i => some (i, { c with mturn := i, mgot := 1, mweight := (s.core (8 * k + i)).mweight.toNat })

/-- Whether an MTEST of cluster k still waits for the array (R161). -/
def State.testWaits (s : State) (k : Nat) : Bool := (s.cluster k).mtest.any (fun n =>
  (s.core n).wait == .busy && (match decode (s.core n).held with
    | .ok (.mtest _) => true
    | _ => false))

/-- MATRIX_OP_START: where the array of unit k is free and no known-pattern product goes first (R161, R163), the next operation starts,
at the rate that its tower has set since the last (R162, R301). -/
def execMatrixOpStart (k : Nat) (s : State) : Step :=
  onUnits (k < nClusters) (fun s =>
    if (s.cluster k).mrun.isSome || (s.cluster k).offline || (s.cluster k).mdue || s.testWaits k then s
    else match s.nextTurn k with
    | none => s
    | some (i, c) => s.setCluster k { c with mrun := some (8 * k + i), throttled := (s.tower (k / 512)).throttle }) s

/-- A fold at the execution of a queued command: the label, or the label fault (R160, R176). A truncation sets LOSS.
(DEDUCED, notes/assumptions/46.md.) -/
def queuedFold (n : Nat) (ovm : Bool) (start : Label) (ls : List Label) : M (Except (Cause × Nat) Label) := fun s =>
  match foldProd (s.who n) (.issue ovm) ⟨start, false⟩ ls s with
  | .ok f t => .ok (.ok f.label) (if f.cut then t.modCore n Core.lose else t)
  | .error (.trap c i) t => .ok (.error (c, match i with
    | .labelWord k => k
    | _ => 0)) t
  | .error e t => .error e t

/-- A fold of a matrix command at execution: under OVM a full space gives FALSE and LOSS, and no label fault (R160).
(DEDUCED, notes/assumptions/46.md.) -/
def matrixFold (n : Nat) (e : MEntry) (ls : List Label) : M (Except (Cause × Nat) Label) := do
  match ← queuedFold n e.ovm e.label ls with
  | .error (.labelSpaceFull, k) =>
    if e.ovm then
      modS (fun s => s.modCore n Core.lose)
      return .ok labelFalse
    else return .error (.labelSpaceFull, k)
  | r => return r

/-- A label fault, or data that could not be had from an address: md stays, it is marked, and every queued command that names it is abandoned
(R160). (DEDUCED, notes/assumptions/46.md.) -/
def markFault (n : Nat) (m : MReg) (e : MEntry) (c : Cause) (count : Nat) (addr : Option Nat := none) : M Unit :=
  modS (fun s => s.modCore n (fun d =>
    { d.wmk m (some ⟨c.code, count, e.word, addr⟩) with mq := d.mq.filter (fun x => !x.names m) }))

/-- The head of core n's queue leaves it. -/
def popM (n : Nat) : M Unit := modS (fun s => s.modCore n (fun c => { c with mq := c.mq.drop 1 }))

/-- The address by which core n sees a word of a local store: in its own window, else in the peer's (R197). -/
def windowEa (n w : Nat) : Nat :=
  let o := 4 * w - 2 ^ 48
  if o / 2 ^ 17 = n then 0x7F0000000000 + o % 2 ^ 17 else 0x7F0000100000 + o / 2 ^ 17 % 8 * 0x20000 + o % 2 ^ 17

/-- An MMA takes effect: its label, then the product; an uncorrectable error in an operand marks md, with the word's address, as a label
fault does (R203, R341). (DESIGN CHOICE, notes/assumptions/116.md.) -/
def finishMma (n : Nat) (m : MReg) (e : MEntry) : M Unit := do
  let s ← get
  let c := s.core n
  let now := c.lm m
  let tags := (e.words n).map (fun w => s.tags.get labelTrue w)
  match ← matrixFold n e ((if now = e.prior then [] else [now]) ++ tags) with
  | .error (k, count) => markFault n m e k count
  | .ok l =>
    match (if s.damaged.isEmpty then none else (e.words n).find? (s.damaged.get false)) with
    | some w => markFault n m e .machineCheck 0 (some (windowEa n w))
    | none =>
    popM n
    modS (fun t => t.modCore n (fun d => d.wm m (s.product n e (c.rm m)) l))

/-- MATRIX_OP_COMPLETE: the operation on unit k's array ends and its accumulator holds the result; an MMA of a core in PAUSE folds its label
behind the other cores' (R262). -/
def execMatrixOpComplete (k : Nat) (s : State) : Step :=
  if k < nClusters then
    match (s.cluster k).mrun with
    | none => .next s
    | some n => runEngine n .matrix (do
      if ((← get).core n).paused.contains .matrix then stall
      match ((← get).core n).mq with
      | [] => pure ()
      | e :: _ =>
        match e.op with
        | .mma m _ _ =>
          needs (!(← get).yieldsFuller n)
          finishMma n m e
          modS (fun s => s.modCluster k (fun c => { c with mops := c.mops + 1, mdue := c.mdue || (c.mops + 1) % 65536 == 0 }))
        | .mzero m =>
          popM n
          modS (fun s => s.modCore n (fun d => d.wm m [] e.label))
        | _ => pure ()
      modS (fun s => s.modCluster k (fun c => { c with mrun := none }))) s
  else .fault .noSuchUnit

/-- The i-th line of an accumulator as its 64 bytes' number (R158). -/
def accLine (acc : AMap (BitVec 32)) (i : Nat) : Nat :=
  (List.range 16).foldl (fun v w => v + (acc.get 0 (16 * i + w)).toNat * 2 ^ (32 * w)) 0

/-- MLD: the 4,096 words read line by line, and their labels folded; a lost link or an uncorrectable error marks md, with the line's
address, as a label fault does (R203, R341, R366). (DESIGN CHOICE, notes/assumptions/116.md.) -/
def finishMld (n : Nat) (m : MReg) (e : MEntry) : M Unit := do
  let up ← e.locs.mapM linkReady
  let lines ← e.locs.mapM (fun loc => loadAt n loc 64)
  match ← matrixFold n e (lines.flatMap (·.labels)) with
  | .error (k, count) => markFault n m e k count
  | .ok l =>
    match (List.range 256).find? (fun i => !up.getD i true || (lines.getD i ⟨0, [], false⟩).bad) with
    | some i => markFault n m e .machineCheck 0 (some (e.locA + 64 * i))
    | none =>
    popM n
    modS (fun s => s.modCore n (fun d => d.wm m (accOf (fun x =>
      BitVec.ofNat 32 ((lines.getD (x / 16) ⟨0, [], false⟩).value / 2 ^ (32 * (x % 16))))) l))

/-- One line of an MST performs, as a store of core n (R158, R243, R366). -/
def storeLine (n : Nat) (loc : Loc) (v : Nat) (l : Label) : M Unit := do
  let s ← get
  let L := lineOf loc.key
  if s.inCounter loc then
    modS (fun s => (s.note (.discardedWrite L)).machineCheck (s.ctxOf n) 3 (homeTower L) [L] none)
  else if !(← linkReady loc) then modS (fun s => s.machineCheck (s.ctxOf n) 5 (s.portTo (endpointOf L)) [L] none)
  else performStore n loc 64 v l

/-- MATRIX_TRANSFER_COMPLETE: the MLD or MST at the head of core c's queue takes effect; the fold of an MLD of a core in PAUSE comes behind
the other cores' (R262). -/
def execMatrixTransferComplete (n : Nat) (s : State) : Step :=
  if n < nCores then runEngine n .matrix (do
    if ((← get).core n).paused.contains .matrix then stall
    match ((← get).core n).mq with
    | [] => pure ()
    | e :: _ =>
      match e.op with
      | .mld m _ =>
        needs (!(← get).yieldsFuller n)
        finishMld n m e
      | .mst _ m =>
        let acc := ((← get).core n).rm m
        (List.range 256).forM (fun i => match e.locs[i]? with
          | some loc => storeLine n loc (accLine acc i) e.label
          | none => pure ())
        popM n
      | _ => pure ()) s
  else .fault .noSuchUnit

end Sys2Proof.Machine
end

