-- ==== Sys2Proof/Machine/Fences.lean ====
section
/-! DEFINITION. Fences (R214, R215), cache maintenance (R216), new code (R217, R218). -/

namespace Sys2Proof.Machine

/-- Every earlier access of the core but STNT has performed (R215); what its engines have been given to do and it has not observed is not
waited for (R406). -/
def performed : M Unit := do
  let c ← getMe
  needs (c.sb.isEmpty && !c.tileMem && !c.mstQueued)

/-- A fence of any scope: every access of the model performs for all parties at once, so a scope wider than the core waits for the
same accesses; CORE waits for the store buffer and, as any fence, for queued tile memory instructions (R126).
(DEDUCED, notes/assumptions/118.md.) -/
def execFence (z : Scope) (s : State) : Step :=
  runI (.fence z) (do
    match z with
    | .core =>
      let c ← getMe
      needs (c.sb.isEmpty && !c.tileMem)
    | _ => performed
    advance) s

/-- FENCE.LX waits for the stores to the local-store windows (R215). -/
def execFenceLx (s : State) : Step :=
  runI .fenceLx (do
    let c ← getMe
    needs (!c.sb.any (fun e => e.loc.place == .local) && !c.tileMem && !c.mstQueued)
    advance) s

def execDrain (s : State) : Step :=
  runI .drain (do
    drainNt
    advance) s

/-- Whether [a, a + n) lies in the 48-bit space outside the windows and holes (R216). (DEDUCED, notes/assumptions/98.md.) -/
def rangeOk (a n : Nat) : Bool := a + n ≤ 2 ^ 48 && (a + n ≤ 0x7F0000000000 || 0x800000000000 ≤ a)

/-- The lines of cluster k's L1D in a range, or all of them for a range beyond 512 KiB (R216).
(DEDUCED, notes/assumptions/98.md.) -/
def State.l1Lines (s : State) (x l k lo n : Nat) : List Nat :=
  let held : List Nat := (s.cluster k).l1.map Prod.fst
  match s.unitsOf x l lo n 64 (2 ^ 19) with
  | some ls => held.filter (fun L => ls.contains L)
  | none => held

/-- L1INV and L1WB on lines of cluster k's L1D, all of them or none: a line that cannot leave now is waited for (R216, R223, R242). -/
def l1Range (inv : Bool) (k : Nat) (lines : List Nat) : M Unit :=
  whole (lines.forM (fun L => do
    let s ← get
    if inv then
      needs (s.canLeave k L)
      modS (fun s => s.evictL1 k L)
    else
      needs (!(((s.l1 k L).any L1Line.isDirty) && s.heldLine L))
      modS (fun s => s.writeBack k L false)))

def maintain (i : Instr) (inv : Bool) (a b : GReg) (s : State) : Step :=
  runI i (do
    let s ← get
    let c := s.me
    let lo := (c.rg a).toNat
    let n := (c.rg b).toNat
    if n = 0 then advance
    else
      if !rangeOk lo n then raiseAddr .protect lo
      needs (!c.sb.any (fun e => overlaps e.ea e.size lo n))
      let k := clusterOf s.cur
      l1Range inv k (s.l1Lines (s.ctxOf s.cur) (layerOf s.cur) k lo n)
      advance) s

def execL1inv (a b : GReg) (s : State) : Step := maintain (.l1inv a b) true a b s
def execL1wb (a b : GReg) (s : State) : Step := maintain (.l1wb a b) false a b s

/-- ICINV over the lines of a range, or over whole instruction caches: every L1I of the partition, and the forwarding buffers that
hold such words, whose cores detach (R217, R311). -/
def State.icRange (s : State) (x l lo n : Nat) : State :=
  let p := (s.ctx x).part
  let lines := s.unitsOf x l lo n 64 (2 ^ 16)
  let hit (pa : Nat) : Bool := match lines with
    | some ls => ls.contains (lineOf pa)
    | none => true
  let ks := s.clusters.filterMap (fun e => match e.2.ctx with
    | some y => if (s.ctx y).part = p then some e.1 else none
    | none => none)
  ks.foldl (fun s k =>
    let s := s.modCluster k (fun c => { c with icache := c.icache.filter (fun e => !hit e.1) })
    (coresOf k).foldl (fun s m =>
      let c := s.core m
      if c.follows m && c.group.buf.any (fun e => (List.range (max 1 e.words.length)).any (fun i =>
          match s.mapped (s.ctxOf m) (layerOf m) (e.pc.toNat + 4 * i) with
          | some pa => hit pa
          | none => false)) then
        s.modCore m (fun c => { c with group := c.group.detach })
      else s) s) s

def execIcinv (a b : GReg) (s : State) : Step :=
  runI (.icinv a b) (do
    let s ← get
    let lo := (s.me.rg a).toNat
    let n := (s.me.rg b).toNat
    if n = 0 then advance
    else
      if !rangeOk lo n then raiseAddr .protect lo
      modS (fun s => s.icRange (s.ctxOf s.cur) (layerOf s.cur) lo n)
      advance) s

def execIsync (s : State) : Step :=
  runI .isync (do
    modMe (fun c => { c with prefetch := [] })
    advance) s

end Sys2Proof.Machine
end

