-- ==== Sys2Proof/Machine/Messages.lean ====
section
/-! DEFINITION. Inboxes (R271-R277) and the watchdog of every wait that has one (R260, R263, R276, R312, R314). -/

namespace Sys2Proof.Machine

/-- The core of a rank of the kernel that core n runs: a started core (R273). -/
def State.coreOfRank (s : State) (n r : Nat) : Option Nat :=
  match (s.cluster (clusterOf n)).kernel with
  | none => none
  | some k =>
    let rec' := (s.kernel k).record
    let q := r / 8
    if r < 8 * recClusters rec' ∧ rankStarts rec' q (r % 8) ∧ (s.kernel k).started.contains q then
      match (s.kernel k).places.find? (fun e => e.1 == q) with
      | some (_, cl) => if (s.cluster cl).kernel == some k then some (8 * cl + r % 8) else none
      | none => none
    else none

def State.inboxOf (s : State) (n i : Nat) : InboxReg := if h : i < 32 then (s.core n).inbox[i] else InboxReg.reset

/-- A message written into a free inbox: one event; a core that sleeps on it wakes (R274, R275). -/
def State.writeInbox (s : State) (n i : Nat) (d : Word) (t : Label) (from' : Nat) : State :=
  if h : i < 32 then
    s.modCore n (fun c => { c with
      inbox := c.inbox.set i ⟨true, d, t, some from'⟩
      wait := if c.wait == .inbox i then .granted 0 else c.wait })
  else s

/-- The oldest SEND that waits for a free inbox writes it and completes (R273, R274). -/
def State.deliver (s : State) (n i : Nat) : State :=
  if (s.inboxOf n i).present then s
  else
    match s.sends.find? (fun p => p.target == n && p.inbox == i) with
    | none => s
    | some p =>
      (({ s with sends := s.sends.filter (fun q => q.sender != p.sender) }).writeInbox n i p.data p.tag p.sender).grant p.sender 0

def execSend (a b : GReg) (i : IReg) (s : State) : Step :=
  runI (.send a b i) (do
    let s ← get
    let c := s.me
    match c.wait with
    | .granted _ => advance
    | _ =>
    match s.sends.find? (fun p => p.sender == s.cur) with
    | some p => holdOn .stalled (.send p.target)
    | none =>
    match s.coreOfRank s.cur (c.rg a).toNat with
    | none => raiseValue .protect
    | some n =>
      if (s.core n).run == .retired then raiseValue .protect
      if !(c.sb.isEmpty && !c.tileMem && !c.mstQueued) then holdOn .stalled (.send n)
      let l ← formLabel [c.lg b, c.lg a]
      let s ← get
      if (s.inboxOf n i.toNat).present || s.sends.any (fun p => p.target == n && p.inbox == i.toNat) then
        modS (fun s => { s with sends := s.sends ++ [⟨s.cur, n, i.toNat, c.rg b, l⟩] })
        holdOn .stalled (.send n)
      else
        modS (fun s => s.writeInbox n i.toNat (c.rg b) l s.cur)
        advance) s

/-- TAKE waits for a message, takes it, and the oldest waiting SEND writes next (R274). -/
def execTake (d : GReg) (i : IReg) (s : State) : Step :=
  runI (.take d i) (do
    let s ← get
    let c := s.me
    let m := c.ri i
    if !m.present then holdOn .sleeping (.inbox i.toNat)
    observeMe
    writeG d m.data [m.tag]
    modMe (fun c => c.wi i { m with present := false })
    modS (fun s => s.deliver s.cur i.toNat)
    advance) s

def execPeeki (d : GReg) (i : IReg) (s : State) : Step :=
  runI (.peeki d i) (do
    let c ← getMe
    let m := c.ri i
    if !m.present then holdOn .sleeping (.inbox i.toNat)
    observeMe
    result d m.data [m.tag]) s

/-- INBOX_DELIVERY: the oldest message waiting for a free inbox of a core is written. -/
def execInboxDelivery (n : Nat) (i : IReg) (s : State) : Step := onUnits (n < nCores) (fun s => s.deliver n i.toNat) s

/-! ### Probes and watchdogs (R260, R276) -/

/-- Whether a core is blocked in SEND, TAKE or PEEKI. -/
def Core.blocked (c : Core) : Bool := match c.wait with
  | .send _ | .inbox _ => true
  | _ => false

/-- The core that a blocked core names (R276). -/
def State.waitsFor (s : State) (n : Nat) : Option Nat :=
  match (s.core n).wait with
  | .send t => some t
  | .inbox i => (s.inboxOf n i).sender
  | _ => none

/-- The cores on the cycle from n back to start, within a number of hops. -/
def State.probe (s : State) (start : Nat) : Nat → Nat → Option (List Nat)
  | 0, _ => none
  | hops + 1, n =>
    match s.waitsFor n with
    | none => none
    | some m =>
      if m = start then some [n]
      else if (s.core m).blocked then (s.probe start hops m).map (n :: ·) else none

/-- A waiting core raises a trap at its instruction: it leaves the queue it stands in (R260, R276, R312, R314). -/
def State.trapWaiting (s : State) (n : Nat) (cause : Cause) : State :=
  let c := s.core n
  let s := match c.wait with
    | .mutex x => if h : x < 16 then
        s.modCluster (clusterOf n) (fun k => k.setMutex ⟨x, h⟩ { k.mutex ⟨x, h⟩ with queue := (k.mutex ⟨x, h⟩).queue.filter (· != n) })
      else s
    | .send _ => { s with sends := s.sends.filter (fun p => p.sender != n) }
    | .gform => s.modCore n (fun c => { c with group := Group.reset })
    | .rejoin _ => s.modCore n (fun c => { c with group := { c.group with st := .detached } })
    | _ => s
  s.trapInstr n c.held cause (.word false)

/-- DEADLOCK_PROBE: core c, blocked for 4,096 cycles, probes; every core on a cycle that is still blocked so raises DEADLOCK (R276). -/
def execDeadlockProbe (c : Nat) (s : State) : Step :=
  onUnits (c < nCores) (fun s =>
    if (s.core c).blocked && (s.core c).since + 4096 ≤ s.time then
      match s.probe c 64 c with
      | some cycle => cycle.foldl (fun t n => if (t.core n).wait == (s.core n).wait then t.trapWaiting n .deadlock else t) s
      | none => s
    else s) s

/-- A wait that ends in WATCHDOG after 2^20 cycles (R260, R263, R276, R303, R312, R314). -/
def Wait.watched : Wait → Bool
  | .line _ | .barrier _ | .mutex _ | .waita _ _ | .send _ | .inbox _ | .gform | .rejoin _ | .launching | .launch _ => true
  | _ => false

/-- WATCHDOG: core c's wait has lasted 2^20 cycles. -/
def execWatchdog (c : Nat) (s : State) : Step :=
  onUnits (c < nCores) (fun s =>
    if (s.core c).wait.watched && (s.core c).since + 2 ^ 20 ≤ s.time then s.trapWaiting c .watchdog else s) s

end Sys2Proof.Machine
end

