-- ==== Sys2Proof/Machine/Copy.lean ====
section
/-! DEFINITION. The copy engine (R278-R292): XCOPY, XPUB, XSTAT and the steps of a command. -/

namespace Sys2Proof.Machine

/-! ### The operands (R280, R281) -/

def optCw (o : BitVec 5) : Bool := o.getLsbD 0
def optFp (o : BitVec 5) : Bool := o.getLsbD 1
def optSh (o : BitVec 5) : Bool := o.getLsbD 2
/-- (DEDUCED, notes/assumptions/48.md.) -/
def optLr (o : BitVec 5) : Bool := o.getLsbD 3
def optPl (o : BitVec 5) : Bool := o.getLsbD 4

/-- A shape word as its command reads it: rows of rb source bytes, the strides, the widths in bits of a source and a destination
element, and the region that .LR names. -/
structure XShape where
  mode : Nat
  st   : Nat
  dt   : Nat
  cvt  : Bool
  b    : Nat
  rows : Nat
  rb   : Nat
  ss   : Nat
  ds   : Nat
  region : Nat
  sbits : Nat
  dbits : Nat
deriving DecidableEq, Repr

def planeWidth (plw : Nat) : Nat := if plw = 0 then 16 else if plw = 1 then 8 else 4

/-- (DEDUCED, notes/assumptions/48.md.) -/
def xshape (o : BitVec 5) (gb : Word) : XShape :=
  let w := gb.toNat
  if optLr o then
    { mode := 0, st := 0, dt := 0, cvt := false, b := 8, rows := 1, rb := w % 2 ^ 32, ss := 0, ds := 0
      region := w / 2 ^ 35 % 2 ^ 27 * 2 ^ 21, sbits := 8, dbits := 8 }
  else
    let st := w / 2 ^ 58 % 16
    let dt := w / 2 ^ 54 % 16
    let cvt := gb.getLsbD 53
    let b := planeWidth (w / 2 ^ 50 % 8)
    let sb := if cvt then tyBits st else if optPl o then b else 8
    let db := if cvt then tyBits dt else sb
    if w / 2 ^ 62 = 0 then
      { mode := 0, st := st, dt := dt, cvt := cvt, b := b, rows := 1, rb := w % 2 ^ 32, ss := 0, ds := 0, region := 0
        sbits := sb, dbits := db }
    else
      { mode := 1, st := st, dt := dt, cvt := cvt, b := b, rows := w / 2 ^ 12 % 2 ^ 12 + 1, rb := w % 2 ^ 12 + 1
        ss := w / 2 ^ 37 % 2 ^ 13 * 16, ds := w / 2 ^ 24 % 2 ^ 13 * 16, region := 0, sbits := sb, dbits := db }

/-- The type of the elements written (R286). -/
def XShape.et (x : XShape) : Nat := if x.cvt then x.dt else x.st
/-- The bytes of a source row of a tile under .PL, and the number of such rows (R285). -/
def XShape.tileRow (x : XShape) : Nat := 64 * x.sbits / 8
def XShape.tileRows (x : XShape) : Nat := x.rows * x.rb / x.tileRow
/-- The bytes of a destination row. -/
def XShape.drow (x : XShape) : Nat := x.rb * x.dbits / x.sbits
/-- The bytes from the first to the last of the source and of the destination. -/
def XShape.srcSpan (x : XShape) : Nat := if x.rb = 0 then 0 else (x.rows - 1) * x.ss + x.rb
def XShape.dstSpan (x : XShape) (o : BitVec 5) : Nat :=
  if x.rb = 0 then 0 else if optPl o then x.tileRows / 64 * (512 * x.b) else (x.rows - 1) * x.ds + x.drow

/-- Check 1 of R282: a reserved or a nonzero zero field, or options that exclude each other. -/
def xcopyBad (o : BitVec 5) (gb gc : Word) : Bool :=
  let w := gb.toNat
  let x := xshape o gb
  ((optCw o || optFp o) && gc.toNat / 2 ^ 17 % 2 ^ 15 != 0) ||
  (if optLr o then
    w / 2 ^ 62 != 0 || w / 2 ^ 32 % 8 != 0 || optPl o || optSh o || optFp o || gb.getLsbD 53
  else
    1 < w / 2 ^ 62 || 12 < x.st || 12 < x.dt || (!x.cvt && x.dt != 0) || (x.cvt && (10 < x.st || 10 < x.dt))
    || (if optPl o then 2 < w / 2 ^ 50 % 8 else w / 2 ^ 50 % 8 != 0)
    || (x.mode == 0 && w / 2 ^ 32 % 2 ^ 18 != 0)
    || (optFp o && (!optCw o || x.et < 6 || 10 < x.et))
    || (optSh o && optPl o) || (optPl o && x.mode == 1 && x.ds != 0))

/-- Whether a .PL shape holds whole tiles of the plane width (R285). -/
def XShape.wholeTiles (x : XShape) : Bool :=
  x.dbits == x.b && (if x.mode = 0 then x.rb % (64 * x.tileRow) == 0 else x.rb == x.tileRow && x.rows % 64 == 0)

/-- Check 3 of R282: the address that MISALIGN names, if any. (DEDUCED, notes/assumptions/49.md.) -/
def xcopyMisaligned (o : BitVec 5) (x : XShape) (gd ga gc : Word) : Option Nat :=
  let s := ga.toNat
  let d := gd.toNat
  let sw := x.sbits / 8
  let dw := x.dbits / 8
  let cpl := gc.toNat % 2 ^ 17
  if x.cvt && (s % sw != 0 || x.ss % sw != 0 || x.rb % sw != 0) then some s
  else if x.cvt && !optPl o && (d % dw != 0 || x.ds % dw != 0) then some d
  else if optPl o && d % 64 != 0 then some d
  else if optPl o && !x.wholeTiles then some s
  else if optLr o && s % 4 != 0 then some s
  else if optLr o && (d % 4 != 0 || x.rb % 4 != 0) then some d
  else if (optCw o || optFp o) && cpl % (if optFp o then 32 else 4) != 0 then some (0x7F0000000000 + cpl)
  else none

/-- Where a range of a command lies: in one window, or in global memory (R282, check 4). -/
inductive Range where
  | empty | window | scratch (off : Nat) | global
deriving DecidableEq, Repr

def State.rangeOf (s : State) (n : Nat) (lo : Word) (len : Nat) : Option Range :=
  if len = 0 then some .empty
  else if 2 ^ 48 < lo.toNat + len then none
  else
    match s.target n lo, s.target n (lo + BitVec.ofNat 64 (len - 1)) with
    | .localStore a oa, .localStore b ob => if a = b ∧ oa + (len - 1) = ob then some .window else none
    | .scratch a, .scratch b => if a + (len - 1) = b then some (.scratch a) else none
    | .global a, .global b => if a < 0x7F0000000000 ∧ 0x800000000000 ≤ b then none else some .global
    | _, _ => none

/-- The first offset of a scratchpad range whose way is not lent (R282, check 5). -/
def State.notLent (s : State) (p off len : Nat) : Option Nat :=
  ((List.range ((off + len - 1) / 2 ^ 20 - off / 2 ^ 20 + 1)).map (fun i => max off ((off / 2 ^ 20 + i) * 2 ^ 20))).find?
    (fun o => !s.lentAt p o)

/-! ### XCOPY, XPUB, XSTAT (R282, R288, R291) -/

/-- (DEDUCED, notes/assumptions/49.md; DEDUCED, notes/assumptions/52.md.) -/
def execXcopy (o : BitVec 5) (d a b g : GReg) (s : State) : Step :=
  runI (.xcopy o d a b g) (do
    raiseRecorded
    let s ← get
    let c := s.me
    let gd := c.rg d
    let ga := c.rg a
    let gb := c.rg b
    let gc := if optCw o || optFp o then c.rg g else 0
    if xcopyBad o gb gc then raiseValue .illegal
    if optLr o && !c.atS then raiseWord .protect
    let x := xshape o gb
    match xcopyMisaligned o x gd ga gc with
    | some e => raiseAddr .misalign e
    | none => pure ()
    let src := s.rangeOf s.cur ga x.srcSpan
    let dst := s.rangeOf s.cur gd (x.dstSpan o)
    if src.isNone then raiseAddr .protect ga.toNat
    if dst.isNone then raiseAddr .protect gd.toNat
    if optPl o && dst != some .window && dst != some .empty then raiseAddr .protect gd.toNat
    if optSh o && dst != some .global && dst != some .empty then raiseAddr .protect gd.toNat
    let scratch (r : Option Range) (base : Word) (len : Nat) : M Unit := do
      match r with
      | some (.scratch off) =>
        match s.notLent (s.partOf s.cur) off len with
        | some bad => raiseAddr .scratchRange (base.toNat + (bad - off))
        | none => pure ()
      | _ => pure ()
    scratch src ga x.srcSpan
    scratch dst gd (x.dstSpan o)
    if dst == some .global && inRegion (s.ctx (s.ctxOf s.cur)).lspace gd.toNat (x.dstSpan o) then raiseAddr .protect gd.toNat
    needs (c.cq.length < 8 && !c.tileMem && !(src == some .window && c.sb.any (fun e => e.loc.place == .local)))
    let l0 ← formLabel [c.lg d, c.lg a, c.lg b, if optCw o || optFp o then c.lg g else labelTrue]
    if optLr o && l0 != labelTrue then raiseWord .illegal
    modMe (fun c => { c with cq := c.cq ++ [
      { pub := false, opts := o, dst := gd, src := ga, shape := gb, cpl := gc, l0 := l0, ovm := c.ovm
        word := Instr.word (.xcopy o d a b g), started := false, row := 0, col := 0, done := false, nans := 0, big := 0, sum := 0
        sumsq := 0, carry := [] }] })
    advance) s

/-- XPUB: as an ST.rel of the core it waits for the earlier accesses; then the core waits for the publish (R288).
(DEDUCED, notes/assumptions/52.md.) -/
def execXpub (a : GReg) (s : State) : Step :=
  runI (.xpub a) (do
    raiseRecorded
    let c ← getMe
    match c.wait with
    | .granted _ => advance
    | _ =>
    if (c.rg a).toNat % 2 ^ 16 ≠ 0 then raiseValue .illegal
    performed
    needs (c.cq.length < 8)
    modMe (fun c => { c with cq := c.cq ++ [
      { pub := true, opts := 0, dst := c.rg a, src := 0, shape := 0, cpl := 0, l0 := labelTrue, ovm := c.ovm
        word := Instr.word (.xpub a), started := false, row := 0, col := 0, done := false, nans := 0, big := 0, sum := 0
        sumsq := 0, carry := [] }] })
    holdOn .stalled .publish) s

/-- The source bytes that a command has not yet moved. -/
def CEntry.left (e : CEntry) : Nat :=
  let x := xshape e.opts e.shape
  if e.pub || e.done then 0 else (x.rows - e.row) * x.rb - e.col

def execXstat (d : GReg) (s : State) : Step :=
  runI (.xstat d) (do
    let c ← getMe
    let running := match c.cq with
      | e :: _ => if e.started then e.left else 0
      | [] => 0
    let paused := !c.cq.isEmpty && c.paused.contains .copy
    let fail := match c.cfail with
      | some m => m.cause * 2 ^ 16 + 2 ^ 15
      | none => 0
    result d (BitVec.ofNat 64 (running % 2 ^ 32 * 2 ^ 32 + fail + (if paused then 2 ^ 14 else 0) + c.cq.length)) []) s

/-! ### The engine's accesses (R283, R289, R290) -/

/-- Where the engine of core n finds a virtual address, translated through its layer's TLB; with the leaf. -/
def engineLoc (n : Nat) (acc : Access) (va : Word) : M (Loc × Word) := do
  let s ← get
  match s.target n va with
  | .localStore m off => return (⟨.local, lsBase m + off, false⟩, 0)
  | .scratch off => return (⟨.scratch, scratchBase + off, false⟩, 0)
  | .global g =>
    let r := s.translate (s.ctxOf n) (layerOf n) none acc g
    modS (fun _ => r.1)
    match r.2 with
    | .held => stall
    | .absent level => throw (.absent (s.ctxOf n) (layerOf n) g acc level false)
    | .trap c _ => raiseWord c
    | .ok leaf pa =>
      let loc := r.1.locOf leaf pa
      if r.1.peerBarred loc then raiseWord .protect
      if !(← linkReady loc) then raiseWord .machineCheck
      return (loc, leaf)
  | _ => raiseWord .protect

/-- A command reads and writes no counter line (R243). -/
def engineMay (loc : Loc) : M Unit := do
  if (← get).inCounter loc then raiseWord .protect

/-- A line without leases read, or about to be written, by the engine at its home slice (R230). -/
def engineHome (loc : Loc) (dirty : Bool) : M Unit := do
  awaitHome (lineOf loc.key)
  modS (fun s => s.homeTake (lineOf loc.key) dirty false)

/-- A read of the engine: at the serving slice, or where the location stands; at home for a line without leases. -/
def engineRead (n : Nat) (loc : Loc) (size : Nat) : M Got := do
  engineMay loc
  if loc.place == .untracked then engineHome loc false
  if loc.place == .tracked then
    let L := lineOf loc.key
    readable (towerOf n) L
    modS (fun s =>
      let a := s.agent (towerOf n) L
      s.setAgent (towerOf n) L { a with rts := max a.rts (max a.wts (s.core n).pts) })
  return (← get).got loc size

/-- A read of data by a command: an uncorrectable error in it ends the command (R289). -/
def engineData (n : Nat) (loc : Loc) (size : Nat) : M Got := do
  let r ← engineRead n loc size
  if r.bad then raiseWord .machineCheck
  return r

/-- A write of the engine: one event at the slice, or where the location stands; at home for a line without leases. -/
def engineWrite (n : Nat) (loc : Loc) (size v : Nat) (tags : List (Nat × Label)) : M Unit := do
  engineMay loc
  if loc.place == .tracked then
    recallLine (lineOf loc.key)
    stampStore n (lineOf loc.key)
  else if loc.place == .untracked then engineHome loc true
  modS (fun s => s.store loc size v tags)

/-- A byte on its way, with the source words it comes from: their addresses and tags. -/
abbrev XByte := Nat × List (Nat × Label)

/-- len bytes read from va on, word by word. -/
def engineBytes (n : Nat) (va : Word) (len : Nat) : M (List XByte) := do
  let a := va.toNat
  let words ← (wordsOf a len).mapM (fun w => do
    let l ← engineLoc n .read (BitVec.ofNat 64 (4 * w))
    let r ← engineData n l.1 4
    return (w, r.value, r.labels.headD labelTrue))
  return (List.range len).map (fun i =>
    let w := (a + i) / 4
    match words.find? (fun e => e.1 == w) with
    | some e => (e.2.1 / 2 ^ (8 * ((a + i) % 4)) % 256, [(w, e.2.2)])
    | none => (0, []))

/-- Source words without repeats, in the order they come. -/
def dedup (l : List (Nat × Label)) : List (Nat × Label) :=
  l.foldl (fun a e => if a.any (fun f => f.1 == e.1) then a else a ++ [e]) []

/-- A fold of a running command: it ends the command where the label cannot be formed. -/
def copyFold (n : Nat) (e : CEntry) (ls : List Label) : M Label := do
  match ← queuedFold n e.ovm e.l0 ls with
  | .ok l => return l
  | .error (c, _) => raiseWord c

/-- The visible frame copied into the shadow, line by line (R288). -/
def fillShadow (n : Nat) (vis hid : Loc) : M Unit :=
  (List.range 1024).forM (fun i => do
    let v : Loc := { vis with key := vis.key / 2 ^ 16 * 2 ^ 16 + 64 * i }
    let h : Loc := { hid with key := hid.key / 2 ^ 16 * 2 ^ 16 + 64 * i }
    let r ← engineData n v 64
    engineWrite n h 64 r.value ((wordsOf h.key 64).zip r.labels))

/-- The location a write of a command goes to: with .SH the page's shadow, filled at its first write (R288). -/
def copyDest (n : Nat) (e : CEntry) (va : Word) : M Loc := do
  let r ← engineLoc n .write va
  if !optSh e.opts then return r.1
  else
    if !pteS r.2 then raiseWord .protect
    let hid : Loc := { r.1 with key := r.1.key ^^^ 2 ^ 16 }
    let page := va.toNat / 2 ^ 16
    let s ← get
    let x := s.ctxOf n
    if !(s.ctx x).shadows.any (fun h => h.page == page) then
      fillShadow n r.1 hid
      modS (fun s => s.modCtx x (fun c =>
        { c with shadows := c.shadows ++ [⟨page, r.1.key / 2 ^ 16 * 2 ^ 16, hid.key / 2 ^ 16 * 2 ^ 16⟩] }))
    return hid

/-- Bytes written from va on, word by word: a word written in full takes the product of L0 and of its source words' tags; one
written in part also its old tag (R283). -/
def copyWrite (n : Nat) (e : CEntry) (va : Word) (bytes : List XByte) : M Unit := do
  let a := va.toNat
  (wordsOf a bytes.length).forM (fun w => do
    let lo := max a (4 * w)
    let hi := min (a + bytes.length) (4 * w + 4)
    let part := (bytes.drop (lo - a)).take (hi - lo)
    let loc ← copyDest n e (BitVec.ofNat 64 lo)
    let old ← if hi - lo < 4 then (do return (← engineRead n { loc with key := loc.key / 4 * 4 } 4).labels) else pure []
    let l ← copyFold n e ((dedup (part.flatMap (·.2))).map (·.2) ++ old)
    if loc.plain && l != labelTrue then raiseWord .labelPlain
    engineWrite n loc (hi - lo) (part.reverse.foldl (fun v b => 256 * v + b.1) 0) [(loc.key / 4, l)])

/-! ### Elements (R284-R286) -/

/-- Bytes grouped into elements of w bytes, with the source words of each; what is left over is no element.
(DEDUCED, notes/assumptions/50.md.) -/
def elements (w : Nat) (l : List XByte) : List XByte :=
  (List.range (l.length / w)).map (fun i =>
    let p := (l.drop (w * i)).take w
    (p.reverse.foldl (fun v b => 256 * v + b.1) 0, p.flatMap (·.2)))

/-- An element as w bytes. -/
def toBytes (w : Nat) (e : XByte) : List XByte := (List.range w).map (fun i => (e.1 / 256 ^ i % 256, e.2))

/-- The bytes of a beat after the conversion of the command (R284). -/
def XShape.convert (x : XShape) (l : List XByte) : List XByte :=
  if x.cvt then
    (elements (x.sbits / 8) l).flatMap (fun e => toBytes (x.dbits / 8) ((tyConvert x.dt .rne (tyValue x.st e.1)).1, e.2))
  else l

/-- One element taken into the fingerprint (R286). (DEDUCED, notes/assumptions/50.md.) -/
def CEntry.fingerprint (e : CEntry) (v : FVal) : CEntry :=
  if v.isNan then { e with nans := e.nans + 1 }
  else
    let mag : FVal := match v with
      | .fin x => .fin x.abs
      | _ => .inf false
    let sq := (FVal.mul v v).1
    { e with
      big := if (fmtF32.decode e.big.toNat).cmp mag == .lt then BitVec.ofNat 32 (fmtF32.arith .rne mag).1 else e.big
      sum := BitVec.ofNat 64 (fmtF64.fadd .rne (fmtF64.decode e.sum.toNat) v).1
      sumsq := BitVec.ofNat 64 (fmtF64.fadd .rne (fmtF64.decode e.sumsq.toNat) sq).1 }

/-- The bytes of a beat taken into the fingerprint, where the command has .FP. -/
def CEntry.take (e : CEntry) (x : XShape) (l : List XByte) : CEntry :=
  if optFp e.opts then
    (elements (tyBits x.et / 8) l).foldl (fun e v => e.fingerprint (tyValue x.et v.1)) e
  else e

/-- The elements of a beat under .PL, b bits each (R24, R285). -/
def tileElems (b : Nat) (l : List XByte) : List XByte :=
  if b = 4 then l.flatMap (fun e => [(e.1 % 16, e.2), (e.1 / 16, e.2)]) else elements (b / 8) l

/-- Half of a plane word, from 32 elements of a tile row: bit k is bit p of element k, and it comes from all of them. -/
def planeHalf (p : Nat) (el : List XByte) : List XByte :=
  let v := (el.zipIdx).foldl (fun n e => n + (if e.1.1.testBit p then 2 ^ e.2 else 0)) 0
  (List.range 4).map (fun i => (v / 256 ^ i % 256, el.flatMap (·.2)))

/-- The elements of a list, 32 at a time. -/
def by32 (l : List XByte) : List (List XByte) := (List.range (l.length / 32)).map (fun i => (l.drop (32 * i)).take 32)

/-! ### Beats (R283, R285, R287) -/

/-- The tag of a word under .LR: the environments that hold no nogood, interned in the new region (R287). -/
def relabel (n : Nat) (region : Nat) (t : Label) : M Label := do
  if t = labelTrue ∨ t = labelFalse then return t
  else
    let w := (← get).who n
    let es ← labelEnvs w t
    let ngs ← filterOf w
    let keep := envSort (es.filter (fun e => !ngs.any (fun g => subset g e)))
    if keep = [] then return labelFalse
    else
      match ← internAt w region keep with
      | .id l => return l
      | .full => raiseWord .labelSpaceFull

/-- Under .PL, elements from number i on of a command's source written into the planes of their tiles, 32 at a time; those that complete no
half of a plane word are left (R283, R285). (DEDUCED, notes/assumptions/51.md.) -/
def copyPlanes (n : Nat) (e : CEntry) (b i : Nat) (el : List XByte) : M (List XByte) := do
  (by32 el).zipIdx.forM (fun g =>
    let k := i + 32 * g.2
    (List.range b).forM (fun p =>
      copyWrite n e (e.dst + BitVec.ofNat 64 (k / 4096 * (512 * b) + 512 * p + k / 64 % 64 * 8 + k / 32 % 2 * 4)) (planeHalf p g.1)))
  return el.drop (el.length / 32 * 32)

/-- One beat of a running command, 64 bytes or the last of a row; the command moved on. A destination word that the row's next beat
completes waits for it, so that each word is written whole (R283). (DEDUCED, notes/assumptions/51.md.) -/
def copyBeat (n : Nat) (e : CEntry) : M CEntry := do
  let x := xshape e.opts e.shape
  let len := min 64 (x.rb - e.col)
  let l ← engineBytes n (e.src + BitVec.ofNat 64 (e.row * x.ss + e.col)) len
  let at' := e.dst + BitVec.ofNat 64 (e.row * x.ds + e.col * x.dbits / x.sbits)
  let more := decide (e.col + len < x.rb)
  let e ←
    if optPl e.opts then do
      let l := x.convert l
      let first := (e.row * x.rb + e.col) * 8 / x.sbits - e.carry.length
      let left ← copyPlanes n e x.b first (e.carry ++ tileElems x.b l)
      pure { e.take x l with carry := left }
    else if optLr e.opts then do
      (elements 4 l).zipIdx.forM (fun w => do
        let t ← relabel n x.region ((w.1.2.headD (0, labelTrue)).2)
        let loc ← copyDest n e (at' + BitVec.ofNat 64 (4 * w.2))
        if loc.plain && t != labelTrue then raiseWord .labelPlain
        engineWrite n loc 4 w.1.1 [(loc.key / 4, t)])
      pure e
    else do
      let l := x.convert l
      let all := e.carry ++ l
      let start := at' - BitVec.ofNat 64 e.carry.length
      let now := if more then all.length - min all.length ((start.toNat + all.length) % 4) else all.length
      copyWrite n e start (all.take now)
      pure { e.take x l with carry := all.drop now }
  if more then return { e with col := e.col + len }
  else return { e with row := e.row + 1, col := 0, done := decide (x.rows ≤ e.row + 1) }

/-- The head of core n's queue replaced. -/
def setHead (n : Nat) (e : CEntry) : M Unit := modS (fun s => s.modCore n (fun c => { c with cq := e :: c.cq.drop 1 }))

/-- A command ends in a failure: later commands are abandoned, the cause is recorded, and a WAITA in progress, or an abandoned XPUB,
issues again (R289). -/
def State.copyFail (s : State) (n : Nat) (c : Cause) (w : HWord) : State :=
  s.modCore n (fun d => { d with
    cq := [], cfail := some ⟨c.code, 0, w, none⟩, paused := d.paused.filter (· != .copy)
    wait := match d.wait with
      | .waita _ _ | .publish => .busy
      | x => x
    run := match d.wait with
      | .waita _ _ | .publish => .stalled
      | _ => d.run })

/-- A step of core n's running command: a trap on the way is its failure, what it wrote before staying. -/
def runCopy (n : Nat) (m : CEntry → M Unit) (s : State) : Step :=
  if n < nCores then
    match (s.core n).cq with
    | [] => .next s
    | e :: _ =>
      runEngine n .copy (fun s =>
        if (s.core n).paused.contains .copy then .error (.hold .stalled .busy) s
        else match m e s with
          | .error (.trap c _) t => .ok () (t.copyFail n c e.word)
          | r => r) s
  else .fault .noSuchUnit

/-- Whether core n's running command has a beat that can move now: one that waits on global memory has not (R278). -/
def State.beatReady (s : State) (n : Nat) : Bool := match (s.core n).cq with
  | [] => false
  | e :: _ => e.started && !e.done && !e.pub && !(s.core n).paused.contains .copy && (match copyBeat n e s with
    | .ok _ _ | .error (.trap _ _) _ => true
    | .error _ _ => false)

/-- The core of cluster k whose command moves the next beat: the next in the round with one that can move (R278). -/
def State.nextBeat (s : State) (k : Nat) : Option Nat :=
  ((List.range 8).map (fun d => 8 * k + ((s.cluster k).round + 1 + d) % 8)).find? s.beatReady

/-- COPY_BEAT: the next beat of core c's running command, where the round gives it to that core; a beat that meets a missing page posts
it (R278, R289). -/
def execCopyBeat (n : Nat) (s : State) : Step :=
  runCopy n (fun e => do
    let s ← get
    if e.started && !e.done && !e.pub && (s.nextBeat (clusterOf n) == some n || !s.beatReady n) then
      setHead n (← copyBeat n e)
      modS (fun s => s.modCluster (clusterOf n) (fun c => { c with round := n % 8 }))) s

/-! ### Start and completion (R278, R286, R288) -/

/-- The pages an XPUB publishes (R288). -/
def CEntry.pages (e : CEntry) : Nat × Nat := (e.dst.toNat / 2 ^ 16 % 2 ^ 32, e.dst.toNat / 2 ^ 48 + 1)

/-- Whether a command of some core writes shadows of the range in context x. -/
def State.shadowsPending (s : State) (x lo n : Nat) : Bool :=
  (s.coresOfCtx x).any (fun m => (s.core m).cq.any (fun e =>
    !e.pub && optSh e.opts &&
      (let a := e.dst.toNat / 2 ^ 16
       let b := (e.dst.toNat + (xshape e.opts e.shape).dstSpan e.opts - 1) / 2 ^ 16
       decide (a < lo + n) && decide (lo ≤ b))))

/-- COPY_COMMAND_START: the head of core c's queue starts; an XPUB waits for the copies into its shadows. -/
def execCopyCommandStart (n : Nat) (s : State) : Step :=
  runCopy n (fun e => do
    let s ← get
    if e.started then pure ()
    else if e.pub then
      if !s.shadowsPending (s.ctxOf n) e.pages.1 e.pages.2 then setHead n { e with started := true, done := true }
    else
      let x := xshape e.opts e.shape
      setHead n { e with started := true, done := decide (x.rb = 0) }) s

/-- The lines of the old frame of a shadow in L1Ds: the cluster and the line. -/
def State.oldFrame (s : State) (h : Shadow) : List (Nat × Nat) :=
  s.clusters.flatMap (fun c => ((c.2.l1.map Prod.fst).filter (fun L => L / 2 ^ 16 == h.visible / 2 ^ 16)).map (fun L => (c.1, L)))

/-- The lines of a 64 KiB frame that comes into sight, stamped as by one store: what reads them comes after the publish, and after what its
core did before (R206, R222, R288). (DEDUCED, notes/assumptions/44.md.) -/
def State.stampFrame (s : State) (f : Nat) : State :=
  if isDram f then
    let mine (e : Nat × Agent) : Bool := e.1 / 4 / 2 ^ 16 == f / 2 ^ 16 && e.2.st != .i
    let p := s.agents.foldl (fun m e => if mine e then max m e.2.rts else m) (max s.latest (s.mts f)) + 1
    ({ s with agents := s.agents.map (fun e => if mine e then (e.1, { e.2 with wts := p, rts := p }) else e) }).raiseMts f p
  else s

/-- What a core of context x has under way to the old frame of a published page, by its virtual address, goes to the frame now in sight:
it performs after the publish (R288). -/
def Core.redirect (h : Shadow) (c : Core) : Core :=
  let swap (l : Loc) : Loc := if l.key / 2 ^ 16 = h.visible / 2 ^ 16 then { l with key := l.key ^^^ 2 ^ 16 } else l
  let at' (ea : Nat) (l : Loc) : Loc := if ea / 2 ^ 16 = h.page then swap l else l
  { c with
    sb := c.sb.map (fun e => { e with
      loc := at' e.ea e.loc
      kind := match e.kind with
        | .memsax x s => .memsax (swap x) s
        | k => k })
    nt := c.nt.map (fun b => { b with
      line := if b.stores.any (fun e => e.ea / 2 ^ 16 == h.page) && b.line / 2 ^ 16 == h.visible / 2 ^ 16 then b.line ^^^ 2 ^ 16 else b.line
      stores := b.stores.map (fun e => { e with loc := at' e.ea e.loc }) })
    mq := c.mq.map (fun e => { e with locs := e.locs.zipIdx.map (fun l => at' (e.locA + 64 * l.2) l.1) }) }

/-- Whether a TLB entry of partition p translates to a frame. -/
def TlbEntry.mapsTo (t : TlbEntry) (p f : Nat) : Bool := t.part == p && leafFrame t.leaf ≤ f && f < leafFrame t.leaf + t.size

/-- A pending shadow becomes the visible frame: SEL flips in memory; TLBs and L1Ds of the partition drop the old frame (R288,
R320). A shadow whose page has no valid shadow-capable leaf any more is dropped without effect.
(DESIGN CHOICE, notes/assumptions/123.md.) -/
def publish (x : Nat) (h : Shadow) : M Unit := do
  let s ← get
  match s.walk x (h.page * 2 ^ 16) with
  | .held => stall
  | .bad => raiseWord .machineCheck
  | .leaf e _ at' =>
    if pteS e then
      recallLine (lineOf at')
      let p := (s.ctx x).part
      let keep (t : TlbEntry) : Bool := !t.mapsTo p h.visible
      modS (fun s =>
        let s := s.plinthWrite at' (e ^^^ (1 <<< 56)).toNat 8
        { s with
          layers := s.layers.map (fun (l : Nat × Layer) => (l.1, { l.2 with tlb := l.2.tlb.filter keep }))
          clusters := s.clusters.map (fun (c : Nat × Cluster) => (c.1, { c.2 with tlb := c.2.tlb.filter keep })) })
      (s.oldFrame h).forM (fun c => do
        needs ((← get).canLeave c.1 c.2)
        modS (fun s => s.evictL1 c.1 c.2))
      modS (fun s => ((s.coresOfCtx x).foldl (fun s n => s.modCore n (Core.redirect h)) s).stampFrame h.hidden)
  | _ => pure ()

/-- The completion record of a command: bytes 4-31 of the fingerprint, then the value; tags TRUE (R281, R286). -/
def State.complete (s : State) (n : Nat) (e : CEntry) : State :=
  let off := e.cpl.toNat % 2 ^ 17
  let word (s : State) (i v : Nat) : State :=
    let k := lsBase n + (off + 4 * i) % 2 ^ 17
    s.store ⟨.local, k, false⟩ 4 v [(k / 4, labelTrue)]
  let s := if optFp e.opts then
      let v := e.nans % 2 ^ 32 * 2 ^ 32 + e.big.toNat * 2 ^ 64 + e.sum.toNat * 2 ^ 128 + e.sumsq.toNat * 2 ^ 192
      [1, 2, 3, 4, 5, 6, 7].foldl (fun s i => word s i (v / 2 ^ (32 * i) % 2 ^ 32)) s
    else s
  if optCw e.opts || optFp e.opts then word s 0 (e.cpl.toNat / 2 ^ 32) else s

/-- COPY_COMMAND_COMPLETE: the running command of core c has moved its last byte; its completion is written and it leaves the
queue. An XPUB publishes, in one event, and its core goes on. -/
def execCopyCommandComplete (n : Nat) (s : State) : Step :=
  runCopy n (fun e => do
    if e.started && e.done then
      modS (fun s => s.modCore n (fun c => { c with cq := c.cq.drop 1 }))
      if e.pub then
        let x := (← get).ctxOf n
        let hit (h : Shadow) : Bool := decide (e.pages.1 ≤ h.page) && decide (h.page < e.pages.1 + e.pages.2)
        (((← get).ctx x).shadows.filter hit).forM (publish x)
        modS (fun s => ((s.modCtx x (fun c => { c with shadows := c.shadows.filter (fun h => !hit h) })).observe n).grant n 0)
      else modS (fun s => s.complete n e)) s

end Sys2Proof.Machine
end

