-- ==== Sys2Proof/Machine/Groups.lean ====
section
/-! DEFINITION. Groups: leaders and followers (R308-R315). -/

namespace Sys2Proof.Machine

def GState.inGroup : GState → Bool
  | .attached | .detached | .rejoining => true
  | _ => false

/-- Whether core n is in a group. -/
def State.inGroup (s : State) (n : Nat) : Bool := GState.inGroup (s.core n).group.st
/-- The other members of core n's group. -/
def State.members (s : State) (n : Nat) : List Nat :=
  let g := (s.core n).group
  ((List.range 16).filter (fun b => g.mask.getLsbD b && b != memberBit n)).map (memberCore n) |>.filter
    (fun m => s.inGroup m && (s.core m).group.mask == g.mask)

/-- GSTAT of core n (R315). -/
def State.groupStat (s : State) (n : Nat) : Word :=
  if s.inGroup n then
    let g := (s.core n).group
    let self := g.st == .attached
    let attached := (s.attachedTo n).foldl (fun w m => w + 2 ^ memberBit m) (if self then 2 ^ memberBit n else 0)
    let index := ((List.range (memberBit n)).filter (fun b => g.mask.getLsbD b)).length
    BitVec.ofNat 64 (g.mask.toNat * 2 ^ 32 + attached * 2 ^ 16 + index * 2 ^ 8
      + (if g.leads n then 4 else 0) + (if self then 2 else 0) + 1)
  else 0

/-! ### Forming (R314) -/

/-- The cores of core n's pair that wait in GFORM with this mask at this address. -/
def State.formers (s : State) (n : Nat) (mask : BitVec 16) (pc : Word) : List Nat :=
  ((List.range 16).map (memberCore n)).filter (fun m =>
    (s.core m).group.st == .forming && (s.core m).group.mask == mask && (s.core m).group.pc == pc)

/-- Waiting cores raise a trap at their GFORM, and no group forms. -/
def State.failForming (s : State) (ms : List Nat) (cause : Cause) : State :=
  ms.foldl (fun s m =>
    let s := s.modCore m (fun c => { c with group := Group.reset })
    s.trapInstr m (s.core m).held cause (.word true)) s

/-- A waiting core of a group that has formed completes its GFORM: its register takes the group state. -/
def State.finishGform (s : State) (m : Nat) : State :=
  let v := s.groupStat m
  match decode (s.core m).held with
  | .ok (.gform d _) => s.modCore m (fun c => (c.wg d v c.guardLabel).past)
  | _ => s.modCore m Core.past

def execGform (d a : GReg) (s : State) : Step :=
  runI (.gform d a) (do
    let s ← get
    let n := s.cur
    let c := s.me
    let v := c.rg a
    let mask : BitVec 16 := v.truncate 16
    if 2 ^ 16 ≤ v.toNat || !mask.getLsbD (memberBit n) then raiseValue .illegal
    if s.inGroup n then raiseValue .illegal
    let named := ((List.range 16).filter (fun b => mask.getLsbD b)).map (memberCore n)
    let k := (s.cluster (clusterOf n)).kernel
    if !named.all (fun m => s.inKernel m && (s.cluster (clusterOf m)).kernel == k) then raiseValue .protect
    let pc := c.here
    -- waiting cores of another mask or address that name this core
    let others := ((List.range 16).map (memberCore n)).filter (fun m =>
      m != n && (s.core m).group.st == .forming && ((s.core m).group.mask != mask || (s.core m).group.pc != pc))
    let broken := others.filter (fun m => (s.core m).group.mask.getLsbD (memberBit n))
    modS (fun s => broken.foldl (fun s m =>
      if (s.core m).group.st == .forming then s.failForming (s.formers n (s.core m).group.mask (s.core m).group.pc) .illegal else s) s)
    if others.any (fun m => mask.getLsbD (memberBit m)) then
      modS (fun s => s.failForming ((s.formers n mask pc).filter (· != n)) .illegal)
      raiseValue .illegal
    modMe (fun c => { c with group := { Group.reset with st := .forming, mask := mask, pc := pc } })
    let s ← get
    if named.all (fun m => (s.formers n mask pc).contains m) then
      modS (fun s =>
        let s := named.foldl (fun s m => s.modCore m (fun c => { c with group := { Group.reset with st := .attached, mask := mask, pc := pc } })) s
        (named.filter (· != n)).foldl (fun s m => s.finishGform m) s)
      let s ← get
      result d (s.groupStat n) []
    else holdOn .gated .gform) s

/-! ### Rejoining (R312) -/

/-- The leader completes a GREJOIN: followers that wait at the same point are attached from its next word on. -/
def State.reattach (s : State) (n id : Nat) (pc : Word) : State :=
  ((s.members n).filter (fun m =>
    (s.core m).group.st == .rejoining && (s.core m).wait == .rejoin id && (s.core m).group.pc == pc)).foldl (fun s m =>
      s.modCore m (fun c => { c.past with group := { c.group with st := .attached, buf := [], fullSince := none } })) s

def execGrejoin (i : BitVec 7) (s : State) : Step :=
  runI (.grejoin i) (do
    let s ← get
    let n := s.cur
    let c := s.me
    let id := i.toNat
    let finish : M Unit := do
      modS (fun s => s.reattach n id c.here)
      advance
    match c.group.st with
    | .attached =>
      if c.group.leads n then
        match c.wait with
        | .granted _ => finish
        | .leaderRejoin j =>
          if j = id ∧ c.since + 4096 ≤ s.time then finish
          else if (s.members n).any (fun m => (s.core m).group.st == .detached) then holdOn .stalled (.leaderRejoin id)
          else finish
        | _ =>
          if (s.members n).any (fun m => (s.core m).group.st == .detached) then holdOn .stalled (.leaderRejoin id)
          else finish
      else advance
    | .detached | .rejoining =>
      modMe (fun c => { c with group := { c.group with st := .rejoining, pc := c.here } })
      holdOn .sleeping (.rejoin id)
    | _ => advance) s

/-! ### Leaving (R313) -/

/-- Core n leaves its group; a leader ends it: detached followers are alone, a waiting GREJOIN completes, and attached followers are
alone behind the words forwarded to them. -/
def State.leaveGroup (s : State) (n : Nat) : State :=
  let g := (s.core n).group
  if GState.inGroup g.st then
    let s := if g.leads n then
        (s.members n).foldl (fun s m => match (s.core m).group.st with
          | .detached => s.modCore m (fun c => { c with group := Group.reset })
          | .rejoining => s.modCore m (fun c => { c.past with group := Group.reset })
          | _ => s.modCore m (fun c => { c with group := { c.group with ended := true } })) s
      else s
    s.modCore n (fun c => { c with group := Group.reset })
  else s

def execGleave (s : State) : Step :=
  runI .gleave (do
    modS (fun s => s.leaveGroup s.cur)
    advance) s

def execGstat (d : GReg) (s : State) : Step :=
  runI (.gstat d) (do
    let s ← get
    result d (s.groupStat s.cur) []) s

/-! ### Timeouts (R310, R312) -/

/-- The words a forwarding buffer holds. -/
def Group.words (g : Group) : Nat := g.buf.foldl (fun n e => n + e.words.length) 0

/-- The attached followers of leader n whose buffers, of 32 words, have no room for n more words (R310). -/
def State.crowded (s : State) (n need : Nat) : List Nat :=
  (s.attachedTo n).filter (fun m => decide (32 < (s.core m).group.words + need))

/-- A buffer has no room from now on. -/
def Group.fillUp (g : Group) (now : Nat) : Group := { g with fullSince := some (g.fullSince.getD now) }

/-- FOLLOWER_BUFFER_TIMEOUT: the buffer of follower c has had no room for 64 cycles; it detaches (R310).
(DEDUCED, notes/assumptions/119.md.) -/
def execFollowerBufferTimeout (n : Nat) (s : State) : Step :=
  onUnits (n < nCores) (fun s =>
    let c := s.core n
    match c.group.fullSince with
    | some t => if c.follows n && t + 64 ≤ s.time then s.modCore n (fun c => { c with group := c.group.detach }) else s
    | none => s) s

/-- LEADER_REJOIN_TIMEOUT: leader c has held in GREJOIN for 4,096 cycles; its GREJOIN completes. -/
def execLeaderRejoinTimeout (n : Nat) (s : State) : Step :=
  onUnits (n < nCores) (fun s =>
    let c := s.core n
    match c.wait with
    | .leaderRejoin _ => if c.since + 4096 ≤ s.time then s.grant n 0 else s
    | _ => s) s

end Sys2Proof.Machine
end

