-- ==== Sys2Proof/Machine/Kernels.lean ====
section
/-! DEFINITION. Kernels and the dispatcher (R293-R307): launch records, queues, placement, entry, LAUNCH, EXIT. -/

namespace Sys2Proof.Machine

/-! ### Launch records (R293, R294) -/

def recEntry (r : List Word) : Nat := (r.getD 0 0).toNat
def recParams (r : List Word) : Word := r.getD 1 0
def recLimg (r : List Word) : Nat := recField r 2 0 48
def recLimgLen (r : List Word) : Nat := recField r 2 48 16
def recClass (r : List Word) : Nat := recField r 3 16 2
def recEnergy (r : List Word) : Nat := recField r 3 18 2
def recKind (r : List Word) : Nat := recField r 3 20 1
def recLocal (r : List Word) : Nat := recField r 3 32 12
/-- SZ1-SZ3 in the places of DOMAIN. -/
def recDomain (r : List Word) : Word := BitVec.ofNat 64 (recField r 4 0 33)
def recFmta (r : List Word) : Nat := recField r 4 36 4
def recFmtb (r : List Word) : Nat := recField r 4 40 4
/-- The initial SHAPE: ROWS and COLS, both zero for the reset shape. -/
def recShape (r : List Word) : Word :=
  if recField r 4 44 7 = 0 ∧ recField r 4 51 9 = 0 then shapeReset
  else BitVec.ofNat 64 (recField r 4 44 7 + 2 ^ 16 * recField r 4 51 9)
def recTag (r : List Word) : BitVec 32 := (r.getD 5 0).truncate 32
/-- Members, slots and patch bytes of a graph record. -/
def recMembers (r : List Word) : Nat := recField r 4 0 6 + 1
def recSlots (r : List Word) : Nat := recField r 4 8 4 + 1
def recPatch (r : List Word) : Nat := 64 * (recField r 4 16 2 + 1)

def depV (d : Word) : Bool := d.getLsbD 63
def depRel (d : Word) : Bool := d.getLsbD 62
def depQueue (d : Word) : Nat := d.toNat / 2 ^ 56 % 16
def depCount (d : Word) : Nat := d.toNat % 2 ^ 48

/-- The bits a KIND 0 record, or a graph record, may have set (R293). (DEDUCED, notes/assumptions/53.md.) -/
def recMask (graph : Bool) (i : Nat) : Word :=
  if graph then
    match i with
    | 0 | 1 => BitVec.allOnes 64
    | 2 => 0xFFFFFFFFFFFF
    | 3 => 0x100000
    | 4 => 0x30F3F
    | 5 => 0xFFFFFFFF
    | _ => 0
  else
    match i with
    | 0 | 1 | 2 => BitVec.allOnes 64
    | 3 => 0x0FFFFFFFFF1F3FFF
    | 4 => 0x0FFFFFF1FFFFFFFF
    | 5 => 0xFFFFFFFF
    | _ => 0xCF00FFFFFFFFFFFF

/-- (DEDUCED, notes/assumptions/53.md.) -/
def recReserved (r : List Word) : Bool := (List.range 8).any (fun i => (r.getD i 0) &&& ~~~(recMask (recKind r == 1) i) != 0)

/-- A dependence that rejects a record; idx is the member index in a graph (R294). -/
def State.depBad (s : State) (x : Nat) (idx : Option Nat) (d : Word) : Bool :=
  (depV d && !depRel d && ((s.ctx x).queues.find? (depQueue d)).isNone) ||
  (depRel d && match idx with
    | none => true
    | some i => i ≤ d.toNat % 64)

/-- Whether a KIND 0 record is rejected (R294). -/
def State.recordBad (s : State) (x : Nat) (idx : Option Nat) (r : List Word) : Bool :=
  let cl := (s.part (s.ctx x).part).desc.clusters
  let wide := (cl.filter isWide).length
  let narrow := (cl.filter (fun k => !isWide k)).length
  let body := recBody r
  let out := recOutcl r
  recReserved r || recKind r != 0 || recClass r == 3 || recCores r == 0 || 9216 < recCores r || 2048 < recLocal r
    || recLocal r < recLimgLen r || (out != 0 && recClass r != 2) || recEntry r % 4 != 0 || !domainOk (recDomain r)
    || 7 < recFmta r || 7 < recFmtb r || !shapeOk (recShape r) || s.depBad x idx (r.getD 6 0) || s.depBad x idx (r.getD 7 0)
    || (match recClass r with
        | 0 => cl.length < body
        | 1 => wide < body
        | _ => narrow < body || wide < out)

/-- Whether a graph record, read with its members, is rejected (R294). -/
def State.graphBad (s : State) (x : Nat) (r : List Word) (members : List (List Word)) : Bool :=
  recReserved r || recEntry r % 64 != 0 || recLimg r % 64 != 0 || members.zipIdx.any (fun m => s.recordBad x (some m.2) m.1)

/-! ### Queues (R295-R297, R302) -/

/-- Whether a dependence of kernel k is met. -/
def State.depMet (s : State) (k : Kernel) (d : Word) : Bool :=
  if !depV d then true
  else if depRel d then
    s.kernels.any (fun e => e.2.ctx == k.ctx && e.2.entry == k.entry && e.2.member == d.toNat % 64 && e.2.st == .done)
  else match (s.ctx k.ctx).queues.find? (depQueue d) with
    | some q => decide (depCount d ≤ q.doneCnt.toNat)
    | none => false

/-- Whether every earlier replay of kernel k's member array is DONE (R302). (DEDUCED, notes/assumptions/54.md.) -/
def State.replayReady (s : State) (k : Kernel) : Bool := match k.array with
  | none => true
  | some a => s.kernels.all (fun e => !(e.2.ctx == k.ctx && e.2.array == some a && e.2.entry < k.entry) || e.2.st == .done)

def KState.placed : KState → Bool
  | .submitted | .waiting | .ready => false
  | _ => true

/-- The queues of a context after a change: an entry all of whose kernels have reached PLACING leaves, and the kernels of the head
are READY or WAITING by their dependences. (DEDUCED, notes/assumptions/28.md.) -/
def State.updateQueues (s : State) (x : Nat) : State :=
  (s.ctx x).queues.foldl (fun (s : State) (e : Nat × LQueue) =>
    let q : LQueue := e.2
    let entries := q.entries.dropWhile (fun n => n.members.all (fun k => KState.placed (s.kernel k).st))
    let s := if entries.length = q.entries.length then s
      else s.modCtx x (fun c => { c with queues := c.queues.put e.1 { q with entries := entries } })
    match entries with
    | [] => s
    | h :: _ => h.members.foldl (fun s id =>
        let k := s.kernel id
        match k.st with
        | .submitted | .waiting =>
          let ok := s.depMet k (k.record.getD 6 0) && s.depMet k (k.record.getD 7 0) && s.replayReady k
          s.modKernel id (fun k => { k with st := if ok then .ready else .waiting })
        | _ => s) s) s

/-- What a LAUNCH captured appended to its queue as an entry: its kernels are SUBMITTED. -/
def State.submit (s : State) (x : Nat) (c : Captured) (slot : Nat) : State :=
  let id := s.nextId
  let ks := c.records.zipIdx.map (fun e => (id + 1 + e.2, e.1, e.2))
  let s := ks.foldl (fun s e =>
    { s with kernels := s.kernels.put e.1 { Kernel.reset with
        ctx := x, queue := c.queue, st := .submitted, record := e.2.1, entry := id, member := e.2.2, gslot := slot, array := c.array } }) s
  let s := { s with nextId := id + 1 + c.records.length }
  let s := match c.array with
    | some a => s.modCtx x (fun d => { d with replays := d.replays.put a (d.replays.get 0 a + 1) })
    | none => s
  let s := s.modCtx x (fun d => match d.queues.find? c.queue with
    | some l => { d with queues := d.queues.put c.queue { l with entries := l.entries ++ [⟨id, ks.map (·.1)⟩] } }
    | none => d)
  s.updateQueues x

/-- The graphs of context x whose patch stands in its slot while they wait for room in their queue: by LAUNCH of a core, or of an
endpoint. -/
def State.inSlots (s : State) (x : Nat) : List Captured :=
  ((s.coresOfCtx x).filterMap (fun n => match (s.core n).wait with
    | .launch c => if c.taken.isSome then some c else none
    | _ => none)) ++ s.waiting.filterMap (fun w => match w.on with
    | .launch _ y c | .launchPage _ y c => if y = x ∧ c.taken.isSome then some c else none
    | _ => none)
/-- The slot of a graph's next replay; 0 for one kernel (R302). (DEDUCED, notes/assumptions/58.md.) -/
def State.nextSlot (s : State) (x : Nat) (c : Captured) : Nat := match c.array with
  | none => 0
  | some a => c.slot0 + 4 * c.patch.length *
      (((s.ctx x).replays.get 0 a + ((s.inSlots x).filter (fun d => d.array == some a)).length) % c.slots)
/-- Whether a slot belongs to an unfinished replay. -/
def State.slotBusy (s : State) (x slot : Nat) : Bool :=
  s.kernels.any (fun e => e.2.ctx == x && e.2.array.isSome && e.2.gslot == slot && e.2.st != .done) ||
  (s.inSlots x).any (fun c => c.taken == some slot)
/-- Whether a queue holds 64 entries. -/
def State.queueFull (s : State) (x q : Nat) : Bool := match (s.ctx x).queues.find? q with
  | some l => decide (64 ≤ l.entries.length)
  | none => false
/-! ### LAUNCH (R303) -/

/-- n bytes from ea on lie in global memory. -/
def inGlobal (ea : Word) (n : Nat) : M Unit := do
  let s ← get
  (wordsOf ea.toNat n).forM (fun w => match s.target s.cur (BitVec.ofNat 64 (4 * w)) with
    | .global _ => pure ()
    | _ => raiseAddr .protect (max ea.toNat (4 * w)))

/-- A load of global memory by LAUNCH: data that cannot be corrected is a MACHINE_CHECK (R203, R303). -/
def launchLoad (ea : Word) (size : Nat) : M Got := do
  inGlobal ea size
  let loc ← resolve .read ea size
  let r ← loadFrom ea loc size false
  if r.bad then raiseAddr .machineCheck ea.toNat
  return r

/-- 64 bytes of global memory as eight words; labels are ignored. -/
def loadLine (ea : Word) : M (List Word) := do
  let r ← launchLoad ea 64
  return (List.range 8).map (fun i => BitVec.ofNat 64 (r.value / 2 ^ (64 * i)))

/-- n bytes of global memory from ea on, as 32-bit words; each has the product of the tags of the words it comes from, and of the guard's
factor (R61, R302). (DEDUCED, notes/assumptions/54.md.) -/
def patchWords (ea n : Nat) (load : Nat → M (Nat × Label)) (fold : List Label → M Label) : M (List (Nat × Label)) := do
  let words ← (wordsOf ea n).mapM (fun w => load (4 * w))
  let off := ea % 4
  (words.zip (words.drop 1 ++ [(0, labelTrue)])).take (n / 4) |>.mapM (fun p => do
    let l ← fold (if off = 0 then [p.1.2] else [p.1.2, p.2.2])
    return if off = 0 then (p.1.1, l) else ((p.1.1 / 2 ^ (8 * off) + p.2.1 * 2 ^ (8 * (4 - off))) % 2 ^ 32, l))

/-- The patch as a LAUNCH of the current core reads it. -/
def loadPatch (ea : Word) (n : Nat) : M (List (Nat × Label)) := do
  inGlobal ea n
  patchWords ea.toNat n (fun a => do
    let r ← launchLoad (BitVec.ofNat 64 a) 4
    return (r.value, r.labels.headD labelTrue)) formLabel

/-- The patch stored into its slot, word by word, as stores of the core; a link that is lost is the LAUNCH's own failure (R302, R366).
(DEDUCED, notes/assumptions/54.md.) -/
def storePatch (slot : Nat) (words : List (Nat × Label)) : M Unit := do
  inGlobal (BitVec.ofNat 64 slot) (4 * words.length)
  let parts ← words.zipIdx.mapM (fun w => do
    let ea := BitVec.ofNat 64 (slot + 4 * w.2)
    let loc ← resolve .write ea 4
    plainCheck ea loc w.1.2
    if !(← linkReady loc) then raiseAddr .machineCheck ea.toNat
    return (⟨.store, ea.toNat, loc, 4, BitVec.ofNat 64 w.1.1, w.1.2⟩ : SbEntry))
  let n := (← get).cur
  parts.forM (performEntry n)

/-- What a LAUNCH to queue q captures of the record at ea, with the checks of R303 from the patch source on. -/
def capture (q : Nat) (ea : Word) : M Captured := do
  let s ← get
  let x := s.ctxOf s.cur
  let r ← loadLine ea
  if recKind r = 0 then
    if (← get).recordBad x none r then raiseValue .illegal
    return ⟨q, [r], none, 1, 0, [], none⟩
  else
    let patch ← loadPatch (recParams r) (recPatch r)
    if recReserved r || recEntry r % 64 != 0 || recLimg r % 64 != 0 then raiseValue .illegal
    let members ← (List.range (recMembers r)).mapM (fun i => loadLine (BitVec.ofNat 64 (recEntry r + 64 * i)))
    if (← get).graphBad x r members then raiseValue .illegal
    return ⟨q, members, some (recEntry r), recSlots r, recLimg r, patch, none⟩

/-- Whether what a LAUNCH captured still needs its slot (R302). -/
def Captured.needsSlot (c : Captured) : Bool := c.array.isSome && c.taken.isNone

/-- A step of an instruction that may not begin anew: where m stalls, the core waits for w with nothing of m done. -/
def stallAs {α : Type} (w : Wait) (m : M α) : M α := fun s => match m s with
  | .error (.hold _ _) _ => .error (.hold .stalled w) s
  | .error (.recalls L) _ => .error (.hold .stalled w) (s.askRecall L)
  | r => r

/-- What the current core's LAUNCH captured: the patch goes into its slot once that is free, then the entry into its queue once that has
room (R303). -/
def enqueue (c : Captured) : M Unit := do
  let s ← get
  let x := s.ctxOf s.cur
  let slot := s.nextSlot x c
  if c.needsSlot then
    if s.slotBusy x slot then holdOn .stalled (.launch c)
    stallAs (.launch c) (storePatch slot c.patch)
  let c := if c.needsSlot then { c with taken := some slot } else c
  if (← get).queueFull x c.queue then holdOn .stalled (.launch c)
  modS (fun s => s.submit x c (c.taken.getD 0))
  advance

/-- A LAUNCH of the current core up to its capture: the checks, then the wait for the earlier accesses (R303). -/
def launchBegins (q : Nat) (ea : Word) : M Captured := do
  let s ← get
  if 16 ≤ q then raiseValue .illegal
  if ea.toNat % 64 ≠ 0 then raiseAddr .misalign ea.toNat
  inGlobal ea 64
  if ((s.ctx (s.ctxOf s.cur)).queues.find? q).isNone then raiseValue .protect
  let _ ← resolve .read ea 64
  performed
  capture q ea

def execLaunch (a b : GReg) (s : State) : Step :=
  runI (.launch a b) (do
    let c ← getMe
    match c.wait with
    | .launch l => enqueue l
    | _ => enqueue (← stallAs .launching (launchBegins (c.rg a).toNat (c.rg b)))) s

/-! ### Placement (R298-R301) -/

/-- Watts of an energy class (R17). -/
def classWatts (e : Nat) : Nat := if e = 0 then 45 else if e = 1 then 70 else if e = 2 then 95 else 115

/-- Whether cluster k is free for a kernel of context x: one of its partition, on an active C layer, with a working unit. -/
def State.freeFor (s : State) (x k : Nat) : Bool :=
  let c := s.cluster k
  (s.part (s.ctx x).part).desc.clusters.contains k && c.kernel.isNone && c.ctx.isNone && !c.offline
    && (s.layer (k / 64)).role == .c && (s.layer (k / 64)).st == .active

/-- How many clusters of a kernel a tower can take: the estimates of the last completed window and of the current one count (R300,
R301). -/
def State.towerRoom (s : State) (r : List Word) (t : Nat) : Nat :=
  let w := s.tower t
  if recEnergy r = 3 && w.hot then 0
  else (64 * w.budget - 64 * w.watts - w.before - w.placed) / classWatts (recEnergy r)

/-- A choice in progress: clusters still wanted for the body and for the outlier columns, and room in each tower. -/
structure Wanted where
  body : Nat
  out  : Nat
  room : List Nat
deriving DecidableEq, Repr

/-- Whether the clusters of a list can meet what is wanted: no set of demands exceeds what the towers can give it (R298).
(DESIGN CHOICE, notes/assumptions/7.md.) -/
def feasible (cls : Nat) (w : Wanted) (ks : List Nat) : Bool :=
  let inTower (p : Nat → Bool) (t : Nat) : Nat := min ((ks.filter (fun k => k / 512 == t && p k)).length) (w.room.getD t 0)
  let sum (p : Nat → Bool) : Nat := ((List.range 4).map (inTower p)).sum
  match cls with
  | 0 => decide (w.body ≤ sum (fun _ => true))
  | 1 => decide (w.body ≤ sum isWide)
  | _ => decide (w.body ≤ sum (fun k => !isWide k)) && decide (w.out ≤ sum isWide) && decide (w.body + w.out ≤ sum (fun _ => true))

/-- Clusters taken in the order of preference, each where the rest can still meet the rest.
(DESIGN CHOICE, notes/assumptions/7.md.) -/
def choose (cls : Nat) (w : Wanted) : List Nat → List Nat
  | [] => []
  | k :: ks =>
    let t := k / 512
    let asOut := cls == 2 && isWide k
    let suits := if asOut then 0 < w.out else 0 < w.body && (cls == 0 || isWide k == (cls == 1))
    let room := w.room.getD t 0
    let w' : Wanted := { body := if asOut then w.body else w.body - 1, out := if asOut then w.out - 1 else w.out
                         room := w.room.set t (room - 1) }
    if suits && 0 < room && feasible cls w' ks then k :: choose cls w' ks else choose cls w ks

/-- The wanted clusters of a kernel, and the free ones, at a decision. -/
def State.wanted (s : State) (r : List Word) : Wanted := ⟨recBody r, recOutcl r, (List.range 4).map (s.towerRoom r)⟩
def State.freeList (s : State) (x : Nat) : List Nat :=
  sortBy (Config.preference s.free) ((s.part (s.ctx x).part).desc.clusters.filter (s.freeFor x))

/-- Whether a kernel fits (R298). -/
def State.fitsNow (s : State) (k : Kernel) : Bool := feasible (recClass k.record) (s.wanted k.record) (s.freeList k.ctx)

/-- Cluster k is given to kernel id as its KCLUS q, and the tower's estimates rise (R297, R300). -/
def State.give (s : State) (id q k : Nat) : State :=
  let n := s.kernel id
  ((s.modCluster k (fun c => { c with kernel := some id, kclus := q, ctx := some n.ctx })).modKernel id
    (fun n => { n with places := n.places ++ [(q, k)] })).modTower (k / 512)
    (fun t => { t with placed := t.placed + classWatts (recEnergy n.record) })

/-- A kernel is placed: KCLUS follows ascending LCLUS, narrow clusters first (R299). -/
def State.place (s : State) (id : Nat) : State :=
  let k := s.kernel id
  let ks := choose (recClass k.record) (s.wanted k.record) (s.freeList k.ctx)
  let order := sortBy s.lclus (ks.filter (fun c => !isWide c)) ++ sortBy s.lclus (ks.filter isWide)
  let s := s.modKernel id (fun k => { k with st := .placing, fits := 0 })
  let s := order.zipIdx.foldl (fun s e => s.give id e.2 e.1) s
  ({ s with free := s.free + 1 }).updateQueues k.ctx

/-- The KCLUS numbers that a bound successor still wants cold: those that no cluster of it or of its predecessor holds (R306). -/
def State.coldWants (s : State) (id : Nat) : List Nat :=
  let k := s.kernel id
  match k.pred with
  | none => []
  | some p => (List.range (recClusters k.record)).filter (fun q =>
      !k.places.any (fun e => e.1 == q) &&
      !(s.kernel p).places.any (fun e => e.1 == q && (s.cluster e.2).kernel == some p))

/-- A context whose kernels that are PLACING go on being placed (R335). -/
def CtxState.places : CtxState → Bool
  | .running | .preempting => true
  | _ => false

/-- Bound successors take free clusters of their class, ahead of every READY kernel, but an E3 kernel none in a tower above T2 (R301,
R306). -/
def State.fillCold (s : State) : State :=
  (s.kernels.map Prod.fst).foldl (fun s id =>
    let k := s.kernel id
    if k.st == .placing && k.pred.isSome && (s.ctx k.ctx).st.places then
      (s.coldWants id).foldl (fun s q =>
        let suits (c : Nat) : Bool :=
          (if recBody k.record ≤ q then isWide c else recClass k.record == 0 || isWide c == (recClass k.record == 1))
            && !(recEnergy k.record == 3 && (s.tower (c / 512)).hot)
        match (s.freeList k.ctx).find? suits with
        | some c => ({ s with free := s.free + 1 }).give id q c
        | none => s) s
    else s) s

/-! ### Decisions (R298) -/

/-- The kernels that are READY in a running queue of a running context, the oldest first. -/
def State.readyKernels (s : State) : List Nat :=
  (s.kernels.filter (fun e => e.2.st == .ready && (s.ctx e.2.ctx).st == .running &&
    (match (s.ctx e.2.ctx).queues.find? e.2.queue with
      | some q => !q.stopped
      | none => false))).map Prod.fst

def State.prioOf (s : State) (id : Nat) : Nat := match (s.ctx (s.kernel id).ctx).queues.find? (s.kernel id).queue with
  | some q => q.prio.toNat
  | none => 0

def State.deficit (s : State) (x : Nat) (p : Fin 4) : Nat := (s.ctx x).deficit[p]
def State.setDeficit (s : State) (x : Nat) (p : Fin 4) (v : Nat) : State :=
  s.modCtx x (fun c => { c with deficit := c.deficit.set p v })

/-- The next context of the ring after x that holds a READY kernel of the priority: the contexts stand in it by their numbers (R298).
(DESIGN CHOICE, notes/assumptions/123.md.) -/
def nextOf (xs : List Nat) (x : Nat) : Nat := (xs.find? (fun y => decide (x < y))).getD (xs.headD x)

/-- The pointer of a priority moves until a kernel is placed: at its context the oldest fitting kernel is placed where its cluster
count is within DEF; each arrival adds 64. -/
def State.deal (s : State) (p : Fin 4) (ready fit : List Nat) : Nat → State
  | 0 => s
  | fuel + 1 =>
    let x := s.ring[p]
    let move : State :=
      let y := nextOf (((ready.filter (fun k => s.prioOf k == p.val)).map (fun k => (s.kernel k).ctx)).mergeSort (· ≤ ·)).eraseDups x
      ({ s with ring := s.ring.set p y }.setDeficit y p (s.deficit y p + 64)).deal p ready fit fuel
    match fit.find? (fun k => (s.kernel k).ctx == x && s.prioOf k == p.val) with
    | some k =>
      let n := recClusters (s.kernel k).record
      if n ≤ s.deficit x p then (s.setDeficit x p (s.deficit x p - n)).place k else move
    | none => move

/-- DISPATCH_DECISION: one in every 64 cycles. Bound successors first; then an aged kernel, or the highest priority by deficits. A READY
kernel that cannot be placed now, for its queue or its context among others, counts afresh. -/
def State.decide (s : State) : State :=
  let s := s.fillCold
  let ready := s.readyKernels
  let fit := ready.filter (fun k => s.fitsNow (s.kernel k))
  let after (s : State) : State := { s with kernels := s.kernels.map (fun (e : Nat × Kernel) =>
    (e.1, if e.2.st == .ready then { e.2 with fits := if fit.contains e.1 then e.2.fits + 1 else 0 } else e.2)) }
  match fit.find? (fun k => 7 ≤ (s.kernel k).fits) with
  | some k => after (s.place k)
  | none =>
    match fit with
    | [] => after s
    | _ :: _ =>
      let p : Fin 4 := Fin.ofNat 4 (fit.foldl (fun m k => max m (s.prioOf k)) 0)
      let s := s.ctxs.foldl (fun s e =>
        if ready.any (fun k => (s.kernel k).ctx == e.1 && s.prioOf k == p.val) then s else s.setDeficit e.1 p 0) s
      after (s.deal p ready fit (32 * (s.ctxs.length + 1)))

/-- (DEDUCED, notes/assumptions/28.md; DEDUCED, notes/assumptions/58.md.) -/
def execDispatchDecision (s : State) : Step :=
  .next (if s.decided ≤ s.time / 64 then { s.decide with decided := s.time / 64 + 1 } else s)

/-- ENERGY_WINDOW: a window of tower t ends with its power and temperature (R300, R301). -/
def execEnergyWindow (t watts celsius : Nat) (s : State) : Step :=
  onUnits (t < 4) (fun s => s.modTower t (fun w =>
    let c : Int := celsius
    { w with
      watts := watts, before := w.placed, placed := 0, temp := c
      throttle := if w.t1 < c then true else if c < w.t1 - 3 then false else w.throttle
      hot := decide (w.t2 < c) })) s

/-! ### Kernel entry (R304) -/

/-- The state of a core at kernel entry: core c of the cluster with KCLUS q. -/
def Core.start (old : Core) (k : Kernel) (q c : Nat) (inherited : Bool) (pts time : Nat) (predTag : BitVec 32) : Core :=
  let r := k.record
  let d := recDomain r
  let level (l : Nat) : Nat := if domSize d l = 0 then 0 else q / domSize d l
  let g6 : Nat := (if inherited then 1 + predTag.toNat * 2 ^ 32 else 0) + (if recBody r ≤ q then 2 else 0)
  let w (v : Nat) : Word := BitVec.ofNat 64 v
  { Core.reset with
    run := .running, since := time, pc := w (recEntry r), pts := pts
    g := ⟨#[0, w (8 * q + c), w (recCores r), recParams r, w c, w (level 1 + level 2 * 2 ^ 16 + level 3 * 2 ^ 32), w g6, w k.gslot,
            0, 0, 0, 0, 0, 0, 0, 0, 0, 0, 0, 0, 0, 0, 0, 0, 0, 0, 0, 0, 0, 0, 0, 0], rfl⟩
    m := if inherited then old.m else Core.reset.m
    ml := if inherited then old.ml else Core.reset.ml
    shape := recShape r, fmta := w (recFmta r), fmtb := w (recFmtb r)
    domain := w (d.toNat + q * 2 ^ 33) }

/-- Every byte of [k, k + n) zero and every word TRUE; words that held an error are repaired (R203). (DEDUCED, notes/assumptions/55.md.) -/
def State.zero (s : State) (k n : Nat) : State :=
  { s with
    damaged := repaired s.damaged k n
    mem := s.mem.filter (fun e => !(k ≤ e.1 && e.1 < k + n))
    tags := s.tags.filter (fun e => !(k ≤ 4 * e.1 && 4 * e.1 < k + n)) }

/-- The image read for a cluster, as words with their tags, through the context's translation, as the copy engine reads (R283, R304). -/
def readImage (cl : Nat) (r : List Word) : M (List (Nat × Label)) :=
  (List.range (16 * recLimgLen r)).mapM (fun i => do
    let b ← engineBytes (8 * cl) (BitVec.ofNat 64 (recLimg r + 4 * i)) 4
    let l ← match dedup (b.flatMap (·.2)) with
      | [e] => pure e.2
      | es => deferredFold ((← get).fuller cl) (lsBase (8 * cl) + 4 * i) (es.map (·.2))
    return (b.reverse.foldl (fun v x => 256 * v + x.1) 0, l))

/-- The event unit of a cluster at kernel entry (R256). -/
def Cluster.resetEvents (c : Cluster) (members : BitVec 8) : Cluster :=
  { c with lines := Vector.replicate 32 ⟨0, 0, 0⟩, bars := Vector.replicate 16 ⟨0, 0, members⟩, mutexes := Vector.replicate 16 ⟨none, []⟩ }

/-- The cores of a cluster start (R304, R306); where the context is being pre-empted, with PEND set (R335).
(DEDUCED, notes/assumptions/55.md.) -/
def State.startCores (s : State) (id q cl : Nat) (inherited : Bool) (image : List (Nat × Label)) : State :=
  let k := s.kernel id
  let on (c : Nat) : Bool := rankStarts k.record q c
  let members : BitVec 8 := (List.range 8).foldl (fun m c => if on c then m ||| coreBit c else m) 0
  let predTag := match k.pred with
    | some p => recTag (s.kernel p).record
    | none => 0
  let pts := s.latest
  let s := if inherited then s
    else (coresOf cl).foldl (fun s n =>
      let s := s.zero (lsBase n) (64 * recLocal k.record)
      image.zipIdx.foldl (fun s e => s.store ⟨.local, lsBase n + 4 * e.2, false⟩ 4 e.1.1 [(lsBase n / 4 + e.2, e.1.2)]) s) s
  let s := s.modCluster cl (fun c => { c.resetEvents members with kernel := some id, kclus := q, ctx := some k.ctx })
  let pending := (s.ctx k.ctx).st == .preempting
  let s := (coresOf cl).foldl (fun s n => s.modCore n (fun c =>
    if on (n % 8) then { c.start k q (n % 8) inherited pts s.time predTag with
      preempt := if pending then 1 else 0, preemptSince := s.time }
    else { (if inherited then { Core.reset with m := c.m, ml := c.ml } else Core.reset) with pts := c.pts })) s
  s.modKernel id (fun k =>
    let started := k.started ++ [q]
    { k with started := started, st := if started.length = recClusters k.record then .running else .placing })

/-- Core n stops for good: it is RETIRED and what it had queued, or had asked of a counter, is abandoned (R297, R335).
(DEDUCED, notes/assumptions/57.md.) -/
def State.abandon (s : State) (n : Nat) : State :=
  let s := { s with
    sends := s.sends.filter (fun p => p.sender != n && p.target != n)
    counters := s.counters.map (fun (c : Nat × Counter) => (c.1, { c.2 with
      queue := c.2.queue.filter (fun q => q.core != n), held := c.2.held.filter (fun h => h.1 != n) }))
    flight := s.flight.filter (fun m => match m with
      | .counterReply _ c _ => c != n
      | _ => true) }
  (s.modCluster (clusterOf n) (fun c => { c with
    mrun := if c.mrun == some n then none else c.mrun, mtest := c.mtest.filter (· != n) })).modCore n
    (fun c => { Core.reset with pts := c.pts })

/-- A cluster is released to the dispatcher. -/
def State.releaseCluster (s : State) (cl : Nat) : State := s.modCluster cl (fun c => { c with kernel := none, ctx := none })

/-- A kernel enters FAULTED: its cores stop, its clusters are released, its queue is STOPPED; an armed stop may be complete with them (R297,
R306, R381). -/
def State.faultKernel (s : State) (id : Nat) : State :=
  let k := s.kernel id
  let cls := (k.places.map Prod.snd).filter (fun c => (s.cluster c).kernel == some id)
  let s := cls.foldl (fun s c => ((coresOf c).foldl State.abandon s).releaseCluster c) s
  let s := s.modKernel id (fun k => { k with st := .faulted })
  ((s.modCtx k.ctx (fun c => match c.queues.find? k.queue with
    | some q => { c with queues := c.queues.put k.queue { q with stopped := true } }
    | none => c)).stopCheck k.ctx).fillCold

/-- CLUSTER_START: the cluster of a kernel's KCLUS q is started, where its context runs or is being pre-empted. A page of the image that
is not present is posted, and the start waits for a FREPLAY; another failure, an error in the image among them, faults the kernel. -/
def execClusterStart (id q : Nat) (s : State) : Step :=
  let k := s.kernel id
  match k.places.find? (fun e => e.1 == q) with
  | none => .next s
  | some (_, cl) =>
    if !(k.st == .placing) || !(s.ctx k.ctx).st.places || k.started.contains q || k.waits.contains q then .next s
    else
      let inherited := k.inherited.contains q
      let w : Who := ⟨k.ctx, cl / 64, cl, false⟩
      let act : M Unit := do
        let image ← if inherited then pure [] else readImage cl k.record
        let ngs ← match ← spaceOf w with
          | some base => recordedNogoods w base
          | none => pure []
        modS (fun s => (s.modCluster cl (fun c => c.install ngs)).startCores id q cl inherited image)
      match act s with
      | .ok _ t => .next t
      | .error (.absent x l va acc level fuller) _ =>
        .next ((s.postFault x l va 0xFFFF (faultKind acc (!fuller) fuller) level).modKernel id
          (fun k => { k with waits := k.waits ++ [q] }))
      | .error (.trap _ _) _ => .next ((s.faultKernel id).note (.kernelFaulted id))
      | .error stop _ => .next (s.unless stop)

/-! ### EXIT, successors, DONE (R305-R307) -/

/-- The successor that a TAG names for a kernel (R306): the oldest READY kernel of the context with it, where it may be bound. -/
def State.successorOf (s : State) (id : Nat) (tag : BitVec 32) : Option Nat :=
  if tag = 0 then none
  else
    let k := s.kernel id
    match s.readyKernels.find? (fun j => (s.kernel j).ctx == k.ctx && recTag (s.kernel j).record == tag) with
    | none => none
    | some j =>
      let r := (s.kernel j).record
      if recClass r = recClass k.record ∧ recOutcl r = recOutcl k.record ∧ recClusters r ≤ recClusters k.record
          ∧ recEnergy r ≤ recEnergy k.record then some j else none

/-- The last core of a cluster of kernel id has retired, naming a successor by a tag. -/
def State.clusterDone (s : State) (id cl : Nat) (tag : BitVec 32) : State :=
  let q := (s.cluster cl).kclus
  let s := match (s.kernel id).successor with
    | some _ => s
    | none => match s.successorOf id tag with
      | some j =>
        ((s.modKernel id (fun k => { k with successor := some j })).modKernel j
          (fun k => { k with st := .placing, pred := some id })).updateQueues (s.kernel id).ctx
      | none => s
  let s := match (s.kernel id).successor with
    | some j =>
      if q < recClusters (s.kernel j).record && (s.kernel j).st == KState.placing then
        (s.give j q cl).modKernel j (fun k => { k with inherited := k.inherited ++ [q] })
      else s.releaseCluster cl
    | none => s.releaseCluster cl
  let s := s.fillCold
  let k := s.kernel id
  if k.started.length = recClusters k.record && k.places.all (fun e => (s.cluster e.2).kernel != some id) then
    s.modKernel id (fun k => { k with st := .succeeded })
  else s

/-- Core n retires (R305, R306): it counts as arrived in its barriers and SYNC levels, its mutexes pass on, cores that wait for it
go on or trap. -/
def State.retire (s : State) (n : Nat) (tag : BitVec 32) : State :=
  let cl := clusterOf n
  let k := (s.cluster cl).kernel
  let s := (s.leaveGroup n).modCore n (fun c => { c with run := .retired, wait := .none, pair := none, frame := none })
  let s := s.retireEvents n
  -- a GFORM that names the core raises PROTECT; a SEND to it, which issues again, too
  let s := ((List.range 16).map (memberCore n)).foldl (fun s m =>
    let g := (s.core m).group
    if g.st == .forming && g.mask.getLsbD (memberBit n) then s.failForming (s.formers m g.mask g.pc) .protect else s) s
  let s := { s with sends := s.sends.filter (fun p => p.target != n) }
  let s := (List.finRange 4).foldl (fun s l => s.syncRelease n l) s
  let s := s.stopCheck (s.ctxOf n)
  match k with
  | none => s
  | some id =>
    if (coresOf cl).all (fun m => (s.core m).run == .retired) then s.clusterDone id cl tag else s

/-- (DEDUCED, notes/assumptions/56.md.) -/
def execExit (a : GReg) (s : State) : Step :=
  runI (.exit a) (do
    raiseMark 0
    raiseMark 1
    raiseMark 2
    raiseMark 3
    raiseRecorded
    let c ← getMe
    if c.inbox.toList.any (·.present) then raiseValue .protect
    modMe (fun c => { c with focus := BitVec.allOnes 128 })
    needs (c.mq.isEmpty && c.cq.isEmpty && c.vq.isEmpty && c.sb.isEmpty)
    drainNt
    modS (fun s => (s.autoRec s.cur (zext ((c.rg a).truncate 32 : BitVec 32)) 65).retire s.cur ((c.rg a).truncate 32))) s

/-- KERNEL_DONE: a SUCCEEDED kernel is DONE; its queue's DONECNT counts an entry when every kernel of it is DONE (R297, R302). -/
def execKernelDone (id : Nat) (s : State) : Step :=
  .next (
    let k := s.kernel id
    if k.st == .succeeded then
      let s := s.modKernel id (fun k => { k with st := .done })
      let s := if s.kernels.all (fun e => !(e.2.ctx == k.ctx && e.2.entry == k.entry) || e.2.st == .done) then
          s.modCtx k.ctx (fun c => match c.queues.find? k.queue with
            | some q => { c with queues := c.queues.put k.queue { q with doneCnt := q.doneCnt + 1 } }
            | none => c)
        else s
      s.updateQueues k.ctx
    else s)

end Sys2Proof.Machine
end

