-- ==== Sys2Proof/Machine/Pages.lean ====
section
/-! DEFINITION. TLBINV and FREPLAY, as instructions and as the host commands (R328-R330), and the end of a translation walk
(R319, R326). -/

namespace Sys2Proof.Machine

/-- The extents of TLBINV (R329). -/
inductive Extent where
  | page (va : Nat) | context | partition
deriving DecidableEq, Repr

/-- Whether a TLBINV of context x of partition p drops an entry. -/
def Extent.drops (e : Extent) (p x : Nat) (t : TlbEntry) : Bool :=
  t.part == p && match e with
  | .page va => t.ctx == x && va / t.size == t.va / t.size
  | .context => t.ctx == x
  | .partition => true

/-- The TLB entries that a TLBINV of context x drops, wherever they are. -/
def State.dropped (s : State) (e : Extent) (x : Nat) : List TlbEntry :=
  (s.clusters.flatMap (fun c => c.2.tlb) ++ s.layers.flatMap (fun l => l.2.tlb)).filter (e.drops (s.ctx x).part x)

/-- Whether an access by a core of context y at a virtual address has used a translation that the TLBINV of context x drops, ts being the
entries dropped; one that used an entry of the page named, replaced since, counts. -/
def Extent.used (e : Extent) (ts : List TlbEntry) (x y ea : Nat) : Bool := match e with
  | .page va => y == x && (ea / 2 ^ 16 == va / 2 ^ 16 || ts.any (fun t => ea / t.size == t.va / t.size))
  | .context => y == x
  | .partition => true

/-- The frames of a partition lose their alias records (R231). -/
def State.clearAliases (s : State) (p : Nat) : State :=
  let rs := (s.part p).desc.ranges
  { s with aliases := s.aliases.filter (fun e => !within rs (e.1 * 2 ^ 16) (e.1 * 2 ^ 16 + 2 ^ 16)) }

/-- The entries leave every L1 and L2 TLB; with partition extent the alias records go (R329). -/
def State.dropTlb (s : State) (e : Extent) (x : Nat) : State :=
  let p := (s.ctx x).part
  let keep (t : TlbEntry) : Bool := !e.drops p x t
  let s := { s with
    clusters := s.clusters.map (fun c => (c.1, { c.2 with tlb := c.2.tlb.filter keep }))
    layers := s.layers.map (fun l => (l.1, { l.2 with tlb := l.2.tlb.filter keep })) }
  if e = .partition then s.clearAliases p else s

/-- The cores of the partition of context x, with their contexts. -/
def State.coresOfPart (s : State) (x : Nat) : List (Nat × Nat) :=
  let p := (s.ctx x).part
  (s.ctxs.filter (fun c => c.2.part == p)).flatMap (fun c => (s.coresOfCtx c.1).map (fun n => (n, c.1)))

/-- Whether core n has an answer of a counter's home under way. -/
def State.awaitsCounter (s : State) (n : Nat) : Bool :=
  s.counters.any (fun c => c.2.queue.any (fun q => q.core == n) || c.2.held.any (fun h => h.1 == n)) ||
  s.flight.any (fun m => match m with
    | .counterReply _ c _ => c == n
    | _ => false)

/-- The address of the counter instruction that a core waits at. -/
def Core.counterEa (c : Core) : Nat := match decode c.held with
  | .ok (.cinit a _ _) | .ok (.cdec _ a _) | .ok (.cread _ a) => (c.rg a).toNat
  | _ => 0

/-- Whether an access of core n that the TLBINV waits for has not performed: a buffered one, a transfer's, a counter request; MEMSAX has a
second address. (DEDUCED, notes/assumptions/82.md.) -/
def State.pendingUse (s : State) (e : Extent) (ts : List TlbEntry) (x n y : Nat) : Bool :=
  let c := s.core n
  let outside (l : Loc) : Bool := l.place != .local && l.place != .scratch
  c.sb.any (fun b => outside b.loc && (e.used ts x y b.ea || (match b.kind with
    | .memsax k _ => ts.any (fun t => leafFrame t.leaf ≤ k.key && k.key < leafFrame t.leaf + t.size)
    | _ => false))) ||
  c.mq.any (fun m => m.locs.zipIdx.any (fun l => outside l.1 && e.used ts x y (m.locA + 64 * l.2))) ||
  (s.awaitsCounter n && e.used ts x y c.counterEa)

/-- Every access that used what a TLBINV of context x drops has performed; then the entries go (R329).
(DEDUCED, notes/assumptions/82.md.) -/
def dropEntries (e : Extent) (x : Nat) : M Unit := do
  let s ← get
  let ts := s.dropped e x
  needs (!(s.coresOfPart x).any (fun c => s.pendingUse e ts x c.1 c.2))
  (s.coresOfPart x).forM (fun c => (s.core c.1).nt.forM (performBuf c.1))
  modS (fun s => s.dropTlb e x)

/-- TLBINV by the current core: as a fence; the entries go (R329). -/
def tlbinv (e : Extent) : M Unit := do
  needS
  performed
  match e with
  | .page va => if 2 ^ 48 ≤ va ∨ inWindows va then raiseAddr .protect va
  | _ => pure ()
  let s ← get
  dropEntries e (s.ctxOf s.cur)
  advance

def execTlbinvPage (a : GReg) (s : State) : Step := runI (.tlbinvPage a) (tlbinv (.page (s.me.rg a).toNat)) s
def execTlbinvContext (s : State) : Step := runI .tlbinvContext (tlbinv .context) s
def execTlbinvPartition (s : State) : Step := runI .tlbinvPartition (tlbinv .partition) s

/-! ### FREPLAY (R330) -/

/-- The buffer of layer l is emptied, and its bits of FBSTAT cleared. -/
def State.emptyBuffer (s : State) (x l : Nat) : State :=
  let b := (s.ctx x).faultBuffer l
  (((s.plinthWrite b 0 4).plinthWrite (b + 4) 0 4).plinthWrite (b + 8) (s.read (b + 8) 4 + 1) 4).modCtx x (fun c =>
    { c with fbstat := c.fbstat &&& ~~~(BitVec.ofNat 64 (2 ^ l + 2 ^ (32 + l))) })

/-- A core in FAULTWAIT runs again: at the word that it holds, or fetching its next word anew (R90, R316). -/
def Core.retried (c : Core) : Core :=
  if c.run == .faultwait then { c with
    run := .running
    wait := match c.wait with
      | .fetch _ => .none
      | _ => .again }
  else c

/-- What a waiting step of a plinth waits for, once the missing page of context x is to be looked for again. -/
def Waits.retried (x : Nat) : Waits → Waits
  | .page y => if y = x then .again else .page y
  | .launchPage e y c => if y = x then .launch e y c else .launchPage e y c
  | w => w

/-- Every access of context x that stands at a missing page is made again, behind the stores that filled it: cores in FAULTWAIT run,
paused engines go on, steps of a plinth that waited are made, and the clusters of a kernel whose image could not be read are started
again (R330, R331). -/
def State.retryAll (s : State) (x : Nat) : State :=
  let s := (s.coresOfCtx x).foldl (fun s n =>
    let c := s.core n
    if c.run == .faultwait || !c.paused.isEmpty then (s.observe n).modCore n (fun c => { c.retried with paused := [] }) else s) s
  { s with
    kernels := s.kernels.map (fun k => (k.1, if k.2.ctx = x then { k.2 with waits := [] } else k.2))
    waiting := s.waiting.map (fun w => if w.on.retried x = w.on then w else { w with on := w.on.retried x, since := s.time }) }

/-- FREPLAY for context x. -/
def State.replay (s : State) (x : Nat) : State :=
  let s := (List.range 32).foldl (fun s l => if (s.ctx x).pend l || (s.ctx x).drop l then s.emptyBuffer x l else s) s
  s.retryAll x

def execFreplay (s : State) : Step :=
  runI .freplay (do
    needS
    performed
    modS (fun s => s.replay (s.ctxOf s.cur))
    advance) s

/-! ### The end of a walk (R319-R322) -/

/-- PAGE_WALK_COMPLETE: the translation that core c waits for ends: a leaf fills the TLBs; a missing page is posted and the core is
in FAULTWAIT, at the word that it holds or about to fetch; another failure traps. (DEDUCED, notes/assumptions/83.md.) -/
def execPageWalkComplete (c : Nat) (va : Word) (acc : Access) (s : State) : Step :=
  onUnits (c < nCores) (fun s =>
    let a := va.toNat % 2 ^ 48
    let active := (s.core c).run == .running || (s.core c).run == .stalled
    if !active then s
    else match s.translate (s.ctxOf c) (layerOf c) (some (clusterOf c)) acc a with
    | (t, .ok _ _) => t
    | (_, .held) => s
    | (_, .absent level) =>
      (s.postFault (s.ctxOf c) (layerOf c) a (s.lcore c) (faultKind acc false false) level).modCore c (fun d =>
        { d with
          run := .faultwait, since := s.time
          wait := if d.wait == .none || acc == .fetch then .fetch (layerOf c) else .fault (layerOf c) })
    | (_, .trap cause e) => s.trapInstr c (s.core c).held cause (.other e false)) s

end Sys2Proof.Machine
end

