-- ==== Sys2Proof/Machine/Stream.lean ====
section
/-! DEFINITION. The bit streams of a core over its own local store (R109-R115). -/

namespace Sys2Proof.Machine

/-- CNT and ADDR of BRPTR, BWPTR (R109). -/
def brCnt (v : Word) : Nat := v.toNat / 2 ^ 32 % 2 ^ 7
def bwCnt (v : Word) : Nat := v.toNat / 2 ^ 32 % 2 ^ 3
def bpAddr (v : Word) : Nat := v.toNat % 2 ^ 17
def bpOf (cnt addr : Nat) : Word := BitVec.ofNat 64 (cnt * 2 ^ 32 + addr % 2 ^ 17)

/-- The effective address of byte a of the core's own local store. -/
def ownLocal (a : Nat) : Word := BitVec.ofNat 64 (0x7F0000000000 + a % 2 ^ 17)

/-- Local-store words read, by number, each with its labels, and the address of the first byte read that holds an uncorrectable
error (R203). -/
structure Reads where
  words : List (Nat × Label)
  bad   : Option Nat
deriving DecidableEq, Repr

/-- Nothing read. -/
def Reads.none : Reads := ⟨[], Option.none⟩
/-- A byte of word w read under these labels: each counts once for the word. -/
def Reads.add (r : Reads) (w : Nat) (ls : List Label) (bad : Option Nat) : Reads :=
  ⟨ls.foldl (fun l x => if l.contains (w, x) then l else l ++ [(w, x)]) r.words, r.bad.or bad⟩
/-- The labels of the words read. -/
def Reads.labels (r : Reads) : List Label := r.words.map (·.2)

/-- What was read is consumed once its label is formed: an uncorrectable error in it is a MACHINE_CHECK (R203, R211). -/
def Reads.sound (r : Reads) : M Unit := match r.bad with
  | .none => pure ()
  | some a => raiseAddr .machineCheck a

/-- LSByte(a): a plain load of the core (R111). -/
def lsByte (a : Nat) (r : Reads) : M (Nat × Reads) := do
  let s ← get
  let x ← loadFrom (ownLocal a) ⟨.local, lsBase s.cur + a % 2 ^ 17, false⟩ 1 false
  return (x.value, r.add (a % 2 ^ 17 / 4) x.labels (if x.bad then some (ownLocal a).toNat else none))

/-- n bytes from a on, the first highest. -/
def lsBytes (a : Nat) (v : Nat) (r : Reads) : Nat → M (Nat × Reads)
  | 0 => return (v, r)
  | n + 1 => do
    let x ← lsByte a r
    lsBytes (a + 1) (v * 256 + x.1) x.2 n

/-- The read side of the stream: BRBUF, CNT, ADDR. -/
structure Rd where
  buf  : Nat
  cnt  : Nat
  addr : Nat
deriving DecidableEq, Repr

/-- BRBUF as it reads: the bits below its CNT bits are zero (R109). -/
def Core.brbits (c : Core) : Word := BitVec.ofNat 64 (c.brbuf.toNat / 2 ^ (64 - brCnt c.brptr) * 2 ^ (64 - brCnt c.brptr))
def Core.rd (c : Core) : Rd := ⟨c.brbits.toNat, brCnt c.brptr, bpAddr c.brptr⟩
def Core.setRd (c : Core) (r : Rd) : Core := { c with brbuf := BitVec.ofNat 64 r.buf, brptr := bpOf r.cnt r.addr }

/-- Stream(0..n−1) read most significant bit first: the CNT bits of BRBUF, then bytes of the local store (R111). -/
def streamBits (b : Rd) (n : Nat) (r : Reads) : M (Nat × Reads) := do
  let held := b.buf / 2 ^ (64 - b.cnt)
  if n ≤ b.cnt then return (held / 2 ^ (b.cnt - n), r)
  else
    let k := (n - b.cnt + 7) / 8
    let x ← lsBytes b.addr held r k
    return (x.1 / 2 ^ (b.cnt + 8 * k - n), x.2)

/-- The refill: bytes are appended while CNT ≤ 56 (R111). -/
def refill (b : Rd) (r : Reads) : Nat → M (Rd × Reads)
  | 0 => return (b, r)
  | n + 1 => do
    if b.cnt ≤ 56 then
      let x ← lsByte b.addr r
      refill ⟨b.buf + x.1 * 2 ^ (56 - b.cnt), b.cnt + 8, (b.addr + 1) % 2 ^ 17⟩ x.2 n
    else return (b, r)

/-- Consume(n) (R111). -/
def consume (b : Rd) (n : Nat) (r : Reads) : M (Rd × Reads) := do
  if n ≤ b.cnt then refill ⟨b.buf * 2 ^ n % 2 ^ 64, b.cnt - n, b.addr⟩ r 8
  else
    let m := n - b.cnt
    let addr := b.addr + m / 8
    let x ← lsBytes addr 0 r 8
    refill ⟨x.1 * 2 ^ (m % 8) % 2 ^ 64, 64 - m % 8, (addr + 8) % 2 ^ 17⟩ x.2 8

/-- BRL, or BWL, with more factors: a product of the core's own, which the guard does not enter.
(DEDUCED, notes/assumptions/23.md.) -/
def streamLabel (l : Label) (ls : List Label) : M Label :=
  forMe (fun w pol => foldProd w pol ⟨l, false⟩ ls)

/-- The leading zero bits of the stream from bit i on, up to n more bits (R113). -/
def leadingZeros (b : Rd) (i : Nat) (r : Reads) : Nat → M (Nat × Reads)
  | 0 => return (0, r)
  | n + 1 => do
    let x ← streamBits b (i + 1) r
    if x.1 % 2 = 1 then return (0, x.2)
    else
      let y ← leadingZeros b (i + 1) x.2 n
      return (y.1 + 1, y.2)

/-- BRL, or BWL, with the labels of what was read. -/
def readLabel (l : Label) (r : Reads) : M Label := do
  let l ← streamLabel l r.labels
  r.sound
  return l

/-- The read stream left at a new place with the labels read folded into BRL; the new BRL. -/
def leaveRead (b : Rd) (l : Label) (r : Reads) : M Label := do
  let l ← readLabel l r
  modMe (fun c => { c.setRd b with brl := l })
  return l

/-- Bit-stream accesses wait for queued tile memory instructions (R126). -/
def streamReady : M Unit := do
  let c ← getMe
  needs (!c.tileMem && !c.mstQueued)

/-! ### The read stream (R112, R113) -/

def execBsrinit (a : GReg) (s : State) : Step :=
  runI (.bsrinit a) (do
    streamReady
    let c ← getMe
    let p := (c.rg a).toNat % 2 ^ 20
    let x ← consume ⟨0, 0, p / 8⟩ (p % 8) Reads.none
    let _ ← leaveRead x.1 (c.lg a) x.2
    advance) s

def execBsget (d : GReg) (n : BitVec 6) (s : State) : Step :=
  runI (.bsget d n) (do
    streamReady
    let c ← getMe
    let v ← streamBits c.rd (n.toNat + 1) Reads.none
    let x ← consume c.rd (n.toNat + 1) v.2
    let l ← readLabel c.brl x.2
    writeG d (BitVec.ofNat 64 v.1) [l]
    modMe (fun c => { c.setRd x.1 with brl := l })
    advance) s

def execBspeek (d : GReg) (n : BitVec 6) (s : State) : Step :=
  runI (.bspeek d n) (do
    streamReady
    let c ← getMe
    let v ← streamBits c.rd (n.toNat + 1) Reads.none
    let f ← formEarly d (c.brl :: v.2.labels)
    v.2.sound
    resultFormed d (BitVec.ofNat 64 v.1) f) s

def execBsskip (n : BitVec 6) (s : State) : Step :=
  runI (.bsskip n) (do
    streamReady
    let c ← getMe
    let x ← consume c.rd (n.toNat + 1) Reads.none
    let _ ← leaveRead x.1 c.brl x.2
    advance) s

/-- An exp-Golomb code of order k: z leading zeros, then z + k bits; a code of more than 31 zeros or more than 64 bits raises
ILLEGAL by its value, and nothing changes (R113). -/
def execBsgetg (d : GReg) (k : BitVec 5) (s : State) : Step :=
  runI (.bsgetg d k) (do
    streamReady
    let c ← getMe
    let z ← leadingZeros c.rd 0 Reads.none 32
    let n := 2 * z.1 + 1 + k.toNat
    if 31 < z.1 ∨ 64 < n then raiseValue .illegal
    let v ← streamBits c.rd n z.2
    let x ← consume c.rd n v.2
    let w := v.1 % 2 ^ (z.1 + k.toNat)
    let l ← readLabel c.brl x.2
    writeG d (BitVec.ofNat 64 (2 ^ (z.1 + k.toNat) + w - 2 ^ k.toNat)) [l]
    modMe (fun c => { c.setRd x.1 with brl := l })
    advance) s

/-! ### The write stream (R114) -/

/-- StoreByte(a, x): a store of the core as ST.8 with data label l (R114). -/
def storeByte (a x : Nat) (l : Label) : M Unit := fun s =>
  let e : SbEntry := ⟨.store, (ownLocal a).toNat, ⟨.local, lsBase s.cur + a % 2 ^ 17, false⟩, 1, BitVec.ofNat 64 (x % 256), l⟩
  .ok () (s.modCore s.cur (fun c => { c with sb := c.sb ++ [e] }))

/-- The first n bytes of a value of n bytes and some bits stored in order. -/
def storeBytes (a v rest : Nat) (l : Label) : Nat → M Unit
  | 0 => return ()
  | n + 1 => do
    storeByte a (v / 2 ^ (8 * n + rest)) l
    storeBytes (a + 1) v rest l n

/-- A word's tag takes the guard's factor too (R61). -/
def guarded (l : Label) : M Label := formLabel [l]

def execBswinit (a : GReg) (s : State) : Step :=
  runI (.bswinit a) (do
    streamReady
    let c ← getMe
    let q := (c.rg a).toNat % 2 ^ 20
    let n := q % 8
    if n = 0 then
      modMe (fun d => { d with bwbuf := 0, bwptr := bpOf 0 (q / 8), bwl := c.lg a })
    else
      let x ← lsByte (q / 8) Reads.none
      let l ← readLabel (c.lg a) x.2
      let kept := x.1 / 2 ^ (8 - n) * 2 ^ (8 - n)
      modMe (fun d => { d with bwbuf := BitVec.ofNat 64 (kept * 2 ^ 56), bwptr := bpOf n (q / 8), bwl := l })
    advance) s

def execBsemit (a : GReg) (n : BitVec 6) (s : State) : Step :=
  runI (.bsemit a n) (do
    streamReady
    let c ← getMe
    let cnt := bwCnt c.bwptr
    let len := n.toNat + 1
    let all := c.bwbuf.toNat / 2 ^ (64 - cnt) * 2 ^ len + (c.rg a).toNat % 2 ^ len
    let k := (cnt + len) / 8
    let rest := (cnt + len) % 8
    needs (c.sb.length + k ≤ 16)
    let l ← streamLabel c.bwl [c.lg a]
    let t ← guarded l
    storeBytes (bpAddr c.bwptr) all rest t k
    modMe (fun d => { d with bwl := l, bwptr := bpOf rest (bpAddr c.bwptr + k), bwbuf := BitVec.ofNat 64 (all % 2 ^ rest * 2 ^ (64 - rest)) })
    advance) s

def execBsflush (s : State) : Step :=
  runI .bsflush (do
    streamReady
    let c ← getMe
    let cnt := bwCnt c.bwptr
    if cnt = 0 then
      modMe (fun d => { d with bwbuf := 0 })
    else
      needs (c.sb.length < 16)
      let t ← guarded c.bwl
      storeByte (bpAddr c.bwptr) (c.bwbuf.toNat / 2 ^ (64 - cnt) * 2 ^ (8 - cnt)) t
      modMe (fun d => { d with bwbuf := 0, bwptr := bpOf 0 (bpAddr c.bwptr + 1) })
    advance) s

end Sys2Proof.Machine
end

