-- ==== Sys2Proof/Machine/Sys.lean ====
section
/-! DEFINITION. Control registers: MFC and MTC (R82, R343) with the field maps of every register. -/

namespace Sys2Proof.Machine

/-- CORE of physical core n (R91). -/
def State.coreReg (s : State) (n : Nat) : Word := BitVec.ofNat 64 (n % 2 ^ 14 * 2 ^ 18 + s.lcore n % 2 ^ 14)
/-- CLUSTER of physical core n (R91). -/
def State.clusterReg (s : State) (n : Nat) : Word :=
  BitVec.ofNat 64 ((if isWide (clusterOf n) then 2 ^ 11 else 0) + s.lclus (clusterOf n) % 2 ^ 11)

/-- The registers that only S reads (R82). -/
def mfcNeedsS (r : Nat) : Bool := 24 ≤ r
/-- The registers that only S writes (R82). -/
def mtcNeedsS (r : Nat) : Bool := r == 2 || r == 5 || r == 15 || r == 16 || 24 ≤ r
/-- The registers that an MTC never writes (R82). (DEDUCED, notes/assumptions/99.md.) -/
def mtcReadOnly (r : Nat) : Bool := r == 0 || r == 1 || r == 3

/-- The value an MFC of core n reads (R82); FFLAGS has its own instruction. -/
def State.controlReg (s : State) (n r : Nat) : Word :=
  let c := s.core n
  let x := s.ctx (s.ctxOf n)
  match r with
  | 0 => s.coreReg n
  | 1 => s.clusterReg n
  | 2 => c.domain
  | 3 => c.ssc
  | 4 => c.shape
  | 5 => c.vshare
  | 6 => c.fflags
  | 7 => c.frm
  | 8 => c.srseed
  | 9 => c.fmta
  | 10 => c.fmtb
  | 11 => c.scla
  | 12 => c.sclb
  | 13 => c.supa
  | 14 => c.supb
  | 15 => c.mweight
  | 16 => x.lspace
  | 17 => c.lflags
  | 18 => c.focus.extractLsb' 0 64
  | 19 => c.focus.extractLsb' 64 64
  | 20 => c.brbits
  | 21 => c.brptr
  | 22 => c.bwbuf
  | 23 => c.bwptr
  | 24 => x.tvec
  | 25 => c.epc
  | 26 => c.ecause
  | 27 => c.einfo
  | 28 => c.status
  | 29 => x.fbdepth
  | 30 => x.fbstat
  | 31 => c.preempt
  | _ => x.tracectl

def execMfc (d : GReg) (r : BitVec 6) (s : State) : Step :=
  runI (.mfc d r) (do
    if 32 < r.toNat then raiseWord .illegal
    if mfcNeedsS r.toNat then needS
    let s ← get
    result d (s.controlReg s.cur r.toNat) []) s

/-- Whether a queued tile instruction can still set FFLAGS (R35). -/
def Core.flagsPending (c : Core) : Bool := !c.vq.isEmpty

/-- FFLAGS after every earlier instruction that can set it (R35). -/
def execMfcFflags (d : GReg) (s : State) : Step :=
  runI (.mfcFflags d) (do
    let c ← getMe
    needs (!c.flagsPending)
    result d c.fflags []) s

/-- The bits of w that mask keeps, over those of old (RO fields stay, R5). -/
def overlay (old w mask : Word) : Word := (old &&& ~~~mask) ||| (w &&& mask)

/-- What an MTC makes of a register of the core (R343): the core with the register written, or how it fails: ILLEGAL, with the
mark of R338 where the register's rule sets it. -/
def Core.mtc (c : Core) (r : Nat) (w : Word) : Except Bool Core :=
  let put (ok : Bool) (d : Core) : Except Bool Core := if ok then .ok d else .error false
  match r with
  | 2 =>
    -- a reserved bit, or the rules of R266, with the mark; KCLUS stays
    if 2 ^ 44 ≤ w.toNat || !domainOk w then .error true
    else .ok { c with domain := overlay c.domain w 0x1FFFFFFFF }
  | 4 => if shapeOk w then .ok { c with shape := w } else .error true   -- R117
  | 5 => put (0 < w.toNat && w.toNat < 16) { c with vshare := w }
  | 7 => put (w.toNat < 5) { c with frm := w }
  | 9 => put (w.toNat < 8) { c with fmta := w }
  | 10 => put (w.toNat < 8) { c with fmtb := w }
  | 11 => put (sclOk w) { c with scla := w }
  | 12 => put (sclOk w) { c with sclb := w }
  | 13 => put (supOk w) { c with supa := w }
  | 14 => put (supOk w) { c with supb := w }
  | 15 => put (0 < w.toNat && w.toNat < 16) { c with mweight := w }
  | 17 => put (w.toNat < 8) { c with lflags := w }
  | 18 => .ok { c with focus := c.focus.extractLsb' 64 64 ++ w }
  | 19 => .ok { c with focus := w ++ c.focus.extractLsb' 0 64 }
  | 20 => .ok { c with brbuf := w }
  | 21 => put (brCnt w ≤ 64 && w.toNat < 2 ^ 39 && w.toNat / 2 ^ 17 % 2 ^ 15 == 0) { c with brptr := w }
  | 22 => .ok { c with bwbuf := w }
  | 23 => put (w.toNat < 2 ^ 35 && w.toNat / 2 ^ 17 % 2 ^ 15 == 0) { c with bwptr := w }
  | 25 => put (w.toNat < 2 ^ 48) { c with epc := w }
  | 26 => put (w.toNat / 2 ^ 9 % 2 ^ 54 == 0) { c with ecause := w }
  | 27 => .ok { c with einfo := w }
  | 28 => put (w &&& ~~~0x87 == 0) { c with status := overlay c.status w 0x6 }
  | 31 => put (w.toNat < 8) { c with preempt := overlay c.preempt w 0x2 }
  | _ => .error false

/-- Whether a range of physical memory lies within the ranges of a context's partition. -/
def State.inPartition (s : State) (x lo n : Nat) : Bool := within (s.part (s.ctx x).part).desc.ranges lo (lo + n)

/-- FBDEPTH accepts a value (R323). -/
def State.fbdepthOk (s : State) (x : Nat) (w : Word) : Bool :=
  8 ≤ w.toNat % 64 && w.toNat % 64 ≤ 32 && w.toNat < 2 ^ 48 && w.toNat / 2 ^ 6 % 2 ^ 10 == 0
    && s.inPartition x (w.toNat / 2 ^ 16 * 2 ^ 16) (2 ^ 16) && (s.ctx x).fbstat == 0

/-- The header of every layer's buffer of a context starts at zero (R325). (DEDUCED, notes/assumptions/106.md.) -/
def State.freshBuffers (s : State) (x : Nat) : State :=
  (List.range 32).foldl (fun s l => s.plinthWrite ((s.ctx x).faultBuffer l) 0 64) s

/-- FBDEPTH written: with another BASE the buffers are new ones (R323, R325). (DEDUCED, notes/assumptions/106.md.) -/
def State.setFbdepth (s : State) (x : Nat) (w : Word) : State :=
  let t := s.modCtx x (fun c => { c with fbdepth := w })
  if (t.ctx x).faultBuffer 0 = (s.ctx x).faultBuffer 0 then t else t.freshBuffers x

/-- (DEDUCED, notes/assumptions/99.md.) -/
def execMtc (r : BitVec 6) (a : GReg) (s : State) : Step :=
  runI (.mtc r a) (do
    if 32 < r.toNat || mtcReadOnly r.toNat then raiseWord .illegal
    if mtcNeedsS r.toNat then needS
    let s ← get
    let w := s.me.rg a
    let x := s.ctxOf s.cur
    if r = 24 then
      if w.toNat < 2 ^ 48 ∧ w.toNat % 4 = 0 then modS (fun s => s.modCtx x (fun c => { c with tvec := w }))
      else raiseWord .illegal
    else if r = 29 then
      if s.fbdepthOk x w then modS (fun s => s.setFbdepth x w)
      else raiseValue .illegal
    else
      match s.me.mtc r.toNat w with
      | .ok c => modMe (fun _ => c)
      | .error true => raiseValue .illegal
      | .error false => raiseWord .illegal
    advance) s

def execMtcFflags (a : GReg) (s : State) : Step :=
  runI (.mtcFflags a) (do
    let c ← getMe
    if 32 ≤ (c.rg a).toNat then raiseWord .illegal
    needs (!c.flagsPending)
    modMe (fun c => { c with fflags := c.rg a })
    advance) s

/-- A write of zero to SRSEED stores its reset value (R30). -/
def execMtcSrseed (a : GReg) (s : State) : Step :=
  runI (.mtcSrseed a) (do
    modMe (fun c => { c with srseed := if c.rg a = 0 then seedReset else c.rg a })
    advance) s

/-- Whether a label product of the core is in flight: of a queued tile, matrix or copy command, or of a buffered store whose word takes
more than its own label (R173, R180). -/
def Core.labelsInFlight (c : Core) : Bool :=
  !c.vq.isEmpty || !c.mq.isEmpty || !c.cq.isEmpty
    || c.sb.any (fun e => match e.kind with
      | .store => decide (e.size < 4)
      | .trace _ _ _ _ _ _ _ => false
      | _ => true)
    || c.nt.any (fun b => b.stores.any (fun e => decide (e.size < 4)))

/-- MTC LSPACE (R173): with no label product of the core in flight, the new region's STATE is checked where EN is 1, the old space
retired unless the value names it, and every Fuller of the context drops its product cache and takes the new nogood set. The core's Fuller
retires the old space (R172). (DESIGN CHOICE, notes/assumptions/107.md; DESIGN CHOICE, notes/assumptions/121.md.) -/
def execMtcLspace (a : GReg) (s : State) : Step :=
  runI (.mtcLspace a) (do
    needS
    let s ← get
    let x := s.ctxOf s.cur
    let w := s.me.rg a
    let old := (s.ctx x).lspace
    let who := s.who s.cur
    needs (!s.me.labelsInFlight)
    if (w &&& ~~~0xFFFFFFE00001) ≠ 0 then
      if lspaceEn w then raiseValue .illegal else raiseWord .illegal
    if lspaceEn w then
      let st ← spaceRead who (lspaceBase w) 4
      if st = 2 then raiseValue .illegal
    let same := lspaceEn w && lspaceEn old && lspaceBase w == lspaceBase old
    if lspaceEn old && !same then spaceWrite who (lspaceBase old) 2 4
    modS (fun s => s.modCtx x (fun c => { c with lspace := w }))
    installAll who
    advance) s

/-- A write of 1 to either bit of a layer clears both and empties the layer's buffer (R324). -/
def State.clearFaults (s : State) (x : Nat) (w : Word) : State :=
  (List.range 32).foldl (fun s l =>
    if w.getLsbD l || w.getLsbD (32 + l) then
      (s.plinthWrite ((s.ctx x).faultBuffer l) 0 4).modCtx x (fun c =>
        { c with fbstat := c.fbstat &&& ~~~(BitVec.ofNat 64 (2 ^ l + 2 ^ (32 + l))) })
    else s) s

def execMtcFbstat (a : GReg) (s : State) : Step :=
  runI (.mtcFbstat a) (do
    needS
    modS (fun s => s.clearFaults (s.ctxOf s.cur) (s.me.rg a))
    advance) s

/-- TRACECTL accepts a value for a context (R376). -/
def State.tracectlOk (s : State) (x : Nat) (w : Word) : Bool :=
  (w &&& ~~~0xFFFFFFF1FFF9) == 0 && trcPer w != 1 && w.toNat / 2 ^ 10 % 8 ≤ 4
    && (!(trcEn w || trcSmp w) || s.inPartition x (trcBase w) (trcSize w))

/-- TRACECTL written (R376): FULL stays but where EN rises, which starts the ring anew
with a fresh header (R377); STOP rises with a 1 and stays with a 0. (DEDUCED, notes/assumptions/106.md.) -/
def State.writeTracectl (s : State) (x : Nat) (w : Word) : State :=
  let old := (s.ctx x).tracectl
  let rises := trcEn w && !trcEn old
  let keep : Word := (if rises then 0 else old &&& 0x40) ||| (old &&& 0x80)
  let s := s.modCtx x (fun c => { c with tracectl := (w &&& ~~~0x40) ||| keep })
  if rises then s.plinthWrite (trcBase w) 64 64 else s

def execMtcTracectl (a : GReg) (s : State) : Step :=
  runI (.mtcTracectl a) (do
    needS
    let s ← get
    let x := s.ctxOf s.cur
    if !s.tracectlOk x (s.me.rg a) then raiseValue .illegal
    modS (fun s => s.writeTracectl x (s.me.rg a))
    advance) s

end Sys2Proof.Machine
end

