-- ==== Sys2Proof/Machine/Contexts.lean ====
section
/-! DEFINITION. Contexts: safe points and saves (R344-R348), restores (R349), the commands that move a context through its states
(R335), the delivery of asynchronous machine checks (R341). -/

namespace Sys2Proof.Machine

/-! ### Commands (R371) -/

/-- Why a command is refused: its sender, the state that it meets, or what it carries. (DEDUCED, notes/assumptions/93.md.) -/
def refuseSender : Nat := 1
/-- (DEDUCED, notes/assumptions/81.md; DEDUCED, notes/assumptions/93.md.) -/
def refuseState : Nat := 2
def refuseValue : Nat := 3

/-- Whether a command comes at a level from the management endpoint (R371). -/
def State.manager (s : State) (by' : Sender) (l : Level) : Bool := by'.level == l && s.mgmt == some by'.endpoint

/-- Why a command of H is refused whatever it asks: its sender, or a master plinth, that of T0, in recovery (R371, R372). -/
def State.refusalH (s : State) (by' : Sender) : Option Nat :=
  if !s.manager by' .h then some refuseSender else if (s.tower 0).recovery then some refuseState else none

/-- A command of H (R371). -/
def asH (by' : Sender) (f : State → State) (s : State) : State := match s.refusalH by' with
  | some r => s.note (.refused r)
  | none => f s

/-- Whether a sender commands for context x: the endpoint of the context's partition (R371). -/
def State.speaksFor (s : State) (by' : Sender) (x : Nat) : Bool := match s.parts.find? (s.ctx x).part with
  | some p => by'.endpoint == p.desc.endpoint
  | none => false

/-- A part of a step that is left out where it cannot be made now. -/
def attempt (m : M Unit) : M Unit := fun s => match m s with
  | .ok _ t => .ok () t
  | .error stop _ => .ok () (s.unless stop)

/-! ### Live maps (R347) -/

/-- The entry of a live map for one safe point. -/
structure LiveMap where
  gmask  : BitVec 32
  vmask  : BitVec 16
  mmask  : BitVec 4
  ranges : List (Nat × Nat)
deriving DecidableEq, Repr

/-- n bytes at a virtual address of context x, read physically where it is mapped now; what is mapped nowhere, or cannot be corrected,
is unreadable. (DEDUCED, notes/assumptions/74.md.) -/
def State.readVa (s : State) (x l va : Nat) : Nat → Option Nat
  | 0 => some 0
  | n + 1 =>
    if 2 ^ 48 ≤ va || inWindows va then none
    else match s.mapped x l va, s.readVa x l (va + 1) n with
    | some pa, some r => if s.badAt pa 1 then none else some (s.homeRead pa 1 + 256 * r)
    | _, _ => none

/-- The entry with offset off, from entry i of table t on: the entries rise by OFF. -/
def mapEntry (rd : Nat → Nat → Option Nat) (t off : Nat) : Nat → Nat → Option Nat → Option Nat
  | 0, _, _ => none
  | n + 1, i, last =>
    match rd (t + 16 + 16 * i) 4 with
    | none => none
    | some o =>
      if (match last with
        | some p => decide (o ≤ p)
        | none => false) then none
      else if o = off then some (t + 16 + 16 * i)
      else mapEntry rd t off n (i + 1) (some o)

/-- A range of the range array: multiples of 64 within the local store (R347). -/
def readRange (rd : Nat → Nat → Option Nat) (a : Nat) : Option (Nat × Nat) := do
  let lo ← rd a 4
  let hi ← rd (a + 4) 4
  if lo % 64 = 0 ∧ hi % 64 = 0 ∧ lo ≤ hi ∧ hi ≤ 2 ^ 17 then some (lo, hi) else none

/-- The live map of the safe point at pc of a kernel with this entry; none where there is no table, it is unreadable or malformed, or
has no such entry (R347). Its zero fields are not looked at (R5). (DEDUCED, notes/assumptions/74.md.) -/
def State.liveMap (s : State) (x l entry : Nat) (pc : Word) : Option LiveMap := do
  let rd (va n : Nat) : Option Nat := s.readVa x l va n
  if entry < 8 ∨ pc.toNat < entry then none
  let t ← rd (entry - 8) 8
  if t = 0 then none
  let ne ← rd t 4
  let ra ← rd (t + 4) 4
  let e ← mapEntry rd t (pc.toNat - entry) ne 0 none
  let g ← rd (e + 4) 4
  let v ← rd (e + 8) 2
  let m ← rd (e + 10) 1
  let rcount ← rd (e + 12) 2
  let rfirst ← rd (e + 14) 2
  let ranges ← (List.range rcount).mapM (fun j => readRange rd (t + ra + 8 * (rfirst + j)))
  some ⟨BitVec.ofNat 32 g, BitVec.ofNat 16 v, BitVec.ofNat 4 m, ranges⟩

/-- What a map does not list is restored as zero under TRUE: registers, tiles, accumulators (R348). -/
def Core.keepLive (c : Core) (m : LiveMap) : Core :=
  { c with
    g := Vector.ofFn (fun i : Fin 32 => if m.gmask.getLsbD i then c.g[i] else 0)
    gl := Vector.ofFn (fun i : Fin 32 => if m.gmask.getLsbD i then c.gl[i] else labelTrue)
    v := Vector.ofFn (fun i : Fin 16 => if m.vmask.getLsbD i then c.v[i] else 0)
    vl := Vector.ofFn (fun i : Fin 16 => if m.vmask.getLsbD i then c.vl[i] else labelTrue)
    m := Vector.ofFn (fun i : Fin 4 => if m.mmask.getLsbD i then c.m[i] else [])
    ml := Vector.ofFn (fun i : Fin 4 => if m.mmask.getLsbD i then c.ml[i] else labelTrue)
    mmark := Vector.ofFn (fun i : Fin 4 => if m.mmask.getLsbD i then c.mmark[i] else none) }

/-- The local store of core n outside the ranges of a map, zero under TRUE, and sound (R203). -/
def State.keepRanges (s : State) (n : Nat) (ranges : List (Nat × Nat)) : State :=
  let live (o : Nat) : Bool := ranges.any (fun r => r.1 ≤ o && o < r.2)
  let gone (k : Nat) : Bool := lsBase n ≤ k && k < lsBase (n + 1) && !live (k - lsBase n)
  { s with
    mem := s.mem.filter (fun e => !gone e.1), tags := s.tags.filter (fun e => !gone (4 * e.1))
    damaged := s.damaged.filter (fun e => !gone (4 * e.1)) }

/-! ### Saving (R345, R346, R348) -/

/-- PEND (R344). -/
def Core.pend (c : Core) : Bool := c.preempt.getLsbD 0

/-- A core saved elsewhere than at a forwarded word leaves its group, and a leader takes its members with it: each is alone at its
own next word (R313). (DEDUCED, notes/assumptions/77.md.) -/
def State.disband (s : State) (n : Nat) : State :=
  let g := (s.core n).group
  if GState.inGroup g.st && g.leads n then
    (n :: s.members n).foldl (fun s m => s.modCore m (fun c => { c with group := Group.reset })) s
  else s.modCore n (fun c => { c with group := Group.reset })

/-- The image of cluster k: its event unit, its cores and their local stores (R348). (DEDUCED, notes/assumptions/71.md.) -/
def State.clusterImage (s : State) (k : Nat) : ClusterImage :=
  let c := s.cluster k
  { cluster := k, wide := isWide k, kernel := c.kernel, kclus := c.kclus, lines := c.lines, bars := c.bars, mutexes := c.mutexes
    cores := (coresOf k).map (fun n =>
      let d := s.core n
      { slot := n % 8
        core := if d.run == .halted then { d with preempt := d.preempt ||| 4 } else d
        mem := (s.mem.filter (fun e => lsBase n ≤ e.1 && e.1 < lsBase (n + 1))).map (fun e => (e.1 - lsBase n, e.2))
        tags := (s.tags.filter (fun e => lsBase n ≤ 4 * e.1 && 4 * e.1 < lsBase (n + 1))).map (fun e => (e.1 - lsBase n / 4, e.2)) }) }

/-- A cluster that no physical cluster is: the place of a kernel's cluster that is on no cluster. -/
def noCluster : Nat := nClusters

/-- A kernel of the context is still being placed on clusters that it holds. -/
def State.stillPlacing (s : State) (x : Nat) : Bool :=
  s.kernels.any (fun k => k.2.ctx == x && k.2.st == .placing && k.2.places.any (fun e => !k.2.started.contains e.1))

/-- The fault buffers of a saved context are empty: N and DROPS of every layer (R327, R400). (DEDUCED, notes/assumptions/76.md.) -/
def State.emptyAll (s : State) (x : Nat) : State :=
  (List.range 32).foldl (fun s l =>
    let b := (s.ctx x).faultBuffer l
    if s.read b 8 = 0 then s else s.plinthWrite b 0 8) s

/-- Every core of a context that is being pre-empted is saved: the context is SWAPPED, its clusters are free, its fault buffers are
empty (R306, R327, R335). (DEDUCED, notes/assumptions/71.md.) -/
def State.swapCheck (s : State) (x : Nat) : State :=
  let ks := s.clustersOfCtx x
  if (s.ctx x).st == .preempting && !s.stillPlacing x && (ks.flatMap coresOf).all (fun n =>
      (s.core n).run == .saved || (s.core n).run == .halted || (s.core n).run == .retired) then
    let s := ks.foldl State.returnAllowances s
    let images := ks.map s.clusterImage
    let s := ks.foldl (fun s k => ((coresOf k).foldl (fun s n => s.modCore n (fun c => { Core.reset with pts := c.pts })) s).releaseCluster k) s
    let s := { s with kernels := s.kernels.map (fun (k : Nat × Kernel) =>
      (k.1, if k.2.ctx = x then { k.2 with places := k.2.places.map (fun (e : Nat × Nat) => (e.1, noCluster)) } else k.2)) }
    ((s.emptyAll x).modCtx x (fun c => { c with st := .swapped, images := images, fbstat := 0 })).fillCold
  else s

/-- Core n is SAVED as f leaves its record; a full save is FORCED (R344-R346). -/
def State.saveCore (s : State) (n : Nat) (map : Option LiveMap) (f : Core → Core) : State :=
  let s := s.returnAllowances (clusterOf n)
  let s := { s with sends := s.sends.filter (fun p => p.sender != n) }
  let s := match map with
    | some m => (s.keepRanges n m.ranges).modCore n (fun c => c.keepLive m)
    | none => s
  let s := s.modCore n (fun c => { f c with
    run := .saved, prefetch := []
    status := c.status &&& ~~~0x80
    preempt := (c.preempt &&& ~~~4) ||| (if map.isNone then 4 else 0) })
  (s.stopCheck (s.ctxOf n)).swapCheck (s.ctxOf n)

/-- The record of a core that is saved where it stands: its state is recorded, and a wait that is not yet met is made again (R90, R346); a
word that it could not fetch is fetched anew (R327). A pair or a frame that it waits in is kept. (DEDUCED, notes/assumptions/117.md.) -/
def Core.asItStands (c : Core) : Core :=
  { c with
    recorded := c.run
    wait := match c.wait with
      | .granted v => .granted v
      | .none | .fetch _ => .none
      | _ => .again }

/-- Whether the core's buffers and queues are as a save finds them: empty, but for those whose engine stands at a missing page; the
matrix queue is empty (R165, R327, R345, R408). (DEDUCED, notes/assumptions/73.md.) -/
def Core.drained (c : Core) : Bool :=
  (c.sb.isEmpty || c.paused.contains .store) && (c.vq.isEmpty || c.paused.contains .tile) && c.mq.isEmpty

/-- Whether the core waits as R346 names it: its instruction is not begun, or its wait can be made again.
(DEDUCED, notes/assumptions/73.md.) -/
def Core.waiting (c : Core) : Bool := match c.wait with
  | .granted _ => false
  | .send _ => c.run == .stalled
  | _ => c.run == .sleeping || c.run == .gated || c.run == .faultwait

/-- A full save of core n at its own pc, its combining buffers performed where they can be.
(DEDUCED, notes/assumptions/76.md; DEDUCED, notes/assumptions/77.md.) -/
def saveFull (n : Nat) : M Unit := do
  let c := (← get).core n
  if !c.paused.contains .store then c.nt.forM (performBuf n)
  modS (fun s => (s.disband n).saveCore n none Core.asItStands)

/-- With PEND set, a core that waits is saved at once in full, its queues empty (R165, R346); in a repeat frame, too
(DEDUCED, notes/assumptions/117.md). -/
def saveWaiting (n : Nat) : M Unit := do
  let c := (← get).core n
  if c.pend && c.waiting && c.drained then attempt (saveFull n)

/-- Core n stands at an instruction boundary: in no pair and no frame, its next instruction not begun. One that is SAVED does not, nor one
restored into a wait that it has still to make again (R90, R256). -/
def State.atBoundary (s : State) (n : Nat) : Bool :=
  let c := s.core n
  c.pair.isNone && c.frame.isNone &&
    (match c.wait with
    | .none => c.run == .running || c.run == .stalled
    | .busy | .launching | .launch _ | .leaderRejoin _ => c.run == .stalled
    | .again => c.run == .running || c.run == .stalled
    | _ => false) && !s.awaitsCounter n

/-- Core n has not been saved 360,000 cycles after PEND was set, and stands where it can be (R346). -/
def State.overdue (s : State) (n : Nat) : Bool :=
  (s.core n).pend && (s.core n).preemptSince + 360000 ≤ s.time && s.atBoundary n

/-- YIELD (R345): no-op while PEND is 0; a PREEMPT trap where the core has asked for one; else the save. -/
def execYield (s : State) : Step :=
  let c := s.me
  if c.pend && c.preempt.getLsbD 1 && !c.status.getLsbD 7 && !c.inTrap then
    let left := c.preemptSince + 360000 - s.time
    .next ((s.modCore s.cur (fun c => { c with status := c.status ||| 0x80 })).takeTrap s.cur c.pc .preempt true false (BitVec.ofNat 64 left))
  else runI .yield (do
    if !c.pend then advance
    else
      needs (c.sb.isEmpty && c.vq.isEmpty && c.mq.isEmpty)
      drainNt
      modS (fun s =>
        let n := s.cur
        let map := match (s.cluster (clusterOf n)).kernel with
          | some k => s.liveMap (s.ctxOf n) (layerOf n) (recEntry (s.kernel k).record) c.pc
          | none => none
        (s.leaveGroup n).saveCore n map (fun c => { c.past with recorded := .running }))) s

/-- FORCED_SAVE_TIMEOUT: the core stops at an instruction boundary and is saved in full (R346). -/
def execForcedSaveTimeout (n : Nat) (s : State) : Step :=
  if n < nCores then runEvent (do if s.overdue n && (s.core n).drained then saveFull n) s else .fault .noSuchUnit

/-- A running context is PREEMPTING: PEND is set on its cores, and those that wait are saved at once (R335, R346). -/
def preempt (x : Nat) : M Unit := do
  let ns := (← get).coresOfCtx x
  modS (fun s =>
    let s := s.modCtx x (fun c => { c with st := .preempting })
    ns.foldl (fun s n => s.modCore n (fun c => { c with preempt := c.preempt ||| 1, preemptSince := s.time })) s)
  ns.forM saveWaiting
  modS (fun s => s.swapCheck x)

/-- PREEMPT_REQUEST: H, or the time slicer that H sets, asks that a running context leave its clusters. -/
def execPreemptRequest (by' : Sender) (x : Nat) (s : State) : Step :=
  runEvent (do
    match s.refusalH by' with
    | some r => modS (fun s => s.note (.refused r))
    | none =>
      if (s.ctx x).st ≠ .running then modS (fun s => s.note (.refused refuseState))
      else preempt x) s

/-! ### Restoring (R349) -/

/-- Whether a Blocking drains context x: its partition holds clusters or way masks in the tower, or clusters in a later tower where the
tower's count of C layers changes (R353, step 1). -/
def State.affected (s : State) (b : Blocking) (x : Nat) : Bool :=
  let d := (s.part (s.ctx x).part).desc
  let count (rs : List Role) : Nat := (rs.filter (· == .c)).length
  (s.ctx x).st != .free && (d.clusters.any (fun k => k / 512 == b.tower) || d.ways.any (fun w => w.1 / 32 == b.tower && w.2 != 0)
    || (count b.roles != count b.before && d.clusters.any (fun k => b.tower < k / 512)))

/-- Whether the running Blocking, if any, drains context x. -/
def State.drains (s : State) (x : Nat) : Bool := match s.blocking with
  | some b => s.affected b x
  | none => false

/-- Images given clusters of their class, in order. -/
def assign : List ClusterImage → List Nat → Option (List (ClusterImage × Nat))
  | [], _ => some []
  | i :: is, free =>
    match free.find? (fun k => isWide k == i.wide) with
    | none => none
    | some k => (assign is (free.filter (· != k))).map ((i, k) :: ·)

/-- Where a physical core of the saved context now is. -/
def moved (to' : List (ClusterImage × Nat)) (n : Nat) : Nat :=
  match to'.find? (fun e => e.1.cluster == clusterOf n) with
  | some e => 8 * e.2 + n % 8
  | none => n

/-- A location as it is after the restore: one in a local store moves with its core. -/
def movedLoc (mv : Nat → Nat) (l : Loc) : Loc := match localOwner l.key with
  | some n => { l with key := lsBase (mv n) + (l.key - lsBase n) }
  | none => l

/-- A saved core as the restore leaves it (R90, R344, R348, R349): in its recorded state, its wait made again, or about to fetch the word that
it could not; a HALTED one is HALTED. (DEDUCED, notes/assumptions/72.md.) -/
def Core.restored (c : Core) (mv : Nat → Nat) (pts time : Nat) : Core :=
  { c with
    run := if c.run != .saved then c.run else if c.recorded == .faultwait && c.wait == .none then .running else c.recorded
    preempt := c.preempt &&& ~~~1
    pts := max c.pts pts, since := time, paused := [], group := Group.reset
    sb := c.sb.map (fun e => { e with loc := movedLoc mv e.loc })
    inbox := c.inbox.map (fun i => { i with sender := i.sender.map mv }) }

/-- One image placed on cluster k, whose L1D holds no allowance then (R252). -/
def State.putImage (s : State) (x : Nat) (mv : Nat → Nat) (pts : Nat) (e : ClusterImage × Nat) : State :=
  let i := e.1
  let k := e.2
  let s := (s.returnAllowances k).modCluster k (fun c => { c with
    ctx := some x, kernel := i.kernel, kclus := i.kclus, lines := i.lines, bars := i.bars
    mutexes := i.mutexes.map (fun m => ⟨m.owner.map mv, m.queue.map mv⟩) })
  let s := i.cores.foldl (fun s d =>
    let n := 8 * k + d.slot
    let s := s.zero (lsBase n) (2 ^ 17)
    let s := { s with
      mem := d.mem.foldl (fun (m : Memory) (e : Nat × Byte) => m.set 0 (lsBase n + e.1) e.2) s.mem
      tags := d.tags.foldl (fun (t : Tags) (e : Nat × Label) => t.set labelTrue (lsBase n / 4 + e.1) e.2) s.tags }
    s.setCore n (d.core.restored mv pts s.time)) s
  match i.kernel with
  | some id => s.modKernel id (fun n => { n with places := n.places.map (fun p => if p.1 = i.kclus then (p.1, k) else p) })
  | none => s

/-- CONTEXT_RESTORE_COMPLETE: a LOADING context is placed on as many clusters of each class as it left, the nogood set is loaded, its
cores are restored and it is RUNNING, all in one step; a page that the set needs is waited for. Nothing happens while its partition has
too few free clusters, or a Blocking drains it (R184, R335, R349, R353). (DEDUCED, notes/assumptions/72.md.) -/
def execContextRestoreComplete (x : Nat) (s : State) : Step :=
  let c := s.ctx x
  let free := s.freeList x
  if s.drains x then .next s
  else match c.st, assign c.images free with
  | .loading, some to' =>
    let mv := moved to'
    let pts := s.latest
    runPlinth (do
      modS (fun s => to'.foldl (fun s e => s.putImage x mv pts e) { s with free := s.free + 1 })
      installAll ((← get).plinthOf x)
      modS (fun s => ((s.modCtx x (fun c => { c with
        st := .running, images := [], async := c.async.map (fun a => { a with core := a.core.map mv }) })).updateQueues x).stopCheck x)) s
  | _, _ => .next s

/-! ### Asynchronous machine checks (R341) -/

/-- The cores of context x that run. (DEDUCED, notes/assumptions/78.md.) -/
def State.runningCores (s : State) (x : Nat) : List Nat :=
  (s.coresOfCtx x).filter (fun n => (s.core n).run == .running || (s.core n).run == .stalled)

/-- The core that an unnamed machine check goes to: the running core with the lowest LCORE. (DEDUCED, notes/assumptions/78.md.) -/
def State.lowest (s : State) (x : Nat) : Option Nat := (sortBy s.lcore (s.runningCores x)).head?

/-- ASYNC_MACHINE_CHECK: core c takes the oldest machine check that waits for it, at an instruction boundary; it waits while INTRAP is
1 or TVEC is 0. -/
def execAsyncMachineCheck (n : Nat) (s : State) : Step :=
  onUnits (n < nCores) (fun s =>
    let x := s.ctxOf n
    let mine (a : AsyncMc) : Bool := match a.core with
      | some m => m == n
      | none => s.lowest x == some n
    match (s.ctx x).async.find? mine with
    | none => s
    | some a =>
      if (s.cluster (clusterOf n)).ctx.isSome && s.atBoundary n && !s.fatal n then
        (s.modCtx x (fun c => { c with async := c.async.erase a })).takeTrap n (s.core n).pc .machineCheck true false a.einfo
      else s) s

/-! ### The context record (R334, R335) -/

/-- Whether a value is one that a field of the record can hold. (DEDUCED, notes/assumptions/80.md.) -/
def State.fieldOk (s : State) (x : Nat) (f : CtxField) (v : Word) : Bool :=
  match f with
  | .root => v.toNat < 2 ^ 48 && v.toNat % tableAlign 3 == 0
  | .lspace => v &&& ~~~0xFFFFFFE00001 == 0
  | .fbdepth => s.fbdepthOk x v
  | .fbstat => true
  | .tvec => v.toNat < 2 ^ 48 && v.toNat % 4 == 0
  | .tracectl => s.tracectlOk x v
  | .ssbase => v.toNat < 2 ^ 48 && v.toNat % 64 == 0
  | .ssize => v.toNat < 2 ^ 32 && v.toNat % 64 == 0 && 1024 ≤ v.toNat
  | .mcbase => v.toNat < 2 ^ 48 && v.toNat % 2 ^ 14 == 0

/-- A field of a context record written by H; a stop that it arms may be complete at once in a context that is on its clusters (R381).
(DEDUCED, notes/assumptions/80.md.) -/
def State.writeField (s : State) (x : Nat) (f : CtxField) (v : Word) : State :=
  match f with
  | .root => s.modCtx x (fun c => { c with root := v.toNat })
  | .lspace => s.modCtx x (fun c => { c with lspace := v })
  | .fbdepth => s.setFbdepth x v
  | .fbstat => s.clearFaults x v
  | .tvec => s.modCtx x (fun c => { c with tvec := v })
  | .tracectl => if (s.ctx x).st == .running || (s.ctx x).st == .preempting then (s.writeTracectl x v).stopCheck x else s.writeTracectl x v
  | .ssbase => s.modCtx x (fun c => { c with ssbase := v.toNat })
  | .ssize => s.modCtx x (fun c => { c with ssize := v.toNat })
  | .mcbase => s.modCtx x (fun c => { c with mcbase := v.toNat })

/-- CONTEXT_RECORD_WRITE: with a new label space the Fullers of the context take its nogood set. -/
def execContextRecordWrite (by' : Sender) (x : Nat) (f : CtxField) (v : Word) (s : State) : Step :=
  match s.refusalH by' with
  | some r => .next (s.note (.refused r))
  | none =>
  if (s.ctx x).st == .free then .next (s.note (.refused refuseState))
  else if !s.fieldOk x f v then .next (s.note (.refused refuseValue))
  else
    let t := s.writeField x f v
    if f = .lspace then runPlinth (installAll (t.plinthOf x)) t else .next t

/-- A launch queue as it is configured (R295). -/
def LQueue.fresh (prio : BitVec 2) : LQueue := { prio := prio, entries := [], doneCnt := 0, stopped := false }

/-- The C layers that a partition's clusters lie in. -/
def cLayers (d : PartDesc) : List Nat := (d.clusters.map (· / 64)).eraseDups
/-- Whether a descriptor has shadow slots for n contexts in each C layer that it uses (R333). -/
def slotsFor (d : PartDesc) (n : Nat) : Bool :=
  (cLayers d).all (fun l => decide (n ≤ (d.shadows.filter (fun h => h.1 == l)).length))

/-- CONTEXT_CREATE: the record is written, the queues are configured, the context is LOADING (R335); the headers of its fault buffers and of
its machine-check log are zero (R325, R341). A partition has at most 8 contexts (R18), and a shadow slot for each in every C layer that it uses (R333). (DEDUCED, notes/assumptions/81.md.) -/
def execContextCreate (by' : Sender) (x p : Nat) (i : CtxInit) (s : State) : Step :=
  .next (asH by' (fun s =>
    let others := s.ctxs.filter (fun c => c.2.st != .free && c.2.part == p)
    if (s.ctx x).st != .free || (s.parts.find? p).isNone || 8 ≤ others.length
        || !slotsFor (s.part p).desc (others.length + 1) then s.note (.refused refuseState)
    else
      let t := s.modCtx x (fun _ => { Context.reset with part := p })
      let w (v : Nat) : Word := BitVec.ofNat 64 v
      let fields : List (CtxField × Word) := [(.root, w i.root.toNat), (.lspace, i.lspace), (.fbdepth, i.fbdepth), (.tvec, i.tvec),
        (.tracectl, i.tracectl), (.ssbase, w i.ssbase.toNat), (.ssize, w i.ssize.toNat), (.mcbase, w i.mcbase.toNat)]
      if fields.all (fun e => t.fieldOk x e.1 e.2) && i.queues.all (fun q => q.1 < 16 && q.2 < 4) then
        let t := fields.foldl (fun s e => s.writeField x e.1 e.2) t
        let t := if (t.ctx x).faultBuffer 0 = 0 then t.freshBuffers x else t
        let t := if i.mcbase = 0 then t else t.plinthWrite i.mcbase.toNat 0 64
        t.modCtx x (fun c => { c with
          st := .loading, queues := i.queues.foldl (fun qs q => qs.put q.1 (LQueue.fresh (BitVec.ofNat 2 q.2))) [] })
      else s.note (.refused refuseValue)) s)

/-- CONTEXT_SCHEDULE: the restore of a SWAPPED context begins. -/
def execContextSchedule (by' : Sender) (x : Nat) (s : State) : Step :=
  .next (asH by' (fun s =>
    if (s.ctx x).st == .swapped then s.modCtx x (fun c => { c with st := .loading }) else s.note (.refused refuseState)) s)

/-- The steps that wait for a context (R303, R408). -/
def Waits.isOf (x : Nat) : Waits → Bool
  | .launch _ y _ | .launchPage _ y _ | .page y => y == x
  | _ => false

/-- A context is TERMINATED: its placed kernels are FAULTED, its cores stopped, its queues STOPPED and emptied, its images gone.
(DEDUCED, notes/assumptions/79.md.) -/
def State.terminate (s : State) (x : Nat) : State :=
  let ks := (s.kernels.filter (fun k => k.2.ctx == x)).map (·.1)
  let s := { s.modCtx x (fun c => { c with st := .terminated }) with waiting := s.waiting.filter (fun w => !w.on.isOf x) }
  let s := ks.foldl (fun s k =>
    if (s.kernel k).st == .placing || (s.kernel k).st == .running then s.faultKernel k else s) s
  let cls := s.clustersOfCtx x
  let s := cls.foldl (fun s k => ((coresOf k).foldl State.abandon s).releaseCluster k) s
  (s.modCtx x (fun c => { c with
    images := [], async := []
    queues := c.queues.map (fun q => (q.1, { q.2 with entries := [], doneCnt := 0, stopped := true })) })).fillCold

/-- The resources of a TERMINATED context returned: it is FREE, the partition's alias records are NONE, and no TLB holds an entry of
the context (R335). (DEDUCED, notes/assumptions/79.md.) -/
def State.returnResources (s : State) (x : Nat) : State :=
  let s := (s.dropTlb .context x).clearAliases (s.ctx x).part
  let left := s.kernels.filter (fun k => k.2.ctx != x || k.2.st == .faulted)
  let s := { s with kernels := left.map (fun (k : Nat × Kernel) => if k.2.ctx = x then (k.1, { k.2 with array := none }) else k) }
  s.modCtx x (fun _ => Context.reset)

/-- CONTEXT_TERMINATE: in any state but FREE. -/
def execContextTerminate (by' : Sender) (x : Nat) (s : State) : Step :=
  .next (asH by' (fun s =>
    if (s.ctx x).st == .free then s.note (.refused refuseState) else (s.terminate x).returnResources x) s)

end Sys2Proof.Machine
end

