-- ==== Sys2Proof/Machine/Protocol.lean ====
section
/-! DEFINITION. The messages of coherence (R222-R233): fills and stores at the serving slices, the directory of a home, the
agents, write-backs, partials and their recall, dead agents. A message in flight acts when its step is taken; the instructions
of a core make the same exchanges at once where no message of the line is under way. -/

namespace Sys2Proof.Machine

/-! ### Leases at the L1D (R222-R224) -/

/-- Whether an agent's slice holds read permission (R224, R229). -/
def AgentState.reads : AgentState → Bool
  | .s | .sm | .e | .m | .o => true
  | _ => false

/-- L1_FILL_REPLY: data and lease times reach cluster k's L1D, which fills the line where the reply is still the slice's value;
a line of another kind stays. The load that asked hits the line when it issues again, and binds then: pts takes at least wts (R223).
(DEDUCED, notes/assumptions/67.md.) -/
def execL1FillReply (k line wts rts : Nat) (s : State) : Step :=
  onUnits (k < nClusters) (fun s =>
    let L := lineOf line
    let a := s.agent (k / 512) L
    let free := match s.l1 k L with
      | none | some (.v _ _ _ _ _ _) => true
      | _ => false
    if free && AgentState.reads a.st && a.wts == wts && rts ≤ a.rts then
      match s.roomL1 k L with
      | some s =>
        let v := s.lineVal L
        s.setL1 k L (.v wts rts s.time v.data v.tags v.bad)
      | none => s
    else s) s

/-- SLICE_FILL_REQUEST: a fill or renewal of cluster k with a core's pts reaches the serving slice: the lease is extended and
answered, or a way is found and the agent asks the home (R10, R224, R229). (DEDUCED, notes/assumptions/67.md.) -/
def execSliceFillRequest (k line pts : Nat) (s : State) : Step :=
  onUnits (k < nClusters) (fun s =>
    let L := lineOf line
    let t := k / 512
    let a := s.agent t L
    if AgentState.reads a.st then
      let rts := max a.rts (max (a.wts + lease) (pts + lease))
      (s.setAgent t L { a with rts := rts }).send (.fillReply k L a.wts rts)
    else if a.st == .i then match s.slotFor t L with
      | some s => (s.setAgent t L { s.agent t L with st := .is, next := false }).send (.dirGets L t)
      | none => s.later .again
    else s) s

/-- SLICE_STORE: the store at the head of core c's buffer reaches its serving slice: stamped where the slice may write, else it waits
there and the agent, unless it has asked already, finds a way and asks the home (R10, R224, R229). -/
def execSliceStore (c : Nat) (s : State) : Step :=
  if c < nCores then
    match (s.core c).sb with
    | [] => .next s
    | e :: _ =>
      if e.loc.place == .tracked && e.kind == .store && !s.inCounter e.loc then
        let L := lineOf e.loc.key
        let t := towerOf c
        let a := s.agent t L
        let wait (st : AgentState) : State := s.setAgent t L { a with st := st, queued := addTo a.queued c }
        match a.st with
        | .e | .m => runEngine c .store (do
            storeReady c
            performHead c) s
        | .s => .next ((wait .sm).send (.dirUpg L t))
        | .o => .next (if s.upgrading L t || s.granting L (· == t) then wait .o else (wait .o).send (.dirUpg L t))
        | .i => .next (match s.slotFor t L with
          | some s => (s.setAgent t L { s.agent t L with st := .im, queued := addTo a.queued c, next := false }).send (.dirGetx L t)
          | none => s)
        | st => .next (wait st)
      else .next s
  else .fault .noSuchUnit

/-! ### The directory (R227, R228) -/

/-- A request joins its line's queue, behind the others; or is back at its head (R227). -/
def State.dirWait (s : State) (L : Nat) (q : DirReq) : State := s.setDir L { s.dir L with queue := (s.dir L).queue ++ [q] }
def State.dirBack (s : State) (L : Nat) (q : DirReq) : State := s.setDir L { s.dir L with queue := q :: (s.dir L).queue }

/-- A directory entry of a line in a transient state moves on while answers are still awaited. -/
def State.moveDir (s : State) (L : Nat) (d : DirState) : State := s.setDir L { s.dir L with st := d }

/-- The incarnation that the home of a line gives an agent (R233). -/
def State.incarnation (s : State) (L t : Nat) : Nat :=
  if h : t < 4 then ((s.tower (homeTower L)).incarn[t]).toNat else 0

/-- Invalidations sent to agents. -/
def State.sendInvalidations (s : State) (L : Nat) (ts : List Nat) : State :=
  ts.foldl (fun s t => s.send (.agentInvalidation L t)) s

/-- A read request served (R228). -/
def State.dirGets (s : State) (L t : Nat) : State :=
  let m := s.mts L
  match (s.dir L).st with
  | .i => (s.setDirSt L (.x t)).send (.dataGrant L t true m m)
  | .s set => (s.setDirSt L (.s (addTo set t))).send (.dataGrant L t false m m)
  | .x o =>
    if o = t then s.send (.dataGrant L t true m m)
    else (s.askDir L (.bFwd o t false [])).send (.forwardedGets L o t)
  | .o o set =>
    if o = t then s.send (.dataGrant L t false m m)
    else (s.askDir L (.bFwd o t false set)).send (.forwardedGets L o t)
  | .u _ _ _ => (s.dirBack L (.gets t)).askRecall L
  | _ => s.dirBack L (.gets t)

/-- A request to write served, with data or, for an upgrade of a holder, without (R228). -/
def State.dirWrite (s : State) (L t : Nat) (upg : Bool) : State :=
  let m := s.mts L
  let q : DirReq := if upg then .upg t else .getx t
  match (s.dir L).st with
  | .i => (s.setDirSt L (.x t)).send (.dataGrant L t true m m)
  | .s set =>
    let left := set.filter (· != t)
    if left = [] then (s.setDirSt L (.x t)).send (.dataGrant L t true m m)
    else (s.askDir L (.bInv left t (!(upg && set.contains t)) m 0)).sendInvalidations L left
  | .x o =>
    if o = t then s.send (.dataGrant L t true m m)
    else (s.askDir L (.bFwd o t true [])).send (.forwardedGetx L o t)
  | .o o set =>
    let left := set.filter (· != t)
    if o = t then
      if left = [] then (s.setDirSt L (.x t)).send (.dataGrant L t true m m)
      else (s.askDir L (.bInv left t false m 0)).sendInvalidations L left
    else ((s.askDir L (.bFwd o t true left)).send (.forwardedGetx L o t)).sendInvalidations L left
  | .u _ _ _ => (s.dirBack L q).askRecall L
  | _ => s.dirBack L q

/-- The operation and size with which tower t joins a line in U: of the partials it holds, else of the first reduction that waits
in its store buffers. -/
def State.joinOp (s : State) (L t : Nat) : Option (MemOp × Nat) :=
  match s.partialOp L with
  | some p => some p
  | none => s.cores.findSome? (fun c =>
    if towerOf c.1 == t then
      c.2.sb.findSome? (fun e => match e.kind with
        | .red op => if e.loc.place == .tracked && lineOf e.loc.key == L then some (op, e.size) else none
        | _ => none)
    else none)

/-- A reduction's join served: holders are invalidated and the owner written back, then U; another operation or size is a recall
(R228, R232). (DEDUCED, notes/assumptions/69.md.) -/
def State.dirJoin (s : State) (L t : Nat) : State :=
  match s.joinOp L t with
  | none => s
  | some (op, size) =>
    match (s.dir L).st with
    | .u set o z =>
      if o = op ∧ z = size then s.setDirSt L (.u (addTo set t) op size) else (s.dirBack L (.red t)).askRecall L
    | _ => match s.bringHome L with
      | some s => s.setDirSt L (.u [t] op size)
      | none => s.dirBack L (.red t)

def State.dirServe (s : State) (L : Nat) : DirReq → State
  | .gets t => s.dirGets L t
  | .getx t => s.dirWrite L t false
  | .upg t => s.dirWrite L t true
  | .red t => s.dirJoin L t

/-- Whether the directory serves a line's next request (R227). -/
def DirState.stable : DirState → Bool
  | .bInv _ _ _ _ _ | .bFwd _ _ _ _ | .bRec _ _ _ => false
  | _ => true

/-- Whether a request can be served now: the join of a line that is not yet in U needs every agent to give the line up. -/
def State.dirReady (s : State) (L : Nat) : DirReq → Bool
  | .red _ => s.isU L || (s.bringHome L).isSome
  | _ => true

/-- The requests that wait for a line, one at a time in arrival order, while it is in a stable state and its home is not held (R227,
R354). -/
def State.dirNext (s : State) (L : Nat) : Nat → State
  | 0 => s
  | n + 1 =>
    let d := s.dir L
    match d.queue with
    | [] => s
    | q :: r => if DirState.stable d.st && s.dirReady L q && !s.heldLine L then ((s.setDir L { d with queue := r }).dirServe L q).dirNext L n else s

def State.dirResume (s : State) (L : Nat) : State := s.dirNext L ((s.dir L).queue.length + 1)

/-- A request reaches the directory: it is served behind those that wait (R227). -/
def State.dirRequest (s : State) (L : Nat) (q : DirReq) : State := (s.dirWait L q).dirResume L

def execDirGets (line t : Nat) (s : State) : Step := onUnits (t < 4) (fun s => s.dirRequest (lineOf line) (.gets t)) s
def execDirGetx (line t : Nat) (s : State) : Step := onUnits (t < 4) (fun s => s.dirRequest (lineOf line) (.getx t)) s
/-- DIR_UPG: an agent that is no holder any more is served as a GETX (R228). (DEDUCED, notes/assumptions/68.md.) -/
def execDirUpg (line t : Nat) (s : State) : Step := onUnits (t < 4) (fun s => s.dirRequest (lineOf line) (.upg t)) s
/-- (DEDUCED, notes/assumptions/69.md.) -/
def execDirRedJoin (line t : Nat) (s : State) : Step := onUnits (t < 4) (fun s => s.dirRequest (lineOf line) (.red t)) s

/-- The line's data lies in DRAM again: the image that the agent's ownership kept is not needed. -/
def State.dramTakes (s : State) (L t : Nat) : State := s.setAgent t L { s.agent t L with dram := none }

/-- DIR_PUT: a write-back or clean eviction reaches the directory, which acknowledges; one of an old incarnation is discarded and counted
(R228, R233). (DEDUCED, notes/assumptions/27.md.) -/
def execDirPut (line t : Nat) (dirty : Bool) (head : PutHead) (s : State) : Step :=
  onUnits (t < 4) (fun s =>
    let L := lineOf line
    let ack (s : State) : State := (s.send (.writebackAck L t)).dirResume L
    let taken (s : State) : State := (if dirty then s.dramTakes L t else s).raiseMts L head.rts
    if head.inc ≠ s.incarnation L t then s.note (.staleMessage t)
    else match (s.dir L).st with
    | .x o => if o = t then ack ((taken s).setDirSt L .i) else ack s
    | .o o set =>
      if o = t then ack ((taken s).setDirSt L (if set = [] then .i else .s set)) else ack (s.setDirSt L (.o o (set.filter (· != t))))
    | .s set =>
      let left := set.filter (· != t)
      ack ((s.raiseMts L head.rts).setDirSt L (if left = [] then .i else .s left))
    | _ => ack s) s

/-- INVALIDATION_ACK: with the last one the requester is granted, with the stamp of the value it is owed; one of an old incarnation is
discarded and counted (R227, R228, R233). -/
def execInvalidationAck (line t maxrts inc : Nat) (s : State) : Step :=
  onUnits (t < 4) (fun s =>
    let L := lineOf line
    if inc ≠ s.incarnation L t then s.note (.staleMessage t)
    else match (s.dir L).st with
    | .bInv left r data w m =>
      let left := left.filter (· != t)
      let m := max m maxrts
      if left = [] then ((s.setDirSt L (.x r)).send (.dataGrant L r true w (max w m))).dirResume L
      else s.moveDir L (.bInv left r data w m)
    | .bFwd o r true set =>
      let a := s.agent r L
      (s.setAgent r L { a with rts := max a.rts maxrts }).moveDir L (.bFwd o r true (set.filter (· != t)))
    | _ => s) s

/-! ### The agents (R229) -/

/-- The incarnation that an agent knows of a home (R233). -/
def State.knownInc (s : State) (L t : Nat) : Nat := ((s.tower t).known[homeTower L % 4]).toNat

/-- A message that must wait at agent t for the grant that was sent before it (R402). -/
def State.hold (s : State) (t L : Nat) (m : Msg) : State := s.setAgent t L { s.agent t L with held := (s.agent t L).held ++ [m] }

/-- An invalidation served: the copy goes, and the acknowledgement carries maxrts (R229). -/
def State.serveInvalidation (s : State) (L t : Nat) : State :=
  let s := s.learn (homeTower L) t
  let a := s.agent t L
  if s.granting L (· == t) then s.hold t L (.agentInvalidation L t)
  else
    let st : AgentState := match a.st with
      | .s => .i
      | .sm => .im
      | x => x
    (s.setAgent t L { a with st := st }).send (.invalidationAck L t a.rts (s.knownInc L t))

/-- Whether stores that wait at agent t for a line that it may now write have still to be stamped (R229, R402). -/
def State.stampsDue (s : State) (t L : Nat) : Bool :=
  let a := s.agent t L
  (a.st == .e || a.st == .m) && a.queued.any (fun c => match (s.core c).sb with
    | e :: _ => e.kind == .store && e.loc.place == .tracked && lineOf e.loc.key == L
    | [] => false)

/-- Whether a forward must wait at agent o: it waits for data or for a grant (R402). -/
def State.awaitsGrant (s : State) (o L : Nat) : Bool :=
  let st := (s.agent o L).st
  st == .is || st == .im || st == .sm || s.granting L (· == o)

/-- A forwarded GETS served: the owner o sends data to t and stays a holder; one that is leaving serves it from its write-back
buffer, and the directory writes the data to DRAM; one whose queued stores are not yet stamped waits for them (R228, R229, R402). -/
def State.serveGets (s : State) (L o t : Nat) : State :=
  let s := s.learn (homeTower L) o
  let a := s.agent o L
  let set := match (s.dir L).st with
    | .bFwd _ _ _ set => set
    | _ => []
  let go (st : AgentState) (d : DirState) : State :=
    (((s.setAgent o L { a with st := st }).setDirSt L d).send (.dataGrant L t false a.wts a.rts)).dirResume L
  if s.awaitsGrant o L then s.hold o L (.forwardedGets L o t)
  else if s.stampsDue o L then s.later .again
  else match a.st with
  | .e => go .s (.s (addTo (addTo set o) t))
  | .m | .o => go .o (.o o (addTo set t))
  | .mi =>
    (((((s.setAgent o L { a with leaving := true }).dramTakes L o).raiseMts L a.rts).setDirSt L (.s (addTo set t))).send
      (.dataGrant L t false a.wts a.rts)).dirResume L
  | _ => s

/-- A forwarded GETX served: the owner o gives the line up to t with its data and maxrts; the invalidations still out are waited for.
An owner whose own upgrade is under way will be served data; one whose queued stores are not yet stamped waits for them (R228, R229,
R402). -/
def State.serveGetx (s : State) (L o t : Nat) : State :=
  let s := s.learn (homeTower L) o
  let a := s.agent o L
  let set := match (s.dir L).st with
    | .bFwd _ _ _ set => set
    | _ => []
  let give (s : State) : State :=
    -- the image in DRAM goes with a dirty line; a leaving one is written to DRAM
    let r := s.agent t L
    let s := s.setAgent t L { r with dram := if a.st == .mi then none else some ((s.imageOf L a).getD (s.lineData L, s.lineTags L)) }
    if set = [] then ((s.setDirSt L (.x t)).send (.dataGrant L t true a.wts a.rts)).dirResume L
    else s.moveDir L (.bInv set t true a.wts a.rts)
  if s.awaitsGrant o L then s.hold o L (.forwardedGetx L o t)
  else if s.stampsDue o L then s.later .again
  else match a.st with
  | .e | .m | .o => give (s.setAgent o L { a with st := a.st.lost (s.upgrading L o), dram := none })
  | .mi => give (((s.setAgent o L { a with leaving := true }).dramTakes L o).raiseMts L a.rts)
  | _ => s

/-- AGENT_INVALIDATION: it reaches agent t. -/
def execAgentInvalidation (line t : Nat) (s : State) : Step := onUnits (t < 4) (fun s => s.serveInvalidation (lineOf line) t) s
/-- AGENT_FORWARDED_GETS: it reaches the owner o. -/
def execAgentForwardedGets (line o t : Nat) (s : State) : Step := onUnits (o < 4 && t < 4) (fun s => s.serveGets (lineOf line) o t) s
/-- AGENT_FORWARDED_GETX: it reaches the owner o. -/
def execAgentForwardedGetx (line o t : Nat) (s : State) : Step := onUnits (o < 4 && t < 4) (fun s => s.serveGetx (lineOf line) o t) s

/-- The stores that wait at agent t for a line that it may now write are stamped, in the order they came; one that cannot be made now, for a
page that its label's fold needs, goes on waiting (R229, R408). -/
def State.stampQueued (s : State) (t L : Nat) : State :=
  let a := s.agent t L
  if a.st == .e || a.st == .m then
    a.queued.foldl (fun s c =>
      let gone (s : State) : State := s.setAgent t L { s.agent t L with queued := (s.agent t L).queued.filter (· != c) }
      match (s.core c).sb with
      | e :: _ =>
        if e.kind == .store && e.loc.place == .tracked && lineOf e.loc.key == L then
          match performHead c s with
          | .ok _ u => gone u
          | .error _ _ => s
        else gone s
      | [] => gone s) s
  else s

/-- A message of the directory served at an agent. -/
def State.serveMsg (s : State) (m : Msg) : State := match m with
  | .forwardedGets L o r => s.serveGets L o r
  | .forwardedGetx L o r => s.serveGetx L o r
  | .agentInvalidation L o => s.serveInvalidation L o
  | _ => s

/-- What agent t held is served, in the order it came; it arrives again where queued stores must be stamped first (R402). -/
def State.serveMessages (s : State) (t L : Nat) : State :=
  let a := s.agent t L
  let u := s.setAgent t L { a with held := [] }
  if s.stampsDue t L then { u with flight := u.flight ++ a.held } else a.held.foldl State.serveMsg u

/-- AGENT_DATA_GRANT: data or a grant reaches agent t: it fills, its queued stores are stamped, what it held is served (R229, R402). -/
def execAgentDataGrant (line t : Nat) (excl : Bool) (wts rts : Nat) (s : State) : Step :=
  onUnits (t < 4) (fun s =>
    let L := lineOf line
    let s := s.learn (homeTower L) t
    let a := s.agent t L
    let own (w : Nat) : State := s.setAgent t L { a with st := .m, wts := w, rts := max a.rts rts, dram := s.imageOf L a }
    let s := match a.st with
      | .is => s.setAgent t L { a with st := if excl then .e else .s, wts := wts, rts := rts }
      | .im => if excl then own wts else s
      | .sm | .o => if excl then own a.wts else s
      | _ => s
    ((s.stampQueued t L).serveMessages t L).dirResume L) s

/-- AGENT_EVICTION: an owned line leaves with a PUT; a line with partials asks for its recall (R229, R232).
(DEDUCED, notes/assumptions/68.md.) -/
def execAgentEviction (line t : Nat) (s : State) : Step :=
  onUnits (t < 4) (fun s =>
    let L := lineOf line
    let a := s.agent t L
    if a.parts ≠ [] then s.askRecall L
    else match a.st with
    | .e | .m | .o =>
      if s.upgrading L t || s.granting L (· == t) then s
      else (s.setAgent t L { a with st := .mi }).send (.dirPut L t (a.st != .e) a.rts (s.knownInc L t))
    | _ => s) s

/-- Whether a message is a forward of a line to agent t. -/
def Msg.forwardTo (L t : Nat) : Msg → Bool
  | .forwardedGets K o _ | .forwardedGetx K o _ => K == L && o == t
  | _ => false

/-- WRITEBACK_ACK: the write-back buffer is freed, whether the acknowledgement is stale or not (R229); a forward that the home sent before
it arrived before it (R228, R401). A reduction that waited for the line goes on. (DEDUCED, notes/assumptions/68.md.) -/
def execWritebackAck (line t : Nat) (s : State) : Step :=
  onUnits (t < 4) (fun s =>
    let L := lineOf line
    if (s.agent t L).st == .mi then
      let fs := s.flight.filter (Msg.forwardTo L t)
      let s := if fs = [] then s else fs.foldl State.serveMsg { s with flight := s.flight.filter (fun m => !Msg.forwardTo L t m) }
      (s.setAgent t L { s.agent t L with st := .i, leaving := false, dram := none }).dirResume L
    else s) s

/-! ### Partials (R232) -/

/-- U_PARTIAL_EVICT: cluster k's partials of a line move to the serving slice, with its logical number, where there is room. -/
def execUPartialEvict (k line : Nat) (s : State) : Step :=
  onUnits (k < nClusters) (fun s => match s.l1 k (lineOf line) with
    | some (.u _ _ _) => s.evictL1 k (lineOf line)
    | _ => s) s

/-- U_RECALL_COMPLETE: every partial is folded into memory, and the waiting requests are served. -/
def execURecallComplete (line : Nat) (s : State) : Step :=
  let L := lineOf line
  if s.isU L then runPlinth (do
    foldLine L
    modS (fun s => s.dirResume L)) s
  else .next s

/-! ### Dead agents (R233, R247) -/

/-- The contexts of the partition that holds a line, those that can still be told. -/
def State.ctxsOfLine (s : State) (L : Nat) : List Nat :=
  (s.ctxs.filter (fun c => (s.part c.2.part).desc.ranges.any (fun r => r.1 ≤ L && L < r.2) &&
    (c.2.st == .running || c.2.st == .preempting || c.2.st == .swapped || c.2.st == .loading))).map (·.1)

/-- A machine check of a kind in the partitions that some lines lie in: one event for each context there, naming those of the
listed lines that are its own. -/
def State.partitionCheck (s : State) (kind origin : Nat) (about lines : List Nat) : State :=
  (s.ctxs.map (·.1)).foldl (fun s x =>
    let mine (l : List Nat) : List Nat := l.filter (fun L => (s.ctxsOfLine L).contains x)
    if (mine about).isEmpty then s else s.machineCheck x kind origin (mine lines) none) s

/-- A directory entry without a dead agent: its waits are answered, and what it owned is read from DRAM. -/
def State.scrubDir (s : State) (L t : Nat) : State :=
  let m := s.mts L
  let s := match (s.dir L).st with
    | .s set => let l := set.filter (· != t); s.setDirSt L (if l = [] then .i else .s l)
    | .x o => if o = t then s.setDirSt L .i else s
    | .o o set =>
      if o = t then s.setDirSt L (if set = [] then .i else .s set) else s.setDirSt L (.o o (set.filter (· != t)))
    | .u set op size => let l := set.filter (· != t); s.setDirSt L (if l = [] then .i else .u l op size)
    | .bRec set op size => s.moveDir L (.bRec (set.filter (· != t)) op size)
    | .bInv left r data w m' =>
      let l := left.filter (· != t)
      if r = t then s.setDirSt L (if l = [] then .i else .s l)
      else if l = [] then (s.setDirSt L (.x r)).send (.dataGrant L r true w (max w m')) else s.moveDir L (.bInv l r data w m')
    | .bFwd o r excl set =>
      let l := set.filter (· != t)
      if r = t then
        -- the owner keeps the line; the forward for the dead agent is withdrawn
        let mine (m : Msg) : Bool := m == Msg.forwardedGets L o r || m == Msg.forwardedGetx L o r
        let a := s.agent o L
        ({ s with flight := s.flight.filter (!mine ·) }.setAgent o L { a with held := a.held.filter (!mine ·) }).setDirSt L
          (if a.st == AgentState.o || l != [] then DirState.o o l else .x o)
      else if o = t then
        -- what was sent to the dead owner is withdrawn with it
        if !excl then (s.setDirSt L (.s (addTo l r))).send (.dataGrant L r false m m)
        else if l = [] then (s.setDirSt L (.x r)).send (.dataGrant L r true m m)
        else s.moveDir L (.bInv l r true m m)
      else s.moveDir L (.bFwd o r excl l)
    | _ => s
  s.dirResume L

/-- The dead agent's own record: it answers nothing until it learns of its new incarnation; its partials are lost. -/
def deadRecord (a : Agent) : Agent := { Agent.reset with st := if a.st == .i then .i else .mi, wts := a.wts, rts := a.rts }

/-- Whether a message between a home and agent t, or an L1D of its tower, dies with the agent (R233, R247).
(DEDUCED, notes/assumptions/70.md.) -/
def Msg.diesWith (home t : Nat) : Msg → Bool
  | .dirGets L a | .dirGetx L a | .dirUpg L a | .dirRedJoin L a | .agentInvalidation L a | .writebackAck L a
  | .forwardedGets L a _ | .forwardedGetx L a _ | .dataGrant L a _ _ _ => homeTower L == home && a == t
  | .allowanceReturn L k _ | .counterRecall L k => homeTower L == home && k / 512 == t
  | _ => false

/-- The agent that a waiting request is of. -/
def DirReq.agent : DirReq → Nat
  | .gets t | .getx t | .upg t | .red t => t

/-- The allowances that the clusters of tower t hold of a counter count as spent (R247). -/
def State.spend (s : State) (L t : Nat) : State := match s.counter L with
  | none => s
  | some c =>
    let gone (k : Nat) : Bool := k / 512 == t
    let s := (c.holders.filter gone).foldl (fun s k => match s.allowance k L with
      | some _ => s.dropL1 k L
      | none => s) s
    let left := c.holders.filter (fun k => !gone k)
    let s := s.setCounter L { c with holders := left }
    if left = [] ∧ c.recalling then s.send (.roundComplete L) else s.serveAll L

/-- Whether the home of a line waits for an answer of agent t (R228, R232). -/
def State.awaits (s : State) (L t : Nat) : Bool := match (s.dir L).st with
  | .bInv left _ _ _ _ => left.contains t
  | .bFwd o _ _ set => o == t || set.contains t
  | .bRec set _ _ => set.contains t
  | _ => false

/-- Three sends, 65,536 cycles apart, since a time have gone unanswered (R233). -/
def State.unanswered (s : State) (since : Nat) : Bool := Nat.ble (since + 3 * 65536) s.time

/-- Whether a home has had no answer of agent t: for a line of its directory, or in a recall round of a counter (R233, R247).
(DEDUCED, notes/assumptions/70.md.) -/
def State.silent (s : State) (home t : Nat) : Bool :=
  s.dirs.any (fun e => homeTower e.1 == home && s.awaits e.1 t && (match e.2.sent with
    | some b => s.unanswered b
    | none => false)) ||
  s.counters.any (fun e => homeTower e.1 == home && e.2.recalling && e.2.holders.any (fun k => k / 512 == t) && s.unanswered e.2.asked)

/-- DEAD_AGENT_TIMEOUT: after three unanswered sends the home declares agent t dead: its lines revert to their copies in DRAM, the
directory forgets it and what is under way between them, its incarnation rises, the waiting requests go on, and a MACHINE_CHECK lists
the lines it held dirty; its allowances count as spent (R233, R247). (DEDUCED, notes/assumptions/70.md.) -/
def execDeadAgentTimeout (home t : Nat) (s : State) : Step :=
  onUnits (home < 4 && t < 4) (fun s => if !s.silent home t then s else
    let held := (s.agents.filter (fun e => e.1 % 4 == t && homeTower (e.1 / 4) == home)).map (fun e => (e.1 / 4, e.2))
    let dirty := held.filterMap (fun e => e.2.dram.map (fun d => (e.1, d)))
    let s := dirty.foldl (fun s e => s.putLine e.1 e.2.1 e.2.2) s
    let s := held.foldl (fun s e => s.setAgent t e.1 (deadRecord e.2)) s
    let s := { s with flight := s.flight.filter (fun m => !Msg.diesWith home t m) }
    let s := s.modTower home (fun w => { w with incarn := if h : t < 4 then w.incarn.set t (w.incarn[t] + 1) else w.incarn })
    let dirs := (s.dirs.filter (fun e => homeTower e.1 == home)).map (·.1)
    let s := dirs.foldl (fun s L =>
      (s.setDir L { s.dir L with queue := (s.dir L).queue.filter (fun q => DirReq.agent q != t) }).scrubDir L t) s
    let cts := (s.counters.filter (fun e => homeTower e.1 == home && e.2.holders.any (fun k => k / 512 == t))).map (·.1)
    let s := cts.foldl (fun s L => s.spend L t) s
    let s := s.partitionCheck 4 home cts cts
    s.partitionCheck 1 t (held.map (·.1)) (dirty.map (·.1))) s

/-- NEWER_INCARNATION: agent t learns that home has given it a newer incarnation (R233). (DEDUCED, notes/assumptions/70.md.) -/
def execNewerIncarnation (home t : Nat) (s : State) : Step :=
  onUnits (home < 4 && t < 4) (fun s => s.learn home t) s

end Sys2Proof.Machine
end

