-- ==== Sys2Proof/Machine/Layers.lean ====
section
/-! DEFINITION. Layers: the stacked scratchpad (R357-R361), partitions and way masks (R333), Blocking (R350-R355), lane repair
(R362, R363). -/

namespace Sys2Proof.Machine

/-! ### Slices (R221, R357) -/

/-- Whether a layer is ACTIVE in the M role. -/
def State.isM (s : State) (l : Nat) : Bool := (s.layer l).role == .m && (s.layer l).st == .active

/-- The lines that tower t holds at its slices, as home or as agent, that satisfy p. -/
def State.linesAt (s : State) (t : Nat) (p : Nat → Bool) : List Nat :=
  let homed := (s.dirs.filter (fun e => homeTower e.1 == t)).map (·.1)
  let counters := (s.counters.filter (fun e => homeTower e.1 == t)).map (·.1)
  let held := (s.agents.filter (fun e => e.1 % 4 == t && (e.2.st != .i || e.2.parts != []))).map (fun e => e.1 / 4)
  let loose := (s.slices.filter (fun e => homeTower e.1 == t)).map (·.1)
  ((homed ++ counters ++ held ++ loose).eraseDups).filter p

/-- A line leaves the slices: partials are folded, a counter's holders return, those of which an allowance is on its way are waited
for, and its image is written; dirty data goes home and MTS takes the largest rts (R222, R228, R230, R232, R243). -/
def flushLine (L : Nat) : M Unit := do
  recallLine L
  match (← get).counter L with
  | some c =>
    modS (fun s => c.holders.foldl (fun s k => match s.allowance k L with
      | some n => (s.dropL1 k L).takeHome L k n
      | none => s) s)
    match (← get).counter L with
    | some c =>
      needs c.holders.isEmpty
      modS (fun s => s.counterImage L c)
    | none => pure ()
  | none => pure ()
  orStall (fun s => s.bringHome L)
  modS (fun s => { s with slices := s.slices.erase L })

/-- The lines of partition p at slot z (R221, R333). -/
def State.linesOfSlot (s : State) (p z : Nat) : List Nat :=
  s.linesAt (slotTower z) (fun L => s.serving (slotTower z) L == s.sliceNumber z && s.owner L == some p)

/-! ### WAYSET (R358-R360) -/

/-- The offsets of the scratchpad window that ways k, lo ≤ k < hi, of slot z cover. -/
def waysLo (z lo : Nat) : Nat := z * 2 ^ 23 + lo * 2 ^ 20
/-- A partition's count of lent ways. -/
def State.lentWays (s : State) (p z : Nat) : Nat := (s.part p).lent.get 0 z
/-- Whether ways 16 − n to 15 lie in a mask. -/
def inMask (mask : BitVec 16) (n : Nat) : Bool := (List.range n).all (fun k => mask.getLsbD (15 - k))

/-- Whether a core's record, that of core n or of a core's image, has an access or a copy command under way that touches offsets lo to hi of
the scratchpad window. -/
def State.touches (s : State) (n : Nat) (c : Core) (lo hi : Nat) : Bool :=
  let meets (off len : Nat) : Bool := off < hi && lo < off + len
  c.sb.any (fun e => e.loc.place == .scratch && meets (e.loc.key - scratchBase) e.size) || c.tileMem ||
  c.mq.any (fun e => e.locs.any (fun l => l.place == .scratch && meets (l.key - scratchBase) 64)) ||
  c.cq.any (fun e =>
    let x := xshape e.opts e.shape
    let at' (a : Word) (len : Nat) : Bool := match s.rangeOf n a len with
      | some (.scratch off) => meets off len
      | _ => false
    !e.pub && (at' e.src x.srcSpan || at' e.dst (x.dstSpan e.opts)))

/-- Whether one of partition p does, on its clusters or in a saved image (R292, R359). -/
def State.touched (s : State) (p lo hi : Nat) : Bool :=
  s.ctxs.any (fun x => x.2.part == p && x.2.st != .free &&
    ((s.coresOfCtx x.1).any (fun n => s.touches n (s.core n) lo hi) ||
     x.2.images.any (fun i => i.cores.any (fun d => s.touches (8 * i.cluster + d.slot) d.core lo hi))))

/-- A partition's count for a slice set: new ways read zero under TRUE, returned ones lose their contents.
(DEDUCED, notes/assumptions/85.md.) -/
def State.setWays (s : State) (p z n : Nat) : State :=
  let old := s.lentWays p z
  let s := s.zero (scratchBase + waysLo z (min n old)) ((max n old - min n old) * 2 ^ 20)
  s.modPart p (fun q => { q with lent := q.lent.set 0 z n })

/-- (DEDUCED, notes/assumptions/85.md.) -/
def execWayset (d a : GReg) (s : State) : Step :=
  runI (.wayset d a) (do
    needS
    let s ← get
    let v := (s.me.rg a).toNat
    let p := s.partOf s.cur
    let z := v % 128
    let n := v / 2 ^ 8 % 16
    let old := s.lentWays p z
    if 2 ^ 12 ≤ v ∨ v / 2 ^ 7 % 2 = 1 ∨ 8 < n then raiseValue .illegal
    if !s.isM (slotLayer z) then raiseValue .protect
    if !inMask (s.wayMask p z) (max n old) then raiseValue .protect
    performed
    if n ≠ old then
      needs (!(← get).touched p (waysLo z (min n old)) (waysLo z (max n old)))
      if old < n then (s.linesOfSlot p z).forM flushLine
      modS (fun s => s.setWays p z n)
    result d (BitVec.ofNat 64 old) []) s

/-- M layers strictly between layer positions a and b of tower t. -/
def State.between (s : State) (t a b : Nat) : Nat :=
  ((List.range 8).filter (fun l => min a b < l && l < max a b && (s.layer (8 * t + l)).role == .m)).length

/-- What WAYSET.Q reports of slot z to core n: the hops are counted in the core's own tower, at the slice's position (R16, R358).
(DEDUCED, notes/assumptions/84.md.) -/
def State.slotReport (s : State) (n z : Nat) : Word :=
  let t := towerOf n
  let me := layerOf n % 8
  let it := slotLayer z % 8
  let hops := s.between t me it
  let other := slotTower z ≠ t
  let above := me < it ∨ (me = it ∧ other)
  let ways := s.lentWays (s.partOf n) z
  let dir := if !s.isM (slotLayer z) then 3 else if other then 2 else if above then 1 else 0
  let lat := if dir = 3 then 0 else (if above then 30 else 22) + 4 * hops + (if other then 90 else 0)
  BitVec.ofNat 64 (ways * 2 ^ 16 + hops % 16 * 2 ^ 10 + dir * 2 ^ 8 + lat)

/-- (DEDUCED, notes/assumptions/84.md.) -/
def execWaysetQ (d a : GReg) (s : State) : Step :=
  runI (.waysetQ d a) (do
    let s ← get
    let v := (s.me.rg a).toNat
    if 2 ^ 7 ≤ v then raiseValue .illegal
    result d (s.slotReport s.cur v) []) s

/-! ### Way masks and partitions (R333, R361) -/

/-- The lent ways that lie in a mask, from way 15 downward. -/
def keptWays (mask : BitVec 16) (n : Nat) : Nat := ((List.range n).takeWhile (fun k => mask.getLsbD (15 - k))).length

/-- A partition's way mask of a slice changed: lent ways that it excludes are returned (R361). -/
def State.setMask (s : State) (p z : Nat) (mask : BitVec 16) : State :=
  let s := s.setWays p z (keptWays mask (s.lentWays p z))
  s.modPart p (fun q => { q with desc := { q.desc with ways := q.desc.ways.filter (fun e => e.1 != z) ++ [(z, mask)] } })

/-- Whether ways of a slice are free of every other partition. -/
def State.maskFree (s : State) (p z : Nat) (mask : BitVec 16) : Bool :=
  s.parts.all (fun q => q.1 == p || s.wayMask q.1 z &&& mask == 0)

/-- Whether something under way touches ways that a partition's count of slot z, falling to n, returns: it is waited for (R359, R361). -/
def State.waysBusy (s : State) (p z n : Nat) : Bool :=
  Nat.blt n (s.lentWays p z) && s.touched p (waysLo z n) (waysLo z (s.lentWays p z))

/-- WAY_MASK_WRITE: H changes a partition's way mask of a slice; as a shrinking WAYSET it waits for what touches the ways returned
(R361). The plinth of the slice's tower does not act in recovery (R372). -/
def execWayMaskWrite (by' : Sender) (p z : Nat) (mask : BitVec 16) (s : State) : Step :=
  .next (asH by' (fun s =>
    if (s.parts.find? p).isNone || (s.tower (slotTower z)).recovery then s.note (.refused refuseState)
    else if 128 ≤ z || (mask != 0 && (s.layer (slotLayer z)).role != .m) || !s.maskFree p z mask then s.note (.refused refuseValue)
    else if s.waysBusy p z (keptWays mask (s.lentWays p z)) then s.later .again
    else s.setMask p z mask) s)

/-- Whether two half-open ranges share a byte. -/
def meetsRange (a b : Nat × Nat) : Bool := a.1 < b.2 && b.1 < a.2
/-- Whether no two of a list share a byte. -/
def apart : List (Nat × Nat) → Bool
  | [] => true
  | r :: rs => rs.all (fun q => !meetsRange r q) && apart rs

/-- The physical address of a granule of a die, by die index (R220). -/
def granulePa (die i : Nat) : Nat :=
  let low := i % 2 ^ 13
  -- G[17:5] is the index, G[4:2] the layer; G[1:0] is what gives the tower
  let g := low * 32 + die % 8 * 4
  let b := (die / 8) ^^^ (g / 2 ^ 8 % 4) ^^^ (g / 2 ^ 16 % 4)
  (g + b) * 2 ^ 21

/-- n granules of a die from an index on, as ranges. -/
def dieRanges (die first n : Nat) : List (Nat × Nat) :=
  (List.range n).map (fun i => (granulePa die (first + i), granulePa die (first + i) + 2 ^ 21))

/-- Whether a range of whole granules lies in DRAM clear of every plinth reserve (R333). (DEDUCED, notes/assumptions/86.md.) -/
def rangeFree (r : Nat × Nat) : Bool :=
  r.1 % 2 ^ 21 == 0 && r.2 % 2 ^ 21 == 0 && r.1 < r.2 && r.2 ≤ 2 ^ 39 && (granules r.1 r.2).all (fun g => granuleIndex g < 8160)

/-- The rules of a partition descriptor (R333): against the layers, the reserves, itself and every other partition; a shadow slot for
each of its contexts, one at least, on every C layer that it uses, apart from what it maps.
(DEDUCED, notes/assumptions/86.md.) -/
def State.descOk (s : State) (d : PartDesc) : Bool :=
  let others := (s.parts.filter (fun q => q.1 != d.id)).map (·.2.desc)
  let slots (e : PartDesc) : List (Nat × Nat) := e.shadows.flatMap (fun h => dieRanges h.1 h.2 68)
  let tagged := d.tagged.map (fun t => (t.1 * 2 ^ 13 + t.2, t.1 * 2 ^ 13 + t.2 + 48))
  d.id < 64
    && d.clusters.all (fun k => k < nClusters && (s.layer (k / 64)).role == .c && others.all (fun o => !o.clusters.contains k))
    && d.clusters.eraseDups == d.clusters
    && d.ranges.all (fun r => rangeFree r && others.all (fun o => !o.ranges.any (meetsRange r) && !(slots o).any (meetsRange r)))
    && apart d.ranges
    && d.tagged.all (fun t => t.1 < 32 && t.2 + 48 ≤ 8160 && (dieRanges t.1 t.2 48).all (fun r => within d.ranges r.1 r.2))
    && apart tagged
    && d.shadows.all (fun h => h.1 < 32 && h.2 + 68 ≤ 8160 && (s.layer h.1).role == .c)
    && (slots d).all (fun r => !d.ranges.any (meetsRange r) && others.all (fun o => !o.ranges.any (meetsRange r) && !(slots o).any (meetsRange r)))
    && slotsFor d (max 1 (s.ctxs.filter (fun c => c.2.st != .free && c.2.part == d.id)).length)
    && apart (slots d)
    && d.windows.all (fun w => w.1 < w.2 && ((isHost w.1 && isHost (w.2 - 1)) || (isPeer w.1 && isPeer (w.2 - 1))))
    && d.ways.all (fun w => w.1 < 128 && (s.layer (slotLayer w.1)).role == .m && s.maskFree d.id w.1 w.2)
    && (d.ways.map (·.1)).eraseDups == d.ways.map (·.1)
    && others.all (fun o => o.endpoint != d.endpoint)

/-- PARTITION_DESCRIPTOR: a descriptor that breaks a rule, or takes away a cluster that a context runs on, is refused and nothing
changes; lent ways that the new masks exclude are returned, once nothing touches them (R333, R361). -/
def execPartitionDescriptor (by' : Sender) (d : PartDesc) (s : State) : Step :=
  .next (asH by' (fun s =>
    let old := s.part d.id
    let running := old.desc.clusters.filter (fun k => (s.cluster k).ctx.isSome)
    if !s.descOk d then s.note (.refused refuseValue)
    else if !running.all d.clusters.contains then s.note (.refused refuseState)
    else
      let kept (e : Nat × Nat) : Nat := keptWays (((d.ways.find? (fun w => w.1 == e.1)).map (·.2)).getD 0) e.2
      if old.lent.any (fun e => s.waysBusy d.id e.1 (kept e)) then s.later .again
      else
      let s := old.lent.foldl (fun s e => s.setWays d.id e.1 (kept e)) s
      s.modPart d.id (fun q => { q with desc := d })) s)

/-! ### Blocking (R350-R355) -/

/-- Whether roles keep R14: at most 5 C layers in a tower, 18 in the package, each C layer beside an M layer. -/
def rolesOk (role : Nat → Role) : Bool :=
  let isC (l : Nat) : Bool := role l == .c
  let isM (l : Nat) : Bool := role l == .m
  (List.range 4).all (fun t => ((List.range 8).filter (fun l => isC (8 * t + l))).length ≤ 5)
    && ((List.range 32).filter isC).length ≤ 18
    && (List.range 32).all (fun l => !isC l || (l % 8 != 0 && isM (l - 1)) || (l % 8 != 7 && isM (l + 1)))

/-- The roles of the package with those of tower t replaced. -/
def State.rolesWith (s : State) (t : Nat) (roles : List Role) (l : Nat) : Role :=
  if l / 8 = t then roles.getD (l % 8) .offline else (s.layer l).role

/-- The layers of tower t in a state. -/
def State.setLayers (s : State) (t : Nat) (f : Nat → Layer → Layer) : State :=
  (List.range 8).foldl (fun s l => s.modLayer (8 * t + l) (f l)) s
def State.towerIn (s : State) (t : Nat) (st : LayerState) : Bool := (s.layer (8 * t)).st == st

/-- BLOCKING_REQUEST: refused where the roles break R14, another Blocking runs, or a layer is neither ACTIVE nor OFFLINE; else the
layers drain, and the contexts it affects are pre-empted (R352, R353, step 1). (DEDUCED, notes/assumptions/87.md.) -/
def execBlockingRequest (by' : Sender) (tower : BitVec 2) (roles : List Role) (s : State) : Step :=
  let t := tower.toNat
  match s.refusalH by' with
  | some r => .next (s.note (.refused r))
  | none =>
  if roles.length ≠ 8 ∨ !rolesOk (s.rolesWith t roles) then .next (s.note (.refused refuseValue))
  else if (s.tower t).recovery || s.blocking.isSome || !(List.range 8).all (fun l =>
      (s.layer (8 * t + l)).st == .active || (s.layer (8 * t + l)).st == .offline) then .next (s.note (.refused refuseState))
  else runEvent (do
    let b : Blocking := ⟨t, roles, (List.range 8).map (fun l => (s.layer (8 * t + l)).role)⟩
    modS (fun s => ({ s with blocking := some b }).setLayers t (fun _ l => { l with st := .draining }))
    let xs := (s.ctxs.map (·.1)).filter (fun x => s.affected b x && (s.ctx x).st == .running)
    modS (fun s => (s.ctxs.map (·.1)).foldl (fun s x =>
      if s.affected b x && (s.ctx x).st == .loading then s.modCtx x (fun c => { c with st := .swapped }) else s) s)
    xs.forM preempt) s

/-- BLOCKING_DRAIN_COMPLETE: every affected context is SWAPPED, and the flush begins (R351). (DEDUCED, notes/assumptions/87.md.) -/
def execBlockingDrainComplete (tower : BitVec 2) (s : State) : Step :=
  .next (match s.blocking with
    | some b =>
      if b.tower = tower.toNat && s.towerIn b.tower .draining && (s.ctxs.map (·.1)).all (fun x => !s.affected b x ||
          (s.ctx x).st == .swapped || (s.ctx x).st == .free) then
        s.setLayers b.tower (fun _ l => { l with st := .flushing })
      else s
    | none => s)

/-- The caches of a cluster of the tower: copies written back, allowances returned, everything invalid (R353, step 2). -/
def State.flushCluster (s : State) (k : Nat) : State :=
  let s := s.returnAllowances k
  let s := (s.cluster k).l1.foldl (fun s e => s.writeBack k e.1 true) s
  s.modCluster k (fun c => { c with l1 := [], icache := [], tlb := [] })

/-- The C layers of a tower by its roles. -/
def countC (roles : List Role) : Nat := (roles.filter (· == .c)).length

/-- The clusters of tower t flushed; where its count of C layers changes, those of later towers return their allowances, for their logical
numbers change too (R353, R355). -/
def State.flushClusters (s : State) (b : Blocking) : State :=
  let ks := s.clusters.map (·.1)
  let s := (ks.filter (fun k => k / 512 == b.tower)).foldl State.flushCluster s
  if countC b.roles = countC b.before then s else (ks.filter (fun k => b.tower < k / 512)).foldl State.returnAllowances s

/-- What a layer of the tower loses or gains in its new role (R353, step 3): local stores are zero under TRUE; ways that a layer
leaving the M role had lent are gone. -/
def State.switchLayer (s : State) (l : Nat) (new : Role) : State :=
  let old := (s.layer l).role
  if new = old then s
  else
    let s := s.zero (lsBase (512 * l)) (512 * 2 ^ 17)
    let s := if old = .m then (List.range 4).foldl (fun s p =>
        let z := 4 * l + p
        let s := s.zero (scratchBase + waysLo z 0) (2 ^ 23)
        { s with parts := s.parts.map (fun (q : Nat × Partition) => (q.1, { q.2 with
            lent := q.2.lent.set 0 z 0, desc := { q.2.desc with ways := q.2.desc.ways.filter (fun e => e.1 != z) } })) }) s
      else s
    let s := if old = .c then { s with parts := s.parts.map (fun (q : Nat × Partition) => (q.1, { q.2 with
          desc := { q.2.desc with clusters := q.2.desc.clusters.filter (fun k => k / 64 != l) } })) }
      else s
    s.modLayer l (fun y => { y with role := new })

/-- BLOCKING_FLUSH_COMPLETE: the slices and L1Ds of the tower are flushed, layers switch roles, slices and cores are numbered anew, and
descriptors lose what has gone (R353, steps 2 to 4). Every line in U is recalled, so that no partial is left under an old number, and
allowances on their way are waited for (R355); so is a page that a partial's label needs (R408). The hold of R354 does not stop the flush's
own accesses. -/
def execBlockingFlushComplete (tower : BitVec 2) (s : State) : Step :=
  let t := tower.toNat
  match s.blocking with
  | some b =>
    if b.tower = t && s.towerIn t .flushing then
      runPlinth (do
        modS (fun s => { s with blocking := none })
        ((s.dirs.map (·.1)).filter s.isU).forM recallLine
        (s.linesAt t (fun _ => true)).forM flushLine
        needs (!s.flight.any (fun m => match m with
          | .allowanceReturn _ _ _ => true
          | _ => false))
        modS (fun s =>
          let s := { s.flushClusters b with blocking := some b }.setLayers t (fun _ l => { l with tlb := [] })
          let s := (List.range 8).foldl (fun s l => s.switchLayer (8 * t + l) (b.roles.getD l .offline)) s
          let s := s.modTower t (fun w => { w with sht := shtOf (4 * (b.roles.filter (· == .m)).length) })
          s.setLayers t (fun _ l => { l with st := .reenumerating }))) s
    else .next s
  | none => .next s

/-- The requests that a home held through a Blocking are served (R354). -/
def State.resumeHomes (s : State) (t : Nat) : State :=
  (s.dirs.filter (fun e => homeTower e.1 == t && e.2.queue != [])).foldl (fun s e => s.dirResume e.1) s

/-- BLOCKING_RESUME: the layers are ACTIVE or OFFLINE, what waited for a home of the tower goes on, and H is told (R351, R353, step 5;
R354). -/
def execBlockingResume (tower : BitVec 2) (s : State) : Step :=
  .next (match s.blocking with
    | some b =>
      if b.tower = tower.toNat && s.towerIn b.tower .reenumerating then
        (({ s with blocking := none }.setLayers b.tower (fun _ l =>
          { l with st := if l.role = Role.offline then LayerState.offline else .active })).resumeHomes b.tower).note (.blockingDone b.tower)
      else s
    | none => s)

/-! ### Lane groups (R362, R363) -/

/-- The lane groups of the package: in each tower 8 × 128 of the armature and 7 × 64 face to face.
(DESIGN CHOICE, notes/assumptions/88.md.) -/
def nLanes : Nat := 4 * (8 * 128 + 7 * 64)

/-- (DESIGN CHOICE, notes/assumptions/88.md.) -/
def State.lane (s : State) (g : Nat) : LaneGroup := s.lanes.get LaneGroup.reset g
def State.setLane (s : State) (g : Nat) (l : LaneGroup) : State := { s with lanes := s.lanes.put g l }

/-- LANE_REPAIR_TRIGGER: with a spare free the group quiesces. -/
def execLaneRepairTrigger (g : Nat) (s : State) : Step :=
  onUnits (g < nLanes) (fun s =>
    let l := s.lane g
    if (l.st == .normal || l.st == .repaired) && 0 < l.spares then s.setLane g { l with st := .quiescing } else s) s

/-- LANE_QUIESCED: what was in flight on the group has completed. -/
def execLaneQuiesced (g : Nat) (s : State) : Step :=
  onUnits (g < nLanes) (fun s => if (s.lane g).st == .quiescing then s.setLane g { s.lane g with st := .switching } else s) s

/-- LANE_SWITCHED: the lane has a spare, what was held goes on, the repair is logged. -/
def execLaneSwitched (g : Nat) (s : State) : Step :=
  onUnits (g < nLanes) (fun s =>
    let l := s.lane g
    if l.st == .switching then (s.setLane g ⟨.repaired, l.spares - 1⟩).note (.laneRepaired g) else s) s

/-- LANE_FAIL_NO_SPARE: with both spares in use the group runs narrow, which is logged. -/
def execLaneFailNoSpare (g : Nat) (s : State) : Step :=
  onUnits (g < nLanes) (fun s =>
    let l := s.lane g
    if l.st == .repaired && l.spares = 0 then (s.setLane g { l with st := .narrow }).note (.laneNarrow g) else s) s

end Sys2Proof.Machine
end

