-- ==== Sys2Proof/Machine/Debug.lean ====
section
/-! DEFINITION. Trace records (R378, R379), the sampling pulse (R382-R385), Cast (R386-R389). -/

namespace Sys2Proof.Machine

/-! ### TRACE (R378, R379) -/

/-- The store-buffer entry of a trace record of core n: it stands among the core's stores and touches no byte of its own.
(DEDUCED, notes/assumptions/39.md.) -/
def State.traceEntry (s : State) (n : Nat) (payload : Word) (typ : Nat) : SbEntry :=
  { kind := .trace payload (s.core n).ssc n (s.lcore n) s.time typ (s.ctx (s.ctxOf n)).tracectl, ea := 2 ^ 64
    loc := ⟨.untracked, 2 ^ 64, true⟩, size := 0, data := 0, label := labelTrue }

/-- (DEDUCED, notes/assumptions/39.md.) -/
def execTrace (a : GReg) (i : BitVec 6) (s : State) : Step :=
  runI (.trace a i) (do
    let s ← get
    if trcEn (s.ctx (s.ctxOf s.cur)).tracectl then pushSb (s.traceEntry s.cur (s.me.rg a) i.toNat)
    advance) s

/-- TRACE_REQUEST: a record of core c reaches the plinth, which gives it a slot or drops it (R377).
(DEDUCED, notes/assumptions/38.md.) -/
def execTraceRequest (c : Nat) (payload : Word) (typ : Byte) (s : State) : Step :=
  onUnits (c < nCores) (fun s =>
    if trcEn (s.ctx (s.ctxOf c)).tracectl then s.ringWrite (s.ctxOf c) [(s.traceRec c payload typ.toNat).bytes] else s) s

/-! ### The pulse (R382-R385) -/

def execSample (d : GReg) (s : State) : Step :=
  runI (.sample d) (do
    let s ← get
    match s.me.wait with
    | .granted v => result d v []
    | _ =>
      let tick := (s.time / 4096 + 1) * 4096
      modS (fun s => { s with pulseDue := if s.pulseDue.contains tick then s.pulseDue else s.pulseDue ++ [tick] })
      holdOn .running (.sample tick)) s

/-- Whether a context samples, and at which period. -/
def Context.samples (c : Context) : Bool := trcSmp c.tracectl
def Context.period (c : Context) : Nat := if trcPer c.tracectl < 2 then 0 else 2 ^ (trcPer c.tracectl + 10)
/-- Whether tick t is due under a context's own period. -/
def Context.dueAt (c : Context) (t : Nat) : Bool := c.samples && c.period != 0 && t % c.period == 0

/-- Whether a pulse is due now: by a context's period or by a SAMPLE, and not fired at this tick. -/
def State.pulseNow (s : State) : Bool :=
  s.lastPulse != s.time + 1 && (s.pulseDue.any (· ≤ s.time) || s.ctxs.any (fun c => c.2.dueAt s.time))

/-- The ticks up to n cycles ahead at which a pulse is due; the first of them (R382). -/
def State.nextPulse (s : State) (n : Nat) : Option Nat :=
  let asked := s.pulseDue.filter (fun t => s.time < t && t ≤ s.time + n)
  let own := s.ctxs.filterMap (fun c =>
    if c.2.samples && c.2.period != 0 then
      let t := (s.time / c.2.period + 1) * c.2.period
      if t ≤ s.time + n then some t else none
    else none)
  (sortBy id (asked ++ own)).head?

/-- The code of a run state in a sample (R384). (DEDUCED, notes/assumptions/89.md.) -/
def RunState.code : RunState → Nat
  | .running => 0 | .stalled => 1 | .sleeping => 2 | .gated => 3 | .faultwait => 4 | .halted => 5 | .retired => 6 | .saved => 7

/-- What a pulse latches of a core: its PC and state byte (R384); in a repeat frame the RPT, and RUNNING (R108). -/
def Core.latch (c : Core) : Nat × Nat :=
  (if c.run == .retired then 0 else c.pc.toNat % 2 ^ 48,
    RunState.code (if c.frame.isSome then .running else c.run) + (if c.atS then 8 else 0))

/-- A run of a sample: PC, first LCORE, count, state byte. -/
structure Run where
  pc    : Nat
  first : Nat
  count : Nat
  state : Nat
deriving DecidableEq, Repr

/-- The runs of consecutive LCORE with equal PC and state, from cores in ascending LCORE, each with its latch. -/
def runsOf : List (Nat × Nat × Nat) → List Run
  | [] => []
  | (l, pc, st) :: r => match runsOf r with
    | [] => [⟨pc, l, 1, st⟩]
    | q :: qs => if q.pc = pc ∧ q.state = st ∧ q.first = l + 1 then ⟨pc, l, q.count + 1, st⟩ :: qs else ⟨pc, l, 1, st⟩ :: q :: qs

def Run.bytes (r : Run) : Nat := r.pc % 2 ^ 48 + 2 ^ 48 * (r.first % 2 ^ 16) + 2 ^ 64 * (r.count % 2 ^ 16) + 2 ^ 80 * r.state

/-- Runs two to a slot (R385). -/
def slotsOf : List Run → List Nat
  | [] => []
  | [r] => [r.bytes]
  | r :: q :: rs => (r.bytes + 2 ^ 128 * q.bytes) :: slotsOf rs

/-- The sample of context x at a pulse (R384, R385). (DEDUCED, notes/assumptions/89.md.) -/
def State.sampleOf (s : State) (x pulse : Nat) : List Nat :=
  let cores := sortBy s.lcore (s.coresOfCtx x)
  let runs := runsOf (cores.map (fun n => (s.lcore n, (s.core n).latch.1, (s.core n).latch.2)))
  let head : TraceRec := ⟨BitVec.ofNat 64 pulse, 0, runs.length, 0, 67, s.time⟩
  head.bytes :: slotsOf runs

/-- Whether core n waits in SAMPLE for a pulse at this tick. -/
def State.asksPulse (s : State) (n : Nat) : Bool := match (s.core n).wait with
  | .sample t => if t ≤ s.time then true else false
  | _ => false

/-- A pulse: the samples of what every core latches, then the waiting SAMPLEs complete with its number. -/
def State.pulse (s : State) : State :=
  let n := s.pulses
  let xs := (s.ctxs.filter (fun c => c.2.samples && (c.2.dueAt s.time || (s.coresOfCtx c.1).any s.asksPulse))).map (·.1)
  let t := xs.foldl (fun t x => t.ringWrite x (s.sampleOf x n)) s
  let t := ((s.cores.map (·.1)).filter s.asksPulse).foldl (fun t m => t.grant m (BitVec.ofNat 64 n)) t
  { t with pulses := n + 1, lastPulse := s.time + 1, pulseDue := s.pulseDue.filter (fun d => s.time < d) }

/-- SAMPLING_PULSE: on a due tick. -/
def execSamplingPulse (s : State) : Step := .next (if s.pulseNow && !s.frozen then s.pulse else s)

/-! ### Cast (R386-R389) -/

/-- Why a command of F to the package is refused whatever it asks (R371, R372). -/
def State.refusalF (s : State) (by' : Sender) : Option Nat :=
  if !s.manager by' .f then some refuseSender else if (s.tower 0).recovery then some refuseState else none

/-- A command of F (R371). -/
def asF (by' : Sender) (f : State → State) (s : State) : State := match s.refusalF by' with
  | some r => s.note (.refused r)
  | none => f s

/-- FREEZE: every clock stops; while the package is frozen no step is made but READ_OUT and THAW. -/
def execFreeze (by' : Sender) (s : State) : Step := .next (asF by' (fun s => { s with frozen := true }) s)

/-- What DRAM holds of a line: the image from before an agent wrote it, or before its home slice did, where the newer data has not come
back; else the line (R230, R233). -/
def State.dramImage (s : State) (L : Nat) : Line × LineTags :=
  let held := ((List.range 4).filterMap (fun t => (s.agent t L).dram)) ++ (match s.slices.find? L with
    | some h => h.dram.toList
    | none => [])
  held.headD (s.lineData L, s.lineTags L)

/-- The plinth of a frozen package reads a line of DRAM out as DRAM holds it, with its tags and what its ECC says of it; it changes nothing
(R388). -/
def State.readOutLine (s : State) (pa : Nat) : State :=
  let L := lineOf pa
  if s.frozen && isDram pa then s.note (.dramLine L (s.dramImage L).1 (s.dramImage L).2 (s.lineBad L)) else s

/-- READ_OUT: a chain of a frozen package is delivered, with its number and length; it changes nothing. -/
def execReadOut (by' : Sender) (chain : Nat) (s : State) : Step :=
  .next (asF by' (fun s =>
    if s.frozen then s.note (.chain chain (Config.chainLength chain)) else s.note (.refused refuseState)) s)

/-- A link that trains anew (R365); resuming, it stands as it stood, and requests in flight wait for it (R389).
(DEDUCED, notes/assumptions/90.md.) -/
def Link.train (resuming : Bool) (l : Link) : Link :=
  { l with st := .training, narrow := false, accepted := if resuming then l.accepted else 0, rxSeq := 0, resume := resuming }

/-- THAW: every clock restarts on one tick, and every link trains; what was in flight on one that carried traffic is made again when it
has (R365, R389). (DEDUCED, notes/assumptions/90.md.) -/
def execThaw (by' : Sender) (s : State) : Step :=
  .next (asF by' (fun s =>
    if s.frozen then (List.range 16).foldl (fun s p => s.modLink p (fun l => l.train (l.carries || l.resume))) { s with frozen := false }
    else s.note (.refused refuseState)) s)

end Sys2Proof.Machine
end

