-- ==== Sys2Proof/Machine/Hash.lean ====
section
/-! DEFINITION. SHA-256 and the RSASSA-PSS verification of firmware, RSA-3072 with MGF1 over SHA-256 and a 32-byte salt, which R372 and
R373 name. Octets stand in lists, the first octet first; a hash has its first octet in bits 7:0.
(PRESUMED, notes/assumptions/124.md.) -/

namespace Sys2Proof.Machine

/-! ### SHA-256 -/

/-- A big-endian number of octets. -/
def ofOctets (l : List Byte) : Nat := l.foldl (fun v b => v * 256 + b.toNat) 0
/-- A number as n octets, big-endian. -/
def toOctets (v n : Nat) : List Byte := (List.range n).map (fun i => BitVec.ofNat 8 (v / 256 ^ (n - 1 - i)))

/-- The constants of the 64 rounds. -/
def shaK0 : List (BitVec 32) :=
  [0x428a2f98, 0x71374491, 0xb5c0fbcf, 0xe9b5dba5, 0x3956c25b, 0x59f111f1, 0x923f82a4, 0xab1c5ed5, 0xd807aa98, 0x12835b01, 0x243185be,
   0x550c7dc3, 0x72be5d74, 0x80deb1fe, 0x9bdc06a7, 0xc19bf174, 0xe49b69c1, 0xefbe4786, 0x0fc19dc6, 0x240ca1cc, 0x2de92c6f, 0x4a7484aa,
   0x5cb0a9dc, 0x76f988da, 0x983e5152, 0xa831c66d, 0xb00327c8, 0xbf597fc7, 0xc6e00bf3, 0xd5a79147, 0x06ca6351, 0x14292967]
def shaK1 : List (BitVec 32) :=
  [0x27b70a85, 0x2e1b2138, 0x4d2c6dfc, 0x53380d13, 0x650a7354, 0x766a0abb, 0x81c2c92e, 0x92722c85, 0xa2bfe8a1, 0xa81a664b, 0xc24b8b70,
   0xc76c51a3, 0xd192e819, 0xd6990624, 0xf40e3585, 0x106aa070, 0x19a4c116, 0x1e376c08, 0x2748774c, 0x34b0bcb5, 0x391c0cb3, 0x4ed8aa4a,
   0x5b9cca4f, 0x682e6ff3, 0x748f82ee, 0x78a5636f, 0x84c87814, 0x8cc70208, 0x90befffa, 0xa4506ceb, 0xbef9a3f7, 0xc67178f2]
def shaK : List (BitVec 32) := shaK0 ++ shaK1

/-- The eight words of a hash in progress. -/
structure Sha where
  a : BitVec 32
  b : BitVec 32
  c : BitVec 32
  d : BitVec 32
  e : BitVec 32
  f : BitVec 32
  g : BitVec 32
  h : BitVec 32
deriving DecidableEq, Repr

def Sha.init : Sha :=
  ⟨0x6a09e667, 0xbb67ae85, 0x3c6ef372, 0xa54ff53a, 0x510e527f, 0x9b05688c, 0x1f83d9ab, 0x5be0cd19⟩

def Sha.add (x y : Sha) : Sha :=
  ⟨x.a + y.a, x.b + y.b, x.c + y.c, x.d + y.d, x.e + y.e, x.f + y.f, x.g + y.g, x.h + y.h⟩

/-- One round with its constant and its word. -/
def Sha.round (s : Sha) (k w : BitVec 32) : Sha :=
  let s1 := s.e.rotateRight 6 ^^^ s.e.rotateRight 11 ^^^ s.e.rotateRight 25
  let ch := (s.e &&& s.f) ^^^ (~~~s.e &&& s.g)
  let t1 := s.h + s1 + ch + k + w
  let s0 := s.a.rotateRight 2 ^^^ s.a.rotateRight 13 ^^^ s.a.rotateRight 22
  let maj := (s.a &&& s.b) ^^^ (s.a &&& s.c) ^^^ (s.b &&& s.c)
  ⟨t1 + (s0 + maj), s.a, s.b, s.c, s.d + t1, s.e, s.f, s.g⟩

/-- The rounds of a block over its constants, from a window of sixteen words, each round's word falling out and a new one coming in. -/
def Sha.rounds (s : Sha) (win : List (BitVec 32)) : List (BitVec 32) → Sha
  | [] => s
  | k :: ks =>
    let w (i : Nat) : BitVec 32 := win.getD i 0
    let s0 := (w 1).rotateRight 7 ^^^ (w 1).rotateRight 18 ^^^ (w 1 >>> 3)
    let s1 := (w 14).rotateRight 17 ^^^ (w 14).rotateRight 19 ^^^ (w 14 >>> 10)
    (s.round k (w 0)).rounds (win.drop 1 ++ [w 0 + s0 + w 9 + s1]) ks

/-- The sixteen words of a block. -/
def shaWords (l : List Byte) : List (BitVec 32) :=
  (List.range 16).map (fun i => BitVec.ofNat 32 (ofOctets ((l.drop (4 * i)).take 4)))

/-- n blocks of 64 octets taken in. -/
def Sha.blocks (s : Sha) (l : List Byte) : Nat → Sha
  | 0 => s
  | n + 1 => (s.add (s.rounds (shaWords (l.take 64)) shaK)).blocks (l.drop 64) n

/-- A message with its padding: the bit 1, zeros, and its length in bits. -/
def shaPad (l : List Byte) : List Byte :=
  l ++ [0x80] ++ List.replicate ((119 - l.length % 64) % 64) 0 ++ toOctets (8 * l.length) 8

/-- The 32 octets of SHA-256. -/
def shaOctets (l : List Byte) : List Byte :=
  let m := shaPad l
  let r := Sha.init.blocks m (m.length / 64)
  [r.a, r.b, r.c, r.d, r.e, r.f, r.g, r.h].flatMap (fun w => toOctets w.toNat 4)

/-- SHA-256 of a message, its first octet in bits 7:0. -/
def sha256 (l : List Byte) : BitVec 256 := BitVec.ofNat 256 (ofOctets (shaOctets l).reverse)

/-! ### RSASSA-PSS -/

/-- b^e mod n, by the bits of e, as many as the fuel. -/
def powMod (n b : Nat) : Nat → Nat → Nat
  | 0, _ => 1 % n
  | k + 1, e =>
    let r := powMod n (b * b % n) k (e / 2)
    if e % 2 = 1 then b * r % n else r

/-- MGF1 with SHA-256: n octets from a seed. -/
def mgf1 (seed : List Byte) (n : Nat) : List Byte :=
  ((List.range ((n + 31) / 32)).flatMap (fun i => shaOctets (seed ++ toOctets i 4))).take n

/-- Octets xored, one by one. -/
def xorOctets (a b : List Byte) : List Byte := (a.zip b).map (fun p => p.1 ^^^ p.2)

/-- EMSA-PSS: whether 384 octets, of which 3,071 bits count, encode a message with a salt of 32 octets. -/
def pssOk (msg em : List Byte) : Bool :=
  let masked := em.take 351
  let h := (em.drop 351).take 32
  let db := match xorOctets masked (mgf1 h 351) with
    | [] => []
    | b :: r => (b &&& 0x7F) :: r
  em.length == 384 && em.drop 383 == [0xBC] && (masked.headD 0).toNat < 128
    && db.take 319 == List.replicate 318 0 ++ [1]
    && h == shaOctets (List.replicate 8 0 ++ shaOctets msg ++ db.drop 319)

/-- Whether a signature over a message verifies under an RSA-3072 key. -/
def rsaPssOk (modulus exponent : BitVec 3072) (msg signature : List Byte) : Bool :=
  signature.length == 384 && ofOctets signature < modulus.toNat
    && pssOk msg (toOctets (powMod modulus.toNat (ofOctets signature) 3072 exponent.toNat) 384)

end Sys2Proof.Machine
end

