-- ==== Sys2Proof/Machine/Fabric.lean ====
section
/-! DEFINITION. Links (R364-R367), what the host, its peers and H do to the device (R370, R371), firmware and identity (R372, R373),
reset (R13). -/

namespace Sys2Proof.Machine

/-! ### Accesses at home (R370) -/

/-- A line's value at its home for a party outside every layer: partials folded, every copy given up. -/
def takeHomeLine (L : Nat) : M Unit := do
  awaitHome L
  recallLine L
  orStall (fun s => s.bringHome L)

/-- The tag of a word after a write of an unlabelled value over [k, k + n): TRUE where the word is covered, else what it was
(R180, R368). (DEDUCED, notes/assumptions/92.md.) -/
def hostTags (t : Tags) (k n : Nat) : Tags :=
  (wordsOf k n).foldl (fun t w => if k ≤ 4 * w && 4 * w + 4 ≤ k + n then t.set labelTrue w labelTrue else t) t

/-- A write at home, later than every access made so far and than every lease; copies that a lease still allows go (R206, R222, R223). -/
def State.homeWrite (s : State) (k v n : Nat) : State :=
  let s := (s.poke k v n).dropLeases k n
  { s with tags := hostTags s.tags k n }.stampLine (lineOf k)

/-- The lines of [k, k + n). -/
def linesOf (k n : Nat) : List Nat := if n = 0 then [] else (List.range ((k + n - 1) / 64 - k / 64 + 1)).map (fun i => (k / 64 + i) * 64)

/-- A step of a party outside the package that cannot be made yet waits: at a page of a context that is not present, which is posted, for
the context's FREPLAY; else for endpoint e's next turn (R370, R371, R408). -/
def runOutside (e : Nat) (m : M Unit) (s : State) : Step :=
  match m s with
  | .ok _ t => .next t
  | .error (.absent x l va acc level fuller) _ =>
    .next ((s.postFault x l va 0xFFFF (faultKind acc false fuller) level).later (.page x))
  | .error stop _ => .next ((s.unless stop).later (.endpoint e))

/-- HOST_ACCESS: a read or a write of the host or a peer performs at the home slice, coherently; a write to a counter line is
discarded and logged, a read of one, or of an uncorrectable error, refused (R203, R243, R370). (DEDUCED, notes/assumptions/92.md.) -/
def execHostAccess (target : HostAddr) (size : Nat) (write : Option Nat) (s : State) : Step :=
  let pa := target.pa
  if !(isDram pa && pa + size ≤ 2 ^ 39) then .fault .noSuchUnit
  else
    let lines := linesOf pa size
    match lines.find? s.isCounter with
    | some L => .next (match write with
      | some _ => (s.note (.discardedWrite L)).partitionCheck 3 (homeTower L) [L] [L]
      | none => s.note (.refused refuseValue))
    | none => runOutside target.endpoint (do
      lines.forM takeHomeLine
      match write with
      | some v => modS (fun s => s.homeWrite pa v size)
      | none => modS (fun s => s.note (if s.badAt pa size then .refused (256 + Cause.code .machineCheck) else .hostData pa (s.read pa size)))) s

/-- The host, or a peer, writes memory of its own, which the device reaches through its windows (R368, R369). -/
def State.outsideWrite (s : State) (pa size v : Nat) : State := if isHost pa || isPeer pa then s.poke pa v size else s

/-! ### Commands of the partition (R371) -/

/-- Why a command of context x's partition is refused whatever it asks: its sender, or a master plinth in recovery (R371, R372). -/
def State.refusalP (s : State) (by' : Sender) (x : Nat) : Option Nat :=
  if !s.speaksFor by' x then some refuseSender else if (s.tower 0).recovery then some refuseState else none

/-- A virtual address of a context as the plinth w translates it; it must lie in global memory, on a page that is present (R303, R319). -/
def plinthLoc (w : Who) (acc : Access) (va : Nat) : M Loc := do
  if 2 ^ 48 ≤ va || inWindows va then raiseAddr .protect va
  let s ← get
  match s.translate w.ctx w.layer none acc va with
  | (t, .ok leaf pa) =>
    modS (fun _ => t)
    let loc := t.locOf leaf pa
    if t.peerBarred loc then raiseAddr .protect va
    return loc
  | (_, .held) => stall
  | (_, .absent level) => throw (.absent w.ctx w.layer va acc level false)
  | (_, .trap c e) => raise c (.other e false)

/-- A word read at its home by the plinth, with its tag. -/
def plinthWord (w : Who) (va : Nat) : M (Nat × Label) := do
  let loc ← plinthLoc w .read va
  if (← get).isCounter (lineOf loc.key) then raiseAddr .protect va
  if isDram loc.key then takeHomeLine (lineOf loc.key)
  else if !(← linkReady loc) then raiseAddr .machineCheck va
  let r := (← get).got loc 4
  if r.bad then raiseAddr .machineCheck va
  return (r.value, r.labels.headD labelTrue)

/-- 64 bytes as eight words. -/
def plinthLine (w : Who) (va : Nat) : M (List Word) := do
  let ws ← (List.range 16).mapM (fun i => plinthWord w (va + 4 * i))
  return (List.range 8).map (fun i => BitVec.ofNat 64 ((ws.getD (2 * i) (0, labelTrue)).1 + 2 ^ 32 * (ws.getD (2 * i + 1) (0, labelTrue)).1))

/-- A word of a patch stored into its slot by the plinth, as a store at its home; a link that is lost is the LAUNCH's own failure (R243,
R302, R366). -/
def plinthStore (w : Who) (va : Nat) (v : Nat × Label) : M Unit := do
  let loc ← plinthLoc w .write va
  let L := lineOf loc.key
  if inRegion ((← get).ctx w.ctx).lspace va 4 then raiseAddr .protect va
  if loc.plain && v.2 != labelTrue then raiseAddr .labelPlain va
  if (← get).isCounter L then
    modS (fun s => (s.note (.discardedWrite L)).partitionCheck 3 (homeTower L) [L] [L])
  else if isDram loc.key then
    takeHomeLine L
    modS (fun s =>
      let s := s.homeWrite loc.key v.1 4
      if loc.plain then s else { s with tags := s.tags.set labelTrue (loc.key / 4) v.2 })
  else if ← linkReady loc then modS (fun s => s.poke loc.key v.1 4)
  else raiseAddr .machineCheck va

/-- What a fabric LAUNCH to queue q of context x captures of the record at va: the checks of R303 in their order. -/
def fabricCapture (x q va : Nat) : M Captured := do
  let w := (← get).plinthOf x
  if va % 64 ≠ 0 then raiseAddr .misalign va
  if (((← get).ctx x).queues.find? q).isNone then raiseValue .protect
  let r ← plinthLine w va
  if recKind r = 0 then
    if (← get).recordBad x none r then raiseValue .illegal
    return ⟨q, [r], none, 1, 0, [], none⟩
  else
    let patch ← patchWords (recParams r).toNat (recPatch r) (plinthWord w) (fun ls => do
      return (← foldProd w (.issue false) ⟨labelTrue, false⟩ ls).label)
    if recReserved r || recEntry r % 64 != 0 || recLimg r % 64 != 0 then raiseValue .illegal
    let members ← (List.range (recMembers r)).mapM (fun i => plinthLine w (recEntry r + 64 * i))
    if (← get).graphBad x r members then raiseValue .illegal
    return ⟨q, members, some (recEntry r), recSlots r, recLimg r, patch, none⟩

/-- What a fabric LAUNCH captured goes on, as that of a core does; what is left where its slot or its queue is taken. -/
def fabricEnqueue (x : Nat) (c : Captured) : M (Option Captured) := do
  let s ← get
  let slot := s.nextSlot x c
  if c.needsSlot && s.slotBusy x slot then return some c
  if c.needsSlot then c.patch.zipIdx.forM (fun e => plinthStore (s.plinthOf x) (slot + 4 * e.2) e.1)
  let c := if c.needsSlot then { c with taken := some slot } else c
  if (← get).queueFull x c.queue then return some c
  modS (fun s => s.submit x c (c.taken.getD 0))
  return none

/-- A fabric LAUNCH of endpoint e for context x goes on or waits, for room or for a page of its slot; a rejection is replied with the cause
of the failed check (R371). -/
def fabricGo (e x : Nat) (c : Captured) (s : State) : Step :=
  match fabricEnqueue x c s with
  | .ok none t => .next t
  | .ok (some c) t => .next (t.later (.launch e x c))
  | .error (.trap k _) _ => .next (s.note (.refused (256 + k.code)))
  | .error (.absent y l va acc level fuller) _ =>
    .next ((s.postFault y l va 0xFFFF (faultKind acc false fuller) level).later (.launchPage e x c))
  | .error stop _ => .next ((s.unless stop).later (.launch e x c))

/-- FABRIC_LAUNCH: as LAUNCH, by the partition's endpoint. -/
def execFabricLaunch (by' : Sender) (x : Nat) (q : BitVec 4) (va : Word) (s : State) : Step :=
  match s.refusalP by' x with
  | some r => .next (s.note (.refused r))
  | none =>
    if (s.ctx x).st == .free then .next (s.note (.refused refuseState))
    else match fabricCapture x q.toNat va.toNat s with
    | .ok c t => fabricGo by'.endpoint x c t
    | .error (.trap k _) _ => .next (s.note (.refused (256 + k.code)))
    | .error stop _ => runOutside by'.endpoint (throw stop) s

/-- The extent that a command names. -/
def extentOf (e : BitVec 2) (va : Word) : Option Extent :=
  if e = 0 then some (.page va.toNat) else if e = 1 then some .context else if e = 2 then some .partition else none

/-- FABRIC_TLBINV: the extents of TLBINV, by H or the partition's endpoint; it completes once every access that used what it drops has
performed (R329). -/
def execFabricTlbinv (by' : Sender) (x : Nat) (e : BitVec 2) (va : Word) (s : State) : Step :=
  match (if (s.refusalH by').isNone then none else s.refusalP by' x) with
  | some r => .next (s.note (.refused r))
  | none =>
    if (s.ctx x).st == .free then .next (s.note (.refused refuseState))
    else match extentOf e va with
    | none => .next (s.note (.refused refuseValue))
    | some d =>
      let bad : Bool := match d with
        | .page a => decide (2 ^ 48 ≤ a) || inWindows a
        | _ => false
      if bad then .next (s.note (.refused (256 + Cause.code .protect)))
      else runOutside by'.endpoint (dropEntries d x) s

/-- FABRIC_REPLAY: as FREPLAY, by the partition's endpoint (R330). -/
def execFabricReplay (by' : Sender) (x : Nat) (s : State) : Step :=
  .next (match s.refusalP by' x with
    | some r => s.note (.refused r)
    | none => if (s.ctx x).st == .free then s.note (.refused refuseState) else s.replay x)

/-! ### Commands of H (R295, R296, R371) -/

/-- A command of H on a queue of a context that is not FREE. -/
def onQueue (by' : Sender) (x : Nat) (f : Context → Option Context) (s : State) : State :=
  asH by' (fun s =>
    if (s.ctx x).st == .free then s.note (.refused refuseState)
    else match f (s.ctx x) with
    | some c => (s.modCtx x (fun _ => c)).updateQueues x
    | none => s.note (.refused refuseValue)) s

/-- QUEUE_CONFIGURE: a new queue is empty with DONECNT 0; of a configured one only the priority changes. -/
def execQueueConfigure (by' : Sender) (x : Nat) (q : BitVec 4) (prio : BitVec 2) (s : State) : Step :=
  .next (onQueue by' x (fun c => some { c with queues := c.queues.put q.toNat (match c.queues.find? q.toNat with
    | some l => { l with prio := prio }
    | none => LQueue.fresh prio) }) s)

/-- A queue stopped or restarted. -/
def Context.setStopped (c : Context) (q : Nat) (b : Bool) : Option Context :=
  (c.queues.find? q).map (fun (l : LQueue) => { c with queues := c.queues.put q { l with stopped := b } })

def execQueueStop (by' : Sender) (x : Nat) (q : BitVec 4) (s : State) : Step :=
  .next (onQueue by' x (fun c => c.setStopped q.toNat true) s)
def execQueueRestart (by' : Sender) (x : Nat) (q : BitVec 4) (s : State) : Step :=
  .next (onQueue by' x (fun c => c.setStopped q.toNat false) s)

/-- CORE_RESTART: a HALTED core of a context on its clusters runs on at its PC (R342); it sees what the surroundings did. -/
def execCoreRestart (by' : Sender) (n : Nat) (s : State) : Step :=
  onUnits (n < nCores) (asH by' (fun s =>
    let x := (s.ctx (s.ctxOf n)).st
    if (s.core n).run == .halted && (s.cluster (clusterOf n)).ctx.isSome && (x == .running || x == .preempting) then
      (s.observe n).modCore n (fun c => { c with run := .running, wait := .none })
    else s.note (.refused refuseState))) s

/-! ### Firmware and identity (R372, R373) -/

/-- A plinth in recovery: its ports are back in NEGOTIATING, with no feature accepted (R372). -/
def State.recover (s : State) (t : Nat) : State :=
  (List.range 4).foldl (fun s i => s.modLink (4 * t + i) (fun l => if l.carries then { l with st := .negotiating, accepted := 0 } else l))
    (s.modTower t (fun w => { w with recovery := true }))

/-- FIRMWARE_LOAD, the one command that a plinth in recovery takes: an image runs if its signature verifies under the key whose hash is
fused and the version in its header is not below the rollback counter; else the plinth is in recovery.
(DEDUCED, notes/assumptions/94.md.) -/
def execFirmwareLoad (by' : Sender) (tower : BitVec 2) (img : FwImage) (s : State) : Step :=
  .next (if !s.manager by' .f then s.note (.refused refuseSender)
    else
      let w := s.tower tower.toNat
      if sha256 (Config.keyEncoding img.modulus img.exponent) = Config.fusedKey ∧
          rsaPssOk img.modulus img.exponent img.image img.signature ∧ w.rollback ≤ Config.headerVersion img.image then
        s.modTower tower.toNat (fun w =>
          { w with fwVersion := Config.headerVersion img.image, fwHash := sha256 img.image, recovery := false })
      else (s.recover tower.toNat).note (.refused refuseValue))

/-- The n bytes of a number, the least significant first. -/
def bytesLE (v : Nat) (n : Nat) : List Byte := (List.range n).map (fun i => BitVec.ofNat 8 (v / 256 ^ i % 256))

/-- The report of R373: the nonce, the serial, the hashes of the running images of T0 to T3, the accepted mask, the signature. -/
def State.report (s : State) (port : Nat) (nonce : BitVec 256) : List Byte :=
  let body := bytesLE nonce.toNat 32 ++ bytesLE Config.serial.toNat 16
    ++ (List.range 4).flatMap (fun t => bytesLE (s.tower t).fwHash.toNat 32) ++ bytesLE (s.link port).accepted.toNat 16
  body ++ (List.range 384).map (Config.identitySign body)

/-- ATTESTATION_REQUEST: from any sender; refused where the link does not carry traffic or has not accepted the feature (R367), and by a
plinth in recovery (R372). -/
def execAttestationRequest (_by : Sender) (port : BitVec 4) (nonce : BitVec 256) (s : State) : Step :=
  let l := s.link port.toNat
  .next (if l.carries && l.accepted.getLsbD 5 && !(s.tower (port.toNat / 4)).recovery then s.note (.attestation (s.report port.toNat nonce))
    else s.note (.refused refuseState))

/-! ### Links (R364-R367) -/

def State.linkIn (s : State) (p : Nat) (st : LinkState) : Bool := (s.link p).st == st

/-- LINK_TRAINING_START: reset, thaw or H trains a link that is DOWN, or FENCED. -/
def execLinkTrainingStart (port : BitVec 4) (s : State) : Step :=
  let p := port.toNat
  .next (if s.linkIn p .down || s.linkIn p .fenced then s.modLink p (Link.train false) else s)

/-- LANES_LOCKED: all lanes lock. -/
def execLanesLocked (port : BitVec 4) (s : State) : Step :=
  let p := port.toNat
  .next (if s.linkIn p .training then s.modLink p (fun l => { l with st := .negotiating, narrow := false }) else s)

/-- TRAINING_TIMEOUT: with at least half the lanes locked after 10 ms the link negotiates narrow; with fewer it stays in TRAINING, and what
waited for it fails (R366, R389). (DEDUCED, notes/assumptions/90.md.) -/
def execTrainingTimeout (port : BitVec 4) (half : Bool) (s : State) : Step :=
  let p := port.toNat
  .next (if !s.linkIn p .training then s
    else s.modLink p (fun l => if half then { l with st := .negotiating, narrow := true } else { l with resume := false }))

/-- The feature bits that the plinth of a port offers: none in recovery (R367, R372). -/
def State.offered (s : State) (p : Nat) : BitVec 128 := if (s.tower (p / 4)).recovery then 0 else 0x3F

/-- ACCEPTED_SET_WRITTEN: a bit that was not offered leaves the link in NEGOTIATING and is reported; a set that differs from that of a
link already UP to the endpoint fences it; else traffic is enabled (R365, R367). -/
def execAcceptedSetWritten (port : BitVec 4) (endpoint : Nat) (mask : BitVec 128) (s : State) : Step :=
  let p := port.toNat
  .next (if !s.linkIn p .negotiating then s
    else if mask &&& ~~~(s.offered p) ≠ 0 then s.note (.badFeatures p)
    else
      let differs := s.links.any (fun l => l.1 != p && l.2.endpoint == some endpoint && l.2.carries
        && l.2.accepted != mask)
      s.modLink p (fun l => { l with
        st := if differs then .fenced else if l.narrow then .degraded else .up
        endpoint := some endpoint, accepted := mask, resume := false }))

/-- LANE_FAILURE: an UP link is DEGRADED. -/
def execLaneFailure (port : BitVec 4) (s : State) : Step :=
  let p := port.toNat
  .next (if s.linkIn p .up then s.modLink p (fun l => { l with st := .degraded }) else s)

/-- FLIT_RECEIVE: a flit with a good CRC and the number that is due is taken and acknowledged; another is dropped, to be sent
again (R364). (DESIGN CHOICE, notes/assumptions/91.md.) -/
def execFlitReceive (port : BitVec 4) (seq : BitVec 8) (crcOk : Bool) (s : State) : Step :=
  let p := port.toNat
  .next (if (s.linkIn p .up || s.linkIn p .degraded) && crcOk && seq == (s.link p).rxSeq then
      s.modLink p (fun l => { l with rxSeq := l.rxSeq + 1 })
    else s)

/-- A link that carries traffic is FENCED (R365). -/
def State.fenceLink (s : State) (p : Nat) : State :=
  if s.linkIn p .up || s.linkIn p .degraded then s.modLink p (fun l => { l with st := .fenced }) else s

/-- FLIT_REPLAY_LIMIT: a flit replayed 16 times without acknowledgement fences the link; what was under way goes by another port, or
fails where its core or buffer makes it again (R366). -/
def execFlitReplayLimit (port : BitVec 4) (s : State) : Step := .next (s.fenceLink port.toNat)
/-- LINK_FENCE: H fences a link. -/
def execLinkFence (port : BitVec 4) (s : State) : Step := .next (s.fenceLink port.toNat)

/-! ### Reset (R13) -/

/-- RESET: the machine as after reset; what is fused in a plinth, and the firmware image it runs, stay; what the surroundings order
next, and the free values drawn, stay with the model. (DEDUCED, notes/assumptions/94.md.) -/
def execReset (s : State) : Step :=
  .next { State.reset with
    towers := s.towers.map (fun e => (e.1, { Tower.reset with
      fwVersion := e.2.fwVersion, fwHash := e.2.fwHash, recovery := e.2.recovery, rollback := e.2.rollback }))
    agenda := s.agenda, free := s.free }

end Sys2Proof.Machine
end

