-- ==== Sys2Proof/Machine/Scalar.lean ====
section
/-! DEFINITION. The integer instructions of the core: ALU (R93-R95), immediates (R96), multiply and divide (R97), bit fields and
byte permutes (R98-R100). -/

namespace Sys2Proof.Machine

/-- The T form of two registers: g[D] takes f of them under the product of their labels (R92). -/
def alu (i : Instr) (d a b : GReg) (f : Word → Word → Word) (s : State) : Step :=
  runI i (do
    let c ← getMe
    result d (f (c.rg a) (c.rg b)) [c.lg a, c.lg b]) s

/-- The forms of one register. -/
def alu1 (i : Instr) (d a : GReg) (f : Word → Word) (s : State) : Step :=
  runI i (do
    let c ← getMe
    result d (f (c.rg a)) [c.lg a]) s

/-! ### Integer ALU (R93, R94) -/

def execAdd (d a b : GReg) (s : State) : Step := alu (.add d a b) d a b (fun x y => x + y) s
def execSub (d a b : GReg) (s : State) : Step := alu (.sub d a b) d a b (fun x y => x - y) s
def execAnd (d a b : GReg) (s : State) : Step := alu (.and d a b) d a b (fun x y => x &&& y) s
def execOr (d a b : GReg) (s : State) : Step := alu (.or d a b) d a b (fun x y => x ||| y) s
def execXor (d a b : GReg) (s : State) : Step := alu (.xor d a b) d a b (fun x y => x ^^^ y) s
def execAndn (d a b : GReg) (s : State) : Step := alu (.andn d a b) d a b (fun x y => x &&& ~~~y) s
def execOrn (d a b : GReg) (s : State) : Step := alu (.orn d a b) d a b (fun x y => x ||| ~~~y) s
def execSll (d a b : GReg) (s : State) : Step := alu (.sll d a b) d a b (fun x y => x <<< shiftOf y) s
def execSrl (d a b : GReg) (s : State) : Step := alu (.srl d a b) d a b (fun x y => x >>> shiftOf y) s
def execSra (d a b : GReg) (s : State) : Step := alu (.sra d a b) d a b (fun x y => x.sshiftRight (shiftOf y)) s
def execRol (d a b : GReg) (s : State) : Step := alu (.rol d a b) d a b (fun x y => x.rotateLeft (shiftOf y)) s
def execRor (d a b : GReg) (s : State) : Step := alu (.ror d a b) d a b (fun x y => x.rotateRight (shiftOf y)) s
def execMin (d a b : GReg) (s : State) : Step := alu (.min d a b) d a b (fun x y => smin x y) s
def execMax (d a b : GReg) (s : State) : Step := alu (.max d a b) d a b (fun x y => smax x y) s
def execMinn (d a b : GReg) (s : State) : Step := alu (.minn d a b) d a b (fun x y => umin x y) s
def execMaxn (d a b : GReg) (s : State) : Step := alu (.maxn d a b) d a b (fun x y => umax x y) s
def execSeq (d a b : GReg) (s : State) : Step := alu (.seq d a b) d a b (fun x y => b2w (x == y)) s
def execSne (d a b : GReg) (s : State) : Step := alu (.sne d a b) d a b (fun x y => b2w (x != y)) s
def execSlt (d a b : GReg) (s : State) : Step := alu (.slt d a b) d a b (fun x y => b2w (x.slt y)) s
def execSltn (d a b : GReg) (s : State) : Step := alu (.sltn d a b) d a b (fun x y => b2w (x.ult y)) s
def execClz (d a : GReg) (s : State) : Step := alu1 (.clz d a) d a (fun x => BitVec.ofNat 64 (clzFrom x 64)) s
def execCtz (d a : GReg) (s : State) : Step := alu1 (.ctz d a) d a (fun x => BitVec.ofNat 64 (ctzFrom x 0 64)) s
def execPopc (d a : GReg) (s : State) : Step := alu1 (.popc d a) d a (fun x => BitVec.ofNat 64 (popcount x)) s
def execBrev (d a : GReg) (s : State) : Step := alu1 (.brev d a) d a (fun x => bitReverse x) s
def execBswap (d a : GReg) (s : State) : Step := alu1 (.bswap d a) d a (fun x => byteSwap x) s

/-- SEL: element 0 of the predicate chooses; the other operand's label is no factor (R95). It waits for a queued tile
instruction that writes the predicate (R88). -/
def execSel (d : GReg) (n : PReg) (a b : GReg) (s : State) : Step :=
  runI (.sel d n a b) (do
    let c ← getMe
    needs (!c.predPending n)
    let r := if (c.rp n).getLsbD 0 then a else b
    result d (c.rg r) [c.lp n, c.lg r]) s

/-! ### Immediates (R96) -/

def execAddi (d a : GReg) (i : BitVec 16) (s : State) : Step := alu1 (.addi d a i) d a (fun x => x + sext i) s
def execAndi (d a : GReg) (i : BitVec 16) (s : State) : Step := alu1 (.andi d a i) d a (fun x => x &&& zext i) s
def execOri (d a : GReg) (i : BitVec 16) (s : State) : Step := alu1 (.ori d a i) d a (fun x => x ||| zext i) s
def execXori (d a : GReg) (i : BitVec 16) (s : State) : Step := alu1 (.xori d a i) d a (fun x => x ^^^ zext i) s
def execSlti (d a : GReg) (i : BitVec 16) (s : State) : Step := alu1 (.slti d a i) d a (fun x => b2w (x.slt (sext i))) s
def execSltni (d a : GReg) (i : BitVec 16) (s : State) : Step := alu1 (.sltni d a i) d a (fun x => b2w (x.ult (sext i))) s
def execSlli (d a : GReg) (i : BitVec 6) (s : State) : Step := alu1 (.slli d a i) d a (fun x => x <<< i.toNat) s
def execSrli (d a : GReg) (i : BitVec 6) (s : State) : Step := alu1 (.srli d a i) d a (fun x => x >>> i.toNat) s
def execSrai (d a : GReg) (i : BitVec 6) (s : State) : Step := alu1 (.srai d a i) d a (fun x => x.sshiftRight i.toNat) s
def execRoli (d a : GReg) (i : BitVec 6) (s : State) : Step := alu1 (.roli d a i) d a (fun x => x.rotateLeft i.toNat) s

def execLui (d : GReg) (k : BitVec 2) (i : BitVec 16) (s : State) : Step :=
  runI (.lui d k i) (result d (luiValue k i) []) s

/-- LUI.K reads gd and carries its label (R96). -/
def execLuiK (d : GReg) (k : BitVec 2) (i : BitVec 16) (s : State) : Step :=
  alu1 (.luiK d k i) d d (fun x => luiInsert x k i) s

/-- The address of the ADPC word + 4 × the offset, under TRUE (R96). -/
def execAdpc (d : GReg) (o : BitVec 21) (s : State) : Step :=
  runI (.adpc d o) (do
    let c ← getMe
    result d (c.here + 4 * sext o) []) s

/-! ### Multiply and divide (R97) -/

def execMul (d a b : GReg) (s : State) : Step := alu (.mul d a b) d a b (fun x y => x * y) s
def execMulh (d a b : GReg) (s : State) : Step := alu (.mulh d a b) d a b (fun x y => mulHigh x y) s
def execMulhn (d a b : GReg) (s : State) : Step := alu (.mulhn d a b) d a b (fun x y => mulHighN x y) s
def execDiv (d a b : GReg) (s : State) : Step := alu (.div d a b) d a b (fun x y => divS x y) s
def execDivn (d a b : GReg) (s : State) : Step := alu (.divn d a b) d a b (fun x y => divN x y) s
def execRem (d a b : GReg) (s : State) : Step := alu (.rem d a b) d a b (fun x y => remS x y) s
def execRemn (d a b : GReg) (s : State) : Step := alu (.remn d a b) d a b (fun x y => remN x y) s

/-! ### Bit fields and byte permutes (R98-R100) -/

def execBext (d a : GReg) (p l : BitVec 6) (s : State) : Step :=
  runI (.bext d a p l) (do
    if 64 < p.toNat + l.toNat + 1 then raiseWord .illegal
    let c ← getMe
    result d (bextValue (c.rg a) p.toNat (l.toNat + 1)) [c.lg a]) s

def execBins (d a : GReg) (p l : BitVec 6) (s : State) : Step :=
  runI (.bins d a p l) (do
    if 64 < p.toNat + l.toNat + 1 then raiseWord .illegal
    let c ← getMe
    result d (binsValue (c.rg d) (c.rg a) p.toNat (l.toNat + 1)) [c.lg d, c.lg a]) s

/-- A selector of mode 0b11 raises ILLEGAL by its value, and nothing is written (R99). -/
def execBperm (d a b : GReg) (s : State) : Step :=
  runI (.bperm d a b) (do
    let c ← getMe
    match bpermValue (c.rg a) (c.rg b) with
    | none => raiseValue .illegal
    | some v => result d v [c.lg a, c.lg b]) s

def execBpermi (d : GReg) (i : BitVec 16) (s : State) : Step :=
  alu1 (.bpermi d i) d d (fun x => bpermiValue x i) s

end Sys2Proof.Machine
end

