-- ==== Sys2Proof/Machine/ScalarFp.lean ====
section
/-! DEFINITION. Scalar FP32 (R101-R104). -/

namespace Sys2Proof.Machine

/-- The f32 operand of a register: bits [31:0] (R101). -/
def f32In (w : Word) : Nat := w.toNat % 2 ^ 32

/-- A scalar FP result: under SR one draw is consumed (R31); the flags accrue (R35). -/
def fpResult (d : GReg) (r : Nat × Flags) (rounds : Bool) (ls : List Label) : M Unit := do
  writeG d (BitVec.ofNat 64 r.1) ls
  modMe (fun c => (if rounds then c.draws 1 else c).accrue r.2)
  advance

/-- A scalar operation of two FP32 operands. One that never rounds reserves no draw under SR. (DESIGN CHOICE,
notes/assumptions/109.md.) -/
def fp2 (i : Instr) (d a b : GReg) (rounds : Bool) (f : RMode → Nat → Nat → Nat × Flags) (s : State) : Step :=
  runI i (do
    let c ← getMe
    fpResult d (f c.rnd (f32In (c.rg a)) (f32In (c.rg b))) rounds [c.lg a, c.lg b]) s

def execFadd (d a b : GReg) (s : State) : Step :=
  fp2 (.fadd d a b) d a b true (fun m x y => fmtF32.fadd m (fmtF32.decode x) (fmtF32.decode y)) s
def execFsub (d a b : GReg) (s : State) : Step :=
  fp2 (.fsub d a b) d a b true (fun m x y => fmtF32.fadd m (fmtF32.decode x) (fmtF32.decode y).negate) s
def execFmul (d a b : GReg) (s : State) : Step :=
  fp2 (.fmul d a b) d a b true (fun m x y => fmtF32.fmul m (fmtF32.decode x) (fmtF32.decode y)) s

def execFfma (d a b e : GReg) (s : State) : Step :=
  runI (.ffma d a b e) (do
    let c ← getMe
    let v (r : GReg) : FVal := fmtF32.decode (f32In (c.rg r))
    fpResult d (fmtF32.ffma c.rnd (v a) (v b) (v e)) true [c.lg a, c.lg b, c.lg e]) s

def execFmin (d a b : GReg) (s : State) : Step :=
  fp2 (.fmin d a b) d a b false (fun _ x y => fmtF32.fminmax false x y) s
def execFmax (d a b : GReg) (s : State) : Step :=
  fp2 (.fmax d a b) d a b false (fun _ x y => fmtF32.fminmax true x y) s

/-- FCMP.cond: 1 or 0 (R103). -/
def fcmp (k : FCond) (x y : Nat) : Nat × Flags :=
  let r := FVal.test k (fmtF32.decode x) (fmtF32.decode y)
  (if r.1 then 1 else 0, r.2)

def execFcmpEq (d a b : GReg) (s : State) : Step := fp2 (.fcmpEq d a b) d a b false (fun _ x y => fcmp .eq x y) s
def execFcmpLt (d a b : GReg) (s : State) : Step := fp2 (.fcmpLt d a b) d a b false (fun _ x y => fcmp .lt x y) s
def execFcmpLe (d a b : GReg) (s : State) : Step := fp2 (.fcmpLe d a b) d a b false (fun _ x y => fcmp .le x y) s
def execFcmpUn (d a b : GReg) (s : State) : Step := fp2 (.fcmpUn d a b) d a b false (fun _ x y => fcmp .un x y) s

/-- An integer result of FCVT: s32 sign-extended, n32 zero-extended (R104). -/
def intResult (signed : Bool) (w : Nat) (m : RMode) (x : Word) : Nat × Flags :=
  let r := toInt signed w m (fmtF32.decode (f32In x))
  ((BitVec.ofInt 64 r.1).toNat, r.2)

/-- FCVT by kind (R104): into an integer, from an integer, into f16 or bf16 it rounds and saturates (R33); widening is exact but
for a NaN, which becomes the canonical NaN, NV set if it was signalling. -/
def fcvt (k : FcvtKind) (m : RMode) (x : Word) : Nat × Flags :=
  match k with
  | .f32s32 => intResult true 32 m x
  | .f32n32 => intResult false 32 m x
  | .f32s64 => intResult true 64 m x
  | .f32n64 => intResult false 64 m x
  | .s32f32 => fmtF32.convert m (.fin (Ex.ofInt (x.truncate 32).toInt))
  | .n32f32 => fmtF32.convert m (.fin (Ex.ofInt (x.truncate 32).toNat))
  | .s64f32 => fmtF32.convert m (.fin (Ex.ofInt x.toInt))
  | .n64f32 => fmtF32.convert m (.fin (Ex.ofInt x.toNat))
  | .f32f16 => fmtF16.convert m (fmtF32.decode (f32In x))
  | .f32bf16 => fmtBf16.convert m (fmtF32.decode (f32In x))
  | .f16f32 => fmtF32.convert m (fmtF16.decode (x.toNat % 2 ^ 16))
  | .bf16f32 => fmtF32.convert m (fmtBf16.decode (x.toNat % 2 ^ 16))

/-- Whether a kind rounds per FRM (R104). Widening from f16 or bf16 is exact and reserves no draw under SR.
(DESIGN CHOICE, notes/assumptions/109.md.) -/
def FcvtKind.rounds : FcvtKind → Bool
  | .f16f32 | .bf16f32 => false
  | _ => true

def execFcvt (k : FcvtKind) (d a : GReg) (s : State) : Step :=
  runI (.fcvt k d a) (do
    let c ← getMe
    fpResult d (fcvt k c.rnd (c.rg a)) (FcvtKind.rounds k) [c.lg a]) s

end Sys2Proof.Machine
end

