-- ==== Sys2Proof/Machine/Sfu.lean ====
section
/-! DEFINITION. The special-function unit (R142-R144). The manual bounds the error of the f32 result and does not give its
tables: the result is a free value inside the bound (notes/assumptions/6.md), and exact where the manual is exact. The exact
functions are approximated in fixed point with 256 fractional bits, far finer than any bound. -/

namespace Sys2Proof.Machine

/-- A real in units of 2^-256. -/
abbrev Fx := Int
def fxOne : Fx := 2 ^ 256
def fxMul (a b : Fx) : Fx := a * b / 2 ^ 256
def fxDiv (a b : Fx) : Fx := if b = 0 then 0 else a * 2 ^ 256 / b

/-- An exact value in units of 2^-256; exact for every f32. -/
def Ex.fx (x : Ex) : Fx :=
  let n : Int := (x.num : Int) * 2 ^ (x.exp + 256).toNat / (2 ^ (-(x.exp + 256)).toNat * (x.den : Int))
  if x.neg then -n else n
/-- A fixed-point value as an exact one. -/
def fxEx (v : Fx) : Ex := ⟨decide (v < 0), v.natAbs, -256, 1⟩

/-- t + t × step 1 + t × step 1 × step 2 + …, n terms in all. -/
def fxSeries (step : Nat → Fx → Fx) (k : Nat) (t : Fx) : Nat → Fx
  | 0 => 0
  | n + 1 => t + fxSeries step (k + 1) (step k t) n

/-- The integral of a geometric series, z + s z^3/3 + s^2 z^5/5 + … with s = 1 or -1, n terms. -/
def fxAtan (s : Int) (z : Fx) (n : Nat) : Fx :=
  let z2 := fxMul z z
  ((List.range n).foldl (fun (a : Fx × Fx) k => (a.1 + a.2 / (2 * k + 1), s * fxMul a.2 z2)) (0, z)).1

/-- ln m for m in [1, 2]. -/
def fxLn (m : Fx) : Fx := 2 * fxAtan 1 (fxDiv (m - fxOne) (m + fxOne)) 100
def fxLn2 : Fx := fxLn (2 * fxOne)
/-- π, by Machin's formula. -/
def fxPi : Fx := 16 * fxAtan (-1) (fxOne / 5) 60 - 4 * fxAtan (-1) (fxOne / 239) 30
/-- e^y for a small y. -/
def fxExpSmall (y : Fx) : Fx := fxSeries (fun k t => fxMul t y / (k + 1)) 0 fxOne 70
/-- e^y, as an exact value: m × 2^n with m in [1, 2). -/
def fxExp (y : Fx) : Ex :=
  let n := Int.fdiv y fxLn2
  ⟨false, (fxExpSmall (y - n * fxLn2)).natAbs, n - 256, 1⟩
/-- sin y and cos y for y in [−π, π]. -/
def fxSin (y : Fx) : Fx := fxSeries (fun k t => -(fxMul (fxMul t y) y) / ((2 * k + 2) * (2 * k + 3))) 0 y 60
def fxCos (y : Fx) : Fx := fxSeries (fun k t => -(fxMul (fxMul t y) y) / ((2 * k + 1) * (2 * k + 2))) 0 fxOne 60
/-- y less the nearest multiple of 2π. -/
def fxTurn (y : Fx) : Fx := y - Int.fdiv (y + fxPi) (2 * fxPi) * (2 * fxPi)
def fxSqrt (v : Fx) : Fx := (Nat.sqrt (v.natAbs * 2 ^ 256) : Int)

/-- The exact sum and quotient of one and a value. -/
def Ex.inc (x : Ex) : Ex := (Ex.ofInt 1).add x

/-- The standard normal distribution function at x, |x| at most 12: 1/2 + φ(x) × (x + x^3/3 + x^5/15 + …). -/
def fxPhi (x : Fx) : Fx :=
  let s := fxSeries (fun k t => fxMul (fxMul t x) x / (2 * k + 3)) 0 x 400
  let d := (fxExp (-(fxMul x x / 2))).fx
  fxOne / 2 + fxDiv (fxMul d s) (fxSqrt (2 * fxPi))

/-- The exact value of function k of R142 at a finite f32 value x of its interval in R143, to a relative 2^-100.
(DESIGN CHOICE, notes/assumptions/6.md.) -/
def sfuExact (k : Nat) (x : Ex) : Ex :=
  let v := x.fx
  match k with
  | 0 =>
    let n := Int.fdiv v fxOne
    ⟨false, (fxExpSmall (fxMul (v - n * fxOne) fxLn2)).natAbs, n - 256, 1⟩
  | 1 =>
    let e := x.log2
    let m : Fx := (Ex.fx { x with exp := x.exp - e })
    fxEx (e * fxOne + fxDiv (fxLn m) fxLn2)
  | 2 => (Ex.ofInt 1).div x
  | 3 => (Ex.ofInt 1).div ⟨false, Nat.sqrt (x.num * 2 ^ (600 + (x.exp % 2).toNat)), (x.exp - x.exp % 2) / 2 - 300, 1⟩
  | 4 => ⟨false, Nat.sqrt (x.num * 2 ^ (600 + (x.exp % 2).toNat)), (x.exp - x.exp % 2) / 2 - 300, 1⟩
  | 5 => fxEx (fxSin (fxTurn v))
  | 6 => fxEx (fxCos (fxTurn v))
  | 7 =>
    -- (e^2x − 1) / (e^2x + 1)
    let t := fxExp (2 * v)
    (t.add (Ex.ofInt (-1))).div t.inc
  | 8 =>
    -- below −300 the value is far below any spacing
    if v < -300 * fxOne then Ex.zero else (Ex.ofInt 1).div (fxExp (-v)).inc
  | _ =>
    -- above 12 it is x to a relative 2^-100
    if 12 * fxOne < v then x else x.mul (fxEx (fxPhi v))

/-- Whether |r − a| is at most n quarters of a unit in the last place at a, or at most the absolute bound b.
(DESIGN CHOICE, notes/assumptions/6.md.) -/
def sfuNear (a r : Ex) (n : Nat) (b : Option Ex) : Bool :=
  let d := (r.add a.negate).abs
  let u : Ex := ⟨false, n, (if a.isZero then -149 else fmtF32.ulpExp a) - 2, 1⟩
  let slack : Ex := ⟨false, a.num, a.exp - 100, a.den⟩
  let within (c : Ex) : Bool := !Ex.lt (c.add slack) d
  match b with
  | none => within u
  | some b => within b || (n != 0 && within u)

/-- The largest error of R143 for function k at x: quarters of a unit in the last place, and an absolute bound where there is
one. -/
def sfuBound (k : Nat) (x : Ex) : Nat × Option Ex :=
  let a := x.abs
  match k with
  | 1 => if !x.lt ⟨false, 3, -2, 1⟩ && x.lt ⟨false, 3, -1, 1⟩ then (0, some ⟨false, 1, -23, 1⟩) else (6, none)
  | 5 | 6 =>
    if !Ex.lt (fxEx fxPi) a then (8, none)
    else if a.lt (Ex.ofInt 65536) then (0, some ⟨false, 1, -20, 1⟩)
    else (0, some { a with exp := a.exp - 36 })
  | 7 | 8 => (8, none)
  | 9 => if Ex.lt (Ex.ofInt 3) x then (8, none) else (16, some ⟨false, 1, -24, 1⟩)
  | _ => (4, none)

/-- The f32 result inside the bound: the free value where it lies there, else the exact value rounded to nearest. Sines and
cosines lie in [−1, 1]. -/
def sfuBounded (k : Nat) (p : Nat) (x : Ex) : Nat :=
  let a := sfuExact k x
  let b := sfuBound k x
  let r := (Config.sfu k (BitVec.ofNat 32 p)).toNat
  let nearest := (fmtF32.arith .rne (.fin a)).1
  match fmtF32.decode r with
  | .fin y => if sfuNear a y b.1 b.2 && !((k == 5 || k == 6) && Ex.lt (Ex.ofInt 1) y.abs) then r else nearest
  | _ => nearest

def f32Nan : Nat := 0x7FC00000
def f32Inf (neg : Bool) : Nat := if neg then 0xFF800000 else 0x7F800000
def f32One (neg : Bool) : Nat := if neg then 0xBF800000 else 0x3F800000
def f32Zero (neg : Bool) : Nat := if neg then 0x80000000 else 0

/-- The f32 result of function k on an f32 pattern, and the flags of R144. (DEDUCED, notes/assumptions/64.md.) -/
def sfuF32 (k : Nat) (p : Nat) : Nat × Flags :=
  let below (x : Ex) (n : Int) : Bool := x.lt (Ex.ofInt n)
  let tiny (x : Ex) : Bool := x.abs.lt ⟨false, 1, -12, 1⟩
  match fmtF32.decode p with
  | .nan s => (f32Nan, if s then flagNV else 0)
  | .inf neg =>
    match k with
    | 0 => (if neg then f32Zero false else f32Inf false, 0)
    | 1 | 3 | 4 =>
      if neg then (f32Nan, flagNV) else (if k = 3 then f32Zero false else f32Inf false, 0)
    | 2 => (f32Zero neg, 0)
    | 5 | 6 => (f32Nan, flagNV)
    | 7 => (f32One neg, 0)
    | 8 => (if neg then f32Zero false else f32One false, 0)
    | _ => (if neg then f32Zero true else f32Inf false, 0)
  | .fin x =>
    match k with
    | 0 =>
      if !below x 128 then (f32Inf false, flagOF)
      else if !below x (-149) then (sfuBounded 0 p x, 0)
      else if Ex.lt (Ex.ofInt (-150)) x then (1, 0)
      else (f32Zero false, 0)
    | 1 =>
      if x.isZero then (f32Inf true, flagDZ) else if x.neg then (f32Nan, flagNV) else (sfuBounded 1 p x, 0)
    | 2 => if x.isZero then (f32Inf x.neg, flagDZ) else (sfuBounded 2 p x, 0)
    | 3 =>
      if x.isZero then (f32Inf x.neg, flagDZ) else if x.neg then (f32Nan, flagNV) else (sfuBounded 3 p x, 0)
    | 4 =>
      if x.isZero then (p, 0) else if x.neg then (f32Nan, flagNV) else (sfuBounded 4 p x, 0)
    | 5 => if tiny x then (p, 0) else (sfuBounded 5 p x, 0)
    | 6 => if tiny x then (f32One false, 0) else (sfuBounded 6 p x, 0)
    | 7 => if tiny x then (p, 0) else if !x.abs.lt (Ex.ofInt 10) then (f32One x.neg, 0) else (sfuBounded 7 p x, 0)
    | 8 => if !below x 17 then (f32One false, 0) else (sfuBounded 8 p x, 0)
    | _ => if !Ex.lt (Ex.ofInt (-10)) x then (f32Zero true, 0) else (sfuBounded 9 p x, 0)

/-- An element of type t, widened exactly, given to function k, and rounded with RNE into t; of the roundings only an overflow in
f16 sets flags, OF and NX (R142, R144). (DEDUCED, notes/assumptions/64.md.) -/
def sfuElem (k t x : Nat) : Nat × Flags :=
  let v := (tyFmt t).decode x
  let w := match v with
    | .nan true => 0x7F800001
    | v => (fmtF32.arith .rne v).1
  let r := sfuF32 k w
  if t = 6 then r
  else
    let n := (tyFmt t).arith .rne (fmtF32.decode r.1)
    (n.1, r.2 ||| (if t = 8 && n.2 &&& flagOF != 0 then flagOF ||| flagNX else 0))

end Sys2Proof.Machine
end

