-- ==== Sys2Proof/Machine/Tile.lean ====
section
/-! DEFINITION. Tiles: elements and shapes (R24, R116, R118), what the queued instructions compute when they complete (R120,
R127-R134, R139-R144, R195), and how they enter the vector queue (R31, R121). -/

namespace Sys2Proof.Machine

/-! ### Elements (R24, R116) -/

def tyn (t : ETy) : Nat := t.code.toNat
/-- The width of a type in bits (R118). -/
def bitsOf (t : ETy) : Nat := tyBits (tyn t)

/-- Element e of a tile's contents, of b bits. -/
def elemAt (x b e : Nat) : Nat := x / 2 ^ (b * e) % 2 ^ b
/-- Elements side by side, the first lowest. -/
def packElems (b : Nat) : List Nat → Nat
  | [] => 0
  | x :: r => x % 2 ^ b + 2 ^ b * packElems b r

/-- A tile with the listed elements from position 0 on, none keeping the old element; the bytes behind the last element are
zero (R120). -/
def putElems (old : Tile) (b : Nat) (l : List (Option Nat)) : Tile :=
  let x := old.toNat
  -- the other half of a last byte that holds one 4-bit element stays
  let l := if b = 4 && l.length % 2 == 1 then l ++ [none] else l
  BitVec.ofNat 2048 (packElems b (l.zipIdx.map (fun e => e.1.getD (elemAt x b e.2))))

/-- The signed or unsigned value of an integer element. -/
def tyInt (t : ETy) (x : Nat) : Int :=
  if tySigned (tyn t) && 2 ^ (bitsOf t - 1) ≤ x then (x : Int) - 2 ^ bitsOf t else x

/-- A predicate from its first bits. -/
def predOf (l : List Bool) : Pred := BitVec.ofNat 256 (packElems 1 (l.map (fun b => b.toNat)))

/-- The rounding modes of n positions, each with its own draw under SR (R31). -/
def modesOf (frm : Nat) (seed : Word) : Nat → List RMode
  | 0 => []
  | n + 1 => rmode frm seed :: modesOf frm (seedStep seed) n

/-- The element positions of an entry (R117). -/
def VEntry.count (e : VEntry) : Nat := e.rows * e.cols
def VEntry.modes (e : VEntry) : List RMode := modesOf e.frm e.seed e.count

/-! ### Writing a result (R120) -/

def joinFlags (l : List Flags) : Flags := l.foldl (fun a b => a ||| b) 0

/-- Results at the positions where the governing predicate is 1. -/
def Core.mapTile (c : Core) (e : VEntry) (b : Nat) (p : PReg) (d : VReg) (f : Nat → Nat × Flags) : Core :=
  let r := (List.range e.count).map (fun i => if (c.rp p).getLsbD i then some (f i) else none)
  (c.wv d (putElems (c.rv d) b (r.map (Option.map (·.1))))).accrue (joinFlags (r.filterMap (Option.map (·.2))))

/-- Results at every position. -/
def Core.fillTile (c : Core) (e : VEntry) (b : Nat) (d : VReg) (f : Nat → Nat × Flags) : Core :=
  let r := (List.range e.count).map f
  (c.wv d (putElems (c.rv d) b (r.map (fun x => some x.1)))).accrue (joinFlags (r.map (·.2)))

/-! ### Integer and float (R127-R129) -/

/-- Integer operation on two elements. -/
def Core.intTile (c : Core) (e : VEntry) (t : ETy) (p : PReg) (d a b : VReg) (f : Nat → Nat → Int) : Core :=
  let x := (c.rv a).toNat
  let y := (c.rv b).toNat
  let w := bitsOf t
  c.mapTile e w p d (fun i => ((f (elemAt x w i) (elemAt y w i) % 2 ^ w).toNat, 0))

/-- VSRA: filled with the top bit in every type (R127). -/
def sraElem (w a k : Nat) : Int := (if 2 ^ (w - 1) ≤ a then (a : Int) - 2 ^ w else a) / 2 ^ k

/-- Float operation: on the two elements and the old one, in the position's mode. -/
def Core.floatTile (c : Core) (e : VEntry) (t : ETy) (p : PReg) (d a b : VReg) (f : Fmt → RMode → Nat → Nat → Nat → Nat × Flags) :
    Core :=
  let x := (c.rv a).toNat
  let y := (c.rv b).toNat
  let z := (c.rv d).toNat
  let w := bitsOf t
  let ms := e.modes
  c.mapTile e w p d (fun i => f (tyFmt (tyn t)) (ms.getD i .rne) (elemAt x w i) (elemAt y w i) (elemAt z w i))

/-- VABS and VNEG: the sign bit cleared or flipped, a NaN canonical (R129). -/
def signElem (f : Fmt) (neg : Bool) (a : Nat) : Nat × Flags :=
  if (f.decode a).isNan then (f.nan, 0)
  else
    let m := 2 ^ (f.width - 1)
    (if neg then (a + m) % (2 * m) else a % m, 0)

/-! ### Compare (R130) -/

def floatTest (k : VCond) (x y : FVal) : Bool × Flags :=
  match k with
  | .eq => FVal.test .eq x y
  | .ne => let r := FVal.test .eq x y; (!r.1, r.2)
  | .lt => FVal.test .lt x y
  | .le => FVal.test .le x y
  | .gt => FVal.test .lt y x
  | .ge => FVal.test .le y x
  | .un => FVal.test .un x y

/-- Integers are never unordered. (DESIGN CHOICE, notes/assumptions/111.md.) -/
def intTest (k : VCond) (x y : Int) : Bool :=
  match k with
  | .eq => x == y
  | .ne => x != y
  | .lt => x < y
  | .le => x ≤ y
  | .gt => y < x
  | .ge => y ≤ x
  | .un => false

def Core.cmpTile (c : Core) (e : VEntry) (k : VCond) (t : ETy) (p d : PReg) (a b : VReg) : Core :=
  let x := (c.rv a).toNat
  let y := (c.rv b).toNat
  let w := bitsOf t
  let test (i : Nat) : Bool × Flags :=
    if t.isInt then (intTest k (tyInt t (elemAt x w i)) (tyInt t (elemAt y w i)), 0)
    else floatTest k ((tyFmt (tyn t)).decode (elemAt x w i)) ((tyFmt (tyn t)).decode (elemAt y w i))
  let r := (List.range e.count).map (fun i => if (c.rp p).getLsbD i then test i else (false, 0))
  (c.wp d (predOf (r.map (·.1)))).accrue (joinFlags (r.map (·.2)))

/-! ### Reduce (R133) -/

/-- One element brought into a row's result. (DEDUCED, notes/assumptions/66.md.) -/
def redStep (o : VredOp) (t : ETy) (m : RMode) (acc x : Nat) : Nat × Flags :=
  let w := bitsOf t
  if t.isInt then
    (match o with
      | .add => (acc + x) % 2 ^ w
      | .min => if tyInt t x < tyInt t acc then x else acc
      | .max => if tyInt t acc < tyInt t x then x else acc
      | .and => acc &&& x
      | .or => acc ||| x
      | .xor => acc ^^^ x, 0)
  else
    let f := tyFmt (tyn t)
    match o with
    | .min => f.fminmax false acc x
    | .max => f.fminmax true acc x
    | _ => f.fadd m (f.decode acc) (f.decode x)

/-- A row's included elements, each with its mode: the first starts, the others are brought in in turn; one NaN alone gives the
canonical NaN. -/
def redRow (o : VredOp) (t : ETy) : List (Nat × RMode) → Nat × Flags
  | [] => (0, 0)
  | [(x, _)] =>
    let v := tyValue (tyn t) x
    if !t.isInt && v.isNan then ((tyFmt (tyn t)).nan, snanFlag [v]) else (x, 0)
  | (x, _) :: r => r.foldl (fun (a : Nat × Flags) y => let z := redStep o t y.2 a.1 y.1; (z.1, a.2 ||| z.2)) (x, 0)

def Core.redTile (c : Core) (e : VEntry) (o : VredOp) (t : ETy) (p : PReg) (d a : VReg) : Core :=
  let x := (c.rv a).toNat
  let w := bitsOf t
  let ms := e.modes
  let row (r : Nat) : Nat × Flags :=
    redRow o t ((List.range e.cols).filterMap (fun k =>
      let i := r * e.cols + k
      if (c.rp p).getLsbD i then some (elemAt x w i, ms.getD i .rne) else none))
  c.fillTile e w d (fun i => if i % e.cols = 0 then row (i / e.cols) else (0, 0))

/-! ### Convert and quantise (R139-R141) -/

def cvtElem (t s : ETy) (m : RMode) (x : Nat) : Nat × Flags :=
  if t = s then (x, 0) else tyConvert (tyn t) m (tyValue (tyn s) x)

/-- |x| of a value that is not NaN. -/
def FVal.mag : FVal → FVal
  | .fin x => .fin x.abs
  | .inf _ => .inf false
  | v => v

/-- The largest magnitude of a block; NaN where an element is. -/
def blockMax (l : List FVal) : FVal :=
  if l.any FVal.isNan then .nan false
  else l.foldl (fun m v => if m.cmp v.mag == .lt then v.mag else m) (.fin Ex.zero)

/-- va[e] / s, 0 where s is 0 (R140). -/
def scaledElem (v : FVal) (s : Nat) : FVal :=
  match v, scaleValue s with
  | .fin x, .fin y => if y.isZero then .fin Ex.zero else .fin (x.div y)
  | .inf n, _ => .inf n
  | v, _ => v

/-- A block quantised: its scale, its codes and the flags. (DEDUCED, notes/assumptions/63.md.) -/
def quantBlock (t : ETy) (l : List (FVal × RMode)) : Nat × List Nat × Flags :=
  let m := blockMax (l.map (·.1))
  if m.isNan then (0xFF, l.map (fun _ => 0), flagNV)
  else
    let q : FVal := if t = .nq4 then m else match m with
      | .fin x => .fin (x.div (Ex.ofInt 6))
      | v => v
    let s := scaleCeil q
    let r := l.map (fun e =>
      let y := scaledElem e.1 s.1
      if t = .nq4 then nq4Quant y else fmtE2m1.arith e.2 y)
    (s.1, r.map (·.1), s.2 ||| joinFlags (r.map (·.2)))

/-- VQUANT: the codes into vd, then the scales into vb. (DESIGN CHOICE, notes/assumptions/112.md.) -/
def Core.quantTile (c : Core) (e : VEntry) (t s : ETy) (d a b : VReg) : Core :=
  let x := (c.rv a).toNat
  let ms := e.modes
  let blocks := (List.range (e.count / 64)).map (fun j =>
    quantBlock t ((List.range 64).map (fun k =>
      (tyValue (tyn s) (elemAt x (bitsOf s) (64 * j + k)), ms.getD (64 * j + k) .rne))))
  ((c.wv d (BitVec.ofNat 2048 (packElems 4 (blocks.flatMap (fun k => k.2.1))))).wv b
    (BitVec.ofNat 2048 (packElems 8 (blocks.map (·.1))))).accrue (joinFlags (blocks.map (fun k => k.2.2)))

/-- (DEDUCED, notes/assumptions/63.md.) -/
def Core.deqTile (c : Core) (e : VEntry) (t s : ETy) (d a b : VReg) : Core :=
  let x := (c.rv a).toNat
  let y := (c.rv b).toNat
  let ms := e.modes
  c.fillTile e (bitsOf t) d (fun i =>
    (tyFmt (tyn t)).arith (ms.getD i .rne)
      (FVal.mul (tyValue (tyn s) (elemAt x 4 i)) (scaleValue (elemAt y 8 (i / 64)))).1)

/-- An SFU instruction: function k of R142. -/
def Core.sfuTile (c : Core) (e : VEntry) (k : Nat) (t : ETy) (p : PReg) (d a : VReg) : Core :=
  let x := (c.rv a).toNat
  let w := bitsOf t
  c.mapTile e w p d (fun i => sfuElem k (tyn t) (elemAt x w i))

/-! ### What a queued instruction without memory writes -/

/-- The data that a queued instruction writes when it completes, and the flags it accrues; a count is delivered to the core, which
waits for it. -/
def Core.tileData (c : Core) (e : VEntry) : Core :=
  match e.op with
  | .vaddInt t p d a b => c.intTile e t p d a b (fun x y => (x + y : Nat))
  | .vsubInt t p d a b => c.intTile e t p d a b (fun x y => (x : Int) - y)
  | .vmulInt t p d a b => c.intTile e t p d a b (fun x y => (x * y : Nat))
  | .vminInt t p d a b => c.intTile e t p d a b (fun x y => min (tyInt t x) (tyInt t y))
  | .vmaxInt t p d a b => c.intTile e t p d a b (fun x y => max (tyInt t x) (tyInt t y))
  | .vabsInt t p d a => c.intTile e t p d a a (fun x _ => ((tyInt t x).natAbs : Int))
  | .vnegInt t p d a => c.intTile e t p d a a (fun x _ => -(x : Int))
  | .vand t p d a b => c.intTile e t p d a b (fun x y => (x &&& y : Nat))
  | .vor t p d a b => c.intTile e t p d a b (fun x y => (x ||| y : Nat))
  | .vxor t p d a b => c.intTile e t p d a b (fun x y => (x ^^^ y : Nat))
  | .vshl t p d a b => c.intTile e t p d a b (fun x y => (x * 2 ^ (y % bitsOf t) : Nat))
  | .vshr t p d a b => c.intTile e t p d a b (fun x y => (x / 2 ^ (y % bitsOf t) : Nat))
  | .vsra t p d a b => c.intTile e t p d a b (fun x y => sraElem (bitsOf t) x (y % bitsOf t))
  | .vbcast t p d _ => c.mapTile e (bitsOf t) p d (fun _ => (e.ga.toNat % 2 ^ bitsOf t, 0))
  | .vaddFloat t p d a b => c.floatTile e t p d a b (fun f m x y _ => f.fadd m (f.decode x) (f.decode y))
  | .vsubFloat t p d a b => c.floatTile e t p d a b (fun f m x y _ => f.fadd m (f.decode x) (f.decode y).negate)
  | .vmulFloat t p d a b => c.floatTile e t p d a b (fun f m x y _ => f.fmul m (f.decode x) (f.decode y))
  | .vfma t p d a b => c.floatTile e t p d a b (fun f m x y z => f.ffma m (f.decode x) (f.decode y) (f.decode z))
  | .vfms t p d a b => c.floatTile e t p d a b (fun f m x y z => f.ffma m (f.decode x).negate (f.decode y) (f.decode z))
  | .vminFloat t p d a b => c.floatTile e t p d a b (fun f _ x y _ => f.fminmax false x y)
  | .vmaxFloat t p d a b => c.floatTile e t p d a b (fun f _ x y _ => f.fminmax true x y)
  | .vabsFloat t p d a => c.floatTile e t p d a a (fun f _ x _ _ => signElem f false x)
  | .vnegFloat t p d a => c.floatTile e t p d a a (fun f _ x _ _ => signElem f true x)
  | .vcmp k t p d a b => c.cmpTile e k t p d a b
  | .vsel t p d a b =>
    c.fillTile e (bitsOf t) d (fun i =>
      (elemAt (if (c.rp p).getLsbD i then (c.rv a).toNat else (c.rv b).toNat) (bitsOf t) i, 0))
  | .pand d a b => c.wp d (c.rp a &&& c.rp b)
  | .por d a b => c.wp d (c.rp a ||| c.rp b)
  | .pxor d a b => c.wp d (c.rp a ^^^ c.rp b)
  | .pnot d a => c.wp d (~~~(c.rp a))
  | .pset d v => c.wp d (if v then BitVec.allOnes 256 else 0)
  | .vred o t p d a => c.redTile e o t p d a
  | .vtrans t d a =>
    c.fillTile e (bitsOf t) d (fun i => (elemAt (c.rv a).toNat (bitsOf t) (i % e.rows * e.cols + i / e.rows), 0))
  | .vrot t d a n => c.fillTile e (bitsOf t) d (fun i => (elemAt (c.rv a).toNat (bitsOf t) ((i + n.toNat) % e.count), 0))
  | .vcvt t s p d a =>
    let x := (c.rv a).toNat
    let ms := e.modes
    c.mapTile e (bitsOf t) p d (fun i => cvtElem t s (ms.getD i .rne) (elemAt x (bitsOf s) i))
  | .vquant t s d a b => c.quantTile e t s d a b
  | .vdeq t s d a b => c.deqTile e t s d a b
  | .vexp t p d a => c.sfuTile e 0 t p d a
  | .vlog t p d a => c.sfuTile e 1 t p d a
  | .vrcp t p d a => c.sfuTile e 2 t p d a
  | .vrsq t p d a => c.sfuTile e 3 t p d a
  | .vsqrt t p d a => c.sfuTile e 4 t p d a
  | .vsin t p d a => c.sfuTile e 5 t p d a
  | .vcos t p d a => c.sfuTile e 6 t p d a
  | .vtanh t p d a => c.sfuTile e 7 t p d a
  | .vsigm t p d a => c.sfuTile e 8 t p d a
  | .vgelu t p d a => c.sfuTile e 9 t p d a
  | .vlset d a _ => c.wv d (c.rv a)
  | .pcnt _ a => { c with wait := .granted (BitVec.ofNat 64 ((List.range e.count).countP (fun i => (c.rp a).getLsbD i))) }
  | .pfirst _ a =>
    { c with wait := .granted (BitVec.ofNat 64 (((List.range e.count).find? (fun i => (c.rp a).getLsbD i)).getD e.count)) }
  | _ => c

/-! ### Issue (R118, R121) -/

/-- E of the current shape (R117). -/
def Core.count (c : Core) : Nat := shapeRows c.shape * shapeCols c.shape

/-- The width check of R118, for the largest element width in bits. (DEDUCED, notes/assumptions/59.md.) -/
def widthOk (bits : Nat) : M Unit := do
  if 2048 < (← getMe).count * bits then raiseWord .illegal

/-- The beats of a lane-group instruction (R123). (DEDUCED, notes/assumptions/65.md.) -/
def laneBeats (n bits : Nat) : Nat := max 1 ((n * bits + 511) / 512)

/-- How a queued tile instruction enters the queue: the beats it needs, whether it rounds per FRM, its g operands, the tile whose
old elements stay where its governing predicate is 0, its factors, and where its label goes. -/
structure TileIssue where
  beats  : Nat
  rounds : Bool
  ga     : Word
  gb     : Word
  keep   : Option (PReg × VReg)
  ls     : List Label

/-- Whether a position of the shape keeps its old element (R120). -/
def Core.keeps (c : Core) (p : PReg) : Bool := (List.range c.count).any (fun i => !(c.rp p).getLsbD i)

/-- The factors with the old label where old elements stay. -/
def keptLabel (keep : Option (PReg × VReg)) (ls : List Label) : M Label := do
  let c ← getMe
  match keep with
  | none => formLabel ls
  | some (p, d) => formLabel (if c.keeps p then ls ++ [c.lv d] else ls)

/-- An instruction put into the vector queue with what it samples, under a label (R121). -/
def Core.vpush (c : Core) (i : Instr) (q : TileIssue) (l : Label) : Core :=
  { c with vq := c.vq ++ [
    { op := i, rows := shapeRows c.shape, cols := shapeCols c.shape, frm := c.mode, seed := c.srseed, ga := q.ga, gb := q.gb
      label := l, beats := q.beats }] }

/-- A tile instruction enters the queue of 16 (R121): it waits where the queue is full or the predicate that decides its label
awaits a queued result; its label is formed and written, its draws are reserved. -/
def enterQueue (i : Instr) (q : TileIssue) (put : Core → Label → Core) : M Unit := do
  let c ← getMe
  needs (c.vq.length < 16 && !(match q.keep with
    | some (p, _) => c.predPending p
    | none => false))
  let l ← keptLabel q.keep q.ls
  modMe (fun c => put ((c.vpush i q l).draws (if q.rounds then c.count else 0)) l)
  advance

end Sys2Proof.Machine
end

