-- ==== Sys2Proof/Machine/TileOps.lean ====
section
/-! DEFINITION. The tile instructions that the vector unit executes on registers: integer and float arithmetic (R127-R129),
compare, select and predicates (R130-R132), reduce and rearrange (R119, R133, R134), convert and quantise (R139-R141), the
special functions (R142), tile labels (R195). Each enters the vector queue; what it computes is Core.tileData. -/

namespace Sys2Proof.Machine

/-! ### Shared forms -/

/-- Two tiles to one under a governing predicate (R120). -/
def tile2 (i : Instr) (t : ETy) (p : PReg) (d a b : VReg) (rounds : Bool) (s : State) : Step :=
  runI i (do
    widthOk (bitsOf t)
    let c ← getMe
    enterQueue i ⟨laneBeats c.count (bitsOf t), rounds, 0, 0, some (p, d), [c.lv a, c.lv b, c.lp p]⟩ (fun c l => c.wvl d l)) s

/-- One tile to one. -/
def tile1 (i : Instr) (t : ETy) (p : PReg) (d a : VReg) (s : State) : Step :=
  runI i (do
    widthOk (bitsOf t)
    let c ← getMe
    enterQueue i ⟨laneBeats c.count (bitsOf t), false, 0, 0, some (p, d), [c.lv a, c.lp p]⟩ (fun c l => c.wvl d l)) s

/-- Two tiles and the old one to one: the old label is a factor (R129). -/
def tile3 (i : Instr) (t : ETy) (p : PReg) (d a b : VReg) (s : State) : Step :=
  runI i (do
    widthOk (bitsOf t)
    let c ← getMe
    enterQueue i ⟨laneBeats c.count (bitsOf t), true, 0, 0, some (p, d), [c.lv a, c.lv b, c.lv d, c.lp p]⟩
      (fun c l => c.wvl d l)) s

/-! ### Integer (R127, R128) -/

def execVaddInt (t : ETy) (p : PReg) (d a b : VReg) (s : State) : Step := tile2 (.vaddInt t p d a b) t p d a b false s
def execVsubInt (t : ETy) (p : PReg) (d a b : VReg) (s : State) : Step := tile2 (.vsubInt t p d a b) t p d a b false s
def execVmulInt (t : ETy) (p : PReg) (d a b : VReg) (s : State) : Step := tile2 (.vmulInt t p d a b) t p d a b false s
def execVminInt (t : ETy) (p : PReg) (d a b : VReg) (s : State) : Step := tile2 (.vminInt t p d a b) t p d a b false s
def execVmaxInt (t : ETy) (p : PReg) (d a b : VReg) (s : State) : Step := tile2 (.vmaxInt t p d a b) t p d a b false s
def execVabsInt (t : ETy) (p : PReg) (d a : VReg) (s : State) : Step := tile1 (.vabsInt t p d a) t p d a s
def execVnegInt (t : ETy) (p : PReg) (d a : VReg) (s : State) : Step := tile1 (.vnegInt t p d a) t p d a s
def execVand (t : ETy) (p : PReg) (d a b : VReg) (s : State) : Step := tile2 (.vand t p d a b) t p d a b false s
def execVor (t : ETy) (p : PReg) (d a b : VReg) (s : State) : Step := tile2 (.vor t p d a b) t p d a b false s
def execVxor (t : ETy) (p : PReg) (d a b : VReg) (s : State) : Step := tile2 (.vxor t p d a b) t p d a b false s
def execVshl (t : ETy) (p : PReg) (d a b : VReg) (s : State) : Step := tile2 (.vshl t p d a b) t p d a b false s
def execVshr (t : ETy) (p : PReg) (d a b : VReg) (s : State) : Step := tile2 (.vshr t p d a b) t p d a b false s
def execVsra (t : ETy) (p : PReg) (d a b : VReg) (s : State) : Step := tile2 (.vsra t p d a b) t p d a b false s

/-- VBCAST: ga is read at issue (R128). -/
def execVbcast (t : ETy) (p : PReg) (d : VReg) (g : GLow) (s : State) : Step :=
  runI (.vbcast t p d g) (do
    widthOk (bitsOf t)
    let c ← getMe
    enterQueue (.vbcast t p d g)
      ⟨laneBeats c.count (bitsOf t), false, c.rg (lowG g), 0, some (p, d), [c.lg (lowG g), c.lp p]⟩ (fun c l => c.wvl d l)) s

/-! ### Float (R129) -/

def execVaddFloat (t : ETy) (p : PReg) (d a b : VReg) (s : State) : Step := tile2 (.vaddFloat t p d a b) t p d a b true s
def execVsubFloat (t : ETy) (p : PReg) (d a b : VReg) (s : State) : Step := tile2 (.vsubFloat t p d a b) t p d a b true s
def execVmulFloat (t : ETy) (p : PReg) (d a b : VReg) (s : State) : Step := tile2 (.vmulFloat t p d a b) t p d a b true s
def execVfma (t : ETy) (p : PReg) (d a b : VReg) (s : State) : Step := tile3 (.vfma t p d a b) t p d a b s
def execVfms (t : ETy) (p : PReg) (d a b : VReg) (s : State) : Step := tile3 (.vfms t p d a b) t p d a b s
/-- VMIN, VMAX, VABS and VNEG of a float type never round and reserve no draw under SR. (DESIGN CHOICE, notes/assumptions/109.md.) -/
def execVminFloat (t : ETy) (p : PReg) (d a b : VReg) (s : State) : Step := tile2 (.vminFloat t p d a b) t p d a b false s
def execVmaxFloat (t : ETy) (p : PReg) (d a b : VReg) (s : State) : Step := tile2 (.vmaxFloat t p d a b) t p d a b false s
def execVabsFloat (t : ETy) (p : PReg) (d a : VReg) (s : State) : Step := tile1 (.vabsFloat t p d a) t p d a s
def execVnegFloat (t : ETy) (p : PReg) (d a : VReg) (s : State) : Step := tile1 (.vnegFloat t p d a) t p d a s

/-! ### Compare, select, predicates (R130-R132) -/

/-- (DESIGN CHOICE, notes/assumptions/62.md.) -/
def execVcmp (k : VCond) (t : ETy) (p d : PReg) (a b : VReg) (s : State) : Step :=
  runI (.vcmp k t p d a b) (do
    widthOk (bitsOf t)
    let c ← getMe
    enterQueue (.vcmp k t p d a b) ⟨laneBeats c.count (bitsOf t), false, 0, 0, none, [c.lv a, c.lv b, c.lp p]⟩
      (fun c l => c.wpl d l)) s

/-- VSEL: P selects; the old vd is no factor (R131). -/
def execVsel (t : ETy) (p : PReg) (d a b : VReg) (s : State) : Step :=
  runI (.vsel t p d a b) (do
    widthOk (bitsOf t)
    let c ← getMe
    enterQueue (.vsel t p d a b) ⟨laneBeats c.count (bitsOf t), false, 0, 0, none, [c.lv a, c.lv b, c.lp p]⟩
      (fun c l => c.wvl d l)) s

/-- A predicate operation takes one beat and has no width (R118, R132); where it names p0 its label product is formed all the same.
(DESIGN CHOICE, notes/assumptions/62.md.) -/
def predOp (i : Instr) (d : PReg) (f : Core → List Label) (s : State) : Step :=
  runI i (do
    let c ← getMe
    enterQueue i ⟨1, false, 0, 0, none, f c⟩ (fun c l => c.wpl d l)) s

def execPand (d a b : PReg) (s : State) : Step := predOp (.pand d a b) d (fun c => [c.lp a, c.lp b]) s
def execPor (d a b : PReg) (s : State) : Step := predOp (.por d a b) d (fun c => [c.lp a, c.lp b]) s
def execPxor (d a b : PReg) (s : State) : Step := predOp (.pxor d a b) d (fun c => [c.lp a, c.lp b]) s
def execPnot (d a : PReg) (s : State) : Step := predOp (.pnot d a) d (fun c => [c.lp a]) s
def execPset (d : PReg) (v : Bool) (s : State) : Step := predOp (.pset d v) d (fun _ => []) s

/-- A predicate operation with a g result: its label is formed at issue, it takes one beat in the queue, and its core goes on with
the count (R118, R121, R124, R132). (DEDUCED, notes/assumptions/65.md.) -/
def predCount (i : Instr) (g : GLow) (a : PReg) : M Unit := do
  let c ← getMe
  match c.wait with
  | .granted v => resultKept (lowG g) v
  | _ =>
    needs (c.vq.length < 16)
    let f ← formEarly (lowG g) [c.lp a]
    modMe (fun c => c.vpush i ⟨1, false, 0, 0, none, []⟩ f.label)
    holdFormed .stalled .result f

def execPcnt (g : GLow) (a : PReg) (s : State) : Step := runI (.pcnt g a) (predCount (.pcnt g a) g a) s

/-- PFIRST: E where no bit is set (R132). -/
def execPfirst (g : GLow) (a : PReg) (s : State) : Step := runI (.pfirst g a) (predCount (.pfirst g a) g a) s

/-! ### Reduce, rearrange, shape (R119, R133, R134) -/

/-- VRED: only a float ADD rounds, and reserves draws (R31, R133). -/
def execVred (o : VredOp) (t : ETy) (p : PReg) (d a : VReg) (s : State) : Step :=
  runI (.vred o t p d a) (do
    widthOk (bitsOf t)
    let c ← getMe
    enterQueue (.vred o t p d a)
      ⟨laneBeats c.count (bitsOf t) + 1, t.isFloat && o == .add, 0, 0, none, [c.lv a, c.lp p]⟩ (fun c l => c.wvl d l)) s

def execVtrans (t : ETy) (d a : VReg) (s : State) : Step :=
  runI (.vtrans t d a) (do
    widthOk (bitsOf t)
    let c ← getMe
    enterQueue (.vtrans t d a) ⟨laneBeats c.count (bitsOf t) + 1, false, 0, 0, none, [c.lv a]⟩ (fun c l => c.wvl d l)) s

def execVrot (t : ETy) (d a : VReg) (n : BitVec 7) (s : State) : Step :=
  runI (.vrot t d a n) (do
    widthOk (bitsOf t)
    let c ← getMe
    enterQueue (.vrot t d a n) ⟨laneBeats c.count (bitsOf t) + 1, false, 0, 0, none, [c.lv a]⟩ (fun c l => c.wvl d l)) s

/-- VSHAPE writes SHAPE at issue (R117, R119). -/
def execVshape (a : GLow) (s : State) : Step :=
  runI (.vshape a) (do
    let v := (← getMe).rg (lowG a)
    if !shapeOk v then raiseValue .illegal
    modMe (fun c => { c with shape := v })
    advance) s

/-! ### Convert and quantise (R139-R141) -/

/-- VCVT reserves a draw for each position whatever its types (R139). -/
def execVcvt (t z : ETy) (p : PReg) (d a : VReg) (s : State) : Step :=
  runI (.vcvt t z p d a) (do
    let w := max (bitsOf t) (bitsOf z)
    widthOk w
    let c ← getMe
    enterQueue (.vcvt t z p d a) ⟨laneBeats c.count w + 1, true, 0, 0, some (p, d), [c.lv a, c.lp p]⟩ (fun c l => c.wvl d l)) s

/-- Blocks of 64 (R140). -/
def blocksOk : M Unit := do
  if (← getMe).count % 64 ≠ 0 then raiseWord .illegal

def execVquant (t z : ETy) (d a b : VReg) (s : State) : Step :=
  runI (.vquant t z d a b) (do
    widthOk (bitsOf z)
    blocksOk
    let c ← getMe
    enterQueue (.vquant t z d a b) ⟨laneBeats c.count (bitsOf z) + 1, true, 0, 0, none, [c.lv a]⟩
      (fun c l => (c.wvl d l).wvl b l)) s

def execVdeq (t z : ETy) (d a b : VReg) (s : State) : Step :=
  runI (.vdeq t z d a b) (do
    widthOk (bitsOf t)
    blocksOk
    let c ← getMe
    enterQueue (.vdeq t z d a b) ⟨laneBeats c.count (bitsOf t) + 1, true, 0, 0, none, [c.lv a, c.lv b]⟩
      (fun c l => c.wvl d l)) s

/-! ### Special functions (R142) -/

/-- An SFU instruction: 16 lanes of the pipe, ceil(E / 16) cycles (R124). -/
def sfuOp (i : Instr) (t : ETy) (p : PReg) (d a : VReg) (s : State) : Step :=
  runI i (do
    widthOk (bitsOf t)
    let c ← getMe
    enterQueue i ⟨(c.count + 15) / 16, false, 0, 0, some (p, d), [c.lv a, c.lp p]⟩ (fun c l => c.wvl d l)) s

def execVexp (t : ETy) (p : PReg) (d a : VReg) (s : State) : Step := sfuOp (.vexp t p d a) t p d a s
def execVlog (t : ETy) (p : PReg) (d a : VReg) (s : State) : Step := sfuOp (.vlog t p d a) t p d a s
def execVrcp (t : ETy) (p : PReg) (d a : VReg) (s : State) : Step := sfuOp (.vrcp t p d a) t p d a s
def execVrsq (t : ETy) (p : PReg) (d a : VReg) (s : State) : Step := sfuOp (.vrsq t p d a) t p d a s
def execVsqrt (t : ETy) (p : PReg) (d a : VReg) (s : State) : Step := sfuOp (.vsqrt t p d a) t p d a s
def execVsin (t : ETy) (p : PReg) (d a : VReg) (s : State) : Step := sfuOp (.vsin t p d a) t p d a s
def execVcos (t : ETy) (p : PReg) (d a : VReg) (s : State) : Step := sfuOp (.vcos t p d a) t p d a s
def execVtanh (t : ETy) (p : PReg) (d a : VReg) (s : State) : Step := sfuOp (.vtanh t p d a) t p d a s
def execVsigm (t : ETy) (p : PReg) (d a : VReg) (s : State) : Step := sfuOp (.vsigm t p d a) t p d a s
def execVgelu (t : ETy) (p : PReg) (d a : VReg) (s : State) : Step := sfuOp (.vgelu t p d a) t p d a s

/-! ### Tile labels (R195) -/

/-- VLGET executes at issue: the core holds every tile's label. -/
def execVlget (g : GLow) (a : VReg) (s : State) : Step :=
  runI (.vlget g a) (do
    let c ← getMe
    result (lowG g) ((c.lv a).zeroExtend 64) []) s

/-- VLSET: the ID is checked at issue (R189); one beat. -/
def execVlset (d a : VReg) (b : GLow) (s : State) : Step :=
  runI (.vlset d a b) (do
    let c ← getMe
    let l : Label := (c.rg (lowG b)).truncate 16
    if !(← idValid l) then raiseValue .illegal
    enterQueue (.vlset d a b) ⟨1, false, 0, c.rg (lowG b), none, [l]⟩ (fun c l => c.wvl d l)) s

/-- VLVIS executes at issue; its predicate may still be read or written by a queued instruction, so it waits for those (R88). -/
def execVlvis (d : PReg) (a : VReg) (s : State) : Step :=
  runI (.vlvis d a) (do
    predReady d
    let c ← getMe
    setPred d (← visible (c.lv a))
    advance) s

end Sys2Proof.Machine
end

