-- ==== Sys2Proof/Machine/TileMem.lean ====
section
/-! DEFINITION. Tile memory instructions (R125, R126, R135-R138): their addresses and checks, the loads and VAMO, which execute
whole when the queue before them is done, and the stores, which are queued; the completion of the queue's head (R121) and the
grants of the lane groups and the special-function pipe (R123). -/

namespace Sys2Proof.Machine

/-! ### Addresses (R135) -/

/-- The location of a local-store address of core n's windows. -/
def localKey (n : Nat) (ea : Word) : Nat :=
  let o := ea.toNat - 0x7F0000000000
  if o < 0x20000 then lsBase n + o
  else lsBase (8 * clusterOf n + (o - 0x100000) / 0x20000) + (o - 0x100000) % 0x20000

/-- The width of a type in nibbles (R118). -/
def nibsOf (t : ETy) : Nat := bitsOf t / 4

/-- The nibble of each element within its local store, element 0 first, for VLD and VST (R136): rows a stride apart, or side by
side where the stride field names g0. -/
def rowNibs (key : Nat) (rows cols nn : Nat) (named : Bool) (stride : Word) : List Int :=
  let step : Int := if named then 2 * stride.toInt else (cols * nn : Nat)
  (List.range (rows * cols)).map (fun e => (2 * (key % 2 ^ 17) : Nat) + (e / cols : Nat) * step + (e % cols * nn : Nat))

/-- The nibble of each element for VGATHER, VSCATTER and VAMO: the base and the index of the element, within the local store
(R135). -/
def indexNibs (key : Nat) (n nn : Nat) (idx : Tile) : List Int :=
  let x := idx.toNat
  (List.range n).map (fun e => (2 * ((key % 2 ^ 17 + elemAt x 16 e * (nn / 2)) % 2 ^ 17) : Nat))

/-- The window of ga: PROTECT outside the local stores (R135). (DEDUCED, notes/assumptions/60.md.) -/
def tileWindow (ea : Word) : M Nat := do
  let s ← get
  match s.target s.cur ea with
  | .localStore _ _ => return localKey s.cur ea
  | _ => raiseAddr .protect ea.toNat

/-- The checks of VLD and VST at issue (R135). (DEDUCED, notes/assumptions/59.md; DESIGN CHOICE, notes/assumptions/113.md.) -/
def rowChecks (t : ETy) (ea : Word) (named : Bool) (stride : Word) : M Nat := do
  widthOk (bitsOf t)
  let key ← tileWindow ea
  let c ← getMe
  let nn := nibsOf t
  let nibs := rowNibs key (shapeRows c.shape) (shapeCols c.shape) nn named stride
  match nibs.find? (fun (x : Int) => decide (x < 0) || decide ((2 ^ 18 : Int) < x + nn)) with
  | some x => raiseAddr .protect ((ea.toNat + (Int.fdiv x 2 - (key % 2 ^ 17 : Nat)) : Int) % 2 ^ 64).toNat
  | none => pure ()
  let st : Word := if named then stride else 0
  let w := nn / 2
  if (if nn = 1 then shapeCols c.shape % 2 = 1 ∧ st ≠ 0 else ea.toNat % w ≠ 0 ∨ st.toNat % w ≠ 0) then
    raiseAddr .misalign ea.toNat
  return key

/-- The checks of VGATHER, VSCATTER and VAMO at issue (R135). -/
def indexChecks (t : ETy) (ea : Word) : M Nat := do
  widthOk (bitsOf t)
  let key ← tileWindow ea
  if ea.toNat % (nibsOf t / 2) ≠ 0 then raiseAddr .misalign ea.toNat
  if 128 < (← getMe).count then raiseWord .illegal
  return key

/-! ### Words of the local store -/

/-- The word that holds a nibble of the local store of location key. -/
def nibWord (key : Nat) (x : Int) : Nat := key / 2 ^ 17 * 2 ^ 15 + x.toNat / 8
/-- An element of nn nibbles read at a nibble. -/
def State.nibRead (s : State) (key : Nat) (x : Int) (nn : Nat) : Nat :=
  s.read (4 * nibWord key x) 4 / 16 ^ (x.toNat % 8) % 16 ^ nn

/-- What a store writes of one word: which nibbles, and their contents. -/
structure WordPut where
  word : Nat
  mask : Nat
  val  : Nat

/-- n nibbles of a 32-bit word replaced from nibble i on. -/
def nibSet (x i n v : Nat) : Nat := x - (x / 16 ^ i % 16 ^ n) * 16 ^ i + (v % 16 ^ n) * 16 ^ i

/-- An element added to the words of a store; a later one wins (R137). (DEDUCED, notes/assumptions/61.md;
DESIGN CHOICE, notes/assumptions/114.md.) -/
def putElem (l : List WordPut) (word i n v : Nat) : List WordPut :=
  let put (p : WordPut) : WordPut := { p with mask := nibSet p.mask i n (16 ^ n - 1), val := nibSet p.val i n v }
  if l.any (fun p => p.word == word) then l.map (fun p => if p.word == word then put p else p)
  else l ++ [put ⟨word, 0, 0⟩]

/-- Bits of x where the mask has them, else of y. -/
def mix (mask x y : Nat) : Nat := (x &&& mask) ||| (y &&& (0xFFFFFFFF ^^^ mask))

/-- A location of a local store. -/
def localLoc (word : Nat) : Loc := ⟨.local, 4 * word, false⟩

/-- The words of a tile store written by core n: one written in full takes the label, one in part the label times its old one, and
stays damaged where it was (R136, R203). -/
def tileStore (n : Nat) (l : List WordPut) (label : Label) : M Unit := do
  let w := (← get).who n
  let tags ← l.mapM (fun p => do
    if p.mask = 0xFFFFFFFF then return label
    else deferredFold w (4 * p.word) [label, (← get).tagAt (4 * p.word)])
  modS (fun s => (l.zip tags).foldl (fun s e =>
    let t := s.store (localLoc e.1.word) 4 (mix e.1.mask e.1.val (s.read (4 * e.1.word) 4)) [(e.1.word, e.2)]
    if e.1.mask = 0xFFFFFFFF then t else { t with damaged := s.damaged }) s)

/-- The words at nibbles, each once, in ascending address order (R180). -/
def wordsAt (key : Nat) (nibs : List Int) : List Nat :=
  sortBy (fun x => x) ((nibs.map (nibWord key)).foldl (fun a x => if a.contains x then a else a ++ [x]) [])

/-- An uncorrectable error in a word that a tile load consumes is a MACHINE_CHECK at the word (R203). -/
def tileSound (ea : Word) (key : Nat) (words : List Nat) : M Unit := do
  let s ← get
  match words.find? (fun w => s.badAt (4 * w) 4) with
  | some w => raiseAddr .machineCheck (ea.toNat + 4 * w - key / 4 * 4)
  | none => pure ()

/-! ### Loads and VAMO (R125, R136-R138) -/

/-- What holds a tile load back: the queue before it (R125), buffered stores to local windows (R126), a queued MST (R158). -/
def loadReady : M Unit := do
  let c ← getMe
  needs (c.vq.isEmpty && !c.sb.any (fun e => e.loc.place == .local) && !c.mstQueued)

/-- The elements at nibbles, where pg is 1, read into vd; the label folds each word read once, in ascending address order, and then
that of kept positions (R120, R136, R180). (DESIGN CHOICE, notes/assumptions/114.md.) -/
def tileLoad (t : ETy) (p : PReg) (d : VReg) (ea : Word) (key : Nat) (nibs : List Int) (ls : List Label) : M Unit := do
  observeMe
  let s ← get
  let c := s.me
  let nn := nibsOf t
  let vals := nibs.zipIdx.map (fun e => if (c.rp p).getLsbD e.2 then some (s.nibRead key e.1 nn) else none)
  let words := wordsAt key ((nibs.zipIdx.filter (fun e => (c.rp p).getLsbD e.2)).map (·.1))
  let l ← keptLabel (some (p, d)) (ls ++ words.map (fun w => s.tags.get labelTrue w))
  tileSound ea key words
  modMe (fun c => (c.wv d (putElems (c.rv d) (bitsOf t) vals)).wvl d l)
  advance

def execVld (t : ETy) (p : PReg) (d : VReg) (a z : GLow) (s : State) : Step :=
  runI (.vld t p d a z) (do
    let c ← getMe
    let key ← rowChecks t (c.rg (lowG a)) (z != 0) (c.rg (lowG z))
    loadReady
    tileLoad t p d (c.rg (lowG a)) key (rowNibs key (shapeRows c.shape) (shapeCols c.shape) (nibsOf t) (z != 0) (c.rg (lowG z)))
      [c.lg (lowG a), c.lg (lowG z), c.lp p]) s

/-- (DEDUCED, notes/assumptions/60.md.) -/
def execVgather (t : ETy) (p : PReg) (d : VReg) (a : GLow) (b : VReg) (s : State) : Step :=
  runI (.vgather t p d a b) (do
    let c ← getMe
    let key ← indexChecks t (c.rg (lowG a))
    loadReady
    tileLoad t p d (c.rg (lowG a)) key (indexNibs key c.count (nibsOf t) (c.rv b)) [c.lv b, c.lg (lowG a), c.lp p]) s

/-- One operation of VAMO on a word (R138). (DEDUCED, notes/assumptions/61.md.) -/
def vamoStep (o : VamoOp) (t : ETy) (old x : Nat) : Nat :=
  match o with
  | .swap => x
  | .add => (redStep .add t .rne old x).1
  | .min => (redStep .min t .rne old x).1
  | .max => (redStep .max t .rne old x).1
  | .and => (redStep .and t .rne old x).1
  | .or => (redStep .or t .rne old x).1
  | .xor => (redStep .xor t .rne old x).1

/-- VAMO: every old word is read and every label formed; then the positions act in turn, each giving its element the old word
(R138). Its stores follow the core's buffered ones (R126, R207). The tile's bytes behind the elements stay. -/
def execVamo (o : VamoOp) (t : ETy) (p : PReg) (d : VReg) (a : GLow) (b : VReg) (s : State) : Step :=
  runI (.vamo o t p d a b) (do
    let c ← getMe
    let key ← indexChecks t (c.rg (lowG a))
    loadReady
    needs c.sb.isEmpty
    observeMe
    let s ← get
    let nibs := indexNibs key c.count (nibsOf t) (c.rv b)
    let hits := nibs.zipIdx.filter (fun e => (c.rp p).getLsbD e.2)
    let words := wordsAt key (hits.map (·.1))
    let ls := [c.lv d, c.lv b, c.lg (lowG a), c.lp p]
    let tags ← words.mapM (fun w => formLabel (s.tags.get labelTrue w :: ls))
    let l ← formLabel (ls ++ words.map (fun w => s.tags.get labelTrue w))
    tileSound (c.rg (lowG a)) key words
    let x := (c.rv d).toNat
    let r := hits.foldl (fun (r : AMap Nat × List (Nat × Nat)) e =>
      let w := nibWord key e.1
      let old := (r.1.find? w).getD (s.read (4 * w) 4)
      (r.1.put w (vamoStep o t old (elemAt x 32 e.2)), r.2 ++ [(e.2, old)])) ([], [])
    let vals := (List.range 64).map (fun i => (r.2.find? (fun e => e.1 == i)).map (·.2))
    modS (fun s => (words.zip tags).foldl (fun s e => s.store (localLoc e.1) 4 ((r.1.find? e.1).getD 0) [(e.1, e.2)]) s)
    modMe (fun c => (c.wv d (putElems (c.rv d) 32 vals)).wvl d l)
    advance) s

/-! ### Stores (R136, R137) -/

def execVst (t : ETy) (p : PReg) (d : VReg) (a z : GLow) (s : State) : Step :=
  runI (.vst t p d a z) (do
    let c ← getMe
    let _ ← rowChecks t (c.rg (lowG a)) (z != 0) (c.rg (lowG z))
    needs (!c.mstQueued)
    enterQueue (.vst t p d a z)
      ⟨laneBeats c.count (bitsOf t), false, c.rg (lowG a), c.rg (lowG z), none,
        [c.lv d, c.lg (lowG a), c.lg (lowG z), c.lp p]⟩ (fun c _ => c)) s

def execVscatter (t : ETy) (p : PReg) (d : VReg) (a : GLow) (b : VReg) (s : State) : Step :=
  runI (.vscatter t p d a b) (do
    let c ← getMe
    let _ ← indexChecks t (c.rg (lowG a))
    needs (!c.mstQueued)
    enterQueue (.vscatter t p d a b)
      ⟨(c.count + 15) / 16, false, c.rg (lowG a), 0, none, [c.lv d, c.lg (lowG a), c.lp p, c.lv b]⟩ (fun c _ => c)) s

/-! ### Completion (R121) -/

/-- The elements that a queued store of core n writes. -/
def storeElems (n : Nat) (c : Core) (e : VEntry) : Option (ETy × PReg × VReg × Nat × List Int) :=
  let key := localKey n e.ga
  match e.op with
  | .vst t p d _ z => some (t, p, d, key, rowNibs key e.rows e.cols (nibsOf t) (z != 0) e.gb)
  | .vscatter t p d _ b => some (t, p, d, key, indexNibs key e.count (nibsOf t) (c.rv b))
  | _ => none

/-- The head of core n's vector queue executes and leaves the queue; a tile store waits for the earlier stores of the core's
buffer, as a plain store does (R126, R207); that of a core in PAUSE comes behind the other cores' folds (R262). -/
def completeTile (n : Nat) : M Unit := do
  let c := (← get).core n
  match c.vq with
  | [] => pure ()
  | e :: _ =>
    needs (e.beats == 0)
    match storeElems n c e with
    | none => modS (fun s => s.modCore n (fun c => c.tileData e))
    | some (t, p, d, key, nibs) =>
      needs (c.sb.isEmpty && !(← get).yieldsFuller n)
      let nn := nibsOf t
      let x := (c.rv d).toNat
      let puts := nibs.zipIdx.foldl (fun l (q : Int × Nat) =>
        if (c.rp p).getLsbD q.2 then putElem l (nibWord key q.1) (q.1.toNat % 8) nn (elemAt x (4 * nn) q.2) else l) []
      tileStore n puts e.label
    modS (fun s => s.modCore n (fun c => { c with vq := c.vq.drop 1 }))

/-- TILE_COMPLETE: the head of core c's queue, all its beats granted, writes its result and accrues its flags. -/
def execTileComplete (c : Nat) (s : State) : Step :=
  if c < nCores then runEngine c .tile (do
    if ((← get).core c).paused.contains .tile then stall
    completeTile c) s
  else .fault .noSuchUnit

/-! ### The lane groups and the special-function pipe (R123, R124) -/

/-- What a queued instruction occupies (R124). -/
inductive VClass where
  | lane | sfu | port
deriving DecidableEq, Repr

def Instr.vclass : Instr → VClass
  | .vexp _ _ _ _ | .vlog _ _ _ _ | .vrcp _ _ _ _ | .vrsq _ _ _ _ | .vsqrt _ _ _ _ | .vsin _ _ _ _ | .vcos _ _ _ _
  | .vtanh _ _ _ _ | .vsigm _ _ _ _ | .vgelu _ _ _ _ => .sfu
  | .vst _ _ _ _ _ | .vscatter _ _ _ _ _ => .port
  | _ => .lane

/-- A register that a queued instruction reads or writes. -/
inductive VRef where
  | v (n : VReg)
  | p (n : PReg)
deriving DecidableEq, Repr

/-- What a queued instruction reads; a merged destination is read too (R120). -/
def Instr.vreads : Instr → List VRef
  | .vaddInt _ p d a b | .vsubInt _ p d a b | .vmulInt _ p d a b | .vminInt _ p d a b | .vmaxInt _ p d a b
  | .vand _ p d a b | .vor _ p d a b | .vxor _ p d a b | .vshl _ p d a b | .vshr _ p d a b | .vsra _ p d a b
  | .vaddFloat _ p d a b | .vsubFloat _ p d a b | .vmulFloat _ p d a b | .vfma _ p d a b | .vfms _ p d a b
  | .vminFloat _ p d a b | .vmaxFloat _ p d a b => [.v a, .v b, .v d, .p p]
  | .vabsInt _ p d a | .vnegInt _ p d a | .vabsFloat _ p d a | .vnegFloat _ p d a | .vcvt _ _ p d a
  | .vexp _ p d a | .vlog _ p d a | .vrcp _ p d a | .vrsq _ p d a | .vsqrt _ p d a | .vsin _ p d a | .vcos _ p d a
  | .vtanh _ p d a | .vsigm _ p d a | .vgelu _ p d a => [.v a, .v d, .p p]
  | .vbcast _ p d _ => [.v d, .p p]
  | .vcmp _ _ p _ a b | .vsel _ p _ a b => [.v a, .v b, .p p]
  | .pand _ a b | .por _ a b | .pxor _ a b => [.p a, .p b]
  | .pnot _ a | .pcnt _ a | .pfirst _ a => [.p a]
  | .vred _ _ p _ a => [.v a, .p p]
  | .vtrans _ _ a | .vrot _ _ a _ | .vquant _ _ _ a _ | .vlset _ a _ => [.v a]
  | .vdeq _ _ _ a b => [.v a, .v b]
  | .vst _ p d _ _ => [.v d, .p p]
  | .vscatter _ p d _ b => [.v d, .v b, .p p]
  | _ => []

/-- What a queued instruction writes; p0 is never written. -/
def Instr.vwrites : Instr → List VRef
  | .vaddInt _ _ d _ _ | .vsubInt _ _ d _ _ | .vmulInt _ _ d _ _ | .vminInt _ _ d _ _ | .vmaxInt _ _ d _ _
  | .vand _ _ d _ _ | .vor _ _ d _ _ | .vxor _ _ d _ _ | .vshl _ _ d _ _ | .vshr _ _ d _ _ | .vsra _ _ d _ _
  | .vaddFloat _ _ d _ _ | .vsubFloat _ _ d _ _ | .vmulFloat _ _ d _ _ | .vfma _ _ d _ _ | .vfms _ _ d _ _
  | .vminFloat _ _ d _ _ | .vmaxFloat _ _ d _ _ | .vabsInt _ _ d _ | .vnegInt _ _ d _ | .vabsFloat _ _ d _
  | .vnegFloat _ _ d _ | .vcvt _ _ _ d _ | .vexp _ _ d _ | .vlog _ _ d _ | .vrcp _ _ d _ | .vrsq _ _ d _ | .vsqrt _ _ d _
  | .vsin _ _ d _ | .vcos _ _ d _ | .vtanh _ _ d _ | .vsigm _ _ d _ | .vgelu _ _ d _ | .vbcast _ _ d _ | .vsel _ _ d _ _
  | .vred _ _ _ d _ | .vtrans _ d _ | .vrot _ d _ _ | .vdeq _ _ d _ _ | .vlset d _ _ => [.v d]
  | .vquant _ _ d _ b => [.v d, .v b]
  | .vcmp _ _ _ d _ _ | .pand d _ _ | .por d _ _ | .pxor d _ _ | .pnot d _ | .pset d _ => if d = 0 then [] else [.p d]
  | _ => []

/-- Whether entry i reads nothing that an earlier entry of the queue still has to write (R121). -/
def Core.vfree (c : Core) (i : Nat) : Bool :=
  match c.vq[i]? with
  | none => false
  | some e => (c.vq.take i).all (fun x => (Instr.vwrites x.op).all (fun r => !(Instr.vreads e.op).contains r))

/-- The queue's first entry with beats left. -/
def Core.vhead (c : Core) : Option Nat := (List.range c.vq.length).find? (fun i => match c.vq[i]? with
  | some e => e.beats != 0
  | none => false)

def Core.vclassAt (c : Core) (i : Nat) : Option VClass := (c.vq[i]?).map (fun e => Instr.vclass e.op)

/-- The head that makes a core ready for a resource, with its operands ready. -/
def Core.vready (c : Core) (k : VClass) : Option Nat :=
  match c.vhead with
  | none => none
  | some i => if c.vclassAt i == some k && c.vfree i then some i else none

def Core.beatsAt (c : Core) (i : Nat) : Nat := match c.vq[i]? with
  | some e => e.beats
  | none => 0

/-- The entry of a core that a grant goes to: its head of this cycle, or for the lane groups one directly behind that depends on
nothing unready. -/
def Core.vtake (c : Core) (k : VClass) (i : Nat) : Option Nat :=
  if c.beatsAt i ≠ 0 then some i
  else if k = .lane && c.vclassAt (i + 1) == some .lane && c.beatsAt (i + 1) != 0 && c.vfree (i + 1) then some (i + 1)
  else none

/-- One beat of entry i granted. -/
def Core.grantBeat (c : Core) (i : Nat) : Core :=
  { c with vq := c.vq.zipIdx.map (fun e => if e.2 = i then { e.1 with beats := e.1.beats - 1 } else e.1) }

/-- A core in a cycle of a resource: its number, its state, its head at the start of the cycle, its count A, for how many
cycles it has been ready in vain, and whether it has been given a grant. -/
structure Bidder where
  n    : Nat
  core : Core
  head : Option Nat
  a    : Int
  late : Nat
  got  : Bool

def Bidder.want (k : VClass) (b : Bidder) : Option Nat := b.head.bind (b.core.vtake k)

/-- One grant to bidder n: it pays the sum of the weights. (DEDUCED, notes/assumptions/65.md.) -/
def giveBeat (k : VClass) (sum : Int) (n : Nat) (l : List Bidder) : List Bidder :=
  l.map (fun b => if b.n = n then
    (match b.want k with
    | some i => { b with core := b.core.grantBeat i, a := b.a - sum, got := true }
    | none => b)
    else b)

/-- The bidder with the largest A that can use a grant, the lowest number at a tie. -/
def bestBidder (k : VClass) (l : List Bidder) : Option Bidder :=
  (l.filter (fun b => (b.want k).isSome)).foldl (fun m b => match m with
    | none => some b
    | some x => if x.a < b.a then some b else some x) none

/-- What is left of a cycle's grants, one at a time. -/
def shareOut (k : VClass) (sum : Int) (l : List Bidder) : Nat → List Bidder
  | 0 => l
  | m + 1 => match bestBidder k l with
    | none => l
    | some b => shareOut k sum (giveBeat k sum b.n l) m

/-- A cycle of a resource of m units over four cores with their counts (R123). -/
def cycleOf (k : VClass) (m : Nat) (cores : List (Nat × Core × Int × Nat)) : List Bidder :=
  let start := cores.map (fun e => (⟨e.1, e.2.1, e.2.1.vready k, e.2.2.1, e.2.2.2, false⟩ : Bidder))
  let sum : Int := ((start.filter (fun b => b.head.isSome)).map (fun b => (b.core.vshare.toNat : Int))).foldl (· + ·) 0
  let start := start.map (fun b => { b with a := if b.head.isSome then b.a + 4 * b.core.vshare.toNat else 0 })
  -- the minimum share: seven cycles ready without a grant, lowest core first
  let late := (start.filter (fun b => b.head.isSome && 7 ≤ b.late)).map (·.n)
  let r := late.foldl (fun (x : List Bidder × Nat) n => if x.2 = 0 then x else (giveBeat k sum n x.1, x.2 - 1)) (start, m)
  shareOut k sum r.1 r.2

/-- A bidder at the end of the cycle. -/
def Bidder.starve (b : Bidder) : Nat := if b.head.isSome && !b.got then b.late + 1 else 0

/-- A cycle of the own local-store port: one beat of a store at the head with its operands ready (R124). -/
def Core.portCycle (c : Core) : Core :=
  match c.vready .port with
  | some i => c.grantBeat i
  | none => c

/-- A cycle of a vector unit: its lane groups, its special-function pipe, and the ports of its cores. -/
def State.unitCycle (s : State) (u : Nat) : State :=
  let ns := (List.range 4).map (4 * u + ·)
  let lanes := cycleOf .lane 4 (ns.map (fun n => (n, s.core n, (s.core n).va, (s.core n).vstarve)))
  let s := lanes.foldl (fun s b => s.setCore b.n { b.core with va := b.a, vstarve := b.starve }) s
  let pipe := cycleOf .sfu 1 (ns.map (fun n => (n, s.core n, (s.core n).sfua, (s.core n).sfustarve)))
  pipe.foldl (fun s b => s.setCore b.n ({ b.core with sfua := b.a, sfustarve := b.starve }.portCycle)) s

/-- LANE_GROUP_GRANT: one cycle of a vector unit; unit u serves cores 4u to 4u + 3 (R123). -/
def execLaneGroupGrant (unit : Nat) (s : State) : Step := onUnits (unit < nCores / 4) (fun s => s.unitCycle unit) s

end Sys2Proof.Machine
end

