-- ==== Sys2Proof/Machine/Dispatch.lean ====
section
/-! DEFINITION. One arm for each constructor of Instr: a direct call of its meaning. -/

namespace Sys2Proof.Machine

def exec (i : Instr) (s : State) : Host.Outcome State Fault Refusal :=
  match i with
  | .brk => Sys2Proof.Machine.execBrk s
  | .trap ix => Sys2Proof.Machine.execTrap ix s
  | .eret => Sys2Proof.Machine.execEret s
  | .guard v n => Sys2Proof.Machine.execGuard v n s
  | .yield => Sys2Proof.Machine.execYield s
  | .halt => Sys2Proof.Machine.execHalt s
  | .mfc d c => Sys2Proof.Machine.execMfc d c s
  | .mfcFflags d => Sys2Proof.Machine.execMfcFflags d s
  | .mtc c a => Sys2Proof.Machine.execMtc c a s
  | .mtcFflags a => Sys2Proof.Machine.execMtcFflags a s
  | .mtcSrseed a => Sys2Proof.Machine.execMtcSrseed a s
  | .mtcLspace a => Sys2Proof.Machine.execMtcLspace a s
  | .mtcFbstat a => Sys2Proof.Machine.execMtcFbstat a s
  | .mtcTracectl a => Sys2Proof.Machine.execMtcTracectl a s
  | .tlbinvPage a => Sys2Proof.Machine.execTlbinvPage a s
  | .tlbinvContext => Sys2Proof.Machine.execTlbinvContext s
  | .tlbinvPartition => Sys2Proof.Machine.execTlbinvPartition s
  | .freplay => Sys2Proof.Machine.execFreplay s
  | .wayset d a => Sys2Proof.Machine.execWayset d a s
  | .waysetQ d a => Sys2Proof.Machine.execWaysetQ d a s
  | .trace a ix => Sys2Proof.Machine.execTrace a ix s
  | .sample d => Sys2Proof.Machine.execSample d s
  | .add d a b => Sys2Proof.Machine.execAdd d a b s
  | .sub d a b => Sys2Proof.Machine.execSub d a b s
  | .and d a b => Sys2Proof.Machine.execAnd d a b s
  | .or d a b => Sys2Proof.Machine.execOr d a b s
  | .xor d a b => Sys2Proof.Machine.execXor d a b s
  | .andn d a b => Sys2Proof.Machine.execAndn d a b s
  | .orn d a b => Sys2Proof.Machine.execOrn d a b s
  | .sll d a b => Sys2Proof.Machine.execSll d a b s
  | .srl d a b => Sys2Proof.Machine.execSrl d a b s
  | .sra d a b => Sys2Proof.Machine.execSra d a b s
  | .rol d a b => Sys2Proof.Machine.execRol d a b s
  | .ror d a b => Sys2Proof.Machine.execRor d a b s
  | .min d a b => Sys2Proof.Machine.execMin d a b s
  | .max d a b => Sys2Proof.Machine.execMax d a b s
  | .minn d a b => Sys2Proof.Machine.execMinn d a b s
  | .maxn d a b => Sys2Proof.Machine.execMaxn d a b s
  | .seq d a b => Sys2Proof.Machine.execSeq d a b s
  | .sne d a b => Sys2Proof.Machine.execSne d a b s
  | .slt d a b => Sys2Proof.Machine.execSlt d a b s
  | .sltn d a b => Sys2Proof.Machine.execSltn d a b s
  | .sel d n a b => Sys2Proof.Machine.execSel d n a b s
  | .clz d a => Sys2Proof.Machine.execClz d a s
  | .ctz d a => Sys2Proof.Machine.execCtz d a s
  | .popc d a => Sys2Proof.Machine.execPopc d a s
  | .brev d a => Sys2Proof.Machine.execBrev d a s
  | .bswap d a => Sys2Proof.Machine.execBswap d a s
  | .addi d a ix => Sys2Proof.Machine.execAddi d a ix s
  | .andi d a ix => Sys2Proof.Machine.execAndi d a ix s
  | .ori d a ix => Sys2Proof.Machine.execOri d a ix s
  | .xori d a ix => Sys2Proof.Machine.execXori d a ix s
  | .slti d a ix => Sys2Proof.Machine.execSlti d a ix s
  | .sltni d a ix => Sys2Proof.Machine.execSltni d a ix s
  | .slli d a z => Sys2Proof.Machine.execSlli d a z s
  | .srli d a z => Sys2Proof.Machine.execSrli d a z s
  | .srai d a z => Sys2Proof.Machine.execSrai d a z s
  | .roli d a z => Sys2Proof.Machine.execRoli d a z s
  | .lui d k ix => Sys2Proof.Machine.execLui d k ix s
  | .luiK d k ix => Sys2Proof.Machine.execLuiK d k ix s
  | .adpc d o => Sys2Proof.Machine.execAdpc d o s
  | .mul d a b => Sys2Proof.Machine.execMul d a b s
  | .mulh d a b => Sys2Proof.Machine.execMulh d a b s
  | .mulhn d a b => Sys2Proof.Machine.execMulhn d a b s
  | .div d a b => Sys2Proof.Machine.execDiv d a b s
  | .divn d a b => Sys2Proof.Machine.execDivn d a b s
  | .rem d a b => Sys2Proof.Machine.execRem d a b s
  | .remn d a b => Sys2Proof.Machine.execRemn d a b s
  | .bpermi d ix => Sys2Proof.Machine.execBpermi d ix s
  | .bext d a p l => Sys2Proof.Machine.execBext d a p l s
  | .bins d a p l => Sys2Proof.Machine.execBins d a p l s
  | .bperm d a b => Sys2Proof.Machine.execBperm d a b s
  | .bsrinit a => Sys2Proof.Machine.execBsrinit a s
  | .bsget d n => Sys2Proof.Machine.execBsget d n s
  | .bspeek d n => Sys2Proof.Machine.execBspeek d n s
  | .bsskip n => Sys2Proof.Machine.execBsskip n s
  | .bsgetg d k => Sys2Proof.Machine.execBsgetg d k s
  | .bswinit a => Sys2Proof.Machine.execBswinit a s
  | .bsemit a n => Sys2Proof.Machine.execBsemit a n s
  | .bsflush => Sys2Proof.Machine.execBsflush s
  | .fadd d a b => Sys2Proof.Machine.execFadd d a b s
  | .fsub d a b => Sys2Proof.Machine.execFsub d a b s
  | .fmul d a b => Sys2Proof.Machine.execFmul d a b s
  | .ffma d a b c => Sys2Proof.Machine.execFfma d a b c s
  | .fmin d a b => Sys2Proof.Machine.execFmin d a b s
  | .fmax d a b => Sys2Proof.Machine.execFmax d a b s
  | .fcmpEq d a b => Sys2Proof.Machine.execFcmpEq d a b s
  | .fcmpLt d a b => Sys2Proof.Machine.execFcmpLt d a b s
  | .fcmpLe d a b => Sys2Proof.Machine.execFcmpLe d a b s
  | .fcmpUn d a b => Sys2Proof.Machine.execFcmpUn d a b s
  | .fcvt k d a => Sys2Proof.Machine.execFcvt k d a s
  | .bCond c a b o => Sys2Proof.Machine.execBCond c a b o s
  | .jl o => Sys2Proof.Machine.execJl o s
  | .jlr d a ix => Sys2Proof.Machine.execJlr d a ix s
  | .rpt n k sd sa sb => Sys2Proof.Machine.execRpt n k sd sa sb s
  | .ld z d a o => Sys2Proof.Machine.execLd z d a o s
  | .ldAcq z d a o => Sys2Proof.Machine.execLdAcq z d a o s
  | .ldnt z d a o => Sys2Proof.Machine.execLdnt z d a o s
  | .st z d a o => Sys2Proof.Machine.execSt z d a o s
  | .stRel z d a o => Sys2Proof.Machine.execStRel z d a o s
  | .stnt z d a o => Sys2Proof.Machine.execStnt z d a o s
  | .amoAdd o z d a b => Sys2Proof.Machine.execAmoAdd o z d a b s
  | .amoAnd o z d a b => Sys2Proof.Machine.execAmoAnd o z d a b s
  | .amoOr o z d a b => Sys2Proof.Machine.execAmoOr o z d a b s
  | .amoXor o z d a b => Sys2Proof.Machine.execAmoXor o z d a b s
  | .amoMin o z d a b => Sys2Proof.Machine.execAmoMin o z d a b s
  | .amoMax o z d a b => Sys2Proof.Machine.execAmoMax o z d a b s
  | .amoMinn o z d a b => Sys2Proof.Machine.execAmoMinn o z d a b s
  | .amoMaxn o z d a b => Sys2Proof.Machine.execAmoMaxn o z d a b s
  | .amoSwap o z d a b => Sys2Proof.Machine.execAmoSwap o z d a b s
  | .amoCas o z d a b => Sys2Proof.Machine.execAmoCas o z d a b s
  | .amoFadd o d a b => Sys2Proof.Machine.execAmoFadd o d a b s
  | .redAdd z a b => Sys2Proof.Machine.execRedAdd z a b s
  | .redAnd z a b => Sys2Proof.Machine.execRedAnd z a b s
  | .redOr z a b => Sys2Proof.Machine.execRedOr z a b s
  | .redXor z a b => Sys2Proof.Machine.execRedXor z a b s
  | .redMin z a b => Sys2Proof.Machine.execRedMin z a b s
  | .redMax z a b => Sys2Proof.Machine.execRedMax z a b s
  | .redFadd a b => Sys2Proof.Machine.execRedFadd a b s
  | .memred o a b => Sys2Proof.Machine.execMemred o a b s
  | .memcas d a b => Sys2Proof.Machine.execMemcas d a b s
  | .memsax a b c => Sys2Proof.Machine.execMemsax a b c s
  | .cinit a b c => Sys2Proof.Machine.execCinit a b c s
  | .cdec d a b => Sys2Proof.Machine.execCdec d a b s
  | .cinc a b => Sys2Proof.Machine.execCinc a b s
  | .cread d a => Sys2Proof.Machine.execCread d a s
  | .clocal d a => Sys2Proof.Machine.execClocal d a s
  | .fence z => Sys2Proof.Machine.execFence z s
  | .fenceLx => Sys2Proof.Machine.execFenceLx s
  | .drain => Sys2Proof.Machine.execDrain s
  | .l1inv a b => Sys2Proof.Machine.execL1inv a b s
  | .l1wb a b => Sys2Proof.Machine.execL1wb a b s
  | .icinv a b => Sys2Proof.Machine.execIcinv a b s
  | .isync => Sys2Proof.Machine.execIsync s
  | .pause n => Sys2Proof.Machine.execPause n s
  | .waita a b => Sys2Proof.Machine.execWaita a b s
  | .evsig a => Sys2Proof.Machine.execEvsig a s
  | .evarm a b => Sys2Proof.Machine.execEvarm a b s
  | .bar a => Sys2Proof.Machine.execBar a s
  | .sync l => Sys2Proof.Machine.execSync l s
  | .eventWindowLoad d off => Sys2Proof.Machine.execEventWindowLoad d off s
  | .eventWindowStore off b => Sys2Proof.Machine.execEventWindowStore off b s
  | .send a b ix => Sys2Proof.Machine.execSend a b ix s
  | .take d ix => Sys2Proof.Machine.execTake d ix s
  | .peeki d ix => Sys2Proof.Machine.execPeeki d ix s
  | .inboxDelivery target ix => Sys2Proof.Machine.execInboxDelivery target ix s
  | .assume d a n => Sys2Proof.Machine.execAssume d a n s
  | .lget d a => Sys2Proof.Machine.execLget d a s
  | .lset d a b => Sys2Proof.Machine.execLset d a b s
  | .lprod d a b => Sys2Proof.Machine.execLprod d a b s
  | .lunion d a b => Sys2Proof.Machine.execLunion d a b s
  | .leq d a b => Sys2Proof.Machine.execLeq d a b s
  | .nogood a => Sys2Proof.Machine.execNogood a s
  | .nogoode a b => Sys2Proof.Machine.execNogoode a b s
  | .lvis n a => Sys2Proof.Machine.execLvis n a s
  | .lsel d a b => Sys2Proof.Machine.execLsel d a b s
  | .lcount d a => Sys2Proof.Machine.execLcount d a s
  | .lenv d a e h => Sys2Proof.Machine.execLenv d a e h s
  | .lfocus a b => Sys2Proof.Machine.execLfocus a b s
  | .xcopy o d a b c => Sys2Proof.Machine.execXcopy o d a b c s
  | .xpub a => Sys2Proof.Machine.execXpub a s
  | .xstat d => Sys2Proof.Machine.execXstat d s
  | .mma m a b => Sys2Proof.Machine.execMma m a b s
  | .mzero m => Sys2Proof.Machine.execMzero m s
  | .mld m a => Sys2Proof.Machine.execMld m a s
  | .mst a m => Sys2Proof.Machine.execMst a m s
  | .mwait m => Sys2Proof.Machine.execMwait m s
  | .mtest d => Sys2Proof.Machine.execMtest d s
  | .launch a b => Sys2Proof.Machine.execLaunch a b s
  | .exit a => Sys2Proof.Machine.execExit a s
  | .gform d a => Sys2Proof.Machine.execGform d a s
  | .grejoin ix => Sys2Proof.Machine.execGrejoin ix s
  | .gleave => Sys2Proof.Machine.execGleave s
  | .gstat d => Sys2Proof.Machine.execGstat d s
  | .followerBufferTimeout c => Sys2Proof.Machine.execFollowerBufferTimeout c s
  | .leaderRejoinTimeout c => Sys2Proof.Machine.execLeaderRejoinTimeout c s
  | .vaddInt t p d a b => Sys2Proof.Machine.execVaddInt t p d a b s
  | .vsubInt t p d a b => Sys2Proof.Machine.execVsubInt t p d a b s
  | .vmulInt t p d a b => Sys2Proof.Machine.execVmulInt t p d a b s
  | .vminInt t p d a b => Sys2Proof.Machine.execVminInt t p d a b s
  | .vmaxInt t p d a b => Sys2Proof.Machine.execVmaxInt t p d a b s
  | .vabsInt t p d a => Sys2Proof.Machine.execVabsInt t p d a s
  | .vnegInt t p d a => Sys2Proof.Machine.execVnegInt t p d a s
  | .vand t p d a b => Sys2Proof.Machine.execVand t p d a b s
  | .vor t p d a b => Sys2Proof.Machine.execVor t p d a b s
  | .vxor t p d a b => Sys2Proof.Machine.execVxor t p d a b s
  | .vshl t p d a b => Sys2Proof.Machine.execVshl t p d a b s
  | .vshr t p d a b => Sys2Proof.Machine.execVshr t p d a b s
  | .vsra t p d a b => Sys2Proof.Machine.execVsra t p d a b s
  | .vbcast t p d g => Sys2Proof.Machine.execVbcast t p d g s
  | .vaddFloat t p d a b => Sys2Proof.Machine.execVaddFloat t p d a b s
  | .vsubFloat t p d a b => Sys2Proof.Machine.execVsubFloat t p d a b s
  | .vmulFloat t p d a b => Sys2Proof.Machine.execVmulFloat t p d a b s
  | .vfma t p d a b => Sys2Proof.Machine.execVfma t p d a b s
  | .vfms t p d a b => Sys2Proof.Machine.execVfms t p d a b s
  | .vminFloat t p d a b => Sys2Proof.Machine.execVminFloat t p d a b s
  | .vmaxFloat t p d a b => Sys2Proof.Machine.execVmaxFloat t p d a b s
  | .vabsFloat t p d a => Sys2Proof.Machine.execVabsFloat t p d a s
  | .vnegFloat t p d a => Sys2Proof.Machine.execVnegFloat t p d a s
  | .vcmp c t p d a b => Sys2Proof.Machine.execVcmp c t p d a b s
  | .vsel t p d a b => Sys2Proof.Machine.execVsel t p d a b s
  | .pand d a b => Sys2Proof.Machine.execPand d a b s
  | .por d a b => Sys2Proof.Machine.execPor d a b s
  | .pxor d a b => Sys2Proof.Machine.execPxor d a b s
  | .pnot d a => Sys2Proof.Machine.execPnot d a s
  | .pset d v => Sys2Proof.Machine.execPset d v s
  | .pcnt g a => Sys2Proof.Machine.execPcnt g a s
  | .pfirst g a => Sys2Proof.Machine.execPfirst g a s
  | .vred o t p d a => Sys2Proof.Machine.execVred o t p d a s
  | .vtrans t d a => Sys2Proof.Machine.execVtrans t d a s
  | .vrot t d a n => Sys2Proof.Machine.execVrot t d a n s
  | .vshape a => Sys2Proof.Machine.execVshape a s
  | .vld t p d a z => Sys2Proof.Machine.execVld t p d a z s
  | .vst t p d a z => Sys2Proof.Machine.execVst t p d a z s
  | .vgather t p d a b => Sys2Proof.Machine.execVgather t p d a b s
  | .vscatter t p d a b => Sys2Proof.Machine.execVscatter t p d a b s
  | .vamo o t p d a b => Sys2Proof.Machine.execVamo o t p d a b s
  | .vcvt t z p d a => Sys2Proof.Machine.execVcvt t z p d a s
  | .vquant t z d a b => Sys2Proof.Machine.execVquant t z d a b s
  | .vdeq t z d a b => Sys2Proof.Machine.execVdeq t z d a b s
  | .vexp t p d a => Sys2Proof.Machine.execVexp t p d a s
  | .vlog t p d a => Sys2Proof.Machine.execVlog t p d a s
  | .vrcp t p d a => Sys2Proof.Machine.execVrcp t p d a s
  | .vrsq t p d a => Sys2Proof.Machine.execVrsq t p d a s
  | .vsqrt t p d a => Sys2Proof.Machine.execVsqrt t p d a s
  | .vsin t p d a => Sys2Proof.Machine.execVsin t p d a s
  | .vcos t p d a => Sys2Proof.Machine.execVcos t p d a s
  | .vtanh t p d a => Sys2Proof.Machine.execVtanh t p d a s
  | .vsigm t p d a => Sys2Proof.Machine.execVsigm t p d a s
  | .vgelu t p d a => Sys2Proof.Machine.execVgelu t p d a s
  | .vlget g a => Sys2Proof.Machine.execVlget g a s
  | .vlset d a b => Sys2Proof.Machine.execVlset d a b s
  | .vlvis d a => Sys2Proof.Machine.execVlvis d a s
  | .tileComplete c => Sys2Proof.Machine.execTileComplete c s
  | .storePerform c => Sys2Proof.Machine.execStorePerform c s
  | .stntBufferPerform c line => Sys2Proof.Machine.execStntBufferPerform c line s
  | .l1FillReply k line wts rts => Sys2Proof.Machine.execL1FillReply k line wts rts s
  | .sliceFillRequest k line pts => Sys2Proof.Machine.execSliceFillRequest k line pts s
  | .sliceStore c => Sys2Proof.Machine.execSliceStore c s
  | .dirGets line t => Sys2Proof.Machine.execDirGets line t s
  | .dirGetx line t => Sys2Proof.Machine.execDirGetx line t s
  | .dirUpg line t => Sys2Proof.Machine.execDirUpg line t s
  | .dirPut line t dirty head => Sys2Proof.Machine.execDirPut line t dirty head s
  | .dirRedJoin line t => Sys2Proof.Machine.execDirRedJoin line t s
  | .invalidationAck line t maxrts inc => Sys2Proof.Machine.execInvalidationAck line t maxrts inc s
  | .agentInvalidation line t => Sys2Proof.Machine.execAgentInvalidation line t s
  | .agentForwardedGets line o t => Sys2Proof.Machine.execAgentForwardedGets line o t s
  | .agentForwardedGetx line o t => Sys2Proof.Machine.execAgentForwardedGetx line o t s
  | .agentDataGrant line t excl wts rts => Sys2Proof.Machine.execAgentDataGrant line t excl wts rts s
  | .agentEviction line t => Sys2Proof.Machine.execAgentEviction line t s
  | .writebackAck line t => Sys2Proof.Machine.execWritebackAck line t s
  | .uPartialEvict k line => Sys2Proof.Machine.execUPartialEvict k line s
  | .uRecallComplete line => Sys2Proof.Machine.execURecallComplete line s
  | .deadAgentTimeout home t => Sys2Proof.Machine.execDeadAgentTimeout home t s
  | .newerIncarnation home t => Sys2Proof.Machine.execNewerIncarnation home t s
  | .memBankExecute c => Sys2Proof.Machine.execMemBankExecute c s
  | .counterRequest line c op => Sys2Proof.Machine.execCounterRequest line c op s
  | .counterRecall line k => Sys2Proof.Machine.execCounterRecall line k s
  | .allowanceReturn line k n => Sys2Proof.Machine.execAllowanceReturn line k n s
  | .recallRoundComplete line => Sys2Proof.Machine.execRecallRoundComplete line s
  | .counterReply line c value => Sys2Proof.Machine.execCounterReply line c value s
  | .internRequest ctx envs => Sys2Proof.Machine.execInternRequest ctx envs s
  | .fullerMissComplete k ctx op x y => Sys2Proof.Machine.execFullerMissComplete k ctx op x y s
  | .nogoodRequest ctx envs => Sys2Proof.Machine.execNogoodRequest ctx envs s
  | .nogoodInstall k => Sys2Proof.Machine.execNogoodInstall k s
  | .deferredLabelFold ctx loc l => Sys2Proof.Machine.execDeferredLabelFold ctx loc l s
  | .matrixOpStart k => Sys2Proof.Machine.execMatrixOpStart k s
  | .matrixOpComplete k => Sys2Proof.Machine.execMatrixOpComplete k s
  | .matrixTransferComplete c => Sys2Proof.Machine.execMatrixTransferComplete c s
  | .matrixSelfTest k failed => Sys2Proof.Machine.execMatrixSelfTest k failed s
  | .throttleChange k on => Sys2Proof.Machine.execThrottleChange k on s
  | .copyCommandStart c => Sys2Proof.Machine.execCopyCommandStart c s
  | .copyBeat c => Sys2Proof.Machine.execCopyBeat c s
  | .copyCommandComplete c => Sys2Proof.Machine.execCopyCommandComplete c s
  | .waitaWake c => Sys2Proof.Machine.execWaitaWake c s
  | .syncRelease c level => Sys2Proof.Machine.execSyncRelease c level s
  | .pauseEnd c => Sys2Proof.Machine.execPauseEnd c s
  | .watchdog c => Sys2Proof.Machine.execWatchdog c s
  | .deadlockProbe c => Sys2Proof.Machine.execDeadlockProbe c s
  | .pageWalkComplete c va acc => Sys2Proof.Machine.execPageWalkComplete c va acc s
  | .dispatchDecision => Sys2Proof.Machine.execDispatchDecision s
  | .clusterStart kernel kclus => Sys2Proof.Machine.execClusterStart kernel kclus s
  | .kernelDone kernel => Sys2Proof.Machine.execKernelDone kernel s
  | .energyWindow tower watts celsius => Sys2Proof.Machine.execEnergyWindow tower watts celsius s
  | .forcedSaveTimeout c => Sys2Proof.Machine.execForcedSaveTimeout c s
  | .contextRestoreComplete ctx => Sys2Proof.Machine.execContextRestoreComplete ctx s
  | .asyncMachineCheck c => Sys2Proof.Machine.execAsyncMachineCheck c s
  | .samplingPulse => Sys2Proof.Machine.execSamplingPulse s
  | .traceRequest c payload typ => Sys2Proof.Machine.execTraceRequest c payload typ s
  | .hostAccess target size write => Sys2Proof.Machine.execHostAccess target size write s
  | .fabricLaunch origin ctx queue va => Sys2Proof.Machine.execFabricLaunch origin ctx queue va s
  | .fabricTlbinv origin ctx extent va => Sys2Proof.Machine.execFabricTlbinv origin ctx extent va s
  | .fabricReplay origin ctx => Sys2Proof.Machine.execFabricReplay origin ctx s
  | .queueConfigure origin ctx queue prio => Sys2Proof.Machine.execQueueConfigure origin ctx queue prio s
  | .queueStop origin ctx queue => Sys2Proof.Machine.execQueueStop origin ctx queue s
  | .queueRestart origin ctx queue => Sys2Proof.Machine.execQueueRestart origin ctx queue s
  | .contextRecordWrite origin ctx field value => Sys2Proof.Machine.execContextRecordWrite origin ctx field value s
  | .contextCreate origin ctx part init => Sys2Proof.Machine.execContextCreate origin ctx part init s
  | .contextSchedule origin ctx => Sys2Proof.Machine.execContextSchedule origin ctx s
  | .contextTerminate origin ctx => Sys2Proof.Machine.execContextTerminate origin ctx s
  | .preemptRequest origin ctx => Sys2Proof.Machine.execPreemptRequest origin ctx s
  | .partitionDescriptor origin desc => Sys2Proof.Machine.execPartitionDescriptor origin desc s
  | .wayMaskWrite origin part slot mask => Sys2Proof.Machine.execWayMaskWrite origin part slot mask s
  | .blockingRequest origin tower roles => Sys2Proof.Machine.execBlockingRequest origin tower roles s
  | .blockingDrainComplete tower => Sys2Proof.Machine.execBlockingDrainComplete tower s
  | .blockingFlushComplete tower => Sys2Proof.Machine.execBlockingFlushComplete tower s
  | .blockingResume tower => Sys2Proof.Machine.execBlockingResume tower s
  | .coreRestart origin c => Sys2Proof.Machine.execCoreRestart origin c s
  | .freeze origin => Sys2Proof.Machine.execFreeze origin s
  | .readOut origin chain => Sys2Proof.Machine.execReadOut origin chain s
  | .thaw origin => Sys2Proof.Machine.execThaw origin s
  | .firmwareLoad origin tower img => Sys2Proof.Machine.execFirmwareLoad origin tower img s
  | .attestationRequest origin port nonce => Sys2Proof.Machine.execAttestationRequest origin port nonce s
  | .reset => Sys2Proof.Machine.execReset s
  | .linkTrainingStart port => Sys2Proof.Machine.execLinkTrainingStart port s
  | .lanesLocked port => Sys2Proof.Machine.execLanesLocked port s
  | .trainingTimeout port half => Sys2Proof.Machine.execTrainingTimeout port half s
  | .acceptedSetWritten port endpoint mask => Sys2Proof.Machine.execAcceptedSetWritten port endpoint mask s
  | .laneFailure port => Sys2Proof.Machine.execLaneFailure port s
  | .flitReceive port seq crcOk => Sys2Proof.Machine.execFlitReceive port seq crcOk s
  | .flitReplayLimit port => Sys2Proof.Machine.execFlitReplayLimit port s
  | .linkFence port => Sys2Proof.Machine.execLinkFence port s
  | .laneRepairTrigger group => Sys2Proof.Machine.execLaneRepairTrigger group s
  | .laneQuiesced group => Sys2Proof.Machine.execLaneQuiesced group s
  | .laneSwitched group => Sys2Proof.Machine.execLaneSwitched group s
  | .laneFailNoSpare group => Sys2Proof.Machine.execLaneFailNoSpare group s
  | .laneGroupGrant unit => Sys2Proof.Machine.execLaneGroupGrant unit s
  | .wordNotAnInstruction w => Sys2Proof.Machine.execWordNotAnInstruction w s
  | .fetchFault va => Sys2Proof.Machine.execFetchFault va s

end Sys2Proof.Machine
end

