-- ==== Sys2Proof/Machine/Issue.lean ====
section
/-! DEFINITION. How the machine goes on: a core issues its next word (R61, R83, R88, R108, R310, R311), an engine works, a message
arrives, a move that the surroundings order is made, cycles pass. -/

namespace Sys2Proof.Machine

/-! ### Groups: forwarding (R310, R311) -/

/-- The words that core n completes between two states, with the address that followers know them by: a guarded pair and a repeat
frame whole, else the word that it issued. -/
def issuedWords (before : Core) (w : HWord) : List HWord :=
  match before.pair, before.frame with
  | some p, _ => [p.guard, p.word]
  | none, some f => f.rptWord :: f.words
  | none, none => [w]

/-- Whether the core has left its instruction, and its pair or frame, behind. (DEDUCED, notes/assumptions/96.md.) -/
def Core.moved (c : Core) : Bool :=
  c.pair.isNone && c.frame.isNone && ((c.run == .running && c.wait == .none) || c.wait == .halting
    || c.run == .halted || c.run == .retired || c.run == .saved)

/-- Whether the core entered a trap by instruction i. -/
def trapped (before after : Core) (i : Instr) : Bool := !before.inTrap && after.inTrap && (match i with
  | .mtc _ _ => false
  | _ => true)

/-- Whether instruction i branches on the registers of the core before it (R311). -/
def Core.branches (b : Core) (i : Instr) : Bool := match i with
  | .bCond k x y _ => BCond.holds k (b.rg x) (b.rg y)
  | _ => false

/-- Whether a word that the leader waits in can be forwarded before it is done: what it forwards whole has begun, and its outcome is no
branch (R310, R311). (DEDUCED, notes/assumptions/95.md.) -/
def Core.forwards (b : Core) (i : Instr) : Bool := match i with
  | .guard _ _ => false
  | .rpt _ _ _ _ _ => b.frame.isSome
  | .bCond _ _ _ _ | .jl _ | .jlr _ _ _ => false
  | _ => true

/-- A word that the leader has issued goes into the buffers of its attached followers, which hold 32 words (R310).
(DEDUCED, notes/assumptions/95.md.) -/
def State.forward (s : State) (ms : List Nat) (e : FwdEntry) : State :=
  ms.foldl (fun s m => s.modCore m (fun c =>
    if c.group.st == .attached then
      let g := { c.group with buf := c.group.buf ++ [e] }
      { c with group := if 32 ≤ g.words then g.fillUp s.time else g }
    else c)) s

/-- What instruction i of word w, issued by core n, means for its group; s is the state before it and t the state after. A leader's word
is forwarded once it is past it, or waits in it; one that it is STALLED at it has not issued (R90); a follower compares its outcome with its
leader's (R310, R311, R316). -/
def groupAfter (s t : State) (n : Nat) (i : Instr) (w : HWord) : State :=
  let b := s.core n
  let c := t.core n
  if b.group.st != .attached then t
  else if b.group.leads n then
    let ms := s.attachedTo n
    let sent (v : Bool) (t : State) : State := t.modCore n (fun c => { c with group := { c.group with sent := v } })
    if trapped b c i then t
    else if c.moved then
      sent false (if b.group.sent then t.tellFollowers ms c.pc (b.branches i)
        else t.forward ms ⟨b.pc, issuedWords b w, .went c.pc (b.branches i)⟩)
    else if !b.group.sent && c.wait != .none && c.run != .stalled && b.forwards i then sent true (t.forward ms ⟨b.pc, issuedWords b w, .waits⟩)
    else t
  else if c.moved && c.group.st == .attached then t.modCore n (Core.follow (b.branches i))
  else t

/-- The words that a leader forwards with word w (R310). -/
def unitWords (w : HWord) : Nat := match decode w with
  | .ok (.guard _ _) => 2
  | .ok (.rpt n _ _ _ _) => n.toNat + 2
  | _ => 1

/-- The attached followers of core n that have no room for word w, where core n leads them (R310). -/
def State.noRoom (s : State) (n : Nat) (w : HWord) : List Nat :=
  let g := (s.core n).group
  if g.st == .attached && g.leads n then s.crowded n (unitWords w) else []

/-- The leader does not issue while followers ms have no room (R310). -/
def State.holdLeader (s : State) (ms : List Nat) : State :=
  (ms.foldl (fun s m => s.modCore m (fun c => { c with group := c.group.fillUp s.time })) s).modCore s.cur
    (fun c => { c with run := .stalled })

/-! ### Issue (R88) -/

/-- An instruction of the current core executed, with what follows for its group, and the save of a core that now waits while PEND is
set (R346). -/
def State.run (s t : State) (i : Instr) (w : HWord) : Step :=
  match exec i t with
  | .next u =>
    let u := groupAfter s u s.cur i w
    match saveWaiting s.cur u with
    | .ok _ v => .next v
    | .error stop _ => .next (u.unless stop)
  | r => r

/-- The word of a fetch: an instruction, or the trap of a word that is none. -/
def State.runWord (s t : State) (w : HWord) : Step :=
  match decode w with
  | .ok i => s.run t i w
  | .error _ => execWordNotAnInstruction w t

/-- A fetch that gave no word: it traps, waits for a page, which it will fetch from anew, or waits for a forwarded word, or for a line
(R90, R326). -/
def State.noWord (s t : State) (stop : Stop) : Step :=
  let stalled (s : State) : State := s.modCore s.cur (fun c => { c with run := .stalled, wait := .none })
  match stop with
  | .hold _ _ => .next (stalled t)
  | .recalls L => .next (stalled (s.askRecall L))
  | .absent x l va acc level fuller =>
    .next ((s.postFault x l va (s.lcore s.cur) (faultKind acc false fuller) level).modCore s.cur
      (fun c => { c with run := .faultwait, wait := .fetch l, since := s.time }))
  | .trap _ _ => endStep .brk stop s t

/-- Whether the current core waits at an instruction that it holds. -/
def Core.holds (c : Core) : Bool := c.wait != .none

/-- The current core issues: the next word of its frame, the second word of its pair, the instruction it waits at, or the word at its
program counter. (DESIGN CHOICE, notes/assumptions/11.md.) -/
def State.issue (s : State) : Step :=
  let c := s.me
  if c.wait == .halting then s.haltStep
  else match c.frame with
  | some f => match f.now with
    | some i => s.run s i f.rptWord
    | none => .next (s.modCore s.cur Core.past)
  | none =>
    match c.pair with
    | some p =>
      if p.runs then s.runWord s p.word
      else .next (groupAfter s (s.modCore s.cur Core.past) s.cur .brk p.word)
    | none =>
      if c.holds then s.runWord s c.held
      else match fetchNth 0 s with
        | .ok w t => match s.noRoom s.cur w with
          | [] => s.runWord t w
          | ms => .next (s.holdLeader ms)
        | .error stop t => s.noWord t stop

/-! ### The engines of the current core -/

/-- A cycle in which nothing else happens. (DESIGN CHOICE, notes/assumptions/11.md.) -/
def State.idle (s : State) : State := { s with time := s.time + 1 }

/-- Whether the head of the core's matrix queue is an MLD or MST. -/
def Core.headTransfers (c : Core) : Bool := match c.mq with
  | [] => false
  | e :: _ => match e.op with
    | .mld _ _ | .mst _ _ => true
    | _ => false

/-- The engine work of core n that may go on: for each engine that has work and is not paused, its next step
(DEDUCED, notes/assumptions/97.md). -/
def State.engines (s : State) (n : Nat) : List (Unit → Step) :=
  let c := s.core n
  let k := clusterOf n
  let u := s.cluster k
  let go (e : Engine) : Bool := !c.paused.contains e
  let on (b : Bool) (f : Unit → Step) : List (Unit → Step) := if b then [f] else []
  on (!c.sb.isEmpty && go .store) (fun _ => execStorePerform n s) ++
  on (!c.vq.isEmpty && go .tile) (fun _ =>
    if (c.vq.head?.map (·.beats)) = some 0 then execTileComplete n s else execLaneGroupGrant (n / 4) s) ++
  on (u.mdue && u.mrun.isNone) (fun _ => execMatrixSelfTest k (Config.selfTest s.free) { s with free := s.free + 1 }) ++
  on u.mrun.isSome (fun _ => execMatrixOpComplete k s) ++
  on (!c.mq.isEmpty && go .matrix) (fun _ => if c.headTransfers then execMatrixTransferComplete n s else execMatrixOpStart k s) ++
  (match c.cq with
    | [] => []
    | e :: _ => on (go .copy) (fun _ =>
      if !e.started then execCopyCommandStart n s else if e.done then execCopyCommandComplete n s
      else execCopyBeat ((s.nextBeat k).getD n) s)) ++
  (match c.nt with
    | [] => []
    | b :: _ => on (go .store) (fun _ => execStntBufferPerform n b.line s))

/-! ### Steps that wait (R303, R370, R408) -/

/-- A message arrives. -/
def State.receive (s : State) (m : Msg) : Step :=
  match m with
  | .dirGets line t => execDirGets line t s
  | .dirGetx line t => execDirGetx line t s
  | .dirUpg line t => execDirUpg line t s
  | .dirPut line t dirty rts inc => execDirPut line t dirty ⟨rts, inc⟩ s
  | .dirRedJoin line t => execDirRedJoin line t s
  | .invalidationAck line t maxrts inc => execInvalidationAck line t maxrts inc s
  | .agentInvalidation line t => execAgentInvalidation line t s
  | .forwardedGets line o t => execAgentForwardedGets line o t s
  | .forwardedGetx line o t => execAgentForwardedGetx line o t s
  | .dataGrant line t excl wts rts => execAgentDataGrant line t excl wts rts s
  | .writebackAck line t => execWritebackAck line t s
  | .recallComplete line => execURecallComplete line s
  | .counterRecall line k => execCounterRecall line k s
  | .allowanceReturn line k n => execAllowanceReturn line k n s
  | .roundComplete line => execRecallRoundComplete line s
  | .counterReply line c value => execCounterReply line c value s
  | .nogoodInstall k => execNogoodInstall k s
  | .fillReply k line wts rts => execL1FillReply k line wts rts s

def Instr.isLaunch (i : Instr) : Bool := match i with
  | .fabricLaunch _ _ _ _ => true
  | _ => false
def Task.isLaunch (w : Task) : Bool := match w with
  | .step i => Instr.isLaunch i
  | .message _ => false
/-- Whether a step waits for a page that a FREPLAY announces. -/
def Waits.atPage (w : Waits) : Bool := match w with
  | .page _ | .launchPage _ _ _ => true
  | _ => false

/-- Whether a fabric LAUNCH that waits since a time, and not at a page, has waited 2^20 cycles: that is the LAUNCH's WATCHDOG (R303, R371). -/
def State.launchOver (s : State) (on : Waits) (w : Task) (since : Nat) : Bool :=
  w.isLaunch && !on.atPage && Nat.ble (since + 2 ^ 20) s.time

/-- A step that could not be made waits, by number k among those that do, since a time; of a fabric LAUNCH, no longer than it may. -/
def keepUndone (k : Nat) (w : Task) (since : Nat) (r : Step) : Step :=
  match r with
  | .next t => match t.undone with
    | none => .next t
    | some on =>
      let t := { t with undone := none }
      .next (if t.launchOver on w since then t.note (.refused (256 + Cause.code .watchdog))
        else { t with waiting := t.waiting.insertIdx (min k t.waiting.length) ⟨on, w, since⟩ })
  | r => r

/-- A message in flight arrives. -/
def State.arrive (s : State) (k : Nat) : Step :=
  match s.flight[k]? with
  | none => .next s
  | some m => keepUndone s.waiting.length (.message m) s.time ({ s with flight := s.flight.eraseIdx k }.receive m)

/-- The endpoint that a step of the surroundings comes from (R370, R371). -/
def Instr.origin (i : Instr) : Option Nat := match i with
  | .hostAccess a _ _ => some a.endpoint
  | .fabricLaunch o _ _ _ | .fabricTlbinv o _ _ _ | .fabricReplay o _ | .queueConfigure o _ _ _ | .queueStop o _ _
  | .queueRestart o _ _ | .contextRecordWrite o _ _ _ | .contextCreate o _ _ _ | .contextSchedule o _ | .contextTerminate o _
  | .preemptRequest o _ | .partitionDescriptor o _ | .wayMaskWrite o _ _ _ | .blockingRequest o _ _ | .coreRestart o _ | .freeze o
  | .readOut o _ | .thaw o | .firmwareLoad o _ _ | .attestationRequest o _ _ => some o.endpoint
  | _ => none

def Instr.isHostAccess (i : Instr) : Bool := match i with
  | .hostAccess _ _ _ => true
  | _ => false
def Instr.isHostWrite (i : Instr) : Bool := match i with
  | .hostAccess _ _ (some _) => true
  | _ => false
/-- Whether step i of an endpoint comes behind its step j: a command behind a write, accesses and LAUNCHes among themselves (R303,
R370). -/
def Instr.behind (i j : Instr) : Bool :=
  (Instr.origin i).isSome && Instr.origin i == Instr.origin j &&
    (Instr.isHostWrite j || (Instr.isHostAccess i && Instr.isHostAccess j) || (Instr.isLaunch i && Instr.isLaunch j))

/-- Whether step i comes behind one of the first n steps that wait. -/
def State.comesBehind (s : State) (n : Nat) (i : Instr) : Bool := (s.waiting.take n).any (fun w => match w.what with
  | .step j => Instr.behind i j
  | .message _ => false)

/-- A step of the surroundings is made, or waits for its turn. -/
def State.event (s : State) (i : Instr) : Step :=
  if s.comesBehind s.waiting.length i then .next { s with waiting := s.waiting ++ [⟨.endpoint ((Instr.origin i).getD 0), .step i, s.time⟩] }
  else keepUndone s.waiting.length (.step i) s.time (exec i s)

/-- A step that waits is made, where it can be; t is the state without it among those that wait. -/
def State.retryStep (t : State) (on : Waits) (w : Task) : Step :=
  match on, w with
  | .launch e x c, .step _ => fabricGo e x c t
  | _, .step i => exec i t
  | _, .message m => t.receive m

/-- A step that waits is tried again, by its number among them: not before a FREPLAY that it waits for, nor before what it comes
behind. -/
def State.retry (s : State) (k : Nat) : Step :=
  match s.waiting[k]? with
  | none => .next s
  | some w =>
    let t := { s with waiting := s.waiting.eraseIdx k }
    let behind : Bool := match w.what with
      | .step i => s.comesBehind k i
      | .message _ => false
    if w.on.atPage then .next s
    else if behind then .next (if s.launchOver w.on w.what w.since then t.note (.refused (256 + Cause.code .watchdog)) else s)
    else keepUndone k w.what w.since (t.retryStep w.on w.what)

/-! ### One core's turn -/

/-- Whether the current core can issue: it runs, or what it waits for has come or must be looked at again. -/
def State.runnable (s : State) : Bool :=
  let c := s.me
  match c.run, c.wait with
  | .halted, _ | .retired, _ | .saved, _ => false
  | _, .granted _ | _, .again => true
  | .faultwait, _ => false
  | .running, .none | .stalled, .none => true
  | .stalled, .busy | .stalled, .launching | .stalled, .launch _ | .stalled, .leaderRejoin _ | .stalled, .send _ | .stalled, .noCounter
  | .stalled, .halting => true
  | .stalled, .pause u => u ≤ s.time
  | _, _ => false

/-- The first of some steps that changes the machine; where none does, a cycle passes. -/
def State.firstOf (s : State) : List (Unit → Step) → Step
  | [] => .next s.idle
  | f :: fs => match f () with
    | .next t => if t = s then s.firstOf fs else .next t
    | r => r

/-- Whether an asynchronous machine check can be delivered to core n now. -/
def State.checkDue (s : State) (n : Nat) : Bool :=
  let x := s.ctxOf n
  (s.cluster (clusterOf n)).ctx.isSome && (s.ctx x).async.any (fun a => match a.core with
    | some m => m == n
    | none => s.lowest x == some n) && s.atBoundary n && !s.fatal n

/-- The turn of the current core: a machine check that is due; a save that is due; the next instruction; while it waits, what is in
flight, the steps that wait, its engines, or a cycle that passes. -/
def State.turn (s : State) : Step :=
  let n := s.cur
  if s.checkDue n then execAsyncMachineCheck n s
  else if s.overdue n && (s.core n).drained then execForcedSaveTimeout n s
  else if s.runnable && s.me.run != .stalled && !s.overdue n then s.issue
  else
    let save (_ : Unit) : Step := match saveWaiting n s with
      | .ok _ t => .next t
      | .error _ _ => .next s
    let issue (_ : Unit) : Step := if s.runnable && !s.overdue n then s.issue else .next s
    s.firstOf ([fun _ => s.arrive 0] ++ (List.range s.waiting.length).map (fun k _ => s.retry k) ++ s.engines n ++ [save, issue])

/-! ### Moves -/

/-- What a cache drops (R217, R223, R321, R178). -/
def State.evict (s : State) (e : Evict) : State :=
  match e with
  | .l1 k line => s.evictL1 k (lineOf line)
  | .tlb1 k va => s.modCluster k (fun c => { c with tlb := c.tlb.filter (fun t => va / t.size != t.va / t.size) })
  | .tlb2 l va => s.modLayer l (fun c => { c with tlb := c.tlb.filter (fun t => va / t.size != t.va / t.size) })
  | .icache k w => s.modCluster k (fun c => { c with icache := c.icache.filter (fun e => e.1 != w) })
  | .product k => s.modCluster k (fun c => { c with pcache := [] })

/-- A core fetches a word ahead of its issue into its prefetch buffer (R218). (DEDUCED, notes/assumptions/96.md.) -/
def State.prefetch (s : State) (n : Nat) (va : Word) : State :=
  if (s.core n).run != .running || (s.core n).follows n then s
  else match fetchMem va { s with cur := n } with
  | .ok w t => { t with cur := s.cur }.modCore n (fun c => { c with prefetch := c.prefetch ++ [(va, w)] })
  | .error stop _ => s.unless stop

/-- n cycles pass, but no further than to the next tick at which a pulse is due; what is left of them stays on the agenda. -/
def State.pass (s : State) (n : Nat) (rest : List Move) : State :=
  match s.nextPulse n with
  | some t => { s with time := t, agenda := if t < s.time + n then .tick (s.time + n - t) :: rest else rest }
  | none => { s with time := s.time + n, agenda := rest }

/-- Whether a move may be made while the package is frozen (R387, R388). -/
def Move.thaws : Move → Bool
  | .event (.readOut _ _) | .event (.thaw _) | .readLine _ => true
  | _ => false

/-- A word of storage holds an uncorrectable error from now on: of DRAM, a local store or the scratchpads (R202, R203). -/
def State.damage (s : State) (w : Nat) : State :=
  if isDram (4 * w) || 2 ^ 48 ≤ 4 * w then { s with damaged := s.damaged.put w true } else s

/-- Word i of a line of cluster k's L1D holds an uncorrectable error from now on (R202, R203). -/
def State.damageL1 (s : State) (k line i : Nat) : State :=
  let b : BitVec 16 := 1 <<< (i % 16)
  match s.l1 k (lineOf line) with
  | some (.v wts rts g d t bad) => s.setL1 k (lineOf line) (.v wts rts g d t (bad ||| b))
  | some (.copy dirty d t bad) => s.setL1 k (lineOf line) (.copy dirty d t (bad ||| b))
  | _ => s

/-- The first move of the agenda, rest being what is behind it. -/
def State.move (s : State) (m : Move) (rest : List Move) : Step :=
  let t := { s with agenda := rest }
  match m with
  | .core c => { t with cur := c }.turn
  | .event i => t.event i
  | .tick n => .next (s.pass n rest)
  | .flight k => t.arrive k
  | .evict e => .next (t.evict e)
  | .prefetch c va => .next (t.prefetch c va)
  | .damage w => .next (t.damage w)
  | .damageL1 k line i => .next (t.damageL1 k line i)
  | .outside pa size v => .next (t.outsideWrite pa size v)
  | .manage e => .next { t with mgmt := some (t.mgmt.getD e) }
  | .limits w b t1 t2 => .next (t.modTower w (fun w => { w with budget := b, t1 := t1, t2 := t2 }))
  | .readLine pa => .next (t.readOutLine pa)
  | .retry k => t.retry k

/-- A context whose last core has come to rest while it is being pre-empted is SWAPPED (R335, R346). -/
def settle (r : Step) : Step :=
  match r with
  | .next t => .next (if t.ctxs.any (fun c => c.2.st == .preempting) then t.ctxs.foldl (fun t c => t.swapCheck c.1) t else t)
  | r => r

/-- A step of the machine: frozen, only what thaws it; a pulse that is due; what the surroundings order; else the current core's
turn. (DESIGN CHOICE, notes/assumptions/4.md.) -/
def State.next (s : State) : Step :=
  if s.frozen then
    match s.agenda.find? Move.thaws with
    | some m => s.move m (s.agenda.erase m)
    | none => .next s
  else settle (
    if s.pulseNow then execSamplingPulse s
    else match s.agenda with
    | m :: rest => s.move m rest
    | [] => s.turn)

end Sys2Proof.Machine
end

