-- ==== Sys2Proof/Machine/Step.lean ====
section
/-! DEFINITION. The step, and a state whose next step runs a given word. -/

namespace Sys2Proof.Machine

/-- One step. -/
def step (s : State) : Host.Outcome State Fault Refusal := s.next

/-- Where the word that withFetchWord places stands. -/
def fetchAt : Nat := 0x10000
/-- The leaf that maps it: valid, executable, plain, frame 0x10000. -/
def fetchLeaf : Word := 0xD400000000010000

/-- s with the word w where step fetches next: the current core runs at fetchAt in the context of its cluster, whose page there is
translated; the word stands in memory and in the instruction cache (notes/assumptions/4.md). -/
def State.withFetchWord (s : State) (_nbits w : Nat) : State :=
  let k := clusterOf s.cur
  let x := s.ctxOf s.cur
  let p := (s.ctx x).part
  let s := { s with agenda := [], frozen := false, pulseDue := [], mem := writeNat s.mem fetchAt (w % 2 ^ 32) 4 }
  let s := s.modCtx x (fun c => { c with st := .running, tracectl := 0, async := [] })
  let s := s.modCluster k (fun c => { c with
    ctx := some x, icache := c.icache.put fetchAt (BitVec.ofNat 32 w), tlb := ⟨p, x, fetchAt, 0x10000, fetchLeaf⟩ :: c.tlb })
  s.modCore s.cur (fun c => { c with
    run := .running, wait := .none, pc := BitVec.ofNat 64 fetchAt, pair := none, frame := none, prefetch := [], group := Group.reset
    preempt := 0 })

end Sys2Proof.Machine
end

