-- ==== Sys2Proof/Safety.lean ====
section
/-! DEFINITION. What the claims call a sound state and an orderly step: memory in its canonical form, and the parts of the machine
that a step of one core leaves alone. -/

namespace Sys2Proof.Machine

/-- Memory and its tags stand in their canonical form. -/
def State.Canonical (s : State) : Prop := Memory.wf s.mem ∧ Tags.wf s.tags

/-- An operation that keeps a property of the state, however it ends. -/
def Keeps {α : Type} (P : State → Prop) (m : M α) : Prop :=
  ∀ s, P s → match m s with
    | .ok _ t => P t
    | .error _ t => P t

/-- t is s but for core n. -/
def State.OnlyCore (s t : State) (n : Nat) : Prop :=
  ∃ c, t = s.setCore n c

/-- The g registers of c and d, their labels and the banked ones are the same but for register r. -/
def Core.SameGBut (c d : Core) (r : GReg) : Prop :=
  ∀ q : GReg, q ≠ r → d.rg q = c.rg q ∧ d.lg q = c.lg q

/-- The control, trap and special registers of c and d are the same, LFLAGS apart. -/
def Core.SameControl (c d : Core) : Prop :=
  d.domain = c.domain ∧ d.ssc = c.ssc ∧ d.shape = c.shape ∧ d.vshare = c.vshare ∧ d.fflags = c.fflags ∧ d.frm = c.frm ∧
  d.srseed = c.srseed ∧ d.fmta = c.fmta ∧ d.fmtb = c.fmtb ∧ d.scla = c.scla ∧ d.sclb = c.sclb ∧ d.supa = c.supa ∧
  d.supb = c.supb ∧ d.mweight = c.mweight ∧ d.focus = c.focus ∧ d.brbuf = c.brbuf ∧ d.brptr = c.brptr ∧ d.bwbuf = c.bwbuf ∧
  d.bwptr = c.bwptr ∧ d.brl = c.brl ∧ d.bwl = c.bwl ∧ d.epc = c.epc ∧ d.ecause = c.ecause ∧ d.einfo = c.einfo ∧
  d.status = c.status ∧ d.preempt = c.preempt

/-- The tile, predicate, accumulator and inbox registers of c and d are the same, with their labels. -/
def Core.SameTiles (c d : Core) : Prop :=
  d.p = c.p ∧ d.pl = c.pl ∧ d.v = c.v ∧ d.vl = c.vl ∧ d.m = c.m ∧ d.ml = c.ml ∧ d.mmark = c.mmark ∧ d.inbox = c.inbox

/-- The buffers and queues of c and d are the same. -/
def Core.SameQueues (c d : Core) : Prop :=
  d.sb = c.sb ∧ d.nt = c.nt ∧ d.vq = c.vq ∧ d.mq = c.mq ∧ d.cq = c.cq ∧ d.cfail = c.cfail ∧ d.seen = c.seen ∧
  d.arrival = c.arrival ∧ d.arr = c.arr

end Sys2Proof.Machine
end

