-- ==== Sys2Proof/Certificates/Slice0/Obligations.lean ====
section
/-! DEFINITION. The statements for the provers. -/

open Sys2Proof Sys2Proof.Machine

namespace Sys2Proof.Claims

/-- Instruction i at s gives g register d the value v under the product of the labels ls and goes on: with g0 as destination nothing
is written and no product is formed; else the next state is t, what forming the product l leaves, with d written. -/
def Gives (i : Instr) (s : State) (d : GReg) (v : Word) (ls : List Label) : Prop :=
  (d = 0 → exec i s = .next (s.modCore s.cur Core.past)) ∧
  ∀ l t, d ≠ 0 → formLabel ls s = .ok l t → exec i s = .next (t.modCore t.cur (fun c => (c.wg d v l).past))

/-- The predicate p is not written by a queued tile instruction of the current core. -/
def PredReady (s : State) (p : PReg) : Prop := s.me.predPending p = false

/-- As Gives, for a scalar floating-point result r: the pattern is written zero-extended, its flags accrue, and under SR one draw is
consumed where the instruction rounds. -/
def GivesFp (i : Instr) (s : State) (d : GReg) (r : Nat × Flags) (rounds : Bool) (ls : List Label) : Prop :=
  let f (c : Core) : Core := if rounds = true ∧ c.frm.toNat % 8 = 4 then { c with srseed := seedStep c.srseed } else c
  let g (c : Core) : Core := { f c with fflags := c.fflags ||| r.2.zeroExtend 64 }
  (d = 0 → exec i s = .next (s.modCore s.cur (fun c => (g c).past))) ∧
  ∀ l t, d ≠ 0 → formLabel ls s = .ok l t →
    exec i s = .next (t.modCore t.cur (fun c => (g (c.wg d (BitVec.ofNat 64 r.1) l)).past))

/-- Nothing of core c's memory work is queued: no buffered store, no tile memory instruction, no MST. -/
def Still (c : Core) : Prop := c.sb = [] ∧ c.nt = [] ∧ c.tileMem = false ∧ c.mstQueued = false

/-- Every word of the local store of core n carries TRUE and holds no uncorrectable error. -/
def TrueLocal (s : State) (n : Nat) : Prop :=
  ∀ w, lsBase n / 4 ≤ w → w < lsBase (n + 1) / 4 → s.tags.get labelTrue w = labelTrue ∧ s.damaged.get false w = false

/-- Bit i of the local store of core n, most significant bit of a byte first, addresses taken modulo its size (R109). -/
def localBit (s : State) (n i : Nat) : Bool := (s.mem.get 0 (lsBase n + i / 8 % 2 ^ 17)).getLsbD (7 - i % 8)

/-- Bit i of the read stream of the current core: the CNT bits of BRBUF, then the bits of its local store from ADDR on (R111). -/
def streamBit (s : State) (i : Nat) : Bool :=
  let c := s.me
  let cnt := c.brptr.toNat / 2 ^ 32 % 2 ^ 7
  if i < cnt then c.brbuf.getLsbD (63 - i) else localBit s s.cur (8 * (c.brptr.toNat % 2 ^ 17) + (i - cnt))

/-- The n low bits of v are the stream's next n bits, the first highest, and the others are zero. -/
def TakesBits (s : State) (v : Word) (n : Nat) : Prop := v.toNat < 2 ^ n ∧ ∀ j, j < n → v.getLsbD (n - 1 - j) = streamBit s j

/-- A core that can use its streams: nothing of its memory work queued, every label that they meet TRUE, CNT in range. -/
def StreamReady (s : State) : Prop :=
  Still s.me ∧ TrueLocal s s.cur ∧ s.me.brl = labelTrue ∧ s.me.bwl = labelTrue ∧ s.me.guardLabel = labelTrue ∧
  s.me.brptr.toNat / 2 ^ 32 % 2 ^ 7 ≤ 64

/-- The byte b as a buffered ST.8 of core n at byte a of its own local store, under TRUE. -/
def byteStore (n a b : Nat) : SbEntry :=
  ⟨.store, 0x7F0000000000 + a % 2 ^ 17, ⟨.local, lsBase n + a % 2 ^ 17, false⟩, 1, BitVec.ofNat 64 (b % 256), labelTrue⟩

/-- Nothing that core c issued is still queued or buffered, and no recorded failure waits. -/
def Idle (c : Core) : Prop := c.sb = [] ∧ c.nt = [] ∧ c.vq = [] ∧ c.mq = [] ∧ c.cq = [] ∧ c.cfail = none

/-- Instruction i at s only changes its core by f and goes on. -/
def Sets (i : Instr) (s : State) (f : Core → Core) : Prop := exec i s = .next (s.modCore s.cur (fun c => (f c).past))

/-- Instruction i at s raises cause k with EINFO made from x, before any effect. -/
def Traps (i : Instr) (s : State) (k : Cause) (x : Info) : Prop :=
  exec i s = .next ((s.keepLoss s).trapInstr s.cur i.word k x)

/-- The current core can put a store-like operation for size bytes at ea into its store buffer. -/
def Room (s : State) (ea : Word) (size : Nat) : Prop :=
  s.me.sb.length < 16 ∧ s.me.ntCovers ea.toNat size = false ∧ s.me.tileMem = false ∧ s.me.mstQueued = false

/-- a is an aligned address of size bytes at offset off of the own local store. -/
def LocalAt (a : Word) (size off : Nat) : Prop :=
  a.toNat = 0x7F0000000000 + off ∧ off + size ≤ 2 ^ 17 ∧ off % size = 0

/-- Nothing but memory words, the destination d, the program counter and the machine's bookkeeping of time changes for core s.cur: the
registers, flags, control registers and queues of the core are as they were. -/
def Frame (s t : State) (d : GReg) : Prop :=
  t.cur = s.cur ∧ s.me.SameGBut t.me d ∧ s.me.SameControl t.me ∧ s.me.SameTiles t.me ∧ s.me.SameQueues t.me ∧
  t.me.lflags = s.me.lflags

/-- Instruction i at s raises cause k with EINFO made from x, once it has left the state t. -/
def TrapsFrom (i : Instr) (s t : State) (k : Cause) (x : Info) : Prop :=
  exec i s = .next ((t.keepLoss s).trapInstr s.cur i.word k x)

/-- The new value of an AMO or RED of w bytes from the old one and the operand b, as R235 gives it; CAS apart. -/
def amoNew (op : MemOp) (w old b : Nat) : Nat :=
  let n := 8 * w
  let y := b % 2 ^ n
  let sg (x : Nat) : Int := (BitVec.ofNat n x).toInt
  match op with
  | .add => (old + y) % 2 ^ n
  | .and => old &&& y
  | .or => old ||| y
  | .xor => old ^^^ y
  | .min => if sg old ≤ sg y then old else y
  | .max => if sg old ≤ sg y then y else old
  | .minn => if old ≤ y then old else y
  | .maxn => if old ≤ y then y else old
  | .swap | .cas => y
  | .fadd => (fmtF32.fadd .rne (fmtF32.decode old) (fmtF32.decode y)).1

/-- An AMO i of w bytes at offset off of the own local store: gd takes old, sign-extended unless zx; memory takes new there alone. -/
def AmoDoes (i : Instr) (s : State) (d : GReg) (w off old new : Nat) (zx : Bool) : Prop :=
  ∃ t, exec i s = .next t ∧
    (d ≠ 0 → t.me.rg d = (if w = 8 ∨ zx then BitVec.ofNat 64 old else (BitVec.ofNat 32 old).signExtend 64)) ∧ Frame s t d ∧
    readNat t.mem (lsBase s.cur + off) w = new % 256 ^ w ∧
    (∀ a, a < lsBase s.cur + off ∨ lsBase s.cur + off + w ≤ a → t.mem.get 0 a = s.mem.get 0 a) ∧
    (∀ k, t.tags.get labelTrue k = s.tags.get labelTrue k)

/-- ROWS × COLS of the current shape. -/
def elems (c : Core) : Nat := c.shape.toNat % 128 * (c.shape.toNat / 2 ^ 16 % 512)

/-- The old elements of d stay somewhere under predicate p. -/
def Merges (c : Core) (p : PReg) : Bool := (List.range (elems c)).any (fun e => !(c.rp p).getLsbD e)

/-- Instruction i at s enters the vector queue: the widest element has bits bits, it needs beats, reserves draws, carries ga and gb,
merges into keep, has the factors ls, and its label goes where put says. -/
def Enters (i : Instr) (s : State) (bits beats draws : Nat) (ga gb : Word) (keep : Option (PReg × VReg)) (ls : List Label)
    (put : Core → Label → Core) : Prop :=
  ∀ l t, elems s.me * bits ≤ 2048 → s.me.vq.length < 16 → (∀ p d, keep = some (p, d) → PredReady s p) →
    formLabel (ls ++ (match keep with
      | some (p, d) => if Merges s.me p then [s.me.lv d] else []
      | none => [])) s = .ok l t →
    exec i s = .next (t.modCore t.cur (fun c => (put { c with
      vq := c.vq ++ [{ op := i, rows := c.shape.toNat % 128, cols := c.shape.toNat / 2 ^ 16 % 512, frm := c.frm.toNat % 8
                       seed := c.srseed, ga := ga, gb := gb, label := l, beats := beats }]
      srseed := if c.frm.toNat % 8 = 4 then seedSteps draws c.srseed else c.srseed } l).past))

/-- Element e of a tile with elements of b bits (R24, R116). -/
def elem (t : Tile) (b e : Nat) : Nat := t.toNat / 2 ^ (b * e) % 2 ^ b

/-- The mode of position k of entry e: under SR the draw reserved for it (R31). -/
def drawn (e : VEntry) (k : Nat) : RMode := rmode e.frm (seedSteps k e.seed)

/-- TILE_COMPLETE of entry e, the head of core n's queue before rest, where it is i: e leaves; tile d, of elements of w bits, takes f's at the
positions that on names, keeps the others, and is zero behind them; f's flags accrue; no other tile, predicate or label and no memory
changes. -/
def Completes (s : State) (n : Nat) (e : VEntry) (rest : List VEntry) (w : Nat) (d : VReg) (on : Nat → Bool) (i : Instr)
    (f : Nat → Nat × Flags) : Prop :=
  e.op = i → ∃ u, exec (.tileComplete n) s = .next u ∧
    let c := s.core n
    let v := u.core n
    let m := e.rows * e.cols
    v.vq = rest ∧ (∀ k, k < m → elem (v.rv d) w k = if on k then (f k).1 % 2 ^ w else elem (c.rv d) w k) ∧
    (∀ j, (m * w + 7) / 8 ≤ j → elem (v.rv d) 8 j = 0) ∧ (∀ r, r ≠ d → v.rv r = c.rv r) ∧ v.vl = c.vl ∧ v.p = c.p ∧ v.pl = c.pl ∧
    u.mem = s.mem ∧ ∀ j, v.fflags.getLsbD j = (c.fflags.getLsbD j || (List.range m).any (fun k => on k && (f k).2.getLsbD j))

/-- The result of one row of VRED from its included elements, each with its mode, and the flags (R133). -/
def rowResult (o : VredOp) (t : ETy) (l : List (Nat × RMode)) : Nat × Flags :=
  let w := bitsOf t
  let fm := tyFmt (tyn t)
  let two (m : RMode) (x y : Nat) : Nat × Flags :=
    if t.isInt then
      (match o with
        | .add => (x + y) % 2 ^ w
        | .min => if tyInt t y < tyInt t x then y else x
        | .max => if tyInt t x < tyInt t y then y else x
        | .and => x &&& y
        | .or => x ||| y
        | .xor => x ^^^ y, 0)
    else match o with
      | .min => fm.fminmax false x y
      | .max => fm.fminmax true x y
      | _ => fm.fadd m (fm.decode x) (fm.decode y)
  match l with
  | [] => (0, 0)
  | [(x, _)] => if t.isInt = false ∧ (fm.decode x).isNan then (fm.nan, if (fm.decode x).isSnan then flagNV else 0) else (x, 0)
  | (x, _) :: r => r.foldl (fun a y => ((two y.2 a.1 y.1).1, a.2 ||| (two y.2 a.1 y.1).2)) (x, 0)

/-- The truth and flags of VCMP on two elements of type t (R130, R103). -/
def compared (k : VCond) (t : ETy) (x y : Nat) : Bool × Flags :=
  let a := tyInt t x
  let b := tyInt t y
  let u := (tyFmt (tyn t)).decode x
  let v := (tyFmt (tyn t)).decode y
  if t.isInt then
    (match k with
      | .eq => decide (a = b)
      | .ne => decide (a ≠ b)
      | .lt => decide (a < b)
      | .le => decide (a ≤ b)
      | .gt => decide (b < a)
      | .ge => decide (b ≤ a)
      | .un => false, 0)
  else match k with
    | .eq => FVal.test .eq u v
    | .ne => (!(FVal.test .eq u v).1, (FVal.test .eq u v).2)
    | .lt => FVal.test .lt u v
    | .le => FVal.test .le u v
    | .gt => FVal.test .lt v u
    | .ge => FVal.test .le v u
    | .un => FVal.test .un u v

/-- The current core can queue a matrix command that names m: no failure waits on m, its unit is online, and the queue has room. -/
def MatrixReady (s : State) (m : MReg) : Prop :=
  s.me.rmk m = none ∧ (s.cluster (clusterOf s.cur)).offline = false ∧ s.me.mq.length < 4

/-- As Gives, where the instruction has reached s1 before its result is formed. -/
def GivesFrom (i : Instr) (s s1 : State) (d : GReg) (v : Word) (ls : List Label) : Prop :=
  (d = 0 → exec i s = .next (s1.modCore s1.cur Core.past)) ∧
  ∀ l t, d ≠ 0 → formLabel ls s1 = .ok l t → exec i s = .next (t.modCore t.cur (fun c => (c.wg d v l).past))

/-- Instruction i at s forms the label l of ls from s1 and puts the command e l at the end of the matrix queue. -/
def Queues (i : Instr) (s s1 : State) (ls : List Label) (e : Label → MEntry) (f : Core → Core) : Prop :=
  ∀ l t, formLabel ls s1 = .ok l t → exec i s = .next (t.modCore t.cur (fun c => (f { c with mq := c.mq ++ [e l] }).past))

/-- The core that issues a copy command has no recorded failure and room in its queue. -/
def CopyReady (c : Core) : Prop := c.cfail = none ∧ c.cq.length < 8 ∧ c.tileMem = false

/-- The keys of a map rise. -/
def Rising {α : Type} (m : AMap α) : Prop := (m.map Prod.fst).Pairwise (· < ·)

/-- The current core can act on the counter line L at g[ra] with no one else about: the address resolves to it, nothing of the core's
work is before it, nothing is in flight and no Blocking runs, and every label is TRUE. -/
def CounterAt (s : State) (ra : GReg) (L : Nat) : Prop :=
  (∃ q, resolveCounter .write (s.me.rg ra) s = .ok ⟨.tracked, L, q⟩ s) ∧ L % 64 = 0 ∧ s.me.sb = [] ∧ s.me.tileMem = false ∧ s.me.mstQueued = false ∧
  s.me.wait = .none ∧ s.me.guardLabel = labelTrue ∧ s.me.lg ra = labelTrue ∧ s.flight = [] ∧ s.blocking = none ∧
  (s.dir L).queue = [] ∧ Rising (s.cluster (clusterOf s.cur)).l1

/-- Instruction i at s goes on with v in gd under TRUE. -/
def Answers (i : Instr) (s : State) (d : GReg) (v : Word) (t : State) : Prop :=
  exec i s = .next t ∧ (d ≠ 0 → t.me.rg d = v ∧ t.me.lg d = labelTrue) ∧ t.me.pc = s.me.past.pc

/-- Nothing that core c accessed before is still buffered or queued. -/
def Quiet (c : Core) : Prop := c.sb = [] ∧ c.tileMem = false ∧ c.transferQueued = false

/-- Instruction i of the current core waits, in run state r, for w: memory and its program counter stay. -/
def Holds (i : Instr) (s : State) (r : RunState) (w : Wait) (t : State) : Prop :=
  exec i s = .next t ∧ t.me.run = r ∧ t.me.wait = w ∧ t.me.pc = s.me.pc ∧ t.me.frame = s.me.frame ∧ t.mem = s.mem

/-- Instruction i loads offset off of the event window into gd under TRUE: the step itself, or a 64-bit load there. -/
def LoadsEvent (s : State) (i : Instr) (d : GReg) (off : Nat) : Prop :=
  off < 2 ^ 10 ∧ (i = .eventWindowLoad d (BitVec.ofNat 10 off) ∨ ∃ ra o, (i = .ld .d64 d ra o ∨ i = .ldAcq .d64 d ra o ∨ i = .ldnt .d64 d ra o) ∧
    s.me.lg ra = labelTrue ∧ (s.me.rg ra + o.signExtend 64 * 8).toNat = 0x7F0100000000 + off)

/-- Instruction i stores v to offset off of the event window. -/
def StoresEvent (s : State) (i : Instr) (v : Word) (off : Nat) : Prop :=
  off < 2 ^ 10 ∧ ((∃ b, i = .eventWindowStore (BitVec.ofNat 10 off) b ∧ v = s.me.rg b) ∨
    ∃ d ra o, (i = .st .b64 d ra o ∨ i = .stRel .b64 d ra o ∨ i = .stnt .b64 d ra o) ∧ v = s.me.rg d ∧
      (s.me.rg ra + o.signExtend 64 * 8).toNat = 0x7F0100000000 + off)

/-- Core n has entered a trap with this cause in t, at the instruction that it held in s. -/
def Trapped (s t : State) (n : Nat) (cause : Nat) : Prop :=
  (t.core n).pc = (s.ctx (s.ctxOf n)).tvec ∧ (t.core n).epc = (s.core n).pc &&& 0xFFFFFFFFFFFF ∧ (t.core n).ecause.toNat % 2 ^ 8 = cause ∧
  (t.core n).ecause.getLsbD 63 = false ∧ (t.core n).status.getLsbD 0 = true ∧ (t.core n).status.getLsbD 2 = true ∧
  (t.core n).run = .running ∧ (t.core n).wait = .none ∧ (t.core n).g = (s.core n).g

/-- The state of core n's group as GSTAT gives it (R315). -/
def StatBits (s : State) (n : Nat) (r : Word) : Prop :=
  let g := (s.core n).group
  let mine (b : Nat) := s.core (n / 16 * 16 + b)
  (∀ b, b < 16 → r.getLsbD (32 + b) = g.mask.getLsbD b) ∧
  (∀ b, b < 16 → (r.getLsbD (16 + b) = true ↔ (mine b).group.st = .attached ∧ (mine b).group.mask = g.mask ∧ g.mask.getLsbD b = true)) ∧
  r.toNat / 2 ^ 8 % 2 ^ 8 = ((List.range (n % 16)).filter (fun b => g.mask.getLsbD b)).length ∧ r.toNat % 2 ^ 8 / 2 ^ 3 = 0 ∧
  (r.getLsbD 2 = true ↔ ∀ b, b < n % 16 → g.mask.getLsbD b = false) ∧ (r.getLsbD 1 = true ↔ g.st = .attached) ∧ r.getLsbD 0 = true ∧
  r.toNat < 2 ^ 48

/-- The sender is the management endpoint, at a level, and the master plinth, that of T0, is not in recovery (R371, R372). -/
def Bidden (s : State) (by' : Sender) (l : Level) : Prop :=
  by'.level = l ∧ s.mgmt = some by'.endpoint ∧ (s.tower 0).recovery = false

/-- Step i at s tells its sender that the command is refused for a reason, and changes nothing else. -/
def Refuses (i : Instr) (s : State) (reason : Nat) : Prop := exec i s = .next { s with notes := s.notes ++ [.refused reason] }

/-- Step i at s changes neither memory nor tags nor any core; line L is then in directory state d, and ms have been sent. -/
def Moves (i : Instr) (s : State) (L : Nat) (d : DirState) (ms : List Msg) (u : State) : Prop :=
  exec i s = .next u ∧ (u.dir L).st = d ∧ u.flight = s.flight ++ ms ∧ u.mem = s.mem ∧ u.tags = s.tags ∧ u.cores = s.cores

end Sys2Proof.Claims

open Sys2Proof.Claims

/-- For every well-formed instruction that has a word, with every operand at every value its field admits, decoding the word gives
the instruction back (R57, R59, R62 to R83). -/
def Obligations.RoundTrip : Prop :=
  ∀ (i : Instr) (w : HWord), i.wf = true → encode i = some w → decode w = .ok i

/-- Every word that decodes does so to a well-formed instruction whose word it is: no bit of an accepted word is ignored, and no two
words stand for one instruction (R57, R59). -/
def Obligations.OneMeaning : Prop :=
  ∀ (w : HWord) (i : Instr), decode w = .ok i → i.wf = true ∧ encode i = some w

/-- Four words written out bit by bit from R57 and R62 to R67 decode to the instructions they stand for; the third is the worked case of
R99.
The word zero is refused as zero, and every other word whose major opcode R62 reserves, the word of all ones among them, is refused
for its opcode (R59). -/
def Obligations.WordsOfTheSpec : Prop :=
  (decode (0b000001#6 ++ 3#5 ++ 4#5 ++ 5#5 ++ 0x000#11) = .ok (.add 3 4 5) ∧
  decode (0b000010#6 ++ 1#5 ++ 2#5 ++ 0xFFFF#16) = .ok (.addi 1 2 0xFFFF) ∧
  decode 0x31499600 = .ok (.bperm 10 9 11) ∧
  decode (0b000000#6 ++ 1#10 ++ 0#5 ++ 0#5 ++ 0#6) = .ok .brk) ∧
  (decode 0 = .error .zero ∧
  ∀ w : HWord, w ≠ 0 → (opOf w = 0x0F ∨ (0x22 ≤ opOf w ∧ opOf w ≤ 0x27) ∨ 0x30 ≤ opOf w) →
    decode w = .error .reservedOpcode)

/-- Each two-register instruction of OP 0x01 completes wherever the product of its labels can be formed: g[D] takes the value R93 gives
from the 64-bit contents a and b, under Prod(Label(ga), Label(gb)), and the core goes on (R92); with g0 as destination nothing is
written and no product formed. Shifts and rotations count by b[5:0].
Each immediate instruction completes with the value R96 gives, under the label of the register it reads; LUI and ADPC read none,
LUI.K reads gd; ADPC counts from the address of its own word. -/
def Obligations.IntegerAlu : Prop :=
  (∀ (s : State) (d ra rb : GReg),
    let a := s.me.rg ra
    let b := s.me.rg rb
    let n := b.toNat % 64
    let ls := [s.me.lg ra, s.me.lg rb]
    Gives (.add d ra rb) s d (a + b) ls ∧ Gives (.sub d ra rb) s d (a - b) ls ∧
    Gives (.and d ra rb) s d (a &&& b) ls ∧ Gives (.or d ra rb) s d (a ||| b) ls ∧ Gives (.xor d ra rb) s d (a ^^^ b) ls ∧
    Gives (.andn d ra rb) s d (a &&& ~~~b) ls ∧ Gives (.orn d ra rb) s d (a ||| ~~~b) ls ∧
    Gives (.sll d ra rb) s d (a <<< n) ls ∧ Gives (.srl d ra rb) s d (a >>> n) ls ∧
    Gives (.sra d ra rb) s d (a.sshiftRight n) ls ∧
    Gives (.rol d ra rb) s d (a <<< n ||| a >>> (64 - n)) ls ∧ Gives (.ror d ra rb) s d (a >>> n ||| a <<< (64 - n)) ls ∧
    Gives (.min d ra rb) s d (if a.toInt ≤ b.toInt then a else b) ls ∧
    Gives (.max d ra rb) s d (if a.toInt ≤ b.toInt then b else a) ls ∧
    Gives (.minn d ra rb) s d (if a.toNat ≤ b.toNat then a else b) ls ∧
    Gives (.maxn d ra rb) s d (if a.toNat ≤ b.toNat then b else a) ls ∧
    Gives (.seq d ra rb) s d (if a = b then 1 else 0) ls ∧ Gives (.sne d ra rb) s d (if a = b then 0 else 1) ls ∧
    Gives (.slt d ra rb) s d (if a.toInt < b.toInt then 1 else 0) ls ∧
    Gives (.sltn d ra rb) s d (if a.toNat < b.toNat then 1 else 0) ls) ∧
  (∀ (s : State) (d ra : GReg) (m : BitVec 16) (h : BitVec 6) (k : BitVec 2) (o : BitVec 21),
    let a := s.me.rg ra
    let ls := [s.me.lg ra]
    let half : Word := 0xFFFF <<< (16 * k.toNat)
    let part : Word := m.zeroExtend 64 <<< (16 * k.toNat)
    Gives (.addi d ra m) s d (a + m.signExtend 64) ls ∧
    Gives (.andi d ra m) s d (a &&& m.zeroExtend 64) ls ∧ Gives (.ori d ra m) s d (a ||| m.zeroExtend 64) ls ∧
    Gives (.xori d ra m) s d (a ^^^ m.zeroExtend 64) ls ∧
    Gives (.slti d ra m) s d (if a.toInt < m.toInt then 1 else 0) ls ∧
    Gives (.sltni d ra m) s d (if a.toNat < (m.signExtend 64).toNat then 1 else 0) ls ∧
    Gives (.slli d ra h) s d (a <<< h.toNat) ls ∧ Gives (.srli d ra h) s d (a >>> h.toNat) ls ∧
    Gives (.srai d ra h) s d (a.sshiftRight h.toNat) ls ∧
    Gives (.roli d ra h) s d (a <<< h.toNat ||| a >>> (64 - h.toNat)) ls ∧
    Gives (.lui d k m) s d part [] ∧
    Gives (.luiK d k m) s d ((s.me.rg d &&& ~~~half) ||| part) [s.me.lg d] ∧
    Gives (.adpc d o) s d (s.me.here + 4 * o.signExtend 64) [])

/-- The multiply and divide instructions complete for every operand, the corners of R97 among them: a zero divisor gives all ones and
the remainder a; −2^63 divided by −1 gives −2^63 and remainder 0. -/
def Obligations.MultiplyDivide : Prop :=
  ∀ (s : State) (d ra rb : GReg),
    let a := s.me.rg ra
    let b := s.me.rg rb
    let ls := [s.me.lg ra, s.me.lg rb]
    let corner := a.toInt = -2 ^ 63 ∧ b.toInt = -1
    let q : Word := if b = 0 then BitVec.allOnes 64 else if corner then a else BitVec.ofInt 64 (a.toInt.tdiv b.toInt)
    Gives (.mul d ra rb) s d (BitVec.ofNat 64 (a.toNat * b.toNat)) ls ∧
    Gives (.mulh d ra rb) s d (BitVec.ofInt 64 ((a.toInt * b.toInt) / 2 ^ 64)) ls ∧
    Gives (.mulhn d ra rb) s d (BitVec.ofNat 64 (a.toNat * b.toNat / 2 ^ 64)) ls ∧
    Gives (.div d ra rb) s d q ls ∧
    Gives (.divn d ra rb) s d (if b = 0 then BitVec.allOnes 64 else BitVec.ofNat 64 (a.toNat / b.toNat)) ls ∧
    Gives (.rem d ra rb) s d (if b = 0 then a else if corner then 0 else a - b * q) ls ∧
    Gives (.remn d ra rb) s d (if b = 0 then a else BitVec.ofNat 64 (a.toNat % b.toNat)) ls

/-- CLZ, CTZ, POPC, BREV and BSWAP complete with values that R94 describes: the number of zero bits above the highest set bit (below the
lowest), 64 for zero; the number of set bits; bit i from bit 63 − i; byte i from byte 7 − i.
BEXT and BINS complete for every position and length that R98 allows, with the values it gives; BPERM completes where no selector has
mode 0b11, each of its low four bytes copied, zero or the sign of the source byte, the others zero; BPERMI always completes on the old
gd; SEL gives the operand that element 0 of the predicate chooses, under the labels of the predicate and of that operand (R95), where
no queued tile instruction still writes the predicate. -/
def Obligations.BitFields : Prop :=
  (∀ (s : State) (d ra : GReg),
    let a := s.me.rg ra
    let ls := [s.me.lg ra]
    (∃ n, Gives (.clz d ra) s d (BitVec.ofNat 64 n) ls ∧ n ≤ 64 ∧ (∀ j, 64 - n ≤ j → a.getLsbD j = false) ∧
      (n < 64 → a.getLsbD (63 - n) = true)) ∧
    (∃ n, Gives (.ctz d ra) s d (BitVec.ofNat 64 n) ls ∧ n ≤ 64 ∧ (∀ j, j < n → a.getLsbD j = false) ∧
      (n < 64 → a.getLsbD n = true)) ∧
    Gives (.popc d ra) s d (BitVec.ofNat 64 ((List.range 64).countP (fun i => a.getLsbD i))) ls ∧
    (∃ v, Gives (.brev d ra) s d v ls ∧ ∀ i, i < 64 → v.getLsbD i = a.getLsbD (63 - i)) ∧
    (∃ v : Word, Gives (.bswap d ra) s d v ls ∧ ∀ i, i < 8 → v.extractLsb' (8 * i) 8 = a.extractLsb' (8 * (7 - i)) 8)) ∧
  (∀ (s : State) (d ra rb : GReg) (p l : BitVec 6) (m : BitVec 16) (n : PReg),
    let a := s.me.rg ra
    let b := s.me.rg rb
    let g := s.me.rg d
    let len := l.toNat + 1
    let mask : Word := BitVec.ofNat 64 (2 ^ len - 1)
    let byte (x : Word) (i : Nat) : Byte := x.extractLsb' (8 * i) 8
    let sign (x : Byte) : Byte := if x.getLsbD 7 then 0xFF else 0
    (p.toNat + len ≤ 64 → Gives (.bext d ra p l) s d ((a >>> p.toNat) &&& mask) [s.me.lg ra]) ∧
    (p.toNat + len ≤ 64 → Gives (.bins d ra p l) s d
      ((g &&& ~~~(mask <<< p.toNat)) ||| ((a <<< p.toNat) &&& (mask <<< p.toNat))) [s.me.lg d, s.me.lg ra]) ∧
    ((∀ i, i < 4 → b.toNat / 2 ^ (5 * i + 3) % 4 ≠ 3) →
      ∃ v, Gives (.bperm d ra rb) s d v [s.me.lg ra, s.me.lg rb] ∧ v.toNat < 2 ^ 32 ∧ ∀ i, i < 4 →
        let x := byte a (b.toNat / 2 ^ (5 * i) % 8)
        let k := b.toNat / 2 ^ (5 * i + 3) % 4
        byte v i = if k = 0 then x else if k = 1 then 0 else sign x) ∧
    (∃ v, Gives (.bpermi d m) s d v [s.me.lg d] ∧ v.toNat < 2 ^ 32 ∧ ∀ i, i < 4 →
        let x := byte g (m.toNat / 2 ^ (4 * i + 1) % 8)
        byte v i = if m.getLsbD (4 * i) then sign x else x) ∧
    (PredReady s n → Gives (.sel d n ra rb) s d (if (s.me.rp n).getLsbD 0 then a else b)
      [s.me.lp n, if (s.me.rp n).getLsbD 0 then s.me.lg ra else s.me.lg rb]))

/-- Where a selector of BPERM has mode 0b11, the instruction raises ILLEGAL with the BPERM word in EINFO[31:0] and EINFO[40] set, and
writes nothing: the step is the trap alone (R99). -/
def Obligations.BpermIllegal : Prop :=
  ∀ (s : State) (d ra rb : GReg) (i : Nat), i < 4 → (s.me.rg rb).toNat / 2 ^ (5 * i + 3) % 4 = 3 →
    exec (.bperm d ra rb) s = .next ((s.keepLoss s).trapInstr s.cur (Instr.word (.bperm d ra rb)) .illegal (.word true))

/-- FADD, FSUB, FMUL and FFMA complete with the sum, difference, product and fused product-sum of the f32 operands in bits 31:0, rounded
once in the mode of FRM; FMIN, FMAX and FCMP round nothing; FCVT gives the conversion of its kind. Flags accrue onto FFLAGS, and one
draw of SRSEED is consumed where FRM is SR and the instruction rounds (R101, R31, R35). That FMIN, FMAX, FCMP and the FCVT that widen to
f32 consume no draw is the model's choice (notes/assumptions/109.md). -/
def Obligations.ScalarFp : Prop :=
  ∀ (s : State) (d ra rb rc : GReg) (k : FcvtKind),
    let v (r : GReg) : Nat := (s.me.rg r).toNat % 2 ^ 32
    let x (r : GReg) : FVal := fmtF32.decode (v r)
    let m := rmode (s.me.frm.toNat % 8) s.me.srseed
    let ls := [s.me.lg ra, s.me.lg rb]
    let cmp (c : FCond) : Nat × Flags := (if (FVal.test c (x ra) (x rb)).1 then 1 else 0, (FVal.test c (x ra) (x rb)).2)
    GivesFp (.fadd d ra rb) s d (fmtF32.fadd m (x ra) (x rb)) true ls ∧
    GivesFp (.fsub d ra rb) s d (fmtF32.fadd m (x ra) (x rb).negate) true ls ∧
    GivesFp (.fmul d ra rb) s d (fmtF32.fmul m (x ra) (x rb)) true ls ∧
    GivesFp (.ffma d ra rb rc) s d (fmtF32.ffma m (x ra) (x rb) (x rc)) true [s.me.lg ra, s.me.lg rb, s.me.lg rc] ∧
    GivesFp (.fmin d ra rb) s d (fmtF32.fminmax false (v ra) (v rb)) false ls ∧
    GivesFp (.fmax d ra rb) s d (fmtF32.fminmax true (v ra) (v rb)) false ls ∧
    GivesFp (.fcmpEq d ra rb) s d (cmp .eq) false ls ∧ GivesFp (.fcmpLt d ra rb) s d (cmp .lt) false ls ∧
    GivesFp (.fcmpLe d ra rb) s d (cmp .le) false ls ∧ GivesFp (.fcmpUn d ra rb) s d (cmp .un) false ls ∧
    GivesFp (.fcvt k d ra) s d (fcvt k m (s.me.rg ra)) (k != .f16f32 && k != .bf16f32) [s.me.lg ra]

/-- FMIN and FMAX of two f32 patterns: of exactly one NaN the other operand; of two the canonical NaN; −0 below +0; NV alone, and only
where an operand is a signalling NaN; of two numbers one of them, the lesser or the greater (R102).
The truth and the NV flag of each condition on two f32 values: EQ, LT and LE as the order of numbers says, +0 equal to −0, and 0 with
a NaN; UN exactly with a NaN; NV by a signalling NaN, and for LT and LE by any NaN (R103). -/
def Obligations.MinMaxCompare : Prop :=
  (∀ (big : Bool) (a b : Nat), a < 2 ^ 32 → b < 2 ^ 32 →
    let x := fmtF32.decode a
    let y := fmtF32.decode b
    let r := fmtF32.fminmax big a b
    (x.isNan = true → y.isNan = false → r.1 = b) ∧ (x.isNan = false → y.isNan = true → r.1 = a) ∧
    (x.isNan = true → y.isNan = true → r.1 = 0x7FC00000) ∧
    (r.2 = if x.isSnan = true ∨ y.isSnan = true then flagNV else 0) ∧
    (x.isNan = false → y.isNan = false →
      (x.cmp y = .lt → r.1 = if big then b else a) ∧ (x.cmp y = .gt → r.1 = if big then a else b)) ∧
    (fmtF32.fminmax big 0x80000000 0).1 = (if big then 0 else 0x80000000) ∧
    (fmtF32.fminmax big 0 0x80000000).1 = (if big then 0 else 0x80000000)) ∧
  (∀ (x y : FVal),
    let nan := x.isNan = true ∨ y.isNan = true
    let sig := x.isSnan = true ∨ y.isSnan = true
    ((FVal.test .eq x y).1 = true ↔ ¬nan ∧ x.cmp y = .eq) ∧
    ((FVal.test .lt x y).1 = true ↔ ¬nan ∧ x.cmp y = .lt) ∧
    ((FVal.test .le x y).1 = true ↔ ¬nan ∧ x.cmp y ≠ .gt) ∧
    ((FVal.test .un x y).1 = true ↔ nan) ∧
    (fmtF32.decode 0).cmp (fmtF32.decode 0x80000000) = .eq ∧
    (∀ c, c = .eq ∨ c = .un → (FVal.test c x y).2 = if sig then flagNV else 0) ∧
    (∀ c, c = .lt ∨ c = .le → (FVal.test c x y).2 = if nan then flagNV else 0))

/-- Where nothing of the core's memory work is queued and the labels met are TRUE, the instructions of the read stream complete: BSRINIT
puts the stream at a bit of the local store; BSGET n gives the next n bits, most significant first, and the stream goes on behind
them; BSPEEK gives them and BSSKIP passes them; BSGETG reads z zeros, a one and z + k bits, with z at most 31 and 2z + 1 + k at most
64, and gives 2^(z+k) plus those bits minus 2^k. Memory is unchanged (R111 to R113).
Where nothing of the core's memory work is queued and the labels met are TRUE, the instructions of the write stream complete: BSWINIT
puts it at a bit, keeping the bits of the byte before it; BSEMIT appends bits: each whole byte of what is pending and appended is
stored as ST.8 in order, the rest stays pending; BSFLUSH stores a pending part of a byte, zeros behind it (R114). -/
def Obligations.Streams : Prop :=
  (∀ (s : State) (d ra : GReg) (n : BitVec 6) (k : BitVec 5) (z : Nat), StreamReady s →
    let w := n.toNat + 1
    (s.me.lg ra = labelTrue → ∃ t, exec (.bsrinit ra) s = .next t ∧ t.mem = s.mem ∧
      ∀ i, streamBit t i = localBit s s.cur ((s.me.rg ra).toNat % 2 ^ 20 + i)) ∧
    (∃ t v, exec (.bsget d n) s = .next t ∧ TakesBits s v w ∧ t.mem = s.mem ∧ (d ≠ 0 → t.me.rg d = v) ∧
      ∀ i, streamBit t i = streamBit s (w + i)) ∧
    (∃ t v, exec (.bspeek d n) s = .next t ∧ TakesBits s v w ∧ t.mem = s.mem ∧ (d ≠ 0 → t.me.rg d = v) ∧
      ∀ i, streamBit t i = streamBit s i) ∧
    (∃ t, exec (.bsskip n) s = .next t ∧ t.mem = s.mem ∧ ∀ i, streamBit t i = streamBit s (w + i)) ∧
    ((∀ j, j < z → streamBit s j = false) → streamBit s z = true → z ≤ 31 → 2 * z + 1 + k.toNat ≤ 64 →
      ∃ t v, exec (.bsgetg d k) s = .next t ∧ t.mem = s.mem ∧ TakesBits s v (2 * z + 1 + k.toNat) ∧
        (d ≠ 0 → t.me.rg d = v - BitVec.ofNat 64 (2 ^ k.toNat)) ∧
        ∀ i, streamBit t i = streamBit s (2 * z + 1 + k.toNat + i))) ∧
  (∀ (s : State) (ra : GReg) (n : BitVec 6), StreamReady s → s.me.lg ra = labelTrue →
    let c := s.me
    let cnt := c.bwptr.toNat / 2 ^ 32 % 2 ^ 3
    let addr := c.bwptr.toNat % 2 ^ 17
    let q := (c.rg ra).toNat % 2 ^ 20
    let len := n.toNat + 1
    let all := c.bwbuf.toNat / 2 ^ (64 - cnt) * 2 ^ len + (c.rg ra).toNat % 2 ^ len
    let k := (cnt + len) / 8
    let rest := (cnt + len) % 8
    (∃ t, exec (.bswinit ra) s = .next t ∧ t.me.sb = [] ∧ t.me.bwptr = BitVec.ofNat 64 (q % 8 * 2 ^ 32 + q / 8) ∧
      (∀ i, i < q % 8 → t.me.bwbuf.getLsbD (63 - i) = localBit s s.cur (q / 8 * 8 + i)) ∧
      ∀ i, i + q % 8 < 64 → t.me.bwbuf.getLsbD i = false) ∧
    (∃ t, exec (.bsemit ra n) s = .next t ∧
      t.me.sb = (List.range k).map (fun j => byteStore s.cur (addr + j) (all / 2 ^ (8 * (k - 1 - j) + rest))) ∧
      t.me.bwptr = BitVec.ofNat 64 (rest * 2 ^ 32 + (addr + k) % 2 ^ 17) ∧
      t.me.bwbuf = BitVec.ofNat 64 (all % 2 ^ rest * 2 ^ (64 - rest))) ∧
    (∃ t, exec .bsflush s = .next t ∧ t.me.bwbuf = 0 ∧
      t.me.sb = (if cnt = 0 then [] else [byteStore s.cur addr (c.bwbuf.toNat / 2 ^ (64 - cnt) * 2 ^ (8 - cnt))]) ∧
      t.me.bwptr = if cnt = 0 then c.bwptr else BitVec.ofNat 64 ((addr + 1) % 2 ^ 17)))

/-- A conditional branch that LFLAGS.STRICT does not stop completes: taken, the program counter is the branch word's address plus four
times the sign-extended offset; else the address plus 4; each condition compares the two registers as R105 says. -/
def Obligations.Branch : Prop :=
  ∀ (s : State) (k : BCond) (ra rb : GReg) (o : BitVec 13),
    (s.me.lflags.getLsbD 1 = false ∨ (s.me.lg ra = labelTrue ∧ s.me.lg rb = labelTrue)) →
    let a := s.me.rg ra
    let b := s.me.rg rb
    let taken : Prop := match k with
      | .eq => a = b
      | .ne => a ≠ b
      | .lt => a.toInt < b.toInt
      | .ge => b.toInt ≤ a.toInt
      | .ltn => a.toNat < b.toNat
      | .gen => b.toNat ≤ a.toNat
    (taken → exec (.bCond k ra rb o) s = .next (s.modCore s.cur (fun c => c.at (s.me.here + 4 * o.signExtend 64)))) ∧
    (¬taken → exec (.bCond k ra rb o) s = .next (s.modCore s.cur (fun c => c.at (s.me.here + 4))))

/-- JL sets g31 to the address behind it, under TRUE and the guard's factor, and goes to its address plus four times the offset. JLR
computes its target from ga before any write; an aligned target that STRICT does not stop is gone to, gd holding the link; a target
that is not a multiple of 4 raises MISALIGN with the target in EINFO, and gd is not written (R106). -/
def Obligations.Jumps : Prop :=
  ∀ (s : State) (d ra : GReg) (o : BitVec 26) (m : BitVec 16) (l : Label) (t : State),
    let link := s.me.here + 4
    let target := s.me.rg ra + m.signExtend 64
    (formLabel [] s = .ok l t →
      exec (.jl o) s = .next (t.modCore t.cur (fun c => (c.wg 31 link l).at (s.me.here + 4 * o.signExtend 64)))) ∧
    ((s.me.lflags.getLsbD 1 = false ∨ s.me.lg ra = labelTrue) →
      (target.toNat % 4 ≠ 0 → Traps (.jlr d ra m) s .misalign (.other target false)) ∧
      (target.toNat % 4 = 0 → d = 0 → exec (.jlr d ra m) s = .next (s.modCore s.cur (fun c => c.at target))) ∧
      (target.toNat % 4 = 0 → d ≠ 0 → formLabel [] s = .ok l t →
        exec (.jlr d ra m) s = .next (t.modCore t.cur (fun c => (c.wg d link l).at target))))

/-- While LFLAGS.STRICT is 1, a branch on a register whose label is not TRUE and a JLR through one raise LABEL_BRANCH before any effect
(R107); a guard on a predicate whose label is not TRUE does so too where both words of the pair are such words as R61 admits and the
predicate is at hand. -/
def Obligations.StrictTransfers : Prop :=
  ∀ (s : State) (k : BCond) (d ra rb : GReg) (o : BitVec 13) (m : BitVec 16) (v : Bool) (n : PReg) (w : HWord) (j : Instr) (t : State),
    s.me.lflags.getLsbD 1 = true →
    (s.me.lg ra ≠ labelTrue ∨ s.me.lg rb ≠ labelTrue → Traps (.bCond k ra rb o) s .labelBranch (.word false)) ∧
    (s.me.lg ra ≠ labelTrue → Traps (.jlr d ra m) s .labelBranch (.word false)) ∧
    (s.me.lp n ≠ labelTrue → PredReady s n → s.me.frame = none → fetchNth 1 s = .ok w t → t.me.lp n = s.me.lp n →
      t.me.lflags = s.me.lflags → PredReady t n → decode w = .ok j → unguardable w = false →
      exec (.guard v n) s = .next ((t.keepLoss s).trapInstr s.cur (Instr.word (.guard v n)) .labelBranch (.word false)))

/-- GUARD, with its next word fetched, decoded and such as R61 admits, completes its cycle: the core holds the pair, and the second word
executes where element 0 of the predicate, exclusive-or invert, is 1. RPT, with its words fetched and each one that R83 admits, holds
the frame with its counts and steps, at iteration 0 and word 0. -/
def Obligations.GuardAndFrame : Prop :=
  ∀ (s t : State) (v : Bool) (n : PReg) (w : HWord) (j : Instr) (q k sd sa sb : BitVec 4) (ws : List HWord),
    (fetchNth 1 s = .ok w t → decode w = .ok j → unguardable w = false → PredReady t n →
      (t.me.lflags.getLsbD 1 = false ∨ t.me.lp n = labelTrue) →
      exec (.guard v n) s = .next (t.modCore t.cur (fun c => { c with
        run := .running, wait := .none
        pair := some ⟨Instr.word (.guard v n), w, t.me.lp n, (t.me.rp n).getLsbD 0 != v⟩ }))) ∧
    ((List.range (q.toNat + 1)).mapM (fun i => fetchNth (1 + i)) s = .ok ws t → ws.all frameWord = true →
      exec (.rpt q k sd sa sb) s = .next (t.modCore t.cur (fun c => { c with
        run := .running, wait := .none, pair := none
        frame := some ⟨ws, k.toNat + 1, sd.toNat, sa.toNat, sb.toNat, 0, 0⟩ })))

/-- A trap that is not fatal writes EPC, whose reserved bits 63:48 read 0, ECAUSE and EINFO; sets STATUS: PLVL takes LVL, LVL becomes S, INTRAP is set, the rest stays;
from K, SG30 takes SSBASE + (CORE[31:18] + 1) × SSIZE under TRUE and SG31 stays; from S both stay; fetched words are dropped and the
program counter is TVEC. Every other field of the core is as it was but for its group (R311), every other core but for its group, and
the rest of the machine whole. -/
def Obligations.TrapEntry : Prop :=
  ∀ (s : State) (n : Nat) (epc : Word) (k : Cause) (a v : Bool) (e : Word), s.fatal n = false →
    let c := s.core n
    let t := s.takeTrap n epc k a v e
    let x := s.ctx (s.ctxOf n)
    (∃ st sg sgl gr, t.core n = { c with
        epc := epc &&& 0xFFFFFFFFFFFF, ecause := BitVec.ofNat 64 ((if a then 2 ^ 63 else 0) + (if v then 2 ^ 8 else 0) + k.code), einfo := e
        status := st, sg := sg, sgl := sgl, prefetch := [], pc := x.tvec, pair := none, frame := none, run := .running
        wait := .none, group := gr } ∧
      st.getLsbD 0 = true ∧ st.getLsbD 1 = c.status.getLsbD 0 ∧ st.getLsbD 2 = true ∧
      (∀ i, 3 ≤ i → st.getLsbD i = c.status.getLsbD i) ∧
      (c.status.getLsbD 0 = false → sg[0] = BitVec.ofNat 64 (x.ssbase + (n + 1) * x.ssize) ∧ sgl[0] = labelTrue ∧
        sg[1] = c.sg[1] ∧ sgl[1] = c.sgl[1]) ∧
      (c.status.getLsbD 0 = true → sg = c.sg ∧ sgl = c.sgl)) ∧
    (∀ m, m ≠ n → ∃ gr, t.core m = { s.core m with group := gr }) ∧ t = { s with cores := t.cores }

/-- A trap taken while INTRAP is 1 or TVEC is 0 is fatal: no trap register of the core changes, the context is FAULTED and H is told,
every core of the context that is not RETIRED halts, and every launch queue of the context stops (R337, R335). -/
def Obligations.FatalTrap : Prop :=
  ∀ (s : State) (n : Nat) (epc : Word) (k : Cause) (a v : Bool) (e : Word),
    (s.core n).status.getLsbD 2 = true ∨ (s.ctx (s.ctxOf n)).tvec = 0 →
    let x := s.ctxOf n
    let t := s.takeTrap n epc k a v e
    (t.ctx x).st = .faulted ∧ Note.contextFaulted x ∈ t.notes ∧
    (∀ q ∈ (t.ctx x).queues, q.2.stopped = true) ∧
    (∀ m ∈ s.coresOfCtx x, (s.core m).run ≠ .retired → (t.core m).run = .halted) ∧
    ∀ m, (t.core m).epc = (s.core m).epc ∧ (t.core m).ecause = (s.core m).ecause ∧ (t.core m).einfo = (s.core m).einfo ∧
      (t.core m).status = (s.core m).status ∧ (t.core m).g = (s.core m).g

/-- BRK takes the trap BRK at its own address with EINFO 0; TRAP the trap TRAP with its operand in EINFO and EPC behind it (R336). At S,
ERET goes to EPC, LVL taking PLVL and INTRAP cleared (R342); HALT, with nothing queued and no stop armed, halts the core at the next word
(R374). -/
def Obligations.TrapsOfTheProgram : Prop :=
  ∀ (s : State) (n : BitVec 6),
    let c := s.me
    (c.frame = none → exec .brk s = .next ((s.keepLoss s).takeTrap s.cur c.pc .brk false false 0)) ∧
    exec (.trap n) s = .next (s.takeTrap s.cur (c.pc + 4) .trap false false (n.zeroExtend 64)) ∧
    (c.atS = true → c.epc.toNat % 4 = 0 → exec .eret s = .next (s.modCore s.cur (fun d => { d with
      run := .running, wait := .none, pair := none, prefetch := [], pc := d.epc
      status := (d.status &&& ~~~0x5#64) ||| (if d.status.getLsbD 1 then 0x1 else 0) }))) ∧
    (c.atS = true → Idle c → (s.ctx (s.ctxOf s.cur)).tracectl.getLsbD 7 = false →
      exec .halt s = .next (s.modCore s.cur (fun d => { d.past with run := .halted })))

/-- At K, ERET, HALT, the TLB invalidations, FREPLAY, WAYSET, the S-only control-register writes of R82 and its S-only reads raise PROTECT
with the instruction's word, and change nothing else (R60). -/
def Obligations.PrivilegedAtK : Prop :=
  ∀ (s : State) (d ra : GReg) (r : BitVec 6), s.me.atS = false →
    let p (i : Instr) : Prop := Traps i s .protect (.word false)
    p .eret ∧ p .halt ∧ p (.tlbinvPage ra) ∧ p .tlbinvContext ∧ p .tlbinvPartition ∧ p .freplay ∧ p (.wayset d ra) ∧
    p (.mtcLspace ra) ∧ p (.mtcFbstat ra) ∧ p (.mtcTracectl ra) ∧
    (24 ≤ r.toNat → r.toNat ≤ 32 → p (.mfc d r)) ∧
    (r = 2 ∨ r = 5 ∨ r = 15 ∨ (24 ≤ r.toNat ∧ r.toNat ≤ 32) → p (.mtc r ra))

/-- MFC of a control register that the core's level may read completes with the register's value under TRUE and the guard's factor: CORE and
CLUSTER as R91 gives them, BRBUF as R109 reads it, the others as they stand; MFC of FFLAGS completes once no queued tile instruction
is left (R35). -/
def Obligations.ReadControl : Prop :=
  ∀ (s : State) (d : GReg) (r : BitVec 6),
    let c := s.me
    let x := s.ctx (s.ctxOf s.cur)
    let reads (n : Nat) (v : Word) : Prop := r.toNat = n → (24 ≤ n → c.atS = true) → Gives (.mfc d r) s d v []
    reads 0 (BitVec.ofNat 64 (s.cur % 2 ^ 14 * 2 ^ 18 + s.lcore s.cur % 2 ^ 14)) ∧
    reads 1 (BitVec.ofNat 64 ((if s.cur / 8 % 64 < 32 then 2 ^ 11 else 0) + s.lclus (s.cur / 8) % 2 ^ 11)) ∧
    reads 2 c.domain ∧ reads 3 c.ssc ∧ reads 4 c.shape ∧ reads 5 c.vshare ∧ reads 7 c.frm ∧ reads 8 c.srseed ∧
    reads 9 c.fmta ∧ reads 10 c.fmtb ∧ reads 11 c.scla ∧ reads 12 c.sclb ∧ reads 13 c.supa ∧ reads 14 c.supb ∧
    reads 15 c.mweight ∧ reads 16 x.lspace ∧ reads 17 c.lflags ∧ reads 18 (c.focus.extractLsb' 0 64) ∧
    reads 19 (c.focus.extractLsb' 64 64) ∧ reads 20 c.brbits ∧ reads 21 c.brptr ∧ reads 22 c.bwbuf ∧ reads 23 c.bwptr ∧
    reads 24 x.tvec ∧ reads 25 c.epc ∧ reads 26 c.ecause ∧ reads 27 c.einfo ∧ reads 28 c.status ∧ reads 29 x.fbdepth ∧
    reads 30 x.fbstat ∧ reads 31 c.preempt ∧ reads 32 x.tracectl ∧
    (c.vq = [] → Gives (.mfcFflags d) s d c.fflags [])

/-- MTC writes a value that the register's rule admits, and the instruction goes on; a value that it does not admit raises ILLEGAL, with
EINFO[40] for DOMAIN and SHAPE alone, and changes nothing. The field of DOMAIN that holds KCLUS and the read-only bits of STATUS and
PREEMPT keep their contents (that a reserved bit of DOMAIN sets EINFO[40] too is the model's reading, notes/assumptions/14.md).
MTC of FFLAGS with only its five bits completes once no queued tile instruction is left; MTC of SRSEED stores the value, or the reset
value for zero (R30); at S, MTC of LSPACE with EN 0, where none was active and no label product of the core is in flight, completes and
every Fuller of the context installs the empty set; FBSTAT and TRACECTL take their writes by R324 and R376; TVEC takes an aligned 48-bit address,
and FBDEPTH a depth and a buffer that R323 admits (that the buffer's headers then start at zero is the model's reading,
notes/assumptions/106.md). -/
def Obligations.WriteControl : Prop :=
  (∀ (s : State) (ra : GReg) (r : BitVec 6),
    let w := s.me.rg ra
    let v := w.toNat
    let sets (n : Nat) (ok : Prop) (mark : Bool) (f : Core → Core) : Prop := r.toNat = n →
      (n = 2 ∨ n = 5 ∨ n = 15 ∨ 24 ≤ n → s.me.atS = true) →
      (ok → Sets (.mtc r ra) s f) ∧ (¬ok → Traps (.mtc r ra) s .illegal (.word mark))
    sets 2 (v < 2 ^ 44 ∧ domainOk w = true) true (fun c => { c with
      domain := (c.domain &&& ~~~0x1FFFFFFFF#64) ||| (w &&& 0x1FFFFFFFF#64) }) ∧
    sets 4 (shapeOk w = true) true (fun c => { c with shape := w }) ∧
    sets 5 (1 ≤ v ∧ v ≤ 15) false (fun c => { c with vshare := w }) ∧
    sets 7 (v ≤ 4) false (fun c => { c with frm := w }) ∧
    sets 9 (v ≤ 7) false (fun c => { c with fmta := w }) ∧ sets 10 (v ≤ 7) false (fun c => { c with fmtb := w }) ∧
    sets 11 (sclOk w = true) false (fun c => { c with scla := w }) ∧
    sets 12 (sclOk w = true) false (fun c => { c with sclb := w }) ∧
    sets 13 (supOk w = true) false (fun c => { c with supa := w }) ∧
    sets 14 (supOk w = true) false (fun c => { c with supb := w }) ∧
    sets 15 (1 ≤ v ∧ v ≤ 15) false (fun c => { c with mweight := w }) ∧
    sets 17 (v ≤ 7) false (fun c => { c with lflags := w }) ∧
    sets 18 True false (fun c => { c with focus := c.focus.extractLsb' 64 64 ++ w }) ∧
    sets 19 True false (fun c => { c with focus := w ++ c.focus.extractLsb' 0 64 }) ∧
    sets 20 True false (fun c => { c with brbuf := w }) ∧ sets 22 True false (fun c => { c with bwbuf := w }) ∧
    sets 21 (v / 2 ^ 32 % 2 ^ 7 ≤ 64 ∧ v < 2 ^ 39 ∧ v / 2 ^ 17 % 2 ^ 15 = 0) false (fun c => { c with brptr := w }) ∧
    sets 23 (v < 2 ^ 35 ∧ v / 2 ^ 17 % 2 ^ 15 = 0) false (fun c => { c with bwptr := w }) ∧
    sets 26 (v / 2 ^ 9 % 2 ^ 54 = 0) false (fun c => { c with ecause := w }) ∧
    sets 25 (v < 2 ^ 48) false (fun c => { c with epc := w }) ∧ sets 27 True false (fun c => { c with einfo := w }) ∧
    sets 28 (w &&& ~~~0x87#64 = 0) false (fun c => { c with status := (c.status &&& ~~~0x6#64) ||| (w &&& 0x6#64) }) ∧
    sets 31 (v ≤ 7) false (fun c => { c with preempt := (c.preempt &&& ~~~0x2#64) ||| (w &&& 0x2#64) })) ∧
  (∀ (s : State) (ra : GReg),
    let w := s.me.rg ra
    let x := s.ctxOf s.cur
    (w.toNat < 32 → s.me.vq = [] → Sets (.mtcFflags ra) s (fun c => { c with fflags := w })) ∧
    Sets (.mtcSrseed ra) s (fun c => { c with srseed := if w = 0 then 0x6C8E9CF5701342B1 else w }) ∧
    (s.me.atS = true →
      (w = 0 → Idle s.me → lspaceEn (s.ctx x).lspace = false → ∃ t, exec (.mtcLspace ra) s = .next t ∧ (t.ctx x).lspace = 0 ∧
        (∀ k ∈ s.clustersOfCtx x, (t.cluster k).filter = [] ∧ (t.cluster k).pcache = []) ∧ t.me = s.me.past) ∧
      exec (.mtcFbstat ra) s =
        .next ((s.clearFaults x w).modCore s.cur Core.past) ∧
      (s.tracectlOk x w = true → exec (.mtcTracectl ra) s = .next ((s.writeTracectl x w).modCore s.cur Core.past)) ∧
      (w.toNat < 2 ^ 48 → w.toNat % 4 = 0 →
        exec (.mtc 24 ra) s = .next ((s.modCtx x (fun c => { c with tvec := w })).modCore s.cur Core.past)) ∧
      (s.fbdepthOk x w = true →
        exec (.mtc 29 ra) s = .next ((s.setFbdepth x w).modCore s.cur Core.past))))

/-- At S, where no access of a core of the partition is pending, TLBINV completes: the entries of its extent, a page, a context or a partition,
leave every TLB of the package, those of the clusters and those of the layers (R329). FREPLAY completes: every access of the context that stands at a missing page is made again (R330). -/
def Obligations.Translations : Prop :=
  ∀ (s : State) (ra : GReg), s.me.atS = true → Idle s.me →
    let x := s.ctxOf s.cur
    let still := ∀ n, (s.core n).sb = [] ∧ (s.core n).nt = [] ∧ (s.core n).mq = [] ∧ s.awaitsCounter n = false
    let va := (s.me.rg ra).toNat
    (still → va < 2 ^ 48 → inWindows va = false → ∃ t, exec (.tlbinvPage ra) s = .next t ∧ t.me.pc = s.me.past.pc ∧
      (∀ k e, e ∈ (t.cluster k).tlb → ¬(e.part = (s.ctx x).part ∧ e.ctx = x ∧ va / e.size = e.va / e.size)) ∧
      (∀ l e, e ∈ (t.layer l).tlb → ¬(e.part = (s.ctx x).part ∧ e.ctx = x ∧ va / e.size = e.va / e.size))) ∧
    (still → ∃ t, exec .tlbinvContext s = .next t ∧ t.me.pc = s.me.past.pc ∧
      (∀ k e, e ∈ (t.cluster k).tlb → ¬(e.part = (s.ctx x).part ∧ e.ctx = x)) ∧
      (∀ l e, e ∈ (t.layer l).tlb → ¬(e.part = (s.ctx x).part ∧ e.ctx = x))) ∧
    (still → ∃ t, exec .tlbinvPartition s = .next t ∧ t.me.pc = s.me.past.pc ∧
      (∀ k e, e ∈ (t.cluster k).tlb → e.part ≠ (s.ctx x).part) ∧
      (∀ l e, e ∈ (t.layer l).tlb → e.part ≠ (s.ctx x).part)) ∧
    (∃ t, exec .freplay s = .next t ∧ t.me.pc = s.me.past.pc ∧
      ∀ n ∈ s.coresOfCtx x, n ≠ s.cur → ((s.core n).run = .faultwait → (t.core n).run = .running) ∧ (t.core n).paused = [])

/-- Wherever the effective address g[A] + sext(OFF) × w is none of the event window, resolves and its bytes can be read without an
uncorrectable error, LD, LD.acq (with no
tile memory instruction queued) and LDNT complete: gd takes the bytes, extended by the size, under the product of the tags read and of
Label(ga) (R210, R212, R180). -/
def Obligations.Loads : Prop :=
  ∀ (s s1 s2 t : State) (z : LdSize) (d ra : GReg) (o : BitVec 11) (loc : Loc) (v : Nat) (tags : List Label) (l : Label),
    let n := LdSize.bytes z
    let ea := s.me.rg ra + o.signExtend 64 * BitVec.ofNat 64 n
    (∀ off, s.target s.cur ea ≠ .event off) → resolve .read ea n s = .ok loc s1 →
    let gives (i : Instr) (nt : Bool) : Prop := loadFrom ea loc n nt s1 = .ok ⟨v, tags, false⟩ s2 →
      (d = 0 → exec i s = .next (s2.modCore s2.cur Core.past)) ∧
      (d ≠ 0 → formLabel (tags ++ [s.me.lg ra]) s2 = .ok l t →
        exec i s = .next (t.modCore t.cur (fun c => (c.wg d (LdSize.extend z v) l).past)))
    gives (.ld z d ra o) false ∧ (s.me.tileMem = false → gives (.ldAcq z d ra o) false) ∧ gives (.ldnt z d ra o) true

/-- With nothing buffered or queued and TRUE labels, a load of the own local store completes: gd takes the w bytes at the address, the first
the least significant, sign- or zero-extended by the size; memory, tags and every other register are unchanged. Where the word holds an
uncorrectable error, the load raises MACHINE_CHECK at its address (R203), its read being done.
A load of the own local store at the address of the store just issued, of the same size, takes that store's data from the store buffer
before it performs (R205): the store then the load complete, and gd holds the low bytes stored. -/
def Obligations.LoadLocal : Prop :=
  (∀ (s : State) (z : LdSize) (d ra : GReg) (o : BitVec 11) (off : Nat),
    let n := LdSize.bytes z
    let ea := s.me.rg ra + o.signExtend 64 * BitVec.ofNat 64 n
    LocalAt ea n off → Still s.me →
    let v := ((List.range n).map (fun i => (s.mem.get 0 (lsBase s.cur + off + i)).toNat * 256 ^ i)).sum
    let x : Word := match z with
      | .s8 => BitVec.ofInt 64 (if v < 2 ^ 7 then v else v - 2 ^ 8)
      | .s16 => BitVec.ofInt 64 (if v < 2 ^ 15 then v else v - 2 ^ 16)
      | .s32 => BitVec.ofInt 64 (if v < 2 ^ 31 then v else v - 2 ^ 32)
      | _ => BitVec.ofNat 64 v
    ∀ i, i = .ld z d ra o ∨ i = .ldAcq z d ra o ∨ i = .ldnt z d ra o → s.me.guardLabel = labelTrue → s.me.lg ra = labelTrue →
      (∀ w, lsBase s.cur / 4 ≤ w → w < lsBase (s.cur + 1) / 4 → s.tags.get labelTrue w = labelTrue) →
      (TrueLocal s s.cur → ∃ t, exec i s = .next t ∧ (d ≠ 0 → t.me.rg d = x ∧ t.me.lg d = labelTrue) ∧ Frame s t d ∧ t.mem = s.mem ∧ t.tags = s.tags) ∧
      (s.damaged.get false ((lsBase s.cur + off) / 4) = true → TrapsFrom i s (s.observe s.cur) .machineCheck (.other ea false))) ∧
  (∀ (s : State) (z : StSize) (y : LdSize) (rd d ra : GReg) (o : BitVec 11) (off : Nat),
    let n := StSize.bytes z
    LdSize.bytes y = n → LocalAt (s.me.rg ra + o.signExtend 64 * BitVec.ofNat 64 n) n off →
    s.me.sb.length < 16 → s.me.nt = [] → s.me.tileMem = false → s.me.mstQueued = false → TrueLocal s s.cur → s.me.pair = none →
    s.me.lg ra = labelTrue → s.me.lg rd = labelTrue → d ≠ 0 →
    ∃ t u, exec (.st z rd ra o) s = .next t ∧ exec (.ld y d ra o) t = .next u ∧
      u.me.rg d = LdSize.extend y ((s.me.rg rd).toNat % 2 ^ (8 * n)) ∧ u.mem = s.mem)

/-- Wherever the address is none of the event window and resolves for a write, the label Prod(Label(gd), Label(ga)) can be formed and is TRUE
on a plain page, and the buffer has room, ST and ST.rel complete: the store stands last in the store buffer, and nothing else changes.
STNT to global memory, with no combining buffer in use, puts it alone into one; to a window it is a store (R205, R213). -/
def Obligations.Stores : Prop :=
  ∀ (s s1 t : State) (z : StSize) (d ra : GReg) (o : BitVec 11) (loc : Loc) (l : Label),
    let n := StSize.bytes z
    let ea := s.me.rg ra + o.signExtend 64 * BitVec.ofNat 64 n
    let e : SbEntry := ⟨.store, ea.toNat, loc, n, s.me.rg d, l⟩
    (∀ off, s.target s.cur ea ≠ .event off) → resolve .write ea n s = .ok loc s1 →
    formLabel [s.me.lg d, s.me.lg ra] s1 = .ok l t → (loc.plain = true → l = labelTrue) → Room t ea n →
    let buffered := t.modCore t.cur (fun c => { c with sb := c.sb ++ [e] }.past)
    exec (.st z d ra o) s = .next buffered ∧ exec (.stRel z d ra o) s = .next buffered ∧
    (loc.place = .local ∨ loc.place = .scratch → exec (.stnt z d ra o) s = .next buffered) ∧
    (loc.place ≠ .local → loc.place ≠ .scratch → t.me.nt = [] → t.me.sb = [] →
      exec (.stnt z d ra o) s = .next (t.modCore t.cur (fun c =>
        { c with nt := [⟨lineOf loc.key, [⟨ea.toNat, loc, n, s.me.rg d, l⟩]⟩] }.past)))

/-- STORE_PERFORM of a core that is not in PAUSE and whose oldest entry is a store of whole words at a local store: the entry leaves, its bytes hold the data, the
first the least significant, its words carry its label, and every byte and tag elsewhere, every register of the core, and the order of
the other entries are unchanged; a word overwritten whole is repaired (R205, R180, R203). STNT_BUFFER_PERFORM of a core's one buffer, holding one store of whole words to host memory
that its cluster may not cache and whose link carries traffic: the buffer is empty, the bytes hold the data, and every other byte is
unchanged (R213). -/
def Obligations.StorePerforms : Prop :=
  ∀ (s : State) (n line : Nat), n < nCores → s.Canonical → (s.core n).paused = [] →
    (∀ u, (s.core n).wait ≠ .pause u) →
    (∀ (e : SbEntry) (rest : List SbEntry), (s.core n).sb = e :: rest → e.kind = .store → e.loc.place = .local →
      e.loc.plain = false → (e.size = 4 ∨ e.size = 8) → e.loc.key % 4 = 0 →
      ∃ t, exec (.storePerform n) s = .next t ∧ (t.core n).sb = rest ∧ (t.core n).g = (s.core n).g ∧ (t.core n).gl = (s.core n).gl ∧
        (t.core n).pc = (s.core n).pc ∧ t.damaged.get false (e.loc.key / 4) = false ∧
        (∀ i, i < e.size → t.mem.get 0 (e.loc.key + i) = e.data.extractLsb' (8 * i) 8) ∧
        (∀ a, a < e.loc.key ∨ e.loc.key + e.size ≤ a → t.mem.get 0 a = s.mem.get 0 a) ∧
        (∀ w, t.tags.get labelTrue w = if e.loc.key / 4 ≤ w ∧ w < (e.loc.key + e.size) / 4 then e.label else s.tags.get labelTrue w)) ∧
    (∀ e : NtStore, (s.core n).nt = [⟨line, [e]⟩] → e.loc.place = .hostUncached → e.loc.plain = false →
      (e.size = 4 ∨ e.size = 8) → e.loc.key % 4 = 0 → linkUp s e.loc = true →
      ∃ t, exec (.stntBufferPerform n line) s = .next t ∧ (t.core n).nt = [] ∧
        (∀ i, i < e.size → t.mem.get 0 (e.loc.key + i) = e.data.extractLsb' (8 * i) 8) ∧
        (∀ a, a < e.loc.key ∨ e.loc.key + e.size ≤ a → t.mem.get 0 a = s.mem.get 0 a))

/-- Every load and store whose effective address is not a multiple of its size, and every AMO, RED, MEMRED or MEMCAS whose address is not,
raises MISALIGN with that address in EINFO, LD.acq behind the queued tile memory instructions that it waits for; MEMRED and MEMCAS where
the address lies in no window, which they refuse first; a counter instruction does so at an address that is no multiple of 64. Nothing
else changes (R204, R211, R250). -/
def Obligations.Misaligned : Prop :=
  ∀ (s : State) (zl : LdSize) (zs : StSize) (za : AmoSize) (d ra rb rc : GReg) (o : BitVec 11) (q : AmoOrder) (m : MemredOp),
    let a := s.me.rg ra
    let traps (i : Instr) (ea : Word) : Prop := Traps i s .misalign (.other ea false)
    let el := a + o.signExtend 64 * BitVec.ofNat 64 (LdSize.bytes zl)
    let es := a + o.signExtend 64 * BitVec.ofNat 64 (StSize.bytes zs)
    (el.toNat % LdSize.bytes zl ≠ 0 → traps (.ld zl d ra o) el ∧ traps (.ldnt zl d ra o) el ∧
      (s.me.tileMem = false → traps (.ldAcq zl d ra o) el)) ∧
    (es.toNat % StSize.bytes zs ≠ 0 → traps (.st zs d ra o) es ∧ traps (.stRel zs d ra o) es ∧ traps (.stnt zs d ra o) es) ∧
    (a.toNat % AmoSize.bytes za ≠ 0 →
      traps (.amoAdd q za d ra rb) a ∧ traps (.amoAnd q za d ra rb) a ∧ traps (.amoOr q za d ra rb) a ∧
      traps (.amoXor q za d ra rb) a ∧ traps (.amoMin q za d ra rb) a ∧ traps (.amoMax q za d ra rb) a ∧
      traps (.amoMinn q za d ra rb) a ∧ traps (.amoMaxn q za d ra rb) a ∧ traps (.amoSwap q za d ra rb) a ∧
      traps (.amoCas q za d ra rb) a ∧ traps (.redAdd za ra rb) a ∧ traps (.redAnd za ra rb) a ∧ traps (.redOr za ra rb) a ∧
      traps (.redXor za ra rb) a ∧ traps (.redMin za ra rb) a ∧ traps (.redMax za ra rb) a) ∧
    (a.toNat % 4 ≠ 0 → traps (.amoFadd q d ra rb) a ∧ traps (.redFadd ra rb) a) ∧
    (a.toNat % 64 ≠ 0 → s.me.wait = .none →
      traps (.cinit ra rb rc) a ∧ traps (.cdec d ra rb) a ∧ traps (.cinc ra rb) a ∧ traps (.cread d ra) a ∧ traps (.clocal d ra) a) ∧
    (a.toNat % MemredOp.bytes m ≠ 0 → (∃ g, s.target s.cur a = .global g) → traps (.memred m ra rb) a) ∧
    (a.toNat % 8 ≠ 0 → (∃ g, s.target s.cur a = .global g) → traps (.memcas d ra rb) a)

/-- With nothing buffered or queued and TRUE labels, every AMO of the own local store completes in one event: gd takes the old value,
sign-extended, zero-extended for MINN, MAXN and FADD; the word takes the operation's value, for CAS only where the old value is the
one gd held; every other byte and register is unchanged (R235, R236). -/
def Obligations.Atomics : Prop :=
  ∀ (s : State) (q : AmoOrder) (z : AmoSize) (d ra rb : GReg) (off : Nat),
    let w := AmoSize.bytes z
    let ok (w : Nat) : Prop := LocalAt (s.me.rg ra) w off
    let old (w : Nat) := readNat s.mem (lsBase s.cur + off) w
    let b := (s.me.rg rb).toNat
    Still s.me → TrueLocal s s.cur → s.Canonical → s.me.guardLabel = labelTrue → s.me.wait = .none → s.me.run = .running →
    s.me.lg ra = labelTrue → s.me.lg rb = labelTrue → s.me.lg d = labelTrue →
    let does (i : Instr) (op : MemOp) (zx : Bool) : Prop := AmoDoes i s d w off (old w) (amoNew op w (old w) b) zx
    (ok w →
      does (.amoAdd q z d ra rb) .add false ∧ does (.amoAnd q z d ra rb) .and false ∧ does (.amoOr q z d ra rb) .or false ∧
      does (.amoXor q z d ra rb) .xor false ∧ does (.amoMin q z d ra rb) .min false ∧ does (.amoMax q z d ra rb) .max false ∧
      does (.amoMinn q z d ra rb) .minn true ∧ does (.amoMaxn q z d ra rb) .maxn true ∧
      does (.amoSwap q z d ra rb) .swap false ∧
      AmoDoes (.amoCas q z d ra rb) s d w off (old w)
        (if old w = (s.me.rg d).toNat % 2 ^ (8 * w) then b % 2 ^ (8 * w) else old w) false) ∧
    (ok 4 → AmoDoes (.amoFadd q d ra rb) s d 4 off (old 4) (amoNew .fadd 4 (old 4) b) true)

/-- A RED whose address resolves for a write and needs no feature that its endpoint lacks, and a MEMRED or MEMSAX whose addresses resolve for
their banks, complete where the label can be formed and is TRUE on a plain page and the buffer has room: the operation stands last in
the store buffer with its operand and label, and nothing else changes (R238, R240).
MEM_BANK_EXECUTE of a MEMRED at an untracked word of a plain page performs the operation there and the entry leaves; MEMCAS at such a word,
undamaged, where the line is no counter and no request waits for it, completes: gd takes the old value, and the word the new one where the old value is the expected one (R240). -/
def Obligations.Reductions : Prop :=
  (∀ (s s1 s2 t : State) (z : AmoSize) (m : MemredOp) (ra rb rc : GReg) (loc lx : Loc) (l : Label),
    let ea := s.me.rg ra
    let push (i : Instr) (e : SbEntry) : Prop := exec i s = .next (t.modCore t.cur (fun c => { c with sb := c.sb ++ [e] }.past))
    (loc.plain = true → l = labelTrue) →
    (∀ w i op, (i, op, w) ∈ [(Instr.redAdd z ra rb, MemOp.add, AmoSize.bytes z), (.redAnd z ra rb, .and, AmoSize.bytes z),
        (.redOr z ra rb, .or, AmoSize.bytes z), (.redXor z ra rb, .xor, AmoSize.bytes z), (.redMin z ra rb, .min, AmoSize.bytes z),
        (.redMax z ra rb, .max, AmoSize.bytes z), (.redFadd ra rb, .fadd, 4)] →
      resolve .write ea w s = .ok loc s1 → farAtomic ea op loc false s1 = .ok () s1 →
      formLabel [s.me.lg rb, s.me.lg ra] s1 = .ok l t → Room t ea w →
      push i ⟨.red op, ea.toNat, loc, w, s.me.rg rb, l⟩) ∧
    (resolveBank .write ea (MemredOp.bytes m) s = .ok loc s1 → formLabel [s.me.lg rb, s.me.lg ra] s1 = .ok l t →
      Room t ea (MemredOp.bytes m) →
      push (.memred m ra rb) ⟨.memred (MemredOp.op m), ea.toNat, loc, MemredOp.bytes m, s.me.rg rb, l⟩) ∧
    (resolveBank .write ea 64 s = .ok loc s1 → resolveBank .read (s.me.rg rb) 64 s1 = .ok lx s2 → lx.place = .untracked →
      formLabel [s.me.lg rc, s.me.lg ra, s.me.lg rb] s2 = .ok l t → Room t ea 64 → t.me.ntCovers (s.me.rg rb).toNat 64 = false →
      push (.memsax ra rb rc) ⟨.memsax lx ((s.me.rg rc).truncate 32), ea.toNat, loc, 64, 0, l⟩)) ∧
  (∀ (s s1 : State) (n : Nat) (e : SbEntry) (rest : List SbEntry) (op : MemOp) (d ra rb : GReg) (loc : Loc),
    (n < nCores → (s.core n).paused = [] → (∀ u, (s.core n).wait ≠ .pause u) → (s.core n).sb = e :: rest → e.kind = .memred op → e.loc.place = .untracked →
      e.loc.plain = true → s.blocking = none → s.inCounter e.loc = false →
      (s.dir (lineOf e.loc.key)).queue = [] →
      ∃ t, exec (.memBankExecute n) s = .next t ∧ (t.core n).sb = rest ∧
        t.mem = writeNat s.mem e.loc.key (memOp op e.size (readNat s.mem e.loc.key e.size) e.data.toNat) e.size) ∧
    (resolveBank .write (s.me.rg ra) 8 s = .ok loc s1 → loc.place = .untracked → loc.plain = true → s1.blocking = none → s1.damaged = [] → s1.inCounter loc = false →
      (s1.dir (lineOf loc.key)).queue = [] →
      Idle s1.me → s1.me.guardLabel = labelTrue → s1.me = s.me → s1.cur = s.cur → s1.mem = s.mem →
      s.me.lg ra = labelTrue → s.me.lg rb = labelTrue → s.me.lg d = labelTrue →
      let old := readNat s.mem loc.key 8
      ∃ t, exec (.memcas d ra rb) s = .next t ∧ (d ≠ 0 → t.me.rg d = BitVec.ofNat 64 old) ∧
        t.mem = if old = (s.me.rg d).toNat then writeNat s.mem loc.key (s.me.rg rb).toNat 8 else s.mem))

/-- Where the shape fits the width (R118), the queue has room and the governing predicate is at hand, each tile instruction on tiles enters
the queue: it samples the shape, the mode and the seed, reserves a draw for each position where it rounds and FRM is SR, writes its
destination's label, with the old label where old elements stay, and goes on (R121, R120, R31); the beats are those of R123. So do the
predicate operations, with one beat (R132), VLSET of TRUE or FALSE (R195), VST whose address and stride pass the checks of R135, and
VSCATTER whose base lies aligned in a local store with at most 128 positions (R136). The order of the label's factors is the model's choice
(notes/assumptions/114.md), so are the draws reserved by VMIN, VMAX and the special functions, none, and by VRED, for ADD alone
(notes/assumptions/109.md, 64.md, 66.md), and VCMP and a predicate operation into p0, whose label is formed all the same
(notes/assumptions/62.md). -/
def Obligations.TilesEnter : Prop :=
  ∀ (s : State) (t z : ETy) (p : PReg) (d a b : VReg) (g h : GLow) (k : VCond) (o : VredOp)
    (q x y : PReg) (n : BitVec 7) (v : Bool) (key off : Nat),
    let c := s.me
    let e := elems c
    let lane (w : Nat) : Nat := max 1 ((e * w + 511) / 512)
    let w := bitsOf t
    let to' (c : Core) (l : Label) : Core := c.wvl d l
    let two (i : Instr) (draws : Nat) : Prop := Enters i s w (lane w) draws 0 0 (some (p, d)) [c.lv a, c.lv b, c.lp p] to'
    let one (i : Instr) : Prop := Enters i s w (lane w) 0 0 0 (some (p, d)) [c.lv a, c.lp p] to'
    let pred (i : Instr) (ls : List Label) : Prop := Enters i s 0 1 0 0 0 none ls (fun c l => c.wpl q l)
    let l : Label := (c.rg (lowG g)).truncate 16
    let three (i : Instr) : Prop := Enters i s w (lane w) e 0 0 (some (p, d)) [c.lv a, c.lv b, c.lv d, c.lp p] to'
    two (.vaddInt t p d a b) 0 ∧ two (.vsubInt t p d a b) 0 ∧ two (.vmulInt t p d a b) 0 ∧ two (.vminInt t p d a b) 0 ∧
    two (.vmaxInt t p d a b) 0 ∧ two (.vand t p d a b) 0 ∧ two (.vor t p d a b) 0 ∧ two (.vxor t p d a b) 0 ∧
    two (.vshl t p d a b) 0 ∧ two (.vshr t p d a b) 0 ∧ two (.vsra t p d a b) 0 ∧
    two (.vaddFloat t p d a b) e ∧ two (.vsubFloat t p d a b) e ∧ two (.vmulFloat t p d a b) e ∧
    two (.vminFloat t p d a b) 0 ∧ two (.vmaxFloat t p d a b) 0 ∧ three (.vfma t p d a b) ∧ three (.vfms t p d a b) ∧
    one (.vabsInt t p d a) ∧ one (.vnegInt t p d a) ∧ one (.vabsFloat t p d a) ∧ one (.vnegFloat t p d a) ∧
    Enters (.vbcast t p d g) s w (lane w) 0 (c.rg (lowG g)) 0 (some (p, d)) [c.lg (lowG g), c.lp p] to' ∧
    Enters (.vcmp k t p q a b) s w (lane w) 0 0 0 none [c.lv a, c.lv b, c.lp p] (fun c l => c.wpl q l) ∧
    Enters (.vsel t p d a b) s w (lane w) 0 0 0 none [c.lv a, c.lv b, c.lp p] to' ∧
    Enters (.vred o t p d a) s w (lane w + 1) (if t.isFloat = true ∧ o = .add then e else 0) 0 0 none [c.lv a, c.lp p] to' ∧
    Enters (.vtrans t d a) s w (lane w + 1) 0 0 0 none [c.lv a] to' ∧
    Enters (.vrot t d a n) s w (lane w + 1) 0 0 0 none [c.lv a] to' ∧
    Enters (.vcvt t z p d a) s (max w (bitsOf z)) (lane (max w (bitsOf z)) + 1) e 0 0 (some (p, d)) [c.lv a, c.lp p] to' ∧
    (e % 64 = 0 → Enters (.vquant t z d a b) s (bitsOf z) (lane (bitsOf z) + 1) e 0 0 none [c.lv a]
      (fun c l => (c.wvl d l).wvl b l)) ∧
    (e % 64 = 0 → Enters (.vdeq t z d a b) s w (lane w + 1) e 0 0 none [c.lv a, c.lv b] to') ∧
    (∀ i ∈ [Instr.vexp t p d a, .vlog t p d a, .vrcp t p d a, .vrsq t p d a, .vsqrt t p d a, .vsin t p d a, .vcos t p d a,
        .vtanh t p d a, .vsigm t p d a, .vgelu t p d a],
      Enters i s w ((e + 15) / 16) 0 0 0 (some (p, d)) [c.lv a, c.lp p] to') ∧
    pred (.pand q x y) [c.lp x, c.lp y] ∧ pred (.por q x y) [c.lp x, c.lp y] ∧ pred (.pxor q x y) [c.lp x, c.lp y] ∧
    pred (.pnot q x) [c.lp x] ∧ pred (.pset q v) [] ∧
    (l = labelTrue ∨ l = labelFalse → Enters (.vlset d a g) s 0 1 0 0 (c.rg (lowG g)) none [l] to') ∧
    (c.mstQueued = false → rowChecks t (c.rg (lowG g)) (h != 0) (c.rg (lowG h)) s = .ok key s →
      Enters (.vst t p d g h) s w (lane w) 0 (c.rg (lowG g)) (c.rg (lowG h)) none
        [c.lv d, c.lg (lowG g), c.lg (lowG h), c.lp p] (fun c _ => c)) ∧
    (c.mstQueued = false → 8 ≤ w → (c.rg (lowG g)).toNat = 0x7F0000000000 + off → off < 2 ^ 17 → off % (w / 8) = 0 → e ≤ 128 →
      Enters (.vscatter t p d g b) s w ((e + 15) / 16) 0 (c.rg (lowG g)) 0 none
        [c.lv d, c.lg (lowG g), c.lp p, c.lv b] (fun c _ => c))

/-- PCNT and PFIRST, with room in the vector queue, enter it with one beat under the label formed and their core waits; TILE_COMPLETE of
their entry gives the core the number of set bits of the predicate among the shape's positions, the first of them, or E where there is
none; the instruction then completes with that value under the label it kept (R132); that the core itself waits there is the model's
choice (notes/assumptions/65.md). VSHAPE writes SHAPE where the value is valid, else raises ILLEGAL with the mark (R119).
VLGET gives the tile's label as a value; VLVIS, with the queue empty, writes the whole predicate by the visibility of the tile's label. -/
def Obligations.TilesAtIssue : Prop :=
  ∀ (s t u : State) (g : GLow) (a n : PReg) (v : VReg) (b : Bool) (l : Label),
    let c := s.me
    let r := (c.rg (lowG g)).toNat % 128
    let k := (c.rg (lowG g)).toNat / 2 ^ 16 % 512
    let valid := (c.rg (lowG g)).toNat = r + 2 ^ 16 * k ∧ 1 ≤ r ∧ r ≤ 64 ∧ 1 ≤ k ∧ k ≤ 256 ∧ r * k ≤ 256
    (∀ i, i = .pcnt g a ∨ i = .pfirst g a →
      ((∀ w, c.wait ≠ .granted w) → c.vq.length < 16 → lowG g ≠ 0 → formLabel [c.lp a] s = .ok l t →
        ∃ x, exec i s = .next x ∧ x.me.pc = c.pc ∧ x.me.run = .stalled ∧ x.me.wait = .result ∧ x.me.formed.1 = l ∧
          x.me.vq.map (·.op) = c.vq.map (·.op) ++ [i] ∧ ∀ e ∈ x.me.vq, e ∈ c.vq ∨ (e.op = i ∧ e.count = elems c ∧ e.beats = 1)) ∧
      ∀ w, c.wait = .granted w → Sets i s (fun c =>
        if lowG g = 0 then c else (if c.formed.2 then c.lose else c).wg (lowG g) w c.formed.1)) ∧
    (∀ (e : VEntry) (rest : List VEntry) (k : Nat), k < nCores → (s.core k).paused = [] → (s.core k).vq = e :: rest → e.beats = 0 →
      let set (i : Nat) : Bool := ((s.core k).rp a).getLsbD i
      let tells (m : Nat) : Prop := exec (.tileComplete k) s =
        .next (s.modCore k (fun c => { c with vq := rest, wait := .granted (BitVec.ofNat 64 m) }))
      (e.op = .pcnt g a → tells ((List.range e.count).countP set)) ∧
      (e.op = .pfirst g a → ∃ m, tells m ∧ m ≤ e.count ∧ (∀ j, j < m → set j = false) ∧ (m < e.count → set m = true))) ∧
    (valid → Sets (.vshape g) s (fun c => { c with shape := s.me.rg (lowG g) })) ∧
    (¬valid → Traps (.vshape g) s .illegal (.word true)) ∧
    Gives (.vlget g v) s (lowG g) ((c.lv v).zeroExtend 64) [] ∧
    (c.vq = [] → n ≠ 0 → visible (c.lv v) s = .ok b t → formLabel [] t = .ok l u →
      exec (.vlvis n v) s = .next (u.modCore u.cur (fun c => ((c.wp n (if b then BitVec.allOnes 256 else 0)).wpl n l).past)))

/-- With the queue empty, nothing buffered or queued that holds it back, and TRUE labels, VLD from the own local store completes: under its
predicate element e takes the element at its place, rows the stride apart, or side by side where the stride field names g0; other
elements stay. VGATHER does so with element e at the base plus its index times the element's size (R135, R136). The label is TRUE and
memory is unchanged.
With the queue empty, TRUE labels and indexes that name different words, VAMO completes: under its predicate each word takes the
operation of its old value and the element, each element its old word, and every other byte of memory stays (R138). -/
def Obligations.TileLocal : Prop :=
  (∀ (s : State) (t : ETy) (p : PReg) (d b : VReg) (a z : GLow) (off : Nat),
    let c := s.me
    let w := bitsOf t / 8
    let rows := c.shape.toNat % 128
    let cols := c.shape.toNat / 2 ^ 16 % 512
    let n := rows * cols
    let step : Int := if z = 0 then (cols * w : Nat) else (c.rg (lowG z)).toInt
    let place (e : Nat) : Int := off + (e / cols : Nat) * step + (e % cols * w : Nat)
    let index (e : Nat) : Nat := (off + elem (c.rv b) 16 e * w) % 2 ^ 17
    8 ≤ bitsOf t → n * bitsOf t ≤ 2048 → (c.rg (lowG a)).toNat = 0x7F0000000000 + off → off < 2 ^ 17 → off % w = 0 →
    c.vq = [] → Still c → TrueLocal s s.cur → c.guardLabel = labelTrue → c.lg (lowG a) = labelTrue → c.lp p = labelTrue → c.lv d = labelTrue →
    let loads (i : Instr) (at' : Nat → Nat) : Prop := ∃ u, exec i s = .next u ∧ u.me.lv d = labelTrue ∧ u.mem = s.mem ∧
      (∀ e, e < n → elem (u.me.rv d) (8 * w) e =
        if (c.rp p).getLsbD e then readNat s.mem (lsBase s.cur + at' e) w else elem (c.rv d) (8 * w) e)
    (c.lg (lowG z) = labelTrue → (z ≠ 0 → (c.rg (lowG z)).toNat % w = 0) → (∀ e, e < n → 0 ≤ place e ∧ place e + w ≤ 2 ^ 17) →
      loads (.vld t p d a z) (fun e => (place e).toNat)) ∧
    (n ≤ 128 → c.lv b = labelTrue → loads (.vgather t p d a b) index)) ∧
  (∀ (s : State) (o : VamoOp) (t : ETy) (p : PReg) (d b : VReg) (a : GLow) (off : Nat),
    let c := s.me
    let n := elems c
    let word (e : Nat) : Nat := lsBase s.cur + (off + elem (c.rv b) 16 e * 4) % 2 ^ 17
    let on (e : Nat) : Prop := e < n ∧ (c.rp p).getLsbD e = true
    let sg (x : Nat) : Int := if t = .s32 then (BitVec.ofNat 32 x).toInt else x
    t = .s32 ∨ t = .n32 → n ≤ 64 → (c.rg (lowG a)).toNat = 0x7F0000000000 + off → off < 2 ^ 17 → off % 4 = 0 →
    (∀ e f, on e → on f → word e = word f → e = f) → s.Canonical →
    c.vq = [] → Still c → TrueLocal s s.cur → c.guardLabel = labelTrue → c.lg (lowG a) = labelTrue → c.lp p = labelTrue →
    c.lv d = labelTrue → c.lv b = labelTrue →
    ∃ u, exec (.vamo o t p d a b) s = .next u ∧
      (∀ e, on e →
        let old := readNat s.mem (word e) 4
        let x := elem (c.rv d) 32 e
        elem (u.me.rv d) 32 e = old ∧
        readNat u.mem (word e) 4 = match o with
          | .add => (old + x) % 2 ^ 32
          | .min => if sg x < sg old then x else old
          | .max => if sg old < sg x then x else old
          | .and => old &&& x
          | .or => old ||| x
          | .xor => old ^^^ x
          | .swap => x) ∧
      (∀ e, e < n → ¬on e → elem (u.me.rv d) 32 e = elem (c.rv d) 32 e) ∧
      (∀ k, (∀ e, on e → k < word e ∨ word e + 4 ≤ k) → u.mem.get 0 k = s.mem.get 0 k))

/-- TILE_COMPLETE of a head whose beats are granted: the entry leaves the queue; where its predicate is 1 an integer instruction gives each
position the result of its elements modulo 2^w (R127), VBCAST the low bits of its register (R128), a float instruction its result
rounded once in the mode of the position and a special function that function of the element (R129, R142), VCVT the element converted
(R139); the others stay. VSEL, VRED, VTRANS, VROT, VDEQ and VLSET write every position (R131, R133, R134, R141, R195), VQUANT the
codes and the scale of each block (R140). VCMP writes its predicate on the positions and zero behind them (R130), PAND, POR, PXOR,
PNOT and PSET theirs (R132). VST and VSCATTER under TRUE write the elements where the predicate is 1, to places apart, and no other
byte (R136, R137). Flags accrue; bytes of a tile behind its elements are zero (R120); the special operands of R144 give their results.
LANE_GROUP_GRANT of a vector unit of which one core alone has queued work, one instruction of the lane groups with b beats left, gives
it min(4, b) beats (R123). That UN is 0 on integers is the model's choice (notes/assumptions/111.md), so is a value of a special
function that R142 and R143 leave open (notes/assumptions/6.md). -/
def Obligations.TileCompletes : Prop :=
  (∀ (s : State) (u n : Nat) (e : VEntry), u < nCores / 4 → n / 4 = u → (s.core n).vq = [e] → Instr.vclass e.op = .lane →
    (∀ m, m / 4 = u → m ≠ n → (s.core m).vq = []) →
    ∃ t, exec (.laneGroupGrant u) s = .next t ∧ (t.core n).vq = [{ e with beats := e.beats - min 4 e.beats }] ∧
      (∀ m, m / 4 = u → m ≠ n → (t.core m).vq = []) ∧ t.mem = s.mem) ∧
  (∀ r ∈ [(0, 0x7F800000, 0x7F800000, 0), (0, 0xFF800000, 0, 0), (0, 0x43000000, 0x7F800000, flagOF), (0, 0xC3158000, 1, 0),
      (0, 0xC3160000, 0, 0), (1, 0, 0xFF800000, flagDZ), (1, 0x80000000, 0xFF800000, flagDZ), (1, 0xBF800000, 0x7FC00000, flagNV),
      (1, 0xFF800000, 0x7FC00000, flagNV), (1, 0x7F800000, 0x7F800000, 0), (2, 0, 0x7F800000, flagDZ), (2, 0x80000000, 0xFF800000, flagDZ),
      (2, 0x7F800000, 0, 0), (2, 0xFF800000, 0x80000000, 0), (3, 0, 0x7F800000, flagDZ), (3, 0x80000000, 0xFF800000, flagDZ),
      (3, 0xBF800000, 0x7FC00000, flagNV), (3, 0xFF800000, 0x7FC00000, flagNV), (3, 0x7F800000, 0, 0), (4, 0x80000000, 0x80000000, 0),
      (4, 0xBF800000, 0x7FC00000, flagNV), (4, 0xFF800000, 0x7FC00000, flagNV), (4, 0x7F800000, 0x7F800000, 0),
      (5, 0x7F800000, 0x7FC00000, flagNV), (5, 0xFF800000, 0x7FC00000, flagNV), (6, 0x7F800000, 0x7FC00000, flagNV),
      (6, 0xFF800000, 0x7FC00000, flagNV), (7, 0x7F800000, 0x3F800000, 0), (7, 0xFF800000, 0xBF800000, 0), (8, 0x7F800000, 0x3F800000, 0),
      (8, 0xFF800000, 0, 0), (9, 0x7F800000, 0x7F800000, 0), (9, 0xFF800000, 0x80000000, 0)],
    sfuElem r.1 (tyn .f32) r.2.1 = (r.2.2.1, r.2.2.2)) ∧
  ∀ (s : State) (n : Nat) (e : VEntry) (rest : List VEntry) (t z : ETy) (p : PReg) (d a b : VReg) (q x y : PReg) (g h : GLow) (k : VCond)
      (o : VredOp) (r : BitVec 7) (v : Bool) (off : Nat),
    n < nCores → (s.core n).paused = [] → (s.core n).vq = e :: rest → e.beats = 0 → e.rows * e.cols * bitsOf t ≤ 2048 →
    let c := s.core n
    let w := bitsOf t
    let m := e.rows * e.cols
    let on (j : Nat) : Bool := (c.rp p).getLsbD j
    let fm := tyFmt (tyn t)
    let A (j : Nat) : Nat := elem (c.rv a) w j
    let B (j : Nat) : Nat := elem (c.rv b) w j
    let tile := Completes s n e rest w d on
    let whole := Completes s n e rest w d (fun _ => true)
    let int (i : Instr) (f : Nat → Nat → Int) : Prop := tile i (fun j => ((f (A j) (B j) % 2 ^ w).toNat, 0))
    let sg : Nat → Int := tyInt t
    let flt (i : Instr) (f : RMode → FVal → FVal → FVal → Nat × Flags) : Prop :=
      tile i (fun j => f (drawn e j) (fm.decode (A j)) (fm.decode (B j)) (fm.decode (elem (c.rv d) w j)))
    let sign (i : Instr) (f : Nat → Nat) : Prop := tile i (fun j => (if (fm.decode (A j)).isNan then fm.nan else f (A j), 0))
    let pred (i : Instr) (v : Pred) : Prop := e.op = i →
      exec (.tileComplete n) s = .next (s.modCore n (fun c => { c.wp q v with vq := rest }))
    let stores (i : Instr) (at' : Nat → Int) : Prop := e.op = i → 8 ≤ w → e.label = labelTrue → TrueLocal s n → s.Canonical → c.sb = [] →
      (∀ u, c.wait ≠ .pause u) → e.ga.toNat = 0x7F0000000000 + off → off < 2 ^ 17 → (∀ j, j < m → 0 ≤ at' j ∧ at' j + w / 8 ≤ 2 ^ 17 ∧ at' j % (w / 8 : Nat) = 0) →
      (∀ i j, i < m → j < m → on i = true → on j = true → at' i = at' j → i = j) →
      ∃ u, exec (.tileComplete n) s = .next u ∧ (u.core n).vq = rest ∧ (u.core n).v = c.v ∧
        (∀ j, j < m → on j = true → readNat u.mem (lsBase n + (at' j).toNat) (w / 8) = elem (c.rv d) w j) ∧
        ∀ l, (∀ j, j < m → on j = true → l < lsBase n + (at' j).toNat ∨ lsBase n + (at' j).toNat + w / 8 ≤ l) →
          u.mem.get 0 l = s.mem.get 0 l
    int (.vaddInt t p d a b) (fun x y => (x + y : Nat)) ∧ int (.vsubInt t p d a b) (fun x y => (x : Int) - y) ∧
    int (.vmulInt t p d a b) (fun x y => (x * y : Nat)) ∧ int (.vand t p d a b) (fun x y => (x &&& y : Nat)) ∧
    int (.vor t p d a b) (fun x y => (x ||| y : Nat)) ∧ int (.vxor t p d a b) (fun x y => (x ^^^ y : Nat)) ∧
    int (.vshl t p d a b) (fun x y => (x * 2 ^ (y % w) : Nat)) ∧ int (.vshr t p d a b) (fun x y => (x / 2 ^ (y % w) : Nat)) ∧
    int (.vsra t p d a b) (fun x y => (if 2 ^ (w - 1) ≤ x then (x : Int) - 2 ^ w else x) / 2 ^ (y % w)) ∧
    int (.vminInt t p d a b) (fun x y => if sg x ≤ sg y then sg x else sg y) ∧
    int (.vmaxInt t p d a b) (fun x y => if sg x ≤ sg y then sg y else sg x) ∧
    int (.vabsInt t p d a) (fun x _ => if sg x < 0 then -sg x else sg x) ∧ int (.vnegInt t p d a) (fun x _ => -(x : Int)) ∧
    tile (.vbcast t p d g) (fun _ => (e.ga.toNat, 0)) ∧
    flt (.vaddFloat t p d a b) (fun r x y _ => fm.fadd r x y) ∧ flt (.vsubFloat t p d a b) (fun r x y _ => fm.fadd r x y.negate) ∧
    flt (.vmulFloat t p d a b) (fun r x y _ => fm.fmul r x y) ∧ flt (.vfma t p d a b) (fun r x y z => fm.ffma r x y z) ∧
    flt (.vfms t p d a b) (fun r x y z => fm.ffma r x.negate y z) ∧
    tile (.vminFloat t p d a b) (fun j => fm.fminmax false (A j) (B j)) ∧ tile (.vmaxFloat t p d a b) (fun j => fm.fminmax true (A j) (B j)) ∧
    sign (.vabsFloat t p d a) (fun x => x % 2 ^ (fm.width - 1)) ∧ sign (.vnegFloat t p d a) (fun x => (x + 2 ^ (fm.width - 1)) % 2 ^ fm.width) ∧
    (∀ i ∈ [(Instr.vexp t p d a, 0), (.vlog t p d a, 1), (.vrcp t p d a, 2), (.vrsq t p d a, 3), (.vsqrt t p d a, 4), (.vsin t p d a, 5),
        (.vcos t p d a, 6), (.vtanh t p d a, 7), (.vsigm t p d a, 8), (.vgelu t p d a, 9)],
      tile i.1 (fun j => sfuElem i.2 (tyn t) (A j))) ∧
    tile (.vcvt t z p d a) (fun j => if t = z then (A j, 0) else
      tyConvert (tyn t) (drawn e j) (tyValue (tyn z) (elem (c.rv a) (bitsOf z) j))) ∧
    whole (.vsel t p d a b) (fun j => (if on j then A j else B j, 0)) ∧
    whole (.vred o t p d a) (fun j => if j % e.cols = 0 then
      rowResult o t (((List.range e.cols).filter (fun i => on (j + i))).map (fun i => (A (j + i), drawn e (j + i)))) else (0, 0)) ∧
    whole (.vtrans t d a) (fun j => (A (j % e.rows * e.cols + j / e.rows), 0)) ∧
    whole (.vrot t d a r) (fun j => (A ((j + r.toNat) % m), 0)) ∧
    whole (.vdeq t z d a b) (fun j =>
      fm.arith (drawn e j) (FVal.mul (tyValue (tyn z) (elem (c.rv a) 4 j)) (scaleValue (elem (c.rv b) 8 (j / 64)))).1) ∧
    (e.op = .vlset d a g → exec (.tileComplete n) s = .next (s.modCore n (fun c => { c.wv d (c.rv a) with vq := rest }))) ∧
    (e.op = .vquant t z d a b → d ≠ b → m % 64 = 0 → ∃ u, exec (.tileComplete n) s = .next u ∧ (u.core n).vq = rest ∧ (u.core n).vl = c.vl ∧
      u.mem = s.mem ∧ (∀ r, r ≠ d → r ≠ b → (u.core n).rv r = c.rv r) ∧
      (∀ j, m / 64 ≤ j → elem ((u.core n).rv b) 8 j = 0) ∧ (∀ j, m ≤ j → elem ((u.core n).rv d) 4 j = 0) ∧
      ∀ j, j < m / 64 →
        let val (i : Nat) : FVal := tyValue (tyn z) (elem (c.rv a) (bitsOf z) (64 * j + i))
        let top := blockMax ((List.range 64).map val)
        let sc := elem ((u.core n).rv b) 8 j
        let code (i : Nat) : Nat := elem ((u.core n).rv d) 4 (64 * j + i)
        if top.isNan then sc = 0xFF ∧ (∀ i, i < 64 → code i = 0) ∧ (u.core n).fflags.getLsbD 4 = true
        else sc = (scaleCeil (match top, t with
            | .fin x, .nq4 => .fin x
            | .fin x, _ => .fin (x.div (Ex.ofInt 6))
            | y, _ => y)).1 ∧
          ∀ i, i < 64 → code i = if t = .nq4 then (nq4Quant (scaledElem (val i) sc)).1
            else (fmtE2m1.arith (drawn e (64 * j + i)) (scaledElem (val i) sc)).1) ∧
    (e.op = .vcmp k t p q a b → q ≠ 0 → ∃ u, exec (.tileComplete n) s = .next u ∧ (u.core n).vq = rest ∧ (u.core n).v = c.v ∧ (u.core n).pl = c.pl ∧
      u.mem = s.mem ∧ (∀ r, r ≠ q → (u.core n).rp r = c.rp r) ∧
      (∀ j, j < 256 → ((u.core n).rp q).getLsbD j = (decide (j < m) && on j && (compared k t (A j) (B j)).1)) ∧
      ∀ j, (u.core n).fflags.getLsbD j =
        (c.fflags.getLsbD j || (List.range m).any (fun i => on i && (compared k t (A i) (B i)).2.getLsbD j))) ∧
    pred (.pand q x y) (c.rp x &&& c.rp y) ∧ pred (.por q x y) (c.rp x ||| c.rp y) ∧ pred (.pxor q x y) (c.rp x ^^^ c.rp y) ∧
    pred (.pnot q x) (~~~(c.rp x)) ∧ pred (.pset q v) (if v then BitVec.allOnes 256 else 0) ∧
    stores (.vst t p d g h) (fun j => (off : Int) + (j / e.cols : Nat) * (if h = 0 then ((e.cols * (w / 8) : Nat) : Int) else e.gb.toInt) + (j % e.cols * (w / 8) : Nat)) ∧
    stores (.vscatter t p d g b) (fun j => ((off + elem (c.rv b) 16 j * (w / 8)) % 2 ^ 17 : Nat))

/-- With room in the queue MZERO queues its command; MMA on operands of formats that the unit accepts, aligned and whole in the own local
store, queues its command with what it sampled and advances KS of the scale registers in use under AUTO; MLD and MST queue a transfer of
256 lines that resolve, are no counters and whose links carry traffic, behind the core's earlier stores. MWAIT completes where no queued command names md, and
MTEST gives all ones in its low half on an offline unit, else the failing sub-arrays of its test and those fenced. -/
def Obligations.MatrixIssue : Prop :=
  ∀ (s s1 : State) (m : MReg) (d ra rb : GReg) (oa ob : Nat) (locs : List Loc),
    let c := s.me
    let k := clusterOf s.cur
    let fa := c.fmta.toNat
    let fb := c.fmtb.toNat
    let prior := c.issueLabel m
    let auto (f : Nat) (scl : Word) : Word := if matScaled f then sclNext scl else scl
    let plain (i : Instr) : MEntry := { op := i, word := i.word, locA := 0, locB := 0, locs := [], fmtA := 0, fmtB := 0, scla := 0
                                        sclb := 0, supa := 0, supb := 0, ovm := c.lflags.getLsbD 0, label := labelTrue, prior := labelTrue }
    let near := ∀ loc ∈ locs, linkUp s1 loc = true ∧ s1.inCounter loc = false
    (MatrixReady s m → Queues (.mzero m) s s [] (fun l => { plain (.mzero m) with label := l, prior := l }) id) ∧
    (MatrixReady s m → matAccepts k fa fb = true → c.tileMem = false →
      (c.rg ra).toNat = 0x7F0000000000 + oa → oa % 64 = 0 → oa + 512 * matBits fa ≤ 2 ^ 17 →
      (c.rg rb).toNat = 0x7F0000000000 + ob → ob % 64 = 0 → ob + 512 * matBits fb ≤ 2 ^ 17 →
      Queues (.mma m ra rb) s s [prior, c.lg ra, c.lg rb]
        (fun l => { plain (.mma m ra rb) with
          locA := lsBase s.cur + oa, locB := lsBase s.cur + ob, fmtA := fa, fmtB := fb, scla := c.scla, sclb := c.sclb
          supa := c.supa, supb := c.supb, label := l, prior := prior })
        (fun d => { d with scla := auto fa d.scla, sclb := auto fb d.sclb })) ∧
    (MatrixReady s m → c.sb = [] → c.nt = [] → c.tileMem = false → locs.length = 256 → near → s1.me = c → s1.cur = s.cur →
      (accLines .read (c.rg ra) s = .ok locs s1 →
        Queues (.mld m ra) s s1 [c.lg ra] (fun l => { plain (.mld m ra) with locA := (c.rg ra).toNat, locs := locs, label := l, prior := l }) id) ∧
      (accLines .write (c.rg ra) s = .ok locs s1 → (∀ e ∈ c.mq, e.names m = false) →
        ((∀ loc ∈ locs, loc.plain = false) ∨ ∀ l t, formLabel [c.lm m, c.lg ra] s1 = .ok l t → l = labelTrue) →
        Queues (.mst ra m) s s1 [c.lm m, c.lg ra] (fun l => { plain (.mst ra m) with locA := (c.rg ra).toNat, locs := locs, label := l, prior := l }) id)) ∧
    (c.rmk m = none → (s.cluster k).offline = false → (∀ e ∈ c.mq, e.names m = false) → Sets (.mwait m) s id) ∧
    ((s.cluster k).offline = true → 
      GivesFrom (.mtest d) s (s.modCluster k (fun c => { c with mtest := c.mtest.filter (· != s.cur) })) d 0xFFFFFFFF []) ∧
    ((s.cluster k).offline = false → (s.cluster k).mrun = none → c.guardLabel = labelTrue → ∃ (t : State) (f : BitVec 16),
      exec (.mtest d) s = .next t ∧
      (d ≠ 0 → t.me.rg d = BitVec.ofNat 64 (f.toNat + 2 ^ 16 * ((s.cluster k).fenced ||| f).toNat) ∧ t.me.lg d = labelTrue))

/-- MATRIX_OP_START on a free unit with no test due or asked for and one core alone ready starts that core's head. MATRIX_OP_COMPLETE of an MZERO leaves zeros and its
label in md; of an MMA, of a core not in PAUSE, whose labels are all TRUE and whose words are undamaged the tile product of R156. MATRIX_TRANSFER_COMPLETE of such a core's MLD from a local store under
TRUE puts word 64i + j at element (i, j). Each command leaves its queue. A self-test that is due and fails nothing fences nothing, and is
due no more; a throttle change that the tower orders is taken between operations, an operation starting at the rate the tower has set. -/
def Obligations.MatrixUnit : Prop :=
  ∀ (s : State) (k n : Nat) (m : MReg) (e : MEntry) (rest : List MEntry) (on : Bool) (base : Nat),
    let c := s.core n
    (k < nClusters → n / 8 = k → (s.cluster k).mrun = none → (s.cluster k).offline = false → c.arrayReady = true →
      (s.cluster k).mdue = false → (s.cluster k).mtest = [] → (∀ j, j / 8 = k → j ≠ n → (s.core j).mq = []) →
      ∃ t, exec (.matrixOpStart k) s = .next t ∧ (t.cluster k).mrun = some n ∧ (t.cluster k).throttled = (s.tower (k / 512)).throttle ∧ t.cores = s.cores ∧ t.mem = s.mem) ∧
    (k < nClusters → (s.cluster k).mrun = some n → c.paused = [] → c.mq = e :: rest →
      (e.op = .mzero m →
        ∃ t, exec (.matrixOpComplete k) s = .next t ∧ (t.core n).mq = rest ∧ (t.core n).rm m = [] ∧ (t.core n).lm m = e.label ∧
          (t.cluster k).mrun = none ∧ (∀ q, q ≠ m → (t.core n).rm q = c.rm q)) ∧
      (∀ ra rb, e.op = .mma m ra rb → (∀ u, c.wait ≠ .pause u) → e.label = labelTrue → c.lm m = labelTrue → e.prior = labelTrue →
        (∀ w ∈ e.words n, s.tags.get labelTrue w = labelTrue ∧ s.damaged.get false w = false) →
        ∃ t, exec (.matrixOpComplete k) s = .next t ∧ (t.core n).mq = rest ∧ (t.core n).rm m = s.product n e (c.rm m) ∧
          (t.core n).lm m = labelTrue ∧ (t.cluster k).mrun = none ∧ (∀ q, q ≠ m → (t.core n).rm q = c.rm q) ∧ t.mem = s.mem)) ∧
    (n < nCores → c.paused = [] → c.mq = e :: rest → (∃ ra, e.op = .mld m ra) → (∀ u, c.wait ≠ .pause u) → e.label = labelTrue → base % 64 = 0 →
      e.locs = (List.range 256).map (fun i => ⟨.local, base + 64 * i, false⟩) →
      (∀ w, base / 4 ≤ w → w < base / 4 + 4096 → s.tags.get labelTrue w = labelTrue ∧ s.damaged.get false w = false) →
      ∃ t, exec (.matrixTransferComplete n) s = .next t ∧ (t.core n).mq = rest ∧ (t.core n).lm m = labelTrue ∧
        ∀ x, x < 4096 → ((t.core n).rm m).get 0 x = BitVec.ofNat 32 (readNat s.mem (base + 4 * x) 4)) ∧
    (k < nClusters → (s.cluster k).mrun = none → (s.cluster k).offline = false →
      ((s.cluster k).mdue = true → ((List.range 16).countP (fun b => (s.cluster k).fenced.getLsbD b)) ≤ 4 →
        ∃ t, exec (.matrixSelfTest k 0) s = .next t ∧ (t.cluster k).fenced = (s.cluster k).fenced ∧ (t.cluster k).offline = false ∧
          (t.cluster k).mpass = (s.cluster k).mops ∧ (t.cluster k).mdue = false) ∧
      ((s.tower (k / 512)).throttle = on →
        exec (.throttleChange k on) s = .next (s.modCluster k (fun c => { c with throttled := on }))))

/-- XCOPY whose operands pass the checks of R282, between local stores, lent scratchpad ways and global memory, with no store to a local store buffered before it,
queues its command with its operands and the product of their labels, and goes on. XPUB of aligned pages, behind the core's earlier
accesses, queues its command and waits; once the publish has been made it goes on. XSTAT gives the bytes left of the running command, the
recorded failure, the pause and the length of the queue (R291). A recorded failure is raised by the next XCOPY or XPUB instead, once (R289). -/
def Obligations.CopyIssue : Prop :=
  ∀ (s : State) (o : BitVec 5) (d ra rb rc : GReg) (m : Mark) (v : Word),
    let c := s.me
    let cp := o.getLsbD 0 || o.getLsbD 1
    let gc := if cp then c.rg rc else 0
    let x := xshape o (c.rg rb)
    let src := s.rangeOf s.cur (c.rg ra) x.srcSpan
    let dst := s.rangeOf s.cur (c.rg d) (x.dstSpan o)
    let held (r : Option Range) (n : Nat) : Prop := r = some .empty ∨ r = some .window ∨ r = some .global ∨
      ∃ off, r = some (.scratch off) ∧ s.notLent (s.partOf s.cur) off n = none
    let command (pub : Bool) (i : Instr) (dst src shape cpl : Word) (l : Label) (opts : BitVec 5) : CEntry :=
      { pub := pub, opts := opts, dst := dst, src := src, shape := shape, cpl := cpl, l0 := l, ovm := c.lflags.getLsbD 0
        word := i.word, started := false, row := 0, col := 0, done := false, nans := 0, big := 0, sum := 0, sumsq := 0
        carry := [] }
    (CopyReady c → c.sb = [] → xcopyBad o (c.rg rb) gc = false → (o.getLsbD 3 = true → c.atS = true) →
      xcopyMisaligned o x (c.rg d) (c.rg ra) gc = none →
      held src x.srcSpan → held dst (x.dstSpan o) → (o.getLsbD 4 = true → dst = some .window ∨ dst = some .empty) →
      (o.getLsbD 2 = true → dst = some .global ∨ dst = some .empty) →
      (dst = some .global → inRegion (s.ctx (s.ctxOf s.cur)).lspace (c.rg d).toNat (x.dstSpan o) = false) →
      ∀ l t, formLabel [c.lg d, c.lg ra, c.lg rb, if cp then c.lg rc else labelTrue] s = .ok l t →
        (o.getLsbD 3 = true → l = labelTrue) →
        exec (.xcopy o d ra rb rc) s = .next (t.modCore t.cur (fun e =>
          { e with cq := e.cq ++ [command false (.xcopy o d ra rb rc) (c.rg d) (c.rg ra) (c.rg rb) gc l o] }.past))) ∧
    (CopyReady c → (∀ g, c.wait ≠ .granted g) → (c.rg ra).toNat % 2 ^ 16 = 0 → (∀ e ∈ c.cq, e.pub = false) → c.sb = [] → c.mq = [] →
      ∃ t, exec (.xpub ra) s = .next t ∧ t.me.cq = c.cq ++ [command true (.xpub ra) (c.rg ra) 0 0 0 labelTrue 0] ∧
        t.me.run = .stalled ∧ t.me.wait = .publish ∧ t.me.pc = c.pc ∧ t.mem = s.mem) ∧
    (c.cfail = none → c.wait = .granted v → Sets (.xpub ra) s id) ∧
    (Gives (.xstat d) s d (BitVec.ofNat 64 (
      (match c.cq with
        | e :: _ => if e.started then e.left % 2 ^ 32 * 2 ^ 32 else 0
        | [] => 0) +
      (match c.cfail with
        | some m => m.cause * 2 ^ 16 + 2 ^ 15
        | none => 0) + (if c.cq ≠ [] ∧ Engine.copy ∈ c.paused then 2 ^ 14 else 0) + c.cq.length)) []) ∧
    (c.cfail = some m → s.fatal s.cur = false → c.frame = none → ∀ i, i = .xcopy o d ra rb rc ∨ i = .xpub ra →
      ∃ t, exec i s = .next t ∧ t.me.cfail = none ∧ t.me.ecause.toNat % 256 = (Cause.ofCode m.cause).code ∧
        t.me.einfo = m.word.zeroExtend 64 ||| 0x10000000000#64 ∧ t.me.epc = c.pc &&& 0xFFFFFFFFFFFF)

/-- COPY_COMMAND_START starts the head of the queue. COPY_BEAT of a plain copy of whole words between places of the own local store, the
only copy of the cluster, under TRUE labels, moves the next bytes of the row, at most 64, and no other byte; the command goes on behind them. COPY_COMMAND_COMPLETE of a
command with .CW writes the value into the completion word and the command leaves the queue; of an XPUB whose old frames no L1D
holds, with no line in U, no damaged word and no Blocking, it ends the shadows of its pages and grants the core its instruction. -/
def Obligations.CopyEngine : Prop :=
  ∀ (s : State) (n : Nat) (e : CEntry) (rest : List CEntry) (a b : Nat),
    let c := s.core n
    let x := xshape 0 e.shape
    let len := min 64 (x.rb - e.col)
    let off := e.cpl.toNat % 2 ^ 17
    n < nCores → c.paused = [] → c.cq = e :: rest →
    (e.pub = false → e.started = false → exec (.copyCommandStart n) s = .next (s.modCore n (fun c =>
      { c with cq := { e with started := true, done := decide ((xshape e.opts e.shape).rb = 0) } :: rest }))) ∧
    (s.Canonical → TrueLocal s n → e.pub = false → e.started = true → e.done = false → e.opts = 0 → e.l0 = labelTrue → x.cvt = false →
      x.mode = 0 → e.row = 0 → e.col < x.rb → e.carry = [] →
      (∀ j, j / 8 = n / 8 → j ≠ n → (s.core j).cq = []) → e.src.toNat = 0x7F0000000000 + a → e.dst.toNat = 0x7F0000000000 + b →
      a % 4 = 0 → b % 4 = 0 → e.col % 4 = 0 → x.rb % 4 = 0 → a + x.rb ≤ 2 ^ 17 → b + x.rb ≤ 2 ^ 17 →
      ∃ t, exec (.copyBeat n) s = .next t ∧
        (∀ i, i < len → t.mem.get 0 (lsBase n + b + e.col + i) = s.mem.get 0 (lsBase n + a + e.col + i)) ∧
        (∀ k, k < lsBase n + b + e.col ∨ lsBase n + b + e.col + len ≤ k → t.mem.get 0 k = s.mem.get 0 k) ∧
        ∃ f, (t.core n).cq = f :: rest ∧ f.dst = e.dst ∧ f.src = e.src ∧ f.carry = [] ∧
          (if e.col + len < x.rb then f.col = e.col + len ∧ f.row = 0 ∧ f.done = false else f.done = true)) ∧
    (e.started = true → e.done = true → e.pub = false → e.opts = 1 → off % 4 = 0 →
      ∃ t, exec (.copyCommandComplete n) s = .next t ∧ (t.core n).cq = rest ∧
        (s.Canonical → readNat t.mem (lsBase n + off) 4 = e.cpl.toNat / 2 ^ 32)) ∧
    (e.started = true → e.done = true → e.pub = true → s.blocking = none → s.damaged = [] → (∀ L, s.isU L = false) →
      (∀ h ∈ (s.ctx (s.ctxOf n)).shadows, s.oldFrame h = []) →
      ∃ t, exec (.copyCommandComplete n) s = .next t ∧ (t.core n).cq = rest ∧ (t.core n).wait = .granted 0 ∧
        (∀ h ∈ (t.ctx (s.ctxOf n)).shadows, ¬(e.dst.toNat / 2 ^ 16 % 2 ^ 32 ≤ h.page ∧
          h.page ≤ e.dst.toNat / 2 ^ 16 % 2 ^ 32 + e.dst.toNat / 2 ^ 48)))

/-- LGET, LEQ, LPROD and LFOCUS complete; ASSUME and LUNION give ga under the label their step forms; LSET of a valid ID gives ga under it;
LVIS, LSEL, LCOUNT and LENV follow visibility and the environments of their labels; NOGOOD of TRUE and NOGOODE of the empty environment
raise ILLEGAL, NOGOOD of FALSE only goes on, and other nogoods are recorded and installed before the core goes on. The steps: a nogood
set is recorded and sent to every cluster of the context, installed with the product cache dropped, a tag takes a factor (R410); contents
are interned and Fuller steps formed for the context that a cluster runs. -/
def Obligations.LabelInstructions : Prop :=
  ∀ (s s1 s2 t : State) (d ra rb : GReg) (n : BitVec 7) (p : PReg) (e : BitVec 4) (h : Bool) (l : Label) (b : Bool) (es : List Env),
    let c := s.me
    let w := s.who s.cur
    let x := c.lg ra
    let env : Env := c.rg rb ++ c.rg ra
    let form (i : Instr) (f : Who → Policy → M Formed) : Prop :=
      (d = 0 → exec i s = .next (s.modCore s.cur Core.past)) ∧
      (d ≠ 0 → formed f s = .ok l t → exec i s = .next (t.modCore t.cur (fun e => (e.wg d (c.rg ra) l).past)))
    let half (v : Env) : Word := if h then v.extractLsb' 64 64 else v.extractLsb' 0 64
    Gives (.lget d ra) s d (x.zeroExtend 64) [] ∧ Gives (.leq d ra rb) s d (if x = c.lg rb then 1 else 0) [] ∧
    Gives (.lprod d ra rb) s d (c.rg ra) [x, c.lg rb] ∧ Sets (.lfocus ra rb) s (fun c => { c with focus := env }) ∧
    form (.assume d ra n) (fun w pol => assumeStep w pol x n.toNat) ∧ form (.lunion d ra rb) (fun w pol => union w pol x (c.lg rb)) ∧
    (idValid ((c.rg rb).truncate 16) s = .ok true s1 → GivesFrom (.lset d ra rb) s s1 d (c.rg ra) [(c.rg rb).truncate 16]) ∧
    (c.vq = [] → p ≠ 0 → visible x s = .ok b s1 → formLabel [] s1 = .ok l t →
      exec (.lvis p ra) s = .next (t.modCore t.cur (fun c => ((c.wp p (if b then BitVec.allOnes 256 else 0)).wpl p l).past))) ∧
    (visible x s = .ok true s1 → GivesFrom (.lsel d ra rb) s s1 d (c.rg ra) [x]) ∧
    (visible x s = .ok false s1 → visible (c.lg rb) s1 = .ok true s2 → GivesFrom (.lsel d ra rb) s s2 d (c.rg rb) [c.lg rb]) ∧
    (visible x s = .ok false s1 → visible (c.lg rb) s1 = .ok false s2 → GivesFrom (.lsel d ra rb) s s2 d 0 [labelFalse]) ∧
    (labelEnvs w x s = .ok es s1 →
      (pcacheFind (s.cluster w.clus).pcache .count x labelTrue = none →
        ∃ u, u.cores = s1.cores ∧ GivesFrom (.lcount d ra) s u d (BitVec.ofNat 64 es.length) []) ∧
      (pcacheFind (s.cluster w.clus).pcache (.env e.toNat h.toNat) x labelTrue = none →
        ∃ u, u.cores = s1.cores ∧ GivesFrom (.lenv d ra e h) s u d (half (es.getD e.toNat 0)) [])) ∧
    (x = labelTrue → Traps (.nogood ra) s .illegal (.word true)) ∧ (x = labelFalse → Sets (.nogood ra) s id) ∧
    (x ≠ labelTrue → x ≠ labelFalse → labelEnvs w x s = .ok es s1 → es ≠ [] → requestNogoods es s1 = .ok () t →
      exec (.nogood ra) s = .next (t.modCore t.cur Core.past)) ∧
    (env = 0 → Traps (.nogoode ra rb) s .illegal (.word true)) ∧
    (env ≠ 0 → requestNogoods [env] s = .ok () t → exec (.nogoode ra rb) s = .next (t.modCore t.cur Core.past)) ∧
    (∀ (ctx k loc : Nat) (op : FullerOp) (y : Label) (ngs : List Env) (f : Formed) (r : Interned),
      let v := s.plinthOf ctx
      let ls := (s.ctx ctx).lspace
      (lspaceEn ls = true → envSort es ≠ [] → (envSort es).length ≤ 16 → envSort es ≠ [0] → internAt v (lspaceBase ls) (envSort es) s = .ok r t →
        exec (.internRequest ctx es) s = .next t) ∧
      (k < nClusters → (s.cluster k).ctx = some ctx → (op = .prod ∧ prod ⟨ctx, k / 64, k, false⟩ .deferred x y s = .ok f t ∨
          op = .union ∧ union ⟨ctx, k / 64, k, false⟩ .deferred x y s = .ok f t ∨
          op = .assume n.toNat ∧ assumeStep ⟨ctx, k / 64, k, false⟩ .deferred x n.toNat s = .ok f t) →
        exec (.fullerMissComplete k ctx op x y) s = .next t) ∧
      (lspaceEn ls = true → recordNogoods v (lspaceBase ls) es s = .ok true t →
        exec (.nogoodRequest ctx es) s = .next { t with flight := t.flight ++ (t.clustersOfCtx ctx).map Msg.nogoodInstall }) ∧
      (k < nClusters → (s.cluster k).ctx = some ctx → lspaceEn ls = true →
        recordedNogoods ⟨ctx, k / 64, k, false⟩ (lspaceBase ls) s = .ok ngs t →
        exec (.nogoodInstall k) s = .next (t.modCluster k (fun c => { c with filter := ngs, pcache := [] }))) ∧
      (deferredFold v loc [s.tags.get labelTrue (loc / 4), l] s = .ok y t →
        exec (.deferredLabelFold ctx loc l) s = .next { t with tags := t.tags.set labelTrue (loc / 4) y }))

/-- Finish keeps of the candidate environments those that contain no nogood and have no proper subset among these, in canonical order and
once each; every candidate without a nogood has a kept one within it (R174, R168). More than 16 raise LABEL_OVERFLOW with their number
while OVM is 0 (R176). A nogood set stays without supersets as nogoods are added, and never takes the empty environment (R182). -/
def Obligations.Antichain : Prop :=
  ∀ (w : Who) (ngs l : List Env) (e : Env) (s : State),
    let r := minimise ngs l
    (∀ a ∈ r, a ∈ l ∧ (∀ n ∈ ngs, n &&& ~~~a ≠ 0) ∧ ∀ b ∈ r, b &&& ~~~a = 0 → b = a) ∧
    (∀ a ∈ l, (∀ n ∈ ngs, n &&& ~~~a ≠ 0) → ∃ b ∈ r, b &&& ~~~a = 0) ∧
    r.Pairwise (fun a b => envBefore a b = true) ∧ r.Nodup ∧
    (16 < r.length → finish w (.issue false) r s = .error (.trap .labelOverflow (.labelWord r.length)) s) ∧
    ((∀ a ∈ ngs, ∀ b ∈ ngs, a &&& ~~~b = 0 → a = b) → 0 ∉ ngs →
      (∀ a ∈ addNogood ngs e, ∀ b ∈ addNogood ngs e, a &&& ~~~b = 0 → a = b) ∧ 0 ∉ addNogood ngs e ∧
      (e ≠ 0 → ∃ n ∈ addNogood ngs e, n &&& ~~~e = 0))

/-- With no one else about: CINIT of an ordinary line with a chunk makes it a counter with that reserve and no holder. CDEC of 0 gives 1;
of n within the cluster's allowance it takes n from it and gives 1; else, of n within the reserve, it gives 1, and reserve, allowance,
what of it an L1D without room sends home at once and n add up to the old reserve; of more than the reserve without holders it gives 0 and takes nothing. CINC adds to the reserve,
saturating; CREAD without holders gives it; CLOCAL gives the allowance (R244, R250, R251). A grant lies between n and the reserve. -/
def Obligations.Counters : Prop :=
  ∀ (s s1 : State) (d ra rb rc : GReg) (L m : Nat) (c : Counter), CounterAt s ra L → s.me.lg rb = labelTrue →
    let k := clusterOf s.cur
    let n := (s.me.rg rb).toNat
    let left (t : State) : Nat := (t.allowance k L).getD 0
    let back (t : State) : Nat := (t.flight.map (fun x => match x with
      | .allowanceReturn K j u => if K = L ∧ j = k then u else 0
      | _ => 0)).sum
    let alone := s.counter L = some c ∧ s.allowance k L = none ∧ c.queue = [] ∧ c.held = [] ∧ c.recalling = false ∧ c.reserve < 2 ^ 64
    (s.me.lg rc = labelTrue → s.counter L = none → toBank s.cur ⟨.tracked, L, false⟩ s = .ok () s1 → s1.me.rg rb = s.me.rg rb →
      s1.cur = s.cur → s1.counters = s.counters → s1.flight = [] → s1.blocking = none → (s1.dir L).queue = [] → (s.me.rg rc).toNat ≠ 0 →
      ∃ t, exec (.cinit ra rb rc) s = .next t ∧ t.counter L = some ⟨n, (s.me.rg rc).toNat, [], [], false, 0, []⟩) ∧
    (n = 0 → ∃ t, Answers (.cdec d ra rb) s d 1 t ∧ t.counters = s.counters) ∧
    (n ≠ 0 → s.counter L = some c → c.queue = [] → c.held = [] → s.allowance k L = some m → n ≤ m →
      ∃ t, Answers (.cdec d ra rb) s d 1 t ∧ t.counters = s.counters ∧ t.allowance k L = some (m - n)) ∧
    (alone → n ≠ 0 → n ≤ c.reserve →
      ∃ t c', Answers (.cdec d ra rb) s d 1 t ∧ t.counter L = some c' ∧ c'.reserve + left t + back t + n = c.reserve ∧ c'.queue = []) ∧
    (alone → n ≠ 0 → c.reserve < n → c.holders = [] →
      ∃ t, Answers (.cdec d ra rb) s d 0 t ∧ t.counter L = some c) ∧
    (alone → ∃ t c', exec (.cinc ra rb) s = .next t ∧ t.counter L = some c' ∧ c'.reserve = min (c.reserve + n) (2 ^ 64 - 1)) ∧
    (alone → c.holders = [] → ∃ t, Answers (.cread d ra) s d (BitVec.ofNat 64 c.reserve) t ∧ t.counter L = some c) ∧
    (s.counter L = some c → c.queue = [] → (∃ q, resolveCounter .read (s.me.rg ra) s = .ok ⟨.tracked, L, q⟩ s) →
      ∃ t, Answers (.clocal d ra) s d (BitVec.ofNat 64 ((s.allowance k L).getD 0)) t ∧ t.counters = s.counters) ∧
    (n ≤ c.reserve → n ≤ (grantOf c k n).1 ∧ (grantOf c k n).1 ≤ c.reserve)

/-- COUNTER_REQUEST of a CREAD at a counter without holders, its home held by no Blocking, sends the reserve; COUNTER_RECALL sends a cluster's allowance home, and
ALLOWANCE_RETURN adds it to the reserve and takes the cluster, which holds no other, from the holders; RECALL_ROUND_COMPLETE answers the CREAD of its snapshot
with the exact value and ends the round; COUNTER_REPLY grants the core its value (R242 to R246, R251). -/
def Obligations.CounterHome : Prop :=
  ∀ (s : State) (L k n m v : Nat) (c : Counter), L % 64 = 0 → s.counter L = some c → k < nClusters → m < nCores →
    Rising (s.cluster k).l1 →
    (c.holders = [] → c.queue = [] → c.held = [] → c.recalling = false → s.heldLine L = false → s.isU L = false → s.allowance (clusterOf m) L = none →
      ∃ t, exec (.counterRequest L m .cread) s = .next t ∧ t.flight = s.flight ++ [.counterReply L m c.reserve] ∧ t.counter L = some c) ∧
    (s.allowance k L = some n → ∃ t, exec (.counterRecall L k) s = .next t ∧ t.allowance k L = none ∧
      t.flight = s.flight ++ [.allowanceReturn L k n] ∧ t.counters = s.counters) ∧
    (c.queue = [] → c.recalling = false → s.holdsUnits k L = false → ∃ t, exec (.allowanceReturn L k n) s = .next t ∧
      t.counter L = some { c with reserve := min (c.reserve + n) (2 ^ 64 - 1), holders := c.holders.filter (· != k) }) ∧
    (c.holders = [] → c.recalling = true → c.held = [] → s.isU L = false → c.queue = [⟨m, .cread, labelTrue, true⟩] →
      ∃ t, exec (.recallRoundComplete L) s = .next t ∧ t.flight = s.flight ++ [.counterReply L m c.reserve] ∧
        t.counter L = some { c with queue := [], recalling := false }) ∧
    (c.held = [] → ∃ t, exec (.counterReply L m v) s = .next t ∧ (t.core m).wait = .granted (BitVec.ofNat 64 v) ∧
      t.counters = s.counters)

/-- Where nothing that the core issued is still queued or buffered, every FENCE, FENCE.LX and DRAIN only goes on (R215, R214). ISYNC drops
the words fetched ahead (R218). L1INV, L1WB and ICINV of no bytes only go on; over a range outside the windows, no Blocking under
way, L1INV, where the cluster's L1D holds no partial, leaves no line of it there, and beyond 512 KiB none at all, L1WB leaves no dirty copy, and ICINV beyond 64 KiB empties every instruction cache
of the partition (R216, R217); outside the space they raise PROTECT with the address. PAUSE n issues again n cycles later, then goes on
(R262). YIELD without PEND only goes on; with NOTE at a core that has not been told it takes a PREEMPT trap at itself; else the core is
SAVED behind it, unless its context is then SWAPPED (R345). -/
def Obligations.Fences : Prop :=
  ∀ (s : State) (z : Scope) (ra rb : GReg) (n : BitVec 8) (u : Nat),
    let c := s.me
    let k := clusterOf s.cur
    let lo := (c.rg ra).toNat
    let len := (c.rg rb).toNat
    let x := s.ctx (s.ctxOf s.cur)
    let told := c.preempt.getLsbD 1 = true ∧ c.status.getLsbD 7 = false ∧ c.inTrap = false
    (Idle c → Sets (.fence z) s id ∧ Sets .fenceLx s id ∧ Sets .drain s id) ∧
    Sets .isync s (fun c => { c with prefetch := [] }) ∧
    (len = 0 → Sets (.l1inv ra rb) s id ∧ Sets (.l1wb ra rb) s id ∧ Sets (.icinv ra rb) s id) ∧
    (len ≠ 0 → rangeOk lo len = false → Traps (.l1inv ra rb) s .protect (.other (BitVec.ofNat 64 lo) false) ∧
      Traps (.l1wb ra rb) s .protect (.other (BitVec.ofNat 64 lo) false) ∧ Traps (.icinv ra rb) s .protect (.other (BitVec.ofNat 64 lo) false)) ∧
    (len ≠ 0 → rangeOk lo len = true → c.sb = [] → s.blocking = none → ((s.cluster k).l1.map Prod.fst).Pairwise (· < ·) →
      ((∀ L op z ps, s.l1 k L ≠ some (.u op z ps)) → ∃ t, exec (.l1inv ra rb) s = .next t ∧ t.me.pc = c.past.pc ∧ (2 ^ 19 < len → (t.cluster k).l1 = []) ∧
        ∀ a pa, lo ≤ a → a < lo + len → s.mapped (s.ctxOf s.cur) (layerOf s.cur) (a / 64 * 64) = some pa → t.l1 k (pa / 64 * 64) = none) ∧
      ∃ t, exec (.l1wb ra rb) s = .next t ∧ t.me.pc = c.past.pc ∧
        (∀ L d g b, 2 ^ 19 < len → s.l1 k L = some (.copy true d g b) → t.l1 k L = some (.copy false d g b)) ∧
        ∀ a pa d g b, lo ≤ a → a < lo + len → s.mapped (s.ctxOf s.cur) (layerOf s.cur) (a / 64 * 64) = some pa →
          t.l1 k (pa / 64 * 64) ≠ some (.copy true d g b)) ∧
    (len ≠ 0 → rangeOk lo len = true → ∃ t, exec (.icinv ra rb) s = .next t ∧ t.mem = s.mem ∧
      (2 ^ 16 < len → ∀ j y, (s.cluster j).ctx = some y → (s.ctx y).part = x.part → (t.cluster j).icache = [])) ∧
    (c.wait = .none → ∃ t, exec (.pause n) s = .next t ∧ t.me.run = .stalled ∧ t.me.wait = .pause (s.time + n.toNat + 1) ∧
      t.me.pc = c.pc ∧ t.mem = s.mem) ∧
    (c.wait = .pause u → u ≤ s.time → Sets (.pause n) s id) ∧
    (c.preempt.getLsbD 0 = false → Sets .yield s id) ∧
    (c.preempt.getLsbD 0 = true → told → x.tvec ≠ 0 → ∃ t, exec .yield s = .next t ∧ t.me.pc = x.tvec ∧ t.me.epc = c.pc &&& 0xFFFFFFFFFFFF ∧
      t.me.ecause = BitVec.ofNat 64 (2 ^ 63 + 18) ∧ t.me.status.getLsbD 7 = true ∧
      t.me.einfo = BitVec.ofNat 64 (c.preemptSince + 360000 - s.time)) ∧
    (c.preempt.getLsbD 0 = true → ¬told → Idle c → ∃ t, exec .yield s = .next t ∧
      ((t.me.run = .saved ∧ t.me.pc = c.past.pc ∧ t.me.status.getLsbD 7 = false) ∨ (t.ctx (s.ctxOf s.cur)).st = .swapped))

/-- TRACE without EN only goes on; with EN and room it puts one record, for the ring of TRACECTL, among the core's stores (R378). SAMPLE asks for a pulse at the next
multiple of 4,096 cycles and waits, and completes with the pulse's number under TRUE (R383). WAYSET with a set reserved bit or N above 8
raises ILLEGAL; with N in the partition's mask of an ACTIVE slice, nothing of the partition under way, in a saved image either, that touches the ways and no line of the partition at the slice, it
gives the old count under TRUE, the partition's count is N, and the ways that join or leave read zero (R359). WAYSET.Q gives the count, DIR,
HOPS, the M layers strictly between the two, and LAT of R358: 22 below and 30 above plus 4 for each hop, 90 more in another tower; a set
reserved bit or N raises ILLEGAL (R360). That a record passes the store buffer is the model's choice (notes/assumptions/39.md), so are
that the hops are counted in the core's own tower (notes/assumptions/84.md) and that WAYSET flushes the partition's lines of the slice,
those here none (notes/assumptions/85.md). -/
def Obligations.TraceAndWays : Prop :=
  ∀ (s : State) (d ra : GReg) (ix : BitVec 6) (v : Word),
    let c := s.me
    let en := (s.ctx (s.ctxOf s.cur)).tracectl.getLsbD 0
    let x := (c.rg ra).toNat
    let z := x % 2 ^ 7
    let n := x / 2 ^ 8 % 16
    let p := s.partOf s.cur
    let old := s.lentWays p z
    (en = false → Sets (.trace ra ix) s id) ∧
    (en = true → c.sb.length < 16 → c.nt = [] → c.tileMem = false → c.mstQueued = false →
      Sets (.trace ra ix) s (fun c => { c with sb := c.sb ++ [{
        kind := .trace (c.rg ra) c.ssc s.cur (s.lcore s.cur) s.time ix.toNat (s.ctx (s.ctxOf s.cur)).tracectl, ea := 2 ^ 64, loc := ⟨.untracked, 2 ^ 64, true⟩, size := 0
        data := 0, label := labelTrue }] })) ∧
    (c.wait = .none → ∃ t, exec (.sample d) s = .next t ∧ t.me.run = .running ∧ t.me.wait = .sample ((s.time / 4096 + 1) * 4096) ∧
      (s.time / 4096 + 1) * 4096 ∈ t.pulseDue ∧ t.me.pc = c.pc) ∧
    (c.wait = .granted v → Gives (.sample d) s d v []) ∧
    (c.atS = true → (2 ^ 12 ≤ x ∨ x / 2 ^ 7 % 2 = 1 ∨ 8 < n) → Traps (.wayset d ra) s .illegal (.word true)) ∧
    (c.atS = false → Traps (.wayset d ra) s .protect (.word false)) ∧
    (c.atS = true → x < 2 ^ 12 → x / 2 ^ 7 % 2 = 0 → n ≤ 8 → s.isM (z / 4) = true → (∀ w, 16 - max n old ≤ w → w < 16 → (s.wayMask p z).getLsbD w = true) →
      old ≤ 16 → Idle c → c.guardLabel = labelTrue → ((s.part p).lent.map Prod.fst).Pairwise (· < ·) →
      (n ≠ old → s.touched p (waysLo z (min n old)) (waysLo z (max n old)) = false) →
      s.linesOfSlot p z = [] →
      ∃ t, Answers (.wayset d ra) s d (BitVec.ofNat 64 old) t ∧ t.lentWays p z = n ∧
        (∀ a, (scratchBase + waysLo z (min n old) ≤ a ∧ a < scratchBase + waysLo z (max n old) → t.mem.get 0 a = 0) ∧
          (a < scratchBase + waysLo z (min n old) ∨ scratchBase + waysLo z (max n old) ≤ a → s.mem.wf → t.mem.get 0 a = s.mem.get 0 a))) ∧
    (2 ^ 7 ≤ x → Traps (.waysetQ d ra) s .illegal (.word true)) ∧
    (x < 2 ^ 7 → ∃ r, Gives (.waysetQ d ra) s d r [] ∧
      (old ≤ 8 → r.toNat / 2 ^ 16 = old) ∧
      let hops := r.toNat / 2 ^ 10 % 16
      let dir := r.toNat / 2 ^ 8 % 4
      let lat := r.toNat % 2 ^ 8
      let me := layerOf s.cur % 8
      let it := x / 4 % 8
      hops = (List.range 8).countP (fun l => decide (min me it < l) && decide (l < max me it) && (s.layer (8 * towerOf s.cur + l)).role == .m) ∧
      (s.isM (x / 4) = false ↔ dir = 3) ∧ (dir = 3 → lat = 0) ∧
      (s.isM (x / 4) = true → (dir = 2 ↔ x / 32 ≠ towerOf s.cur)) ∧
      (dir = 0 → x / 4 ≤ layerOf s.cur ∧ lat = 22 + 4 * hops) ∧ (dir = 1 → layerOf s.cur < x / 4 ∧ lat = 30 + 4 * hops) ∧
      (dir = 2 → lat = (if x / 4 % 8 < layerOf s.cur % 8 then 22 else 30) + 4 * hops + 90))

/-- With the core's accesses performed: EVSIG counts its line up, at most to 65,535, and EVARM sets its target; where the target is then not 0 and
not above the count, the count loses it, GEN rises and every other core that waits on the line wakes with GEN; no other line changes (R258,
R264). BAR of a member that has not arrived sets its ARRIVED bit and keeps the phase it arrived in; once every member has arrived or
retired, the phase rises, ARRIVED is 0 and the waiters wake with the phase; BAR of an arrived member only goes on (R258, R265). A number or
value too large raises ILLEGAL, and BAR of a core that is no member PROTECT, with EINFO[40] = 1. -/
def Obligations.EventLines : Prop :=
  ∀ (s : State) (ra rb : GReg), Quiet s.me →
    let c := s.me
    let k := clusterOf s.cur
    let x := (c.rg ra).toNat
    let y := (c.rg rb).toNat
    let wakes (t : State) (w : Wait) (v : Nat) : Prop :=
      ∀ m, m ≠ s.cur → clusterOf m = k → (s.core m).wait = w → (t.core m).wait = .granted (BitVec.ofNat 64 v)
    let becomes (i : Instr) (e : Fin 32) (target count : Nat) : Prop :=
      let l := (s.cluster k).line e
      ∃ t, exec i s = .next t ∧ t.me.pc = c.past.pc ∧ t.mem = s.mem ∧ (∀ j, j ≠ e → (t.cluster k).line j = (s.cluster k).line j) ∧
        (if target ≠ 0 ∧ target ≤ count then
          (t.cluster k).line e = ⟨BitVec.ofNat 16 target, BitVec.ofNat 16 (count - target), l.gen + 1⟩ ∧ wakes t (.line e) (l.gen + 1).toNat
        else (t.cluster k).line e = ⟨BitVec.ofNat 16 target, BitVec.ofNat 16 count, l.gen⟩)
    (∀ e : Fin 32, x = e →
      becomes (.evsig ra) e ((s.cluster k).line e).target.toNat (min (((s.cluster k).line e).count.toNat + 1) 65535)) ∧
    (∀ e : Fin 32, x = e → y < 2 ^ 16 → becomes (.evarm ra rb) e y ((s.cluster k).line e).count.toNat) ∧
    (32 ≤ x → Traps (.evsig ra) s .illegal (.word true) ∧ Traps (.evarm ra rb) s .illegal (.word true)) ∧
    (x < 32 → 2 ^ 16 ≤ y → Traps (.evarm ra rb) s .illegal (.word true)) ∧
    (16 ≤ x → Traps (.bar ra) s .illegal (.word true)) ∧
    (∀ b : Fin 16, x = b →
      let r := (s.cluster k).bar b
      let bit := BitVec.ofNat 8 (2 ^ (s.cur % 8))
      let all := r.arrived ||| bit
      (r.members &&& bit = 0 → Traps (.bar ra) s .protect (.word true)) ∧
      (r.members &&& bit ≠ 0 → r.arrived &&& bit ≠ 0 → Sets (.bar ra) s id) ∧
      (r.members &&& bit ≠ 0 → r.arrived &&& bit = 0 → c.wait = .none →
        ∃ t, exec (.bar ra) s = .next t ∧ t.me.pc = c.past.pc ∧ t.me.arrival[b] = some r.phase ∧
          (if r.members &&& ~~~(all ||| s.retiredMask k) = 0 then
            (t.cluster k).bar b = ⟨r.phase + 1, 0, r.members⟩ ∧ wakes t (.barrier b) (r.phase + 1).toNat
          else (t.cluster k).bar b = ⟨r.phase, all, r.members⟩)))

/-- With the core's accesses performed, no wait and TRUE labels, a 64-bit load of the event window, or its step, completes as its entry says: WAIT of a
line that has fired since the core's last wait gives GEN, which the core has then seen; else the core is GATED for it; STATE gives GEN,
TARGET, COUNT; WAIT of a barrier whose phase has passed the core's arrival gives PHASE and drops the arrival, else gates; CONFIG gives PHASE,
ARRIVED, MEMBERS; GATE of a free mutex acquires it and gives 1, of one held by another core joins its queue and gates; STATE gives LOCKED,
OWNER, WAITING. A wait that was met completes with its value, under the label formed before it. A CONFIG store of a mask from 1 to 255 while ARRIVED is 0 sets MEMBERS; a GATE store by the
owner passes the mutex to the head of its queue, whose load completes with 1, or frees it; other such stores raise PROTECT with EINFO[40] = 1, and
a store to an entry that has none raises PROTECT with the address (R253, R257 to R260). That WAITING is a mask by core slot is the model's
choice (notes/assumptions/32.md), so is the EINFO of the refused stores (notes/assumptions/33.md). -/
def Obligations.EventWindow : Prop :=
  ∀ (s : State) (i : Instr) (d : GReg) (off : Nat) (v : Word), Quiet s.me → s.me.guardLabel = labelTrue →
    let c := s.me
    let k := s.cluster (clusterOf s.cur)
    let k' (t : State) := t.cluster (clusterOf s.cur)
    (LoadsEvent s i d off →
      (∀ w, c.wait = .granted w → ∃ t, exec i s = .next t ∧ (d ≠ 0 → t.me.rg d = w ∧ t.me.lg d = c.formed.1) ∧ t.me.pc = c.past.pc) ∧
      (c.wait = .none →
        (∀ e : Fin 32, off = 8 * e →
          ((k.line e).gen ≠ c.seen[e] → ∃ t, Answers i s d ((k.line e).gen.zeroExtend 64) t ∧ t.me.seen[e] = (k.line e).gen) ∧
          ((k.line e).gen = c.seen[e] → ∃ t, Holds i s .gated (.line e) t)) ∧
        (∀ e : Fin 32, off = 0x100 + 8 * e → ∃ t, t.clusters = s.clusters ∧ Answers i s d
          (BitVec.ofNat 64 ((k.line e).count.toNat + 2 ^ 16 * (k.line e).target.toNat + 2 ^ 32 * (k.line e).gen.toNat)) t) ∧
        (∀ b : Fin 16, off = 0x200 + 8 * b →
          (∀ a, c.arrival[b] = some a → a ≠ (k.bar b).phase → ∃ t, Answers i s d ((k.bar b).phase.zeroExtend 64) t ∧ t.me.arrival[b] = none) ∧
          ((c.arrival[b] = none ∨ c.arrival[b] = some (k.bar b).phase) → ∃ t, Holds i s .gated (.barrier b) t)) ∧
        (∀ b : Fin 16, off = 0x280 + 8 * b → ∃ t, t.clusters = s.clusters ∧ Answers i s d
          (BitVec.ofNat 64 ((k.bar b).members.toNat + 2 ^ 8 * (k.bar b).arrived.toNat + 2 ^ 16 * (k.bar b).phase.toNat)) t) ∧
        (∀ x : Fin 16, off = 0x300 + 8 * x →
          ((k.mutex x).owner = none → ∃ t, Answers i s d 1 t ∧ (k' t).mutex x = ⟨some s.cur, (k.mutex x).queue⟩) ∧
          (∀ o, (k.mutex x).owner = some o → o ≠ s.cur → s.cur ∉ (k.mutex x).queue →
            ∃ t, Holds i s .gated (.mutex x) t ∧ (k' t).mutex x = ⟨some o, (k.mutex x).queue ++ [s.cur]⟩) ∧
          ((k.mutex x).owner = some s.cur → s.fatal s.cur = false → ∃ t, exec i s = .next t ∧ t.me.epc = c.pc &&& 0xFFFFFFFFFFFF ∧ t.clusters = s.clusters ∧
            t.me.ecause = 0x105 ∧ t.me.pc = (s.ctx (s.ctxOf s.cur)).tvec)) ∧
        (∀ x : Fin 16, off = 0x380 + 8 * x → ∃ t r, t.clusters = s.clusters ∧ Answers i s d r t ∧
          (r.getLsbD 63 = true ↔ (k.mutex x).owner ≠ none) ∧
          (∀ o, (k.mutex x).owner = some o → r.toNat / 2 ^ 8 % 2 ^ 55 = o % 8) ∧
          (∀ j, j < 8 → (r.getLsbD j = true ↔ ∃ q ∈ (k.mutex x).queue, q % 8 = j))))) ∧
    (StoresEvent s i v off →
      (∀ b : Fin 16, off = 0x280 + 8 * b →
        ((k.bar b).arrived = 0 → v ≠ 0 → v.toNat < 2 ^ 8 → ∃ t, exec i s = .next t ∧ t.me = c.past ∧
          (k' t).bar b = ⟨(k.bar b).phase, 0, v.truncate 8⟩) ∧
        (((k.bar b).arrived ≠ 0 ∨ v = 0 ∨ 2 ^ 8 ≤ v.toNat) → Traps i s .protect (.word true))) ∧
      (∀ x : Fin 16, off = 0x300 + 8 * x →
        ((k.mutex x).owner = some s.cur → (k.mutex x).queue = [] → ∃ t, exec i s = .next t ∧ t.me = c.past ∧ (k' t).mutex x = ⟨none, []⟩) ∧
        (∀ n r, (k.mutex x).owner = some s.cur → (k.mutex x).queue = n :: r → n ≠ s.cur → ∃ t, exec i s = .next t ∧ t.me = c.past ∧
          (k' t).mutex x = ⟨some n, r⟩ ∧ (t.core n).wait = .granted 1) ∧
        ((k.mutex x).owner ≠ some s.cur → Traps i s .protect (.word true))) ∧
      (off % 8 = 0 → (off < 0x280 ∨ 0x380 ≤ off) → Traps i s .protect (.other (BitVec.ofNat 64 (0x7F0100000000 + off)) false)))

/-- WAITA of an unaligned address raises MISALIGN, of one outside the own local store PROTECT; with the core's accesses performed it completes where the
word, which holds no uncorrectable error, equals gb's low half, sleeps where it does not, and goes on once the wait is met (R263). SYNC above the levels of DOMAIN raises ILLEGAL with
EINFO[40] = 1; else, with accesses performed and no stop armed, the core arrives once, counting ARR up, and where every member of the domain has
arrived as often, or retired, SSC counts up at the level and the core goes on; else it is GATED with its arrival kept; a met wait goes on (R268). -/
def Obligations.WaitaSync : Prop :=
  ∀ (s : State) (ra rb : GReg) (l : BitVec 2), Quiet s.me → s.me.nt = [] → s.me.cfail = none →
    let c := s.me
    let ea := (c.rg ra).toNat
    let off := ea - 0x7F0000000000
    let lv : Fin 4 := l.toFin
    let arrived := if c.arr[lv] % 2 ^ 16 = sscAt c.ssc lv then s.modCore s.cur (fun c => { c with arr := c.arr.set lv (c.arr[lv] + 1) }) else s
    let goesOn (i : Instr) : Prop := ∃ t, exec i s = .next t ∧ t.me.pc = c.past.pc ∧ t.me.run = .running ∧ t.mem = s.mem ∧ t.me.ssc = c.ssc
    (∀ v, c.wait = .granted v → goesOn (.waita ra rb) ∧ goesOn (.sync l)) ∧
    (c.wait = .none →
      (ea % 4 ≠ 0 → Traps (.waita ra rb) s .misalign (.other (BitVec.ofNat 64 ea) false)) ∧
      (ea % 4 = 0 → (ea < 0x7F0000000000 ∨ 0x7F0000020000 ≤ ea) → Traps (.waita ra rb) s .protect (.other (BitVec.ofNat 64 ea) false)) ∧
      (ea % 4 = 0 → 0x7F0000000000 ≤ ea → ea < 0x7F0000020000 → s.badAt (lsBase s.cur + off) 4 = false →
        if s.read32 (lsBase s.cur + off) = (c.rg rb).truncate 32 then goesOn (.waita ra rb)
        else ∃ t, Holds (.waita ra rb) s .sleeping (.waita off ((c.rg rb).truncate 32)) t) ∧
      (domLevel c.domain < l.toNat → Traps (.sync l) s .illegal (.word true)) ∧
      (l.toNat ≤ domLevel c.domain → c.run ≠ .halted → (s.ctx (s.ctxOf s.cur)).tracectl.getLsbD 7 = false →
        (arrived.syncMet s.cur lv = true → ∃ t, exec (.sync l) s = .next t ∧ t.me.pc = c.past.pc ∧ t.me.run = .running ∧
          t.me.arr = arrived.me.arr ∧ sscAt t.me.ssc lv = (sscAt c.ssc lv + 1) % 2 ^ 16 ∧
          ∀ j : Fin 4, j ≠ lv → sscAt t.me.ssc j = sscAt c.ssc j) ∧
        (arrived.syncMet s.cur lv = false → ∃ t, Holds (.sync l) s .gated (.sync l.toNat) t ∧ t.me.arr = arrived.me.arr ∧ t.me.ssc = c.ssc)))

/-- With the core's earlier accesses performed, SEND to a started core that has not retired writes the data under Prod of the two labels into a free
inbox, which wakes a core asleep on it, and goes on; where the inbox holds a message the SEND waits STALLED behind those before it; a rank of no
started core, or a retired target, raises PROTECT with EINFO[40] = 1 (R273). TAKE of a message gives it under its tag and clears the inbox, where the
oldest waiting SEND writes next, and completes; PEEKI gives it and leaves it; on an empty inbox both sleep (R274). INBOX_DELIVERY writes the oldest
waiting message into a free inbox. -/
def Obligations.Messages : Prop :=
  ∀ (s t : State) (d ra rb : GReg) (ix : IReg) (n : Nat) (v : Word) (l : Label),
    let c := s.me
    let box := c.ri ix
    let free (m : Nat) : Prop := (s.inboxOf m ix.toNat).present = false ∧ ∀ p ∈ s.sends, ¬(p.target = m ∧ p.inbox = ix.toNat)
    let filled (u : State) (m : Nat) (p : PendingSend) : Prop := u.inboxOf m ix.toNat = ⟨true, p.data, p.tag, some p.sender⟩
    let next (m : Nat) := s.sends.find? (fun p => p.target == m && p.inbox == ix.toNat)
    (c.wait = .granted v → Sets (.send ra rb ix) s id) ∧
    ((∀ v, c.wait ≠ .granted v) → (∀ p ∈ s.sends, p.sender ≠ s.cur) →
      (s.coreOfRank s.cur (c.rg ra).toNat = none → Traps (.send ra rb ix) s .protect (.word true)) ∧
      (s.coreOfRank s.cur (c.rg ra).toNat = some n → (s.core n).run = .retired → Traps (.send ra rb ix) s .protect (.word true)) ∧
      (s.coreOfRank s.cur (c.rg ra).toNat = some n → (s.core n).run ≠ .retired → Quiet c →
        formLabel [c.lg rb, c.lg ra] s = .ok l t →
        (free n → ∃ u, exec (.send ra rb ix) s = .next u ∧ filled u n ⟨s.cur, n, ix.toNat, c.rg rb, l⟩ ∧ u.me.pc = c.past.pc ∧
          u.me.run = .running ∧ (n ≠ s.cur → (s.core n).wait = .inbox ix.toNat → (u.core n).wait = .granted 0)) ∧
        (¬free n → ∃ u, exec (.send ra rb ix) s = .next u ∧ u.me.run = .stalled ∧ u.me.wait = .send n ∧ u.me.pc = c.pc ∧
          u.sends = s.sends ++ [⟨s.cur, n, ix.toNat, c.rg rb, l⟩]))) ∧
    (box.present = false → (∃ t, Holds (.take d ix) s .sleeping (.inbox ix.toNat) t) ∧ ∃ t, Holds (.peeki d ix) s .sleeping (.inbox ix.toNat) t) ∧
    (box.present = true → GivesFrom (.peeki d ix) s (s.observe s.cur) d box.data [box.tag]) ∧
    (box.present = true → (d = 0 ∨ formLabel [box.tag] (s.observe s.cur) = .ok l t) → ∃ u, exec (.take d ix) s = .next u ∧
      u.me.pc = c.past.pc ∧ u.me.run = .running ∧ (d ≠ 0 → u.me.rg d = box.data ∧ u.me.lg d = l) ∧
      (next s.cur = none → u.inboxOf s.cur ix.toNat = { box with present := false }) ∧
      (∀ p, next s.cur = some p → filled u s.cur p ∧ (p.sender ≠ s.cur → (u.core p.sender).wait = .granted 0))) ∧
    (n < nCores → (s.inboxOf n ix.toNat).present = true → exec (.inboxDelivery n ix) s = .next s) ∧
    (n < nCores → (s.inboxOf n ix.toNat).present = false → ∀ p, next n = some p →
      ∃ u, exec (.inboxDelivery n ix) s = .next u ∧ filled u n p ∧ (u.core p.sender).wait = .granted 0 ∧
        ∀ q, q ∈ u.sends ↔ q ∈ s.sends ∧ q.sender ≠ p.sender)

/-- WAITA_WAKE completes a sleeping WAITA whose word has its value (R263), PAUSE_END a pause whose cycles have passed (R262), SYNC_RELEASE every waiting
member of a domain whose members have all arrived, its SSC counted up (R268). A watched wait of 2^20 cycles raises WATCHDOG at its instruction, no
register written (R260, R263, R276, R314). Two cores of which one waits in a SEND to the other, which waits in TAKE or PEEKI for a message from the
first, both raise DEADLOCK once the first has been blocked 4,096 cycles (R276). -/
def Obligations.WaitEnds : Prop :=
  ∀ (s : State) (n : Nat), n < nCores →
    let c := s.core n
    (∀ off v, c.wait = .waita off v → (s.read32 (lsBase n + off) = v → exec (.waitaWake n) s = .next (s.grant n 0)) ∧
      (s.read32 (lsBase n + off) ≠ v → ∃ t, exec (.waitaWake n) s = .next t ∧ (t.core n).wait = c.wait)) ∧
    (∀ u, c.wait = .pause u → exec (.pauseEnd n) s = .next (if u ≤ s.time then s.grant n 0 else s)) ∧
    (∀ (l : BitVec 2) (k : Nat), (s.cluster (clusterOf n)).kernel = some k → (∀ x, (s.ctx x).tracectl.getLsbD 7 = false) →
      ∃ t, exec (.syncRelease n l) s = .next t ∧ ∀ m q cl, q ∈ s.domainOf n l.toNat →
        (s.kernel k).places.find? (fun e => e.1 == q) = some (q, cl) → (s.cluster cl).kernel = some k → clusterOf m = cl →
        (s.core m).wait = .sync l.toNat → s.syncMet m l.toFin = true →
        (t.core m).wait = .granted 0 ∧ sscAt (t.core m).ssc l.toNat = (sscAt (s.core m).ssc l.toNat + 1) % 2 ^ 16) ∧
    (s.fatal n = false → c.wait.watched = true → c.since + 2 ^ 20 ≤ s.time →
      ∃ t, exec (.watchdog n) s = .next t ∧ Trapped s t n 14 ∧
        (c.frame = none → (t.core n).einfo = c.held.zeroExtend 64) ∧
        (∀ x : Fin 16, c.wait = .mutex x → n ∉ ((t.cluster (clusterOf n)).mutex x).queue)) ∧
    (c.since + 2 ^ 20 > s.time → exec (.watchdog n) s = .next s) ∧
    (∀ m j, c.wait = .send m → c.since + 4096 ≤ s.time → m ≠ n →
      (s.core m).wait = .inbox j → (s.inboxOf m j).sender = some n → s.fatal n = false → s.fatal m = false →
      ∃ t, exec (.deadlockProbe n) s = .next t ∧ Trapped s t n 13 ∧ Trapped s t m 13 ∧ ∀ q ∈ t.sends, q.sender ≠ n)

/-- GSTAT gives the state of the core's group as R315 lays it out, 0 in no group. GFORM of a mask too wide or without the own bit, or by a core in a group,
raises ILLEGAL, with a named core retired or of another kernel PROTECT, EINFO[40] = 1 each; where every other named core waits at the same GFORM the
group forms, every member attached, and gd takes the state; else the core is GATED (R314). GREJOIN of an attached follower or outside a group only goes
on; a detached follower sleeps; the leader goes on where no follower is detached, the followers that wait at its point attached, else holds STALLED
(R312). GLEAVE leaves the group (R313). A follower whose buffer has had no room for 64 cycles detaches, and is alone where its
group is over (R310, R313), and a leader held 4,096 cycles goes on (R312). -/
def Obligations.Groups : Prop :=
  ∀ (s : State) (d ra : GReg) (id' : BitVec 7) (n : Nat),
    let c := s.me
    let g := c.group
    let v := (c.rg ra).toNat
    let mask : BitVec 16 := (c.rg ra).truncate 16
    let grouped := g.st = .attached ∨ g.st = .detached ∨ g.st = .rejoining
    let kernel (m : Nat) := (s.cluster (clusterOf m)).kernel
    let valid := v < 2 ^ 16 ∧ mask.getLsbD (s.cur % 16) = true
    let named (m : Nat) : Prop := m / 16 = s.cur / 16 ∧ mask.getLsbD (m % 16) = true
    let here (m : Nat) : Prop := (s.core m).group.st = .forming ∧ (s.core m).group.mask = mask ∧ (s.core m).group.pc = c.here
    let lone := ∀ m, m / 16 = s.cur / 16 → m ≠ s.cur → (s.core m).group.st = .forming → here m
    (¬grouped → Gives (.gstat d) s d 0 [] ∧ Sets .gleave s id) ∧
    (grouped → g.mask.getLsbD (s.cur % 16) = true → ∃ r, Gives (.gstat d) s d r [] ∧ StatBits s s.cur r) ∧
    (¬valid → Traps (.gform d ra) s .illegal (.word true)) ∧
    (valid → grouped → Traps (.gform d ra) s .illegal (.word true)) ∧
    (valid → ¬grouped → (∃ m, named m ∧ (s.inKernel m = false ∨ kernel m ≠ kernel s.cur)) → Traps (.gform d ra) s .protect (.word true)) ∧
    (valid → ¬grouped → (∀ m, named m → s.inKernel m = true ∧ kernel m = kernel s.cur) → lone →
      ((∀ m, named m → m ≠ s.cur → here m) → c.guardLabel = labelTrue →
        ∃ t r, exec (.gform d ra) s = .next t ∧ t.me.pc = c.past.pc ∧ (d ≠ 0 → t.me.rg d = r ∧ t.me.lg d = labelTrue) ∧ StatBits t s.cur r ∧
          ∀ m, named m → (t.core m).group.st = .attached ∧ (t.core m).group.mask = mask ∧ (t.core m).run = .running) ∧
      ((∃ m, named m ∧ m ≠ s.cur ∧ ¬here m) →
        ∃ t, Holds (.gform d ra) s .gated .gform t ∧ t.me.group.st = .forming ∧ t.me.group.mask = mask ∧ t.me.group.pc = c.here)) ∧
    ((¬grouped ∨ (g.st = .attached ∧ g.leads s.cur = false)) → Sets (.grejoin id') s id) ∧
    ((g.st = .detached ∨ g.st = .rejoining) → ∃ t, Holds (.grejoin id') s .sleeping (.rejoin id'.toNat) t ∧ t.me.group.st = .rejoining ∧
      t.me.group.pc = c.here) ∧
    (g.st = .attached → g.leads s.cur = true → c.wait = .none →
      ((∃ m ∈ s.members s.cur, (s.core m).group.st = .detached) → ∃ t, Holds (.grejoin id') s .stalled (.leaderRejoin id'.toNat) t) ∧
      ((∀ m ∈ s.members s.cur, (s.core m).group.st ≠ .detached) → ∃ t, exec (.grejoin id') s = .next t ∧ t.me = c.past ∧
        ∀ m ∈ s.members s.cur, (s.core m).group.st = .rejoining → (s.core m).wait = .rejoin id'.toNat → (s.core m).group.pc = c.here →
          (t.core m).group.st = .attached ∧ (t.core m).pc = (s.core m).past.pc)) ∧
    (grouped → ∃ t, exec .gleave s = .next t ∧ t.me = { c.past with group := Group.reset } ∧
      (g.leads s.cur = true → ∀ m ∈ s.members s.cur, (s.core m).group.st = .detached → (t.core m).group.st = .none)) ∧
    (n < nCores →
      (∀ u, (s.core n).follows n = true → (s.core n).group.fullSince = some u → u + 64 ≤ s.time →
        ∃ t, exec (.followerBufferTimeout n) s = .next t ∧ (t.core n).pc = (s.core n).pc ∧
          (t.core n).group.st = if (s.core n).group.ended then .none else .detached) ∧
      (∀ j, (s.core n).wait = .leaderRejoin j → (s.core n).since + 4096 ≤ s.time → exec (.leaderRejoinTimeout n) s = .next (s.grant n 0)))

/-- LAUNCH of a valid KIND 0 record, read behind the core's earlier accesses, into a configured queue that is not full submits a kernel of that record
and goes on; into a full queue it waits with what it captured, and goes on when there is room; queue numbers above 15, unaligned records and queues that are not configured trap (R303, R295). EXIT, with
nothing queued, no mark, no failure and empty inboxes, retires the core with focus all ones (R305). The dispatcher decides once in 64 cycles; the only READY
kernel that fits is placed where it has aged, or is within its context's deficit, which its clusters are taken from, on free clusters of its
partition (R298). CLUSTER_START without an image, in a context that runs or is being pre-empted, starts the cores whose ranks start, with the registers of R304 and their local store zero.
KERNEL_DONE counts its queue's DONECNT up (R297). ENERGY_WINDOW takes power and temperature, with the hysteresis of R301. That the dispatcher
decides once for each count of 64 cycles is the model's choice (notes/assumptions/58.md). -/
def Obligations.Kernels : Prop :=
  ∀ (s s1 s2 : State) (ra rb : GReg) (loc : Loc) (r : List Word) (x q : Nat),
    let c := s.me
    let ea := c.rg rb
    (x = s.ctxOf s.cur → q = (c.rg ra).toNat → (∀ l, c.wait ≠ .launch l) →
      (16 ≤ q → Traps (.launch ra rb) s .illegal (.word true)) ∧
      (q < 16 → ea.toNat % 64 ≠ 0 → Traps (.launch ra rb) s .misalign (.other (BitVec.ofNat 64 ea.toNat) false)) ∧
      (q < 16 → ea.toNat % 64 = 0 → (∃ a, s.target s.cur ea = .global a) →
        ((s.ctx x).queues.find? q = none → Traps (.launch ra rb) s .protect (.word true)) ∧
        (∀ u, (s.ctx x).queues.find? q = some u → resolve .read ea 64 s = .ok loc s1 → Quiet s1.me →
          loadLine ea s1 = .ok r s2 → recKind r = 0 → s2.recordBad x none r = false →
          (s2.queueFull x q = false → ∃ t, exec (.launch ra rb) s = .next t ∧ t.me.pc = s2.me.past.pc ∧ t.nextId = s2.nextId + 2 ∧
            let k := t.kernel (s2.nextId + 1)
            k.record = r ∧ k.ctx = x ∧ k.queue = q ∧ (k.st = .submitted ∨ k.st = .waiting ∨ k.st = .ready)) ∧
          (s2.queueFull x q = true → ∃ t, exec (.launch ra rb) s = .next t ∧ t.me.run = .stalled ∧ t.me.wait = .launch ⟨q, [r], none, 1, 0, [], none⟩ ∧
            t.me.pc = s2.me.pc)))) ∧
    (∀ l : Captured, c.wait = .launch l → l.array = none → s.queueFull (s.ctxOf s.cur) l.queue = false →
      ∃ t, exec (.launch ra rb) s = .next t ∧ t.me.pc = c.past.pc ∧ t.nextId = s.nextId + 1 + l.records.length) ∧
    (Idle c → (∀ m, c.rmk m = none) → c.group.st ≠ .forming →
      ((∀ i, (c.ri i).present = false) → ∃ t, exec (.exit ra) s = .next t ∧ t.me.run = .retired ∧ t.me.focus = BitVec.allOnes 128) ∧
      ((∃ i, (c.ri i).present = true) → Traps (.exit ra) s .protect (.word true))) ∧
    (s.time / 64 < s.decided → exec .dispatchDecision s = .next s) ∧
    (s.decided ≤ s.time / 64 → s.kernels = [] → exec .dispatchDecision s = .next { s with decided := s.time / 64 + 1 }) ∧
    (∀ (id' : Nat) (p : Fin 4), s.decided ≤ s.time / 64 → (∀ j, (s.kernel j).st ≠ .placing) → s.readyKernels = [id'] →
      s.fitsNow (s.kernel id') = true → (s.kernel id').places = [] → p.val = s.prioOf id' →
      let y := (s.kernel id').ctx
      let n := recClusters (s.kernel id').record
      let old := s.deficit y p
      (7 ≤ (s.kernel id').fits ∨ (s.ring[p] = y ∧ n ≤ old)) →
        ∃ t, exec .dispatchDecision s = .next t ∧ (t.kernel id').st = .placing ∧ t.decided = s.time / 64 + 1 ∧
          ((s.kernel id').fits < 7 → t.deficit y p = old - n) ∧
          ∀ e ∈ (t.kernel id').places, s.freeFor y e.2 = true ∧ (t.cluster e.2).kernel = some id' ∧ (t.cluster e.2).ctx = some y) ∧
    (∀ (id' cl : Nat), let k := s.kernel id'
      k.st = .placing → k.places.find? (fun e => e.1 == q) = some (q, cl) → q ∉ k.started → q ∉ k.waits → q ∉ k.inherited →
      recLimgLen k.record = 0 → ((s.ctx k.ctx).st = .running ∨ (s.ctx k.ctx).st = .preempting) → (s.ctx k.ctx).lspace.getLsbD 0 = false →
      ∃ t, exec (.clusterStart id' q) s = .next t ∧ (t.cluster cl).kernel = some id' ∧ (t.cluster cl).ctx = some k.ctx ∧
        (t.cluster cl).kclus = q ∧ (t.kernel id').started = k.started ++ [q] ∧
        ∀ j, j < 8 → (rankStarts k.record q j = false → (t.core (8 * cl + j)).run = .retired) ∧
          (rankStarts k.record q j = true → let e := t.core (8 * cl + j)
            e.run = .running ∧ e.wait = .none ∧ e.pc = BitVec.ofNat 64 (recEntry k.record) ∧ e.status = 0 ∧
            e.rg 1 = BitVec.ofNat 64 (8 * q + j) ∧ e.rg 2 = BitVec.ofNat 64 (recCores k.record) ∧ e.rg 3 = recParams k.record ∧
            e.rg 4 = BitVec.ofNat 64 j ∧ e.rg 7 = BitVec.ofNat 64 k.gslot ∧ (∀ i : GReg, 8 ≤ i.toNat → e.rg i = 0) ∧
            (∀ i, e.lg i = labelTrue) ∧ e.sb = [] ∧ e.srseed = seedReset ∧ e.focus = BitVec.allOnes 128 ∧
            ∀ a, a < 64 * recLocal k.record → t.mem.get 0 (lsBase (8 * cl + j) + a) = 0)) ∧
    (∀ (id' : Nat) (u : LQueue), let k := s.kernel id'
      ((s.kernel id').st ≠ .succeeded → exec (.kernelDone id') s = .next s) ∧
      (k.st = .succeeded → Rising s.kernels → Rising (s.ctx k.ctx).queues → (s.ctx k.ctx).queues.find? k.queue = some u →
        (∀ e ∈ s.kernels, e.2.ctx = k.ctx → e.2.entry = k.entry → e.1 = id' ∨ e.2.st = .done) →
        ∃ t, exec (.kernelDone id') s = .next t ∧ (t.kernel id').st = .done ∧
          ((t.ctx k.ctx).queues.find? k.queue).map LQueue.doneCnt = some (u.doneCnt + 1))) ∧
    (∀ (tw watts celsius : Nat), tw < 4 → let w := s.tower tw
      ∃ t, exec (.energyWindow tw watts celsius) s = .next t ∧ let v := t.tower tw
        v.watts = watts ∧ v.placed = 0 ∧ v.before = w.placed ∧ v.temp = celsius ∧ (w.t1 < celsius → v.throttle = true) ∧
        ((celsius : Int) < w.t1 - 3 → v.throttle = false) ∧
        (w.t1 - 3 ≤ celsius → (celsius : Int) ≤ w.t1 → v.throttle = w.throttle) ∧ (v.hot = true ↔ w.t2 < celsius))

/-- A command that is not H's own, that meets the master plinth in recovery, or a context in another state, is refused with a reply and
changes nothing (R371, R372). CONTEXT_CREATE of valid
fields makes a FREE context, of a partition with a shadow slot for it, LOADING with them and its queues empty; CONTEXT_RESTORE_COMPLETE makes a LOADING context without images RUNNING, and places an image
on a free cluster of its class, each core with its registers, program counter and local store, a SAVED one in the state that it recorded, or running where its next word could not be fetched; PREEMPT_REQUEST sets PEND on every core of
a RUNNING context, which is PREEMPTING, or SWAPPED when all were saved; CONTEXT_SCHEDULE makes a SWAPPED one LOADING; CONTEXT_TERMINATE stops the
cores, frees the clusters, where no other context's successor waits for them, and the context is FREE; CONTEXT_RECORD_WRITE writes a valid field (R335). FORCED_SAVE_TIMEOUT saves an overdue core in full at its
program counter (R346); ASYNC_MACHINE_CHECK enters the handler with cause 17 at a boundary (R341); CORE_RESTART lets a HALTED core run on (R342). The refusal codes are the model's choice
(notes/assumptions/93.md), so are that a TERMINATED context is FREE in the same step (notes/assumptions/79.md), the values that a field
takes (notes/assumptions/80.md) and that a partition's eighth context is its last (notes/assumptions/81.md). -/
def Obligations.Contexts : Prop :=
  ∀ (s : State) (by' : Sender) (x n p : Nat) (f : CtxField) (v : Word) (a : CtxInit),
    let c := s.ctx x
    let w (v : Nat) : Word := BitVec.ofNat 64 v
    let fresh := s.modCtx x (fun _ => { Context.reset with part := p })
    let given : List (CtxField × Word) := [(.root, w a.root.toNat), (.lspace, a.lspace), (.fbdepth, a.fbdepth), (.tvec, a.tvec),
      (.tracectl, a.tracectl), (.ssbase, w a.ssbase.toNat), (.ssize, w a.ssize.toNat), (.mcbase, w a.mcbase.toNat)]
    let valid := (∀ e ∈ given, fresh.fieldOk x e.1 e.2 = true) ∧ ∀ q ∈ a.queues, q.1 < 16 ∧ q.2 < 4
    let all (r : Nat) : Prop := Refuses (.contextCreate by' x p a) s r ∧ Refuses (.contextSchedule by' x) s r ∧ Refuses (.contextTerminate by' x) s r ∧
      Refuses (.contextRecordWrite by' x f v) s r ∧ Refuses (.preemptRequest by' x) s r ∧ (n < nCores → Refuses (.coreRestart by' n) s r)
    let others := s.ctxs.filter (fun e => e.2.st != .free && e.2.part == p)
    (¬(by'.level = .h ∧ s.mgmt = some by'.endpoint) → all 1) ∧
    (by'.level = .h → s.mgmt = some by'.endpoint → (s.tower 0).recovery = true → all 2) ∧
    (Bidden s by' .h →
    (c.st ≠ .free → Refuses (.contextCreate by' x p a) s 2) ∧ (c.st ≠ .swapped → Refuses (.contextSchedule by' x) s 2) ∧
    (c.st = .free → Refuses (.contextTerminate by' x) s 2 ∧ Refuses (.contextRecordWrite by' x f v) s 2) ∧
    (c.st ≠ .running → Refuses (.preemptRequest by' x) s 2) ∧
    (c.st = .free → (∃ q, s.parts.find? p = some q) → others.length < 8 → slotsFor (s.part p).desc (others.length + 1) = true →
      (¬valid → Refuses (.contextCreate by' x p a) s 3) ∧
      (valid → ∃ t, exec (.contextCreate by' x p a) s = .next t ∧ let d := t.ctx x
        d.st = .loading ∧ d.part = p ∧ d.root = a.root.toNat ∧ d.lspace = a.lspace ∧ d.fbdepth = a.fbdepth ∧ d.tvec = a.tvec ∧ d.fbstat = 0 ∧
        d.ssbase = a.ssbase.toNat ∧ d.ssize = a.ssize.toNat ∧ d.mcbase = a.mcbase.toNat ∧ d.images = [] ∧
        ((a.queues.map Prod.fst).Nodup → ∀ q ∈ a.queues, d.queues.find? q.1 = some ⟨BitVec.ofNat 2 q.2, [], 0, false⟩) ∧
        (a.mcbase ≠ 0 → s.mem.wf → t.read a.mcbase.toNat 64 = 0))) ∧
    (c.st = .swapped → exec (.contextSchedule by' x) s = .next (s.modCtx x (fun c => { c with st := .loading }))) ∧
    (c.st ≠ .free → (∀ e ∈ s.kernels, e.2.st = .placing → e.2.ctx = x) → ∃ t, exec (.contextTerminate by' x) s = .next t ∧ (t.ctx x).st = .free ∧
      ∀ k ∈ s.clustersOfCtx x, (t.cluster k).ctx = none ∧ ∀ m, clusterOf m = k → (t.core m).run = .retired) ∧
    (c.st ≠ .free → s.fieldOk x f v = false → Refuses (.contextRecordWrite by' x f v) s 3) ∧
    (c.st ≠ .free → s.fieldOk x f v = true → (f = .lspace → v.getLsbD 0 = false) → ∃ t, exec (.contextRecordWrite by' x f v) s = .next t ∧
      let d := t.ctx x
      match f with
      | .root => d = { c with root := v.toNat }
      | .lspace => d = { c with lspace := v }
      | .fbdepth => d = { c with fbdepth := v }
      | .tvec => d = { c with tvec := v }
      | .ssbase => d = { c with ssbase := v.toNat }
      | .ssize => d = { c with ssize := v.toNat }
      | .mcbase => d = { c with mcbase := v.toNat }
      | .fbstat => ∀ l, l < 32 → (d.fbstat.getLsbD l = (c.fbstat.getLsbD l && !(v.getLsbD l || v.getLsbD (32 + l))))
      | .tracectl => ∀ j, j < 6 → d.tracectl.getLsbD j = v.getLsbD j) ∧
    (c.st = .running → Rising s.clusters → ∃ t, exec (.preemptRequest by' x) s = .next t ∧
      ((t.ctx x).st = .swapped ∨ ((t.ctx x).st = .preempting ∧ ∀ m ∈ s.coresOfCtx x, (t.core m).preempt.getLsbD 0 = true)))) ∧
    (c.st = .loading → s.drains x = false → c.lspace.getLsbD 0 = false →
      (c.images = [] → ∃ t, exec (.contextRestoreComplete x) s = .next t ∧ (t.ctx x).st = .running) ∧
      (∀ im k ks, c.images = [im] → s.freeList x = k :: ks → isWide k = im.wide → s.mem.wf →
        ∃ t, exec (.contextRestoreComplete x) s = .next t ∧ (t.ctx x).st = .running ∧ (t.cluster k).ctx = some x ∧ (t.cluster k).lines = im.lines ∧
          ((im.cores.map CoreImage.slot).Nodup → (∀ d ∈ im.cores, d.slot < 8 ∧ Rising d.mem ∧ ∀ e ∈ d.mem, e.1 < 2 ^ 17) → ∀ d ∈ im.cores, let e := t.core (8 * k + d.slot)
            e.g = d.core.g ∧ e.pc = d.core.pc ∧ e.status = d.core.status ∧ e.run = (if d.core.run ≠ .saved then d.core.run else if d.core.recorded = .faultwait ∧ d.core.wait = .none then .running
              else d.core.recorded) ∧
            e.preempt.getLsbD 0 = false ∧ ∀ b, b < 2 ^ 17 → t.mem.get 0 (lsBase (8 * k + d.slot) + b) = d.mem.get 0 b))) ∧
    (n < nCores → let y := s.ctxOf n
      (s.overdue n = false → exec (.forcedSaveTimeout n) s = .next s) ∧
      (s.overdue n = true → (s.core n).drained = true → (s.core n).nt = [] → ∃ t, exec (.forcedSaveTimeout n) s = .next t ∧
        (((t.core n).run = .saved ∧ (t.core n).pc = (s.core n).pc ∧ (t.core n).preempt.getLsbD 2 = true ∧ (t.core n).g = (s.core n).g) ∨
          (t.ctx y).st = .swapped)) ∧
      (∀ e, (s.cluster (clusterOf n)).ctx = some y → (s.ctx y).async = [⟨some n, e⟩] → s.atBoundary n = true → s.fatal n = false →
        ∃ t, exec (.asyncMachineCheck n) s = .next t ∧ (t.ctx y).async = [] ∧ (t.core n).pc = (s.ctx y).tvec ∧ (t.core n).epc = (s.core n).pc &&& 0xFFFFFFFFFFFF ∧
          (t.core n).ecause = BitVec.ofNat 64 (2 ^ 63 + 17) ∧ (t.core n).einfo = e) ∧
      (Bidden s by' .h → (s.core n).run = .halted → (s.cluster (clusterOf n)).ctx = some y → ((s.ctx y).st = .running ∨ (s.ctx y).st = .preempting) →
        ∃ t, exec (.coreRestart by' n) s = .next t ∧ (t.core n).run = .running ∧ (t.core n).pc = (s.core n).pc ∧ (t.core n).g = (s.core n).g) ∧
      (Bidden s by' .h → (s.core n).run ≠ .halted → Refuses (.coreRestart by' n) s 2))

/-- A command of a sender that may not give it is refused with a reply, and one that meets a plinth in recovery (R371, R372). H configures, stops and restarts queues (R295, R296). A partition's endpoint launches, replays and
invalidates for its own contexts; a launch into a full queue waits, an invalidation completes once nothing of the package is pending (R329, R330, R371). FREEZE by F stops the package; frozen, no step changes it but READ_OUT, which delivers a chain, THAW, and the reading of a line of DRAM, after which every link
trains (R387, R389). A firmware image that verifies under the fused key and is not below the rollback counter runs, else the plinth is in recovery (R372). An attestation
request to a link that accepted the feature is answered with the report (R373). A write of the host performs at its home and a read is answered (R370). A pulse fires on a due tick,
once (R382). RESET leaves every field as after reset, links, directories, agents, counters, kernels, layers, lanes, damage and messages
among them, but for what is fused in a tower, its firmware image and whether it is in recovery, and what the model keeps of its surroundings (R13). The refusal
codes are the model's choice (notes/assumptions/93.md), so are what a host's access does to tags and orders (notes/assumptions/92.md) and what
recovery and reset keep (notes/assumptions/94.md). -/
def Obligations.Commands : Prop :=
  ∀ (s : State) (by' : Sender) (x n pa size chain : Nat) (q : BitVec 4) (prio e : BitVec 2) (va : Word) (img : FwImage) (nonce : BitVec 256),
    let c := s.ctx x
    let own := ∃ d, s.parts.find? c.part = some d ∧ by'.endpoint = d.desc.endpoint
    let boss (l : Level) : Prop := by'.level = l ∧ s.mgmt = some by'.endpoint
    let sound := (s.tower 0).recovery = false
    let note (i : Instr) (m : Note) : Prop := exec i s = .next (s.note m)
    let queues (r : Nat) : Prop := Refuses (.queueConfigure by' x q prio) s r ∧ Refuses (.queueStop by' x q) s r ∧ Refuses (.queueRestart by' x q) s r
    (¬boss .h → queues 1) ∧ (boss .h → ¬sound → queues 2) ∧ (boss .h → c.st = .free → queues 2) ∧
    (boss .h → sound → c.st ≠ .free →
      (∃ t, exec (.queueConfigure by' x q prio) s = .next t ∧ (c.queues = [] → ((t.ctx x).queues.find? q.toNat) = some ⟨prio, [], 0, false⟩)) ∧
      (c.queues.find? q.toNat = none → Refuses (.queueStop by' x q) s 3 ∧ Refuses (.queueRestart by' x q) s 3) ∧
      (∀ u, c.queues = [(q.toNat, u)] →
        (∃ t, exec (.queueStop by' x q) s = .next t ∧ ((t.ctx x).queues.find? q.toNat).map LQueue.stopped = some true) ∧
        (∃ t, exec (.queueRestart by' x q) s = .next t ∧ ((t.ctx x).queues.find? q.toNat).map LQueue.stopped = some false))) ∧
    (¬own → Refuses (.fabricLaunch by' x q va) s 1 ∧ Refuses (.fabricReplay by' x) s 1 ∧ (¬boss .h → Refuses (.fabricTlbinv by' x e va) s 1)) ∧
    (own → ¬sound → Refuses (.fabricLaunch by' x q va) s 2 ∧ Refuses (.fabricReplay by' x) s 2 ∧ Refuses (.fabricTlbinv by' x e va) s 2) ∧
    (own → sound → c.st = .free → Refuses (.fabricLaunch by' x q va) s 2 ∧ Refuses (.fabricReplay by' x) s 2) ∧
    (own → sound → c.st ≠ .free →
      (va.toNat % 64 ≠ 0 → note (.fabricLaunch by' x q va) (.refused (256 + 3))) ∧
      (∀ r t, va.toNat % 64 = 0 → (c.queues.find? q.toNat).isSome → plinthLine (s.plinthOf x) va.toNat s = .ok r t → recKind r = 0 →
        t.recordBad x none r = false → let k : Captured := ⟨q.toNat, [r], none, 1, 0, [], none⟩
        (t.queueFull x q.toNat = false → exec (.fabricLaunch by' x q va) s = .next (t.submit x k 0)) ∧
        (t.queueFull x q.toNat = true → exec (.fabricLaunch by' x q va) s = .next { t with undone := some (.launch by'.endpoint x k) }))) ∧
    (own → sound → c.st ≠ .free → exec (.fabricReplay by' x) s = .next (s.replay x) ∧
      ∀ m ∈ s.coresOfCtx x, (s.core m).run = .faultwait → ((s.replay x).core m).run = .running) ∧
    ((own ∨ boss .h) → sound → c.st ≠ .free → (e = 3 → Refuses (.fabricTlbinv by' x e va) s 3) ∧
      (e = 0 → 2 ^ 48 ≤ va.toNat → note (.fabricTlbinv by' x e va) (.refused (256 + 5))) ∧
      ((e = 1 ∨ e = 2 ∨ (e = 0 ∧ va.toNat < 0x7F0000000000)) → (∀ n, (s.core n).sb = [] ∧ (s.core n).nt = [] ∧ (s.core n).mq = [] ∧ s.awaitsCounter n = false) →
        ∃ t, exec (.fabricTlbinv by' x e va) s = .next t ∧
        ∀ k d, (d ∈ (t.cluster k).tlb ∨ d ∈ (t.layer k).tlb) → d.part = c.part → e ≠ 2 ∧ (e = 1 → d.ctx ≠ x) ∧
          (e = 0 → d.ctx = x → va.toNat / d.size ≠ d.va / d.size))) ∧
    (¬boss .f → Refuses (.freeze by') s 1 ∧ Refuses (.thaw by') s 1 ∧ Refuses (.readOut by' chain) s 1 ∧ Refuses (.firmwareLoad by' e img) s 1) ∧
    (boss .f → sound → exec (.freeze by') s = .next { s with frozen := true }) ∧
    (boss .f → sound → s.frozen = true → note (.readOut by' chain) (.chain chain (Config.chainLength chain)) ∧
      (∃ t, exec (.thaw by') s = .next t ∧ t.frozen = false ∧ t.cores = s.cores ∧ t.mem = s.mem ∧ ∀ p, p < 16 → (t.link p).st = .training)) ∧
    (s.frozen = true → (∀ m ∈ s.agenda, ∀ by' n, m ≠ .event (.thaw by') ∧ m ≠ .event (.readOut by' n) ∧ m ≠ .readLine n) → step s = .next s) ∧
    (boss .f → s.frozen = false → Refuses (.readOut by' chain) s 2 ∧ Refuses (.thaw by') s 2) ∧
    (boss .f → let w := s.tower e.toNat
      let good := sha256 (Config.keyEncoding img.modulus img.exponent) = Config.fusedKey ∧
        rsaPssOk img.modulus img.exponent img.image img.signature = true ∧ w.rollback ≤ Config.headerVersion img.image
      (good → exec (.firmwareLoad by' e img) s = .next (s.modTower e.toNat (fun w =>
        { w with fwVersion := Config.headerVersion img.image, fwHash := sha256 img.image, recovery := false }))) ∧
      (¬good → ∃ t, exec (.firmwareLoad by' e img) s = .next t ∧ (t.tower e.toNat).recovery = true ∧ (t.tower e.toNat).fwHash = w.fwHash)) ∧
    (let l := s.link q.toNat
      let open' := (l.st = .up ∨ l.st = .degraded) ∧ l.accepted.getLsbD 5 = true ∧ (s.tower (q.toNat / 4)).recovery = false
      (open' → note (.attestationRequest by' q nonce) (.attestation (s.report q.toNat nonce)) ∧
        (s.report q.toNat nonce).take 48 = (List.range 32).map (fun i => nonce.extractLsb' (8 * i) 8) ++
          (List.range 16).map (fun i => BitVec.ofNat 8 (Config.serial.toNat / 256 ^ i % 256))) ∧
      (¬open' → Refuses (.attestationRequest by' q nonce) s 2)) ∧
    (∀ v, s.damaged = [] → pa % 64 + size ≤ 64 → 0 < size → pa + size ≤ 2 ^ 39 → s.counter (lineOf pa) = none → s.blocking = none → s.dir (lineOf pa) = Dir.reset →
      (∀ t, s.agent t (lineOf pa) = Agent.reset) → s.granting (lineOf pa) (fun _ => true) = false → s.mem.wf →
      (∃ t, exec (.hostAccess ⟨n, pa⟩ size (some v)) s = .next t ∧ readNat t.mem pa size = v % 256 ^ size ∧
        ∀ a, (a < pa ∨ pa + size ≤ a) → t.mem.get 0 a = s.mem.get 0 a) ∧
      (∃ t, exec (.hostAccess ⟨n, pa⟩ size none) s = .next t ∧ t.mem = s.mem ∧ t.notes = s.notes ++ [.hostData pa (readNat s.mem pa size)])) ∧
    (s.pulseNow = false → exec .samplingPulse s = .next s) ∧
    (s.pulseNow = true → s.frozen = false → ∃ t, exec .samplingPulse s = .next t ∧ t.pulses = s.pulses + 1 ∧ t.pulseNow = false ∧ t.time = s.time ∧
      ∀ m d, s.cores.find? m = some d → Rising s.cores → ∀ tick, d.wait = .sample tick → tick ≤ s.time →
        (t.core m).wait = .granted (BitVec.ofNat 64 s.pulses)) ∧
    (n < nCores → (s.ctx (s.ctxOf n)).tracectl.getLsbD 0 = false → ∀ typ, exec (.traceRequest n va typ) s = .next s) ∧
    (n < nCores → ∀ typ, let b := trcBase (s.ctx (s.ctxOf n)).tracectl
      (s.ctx (s.ctxOf n)).tracectl.getLsbD 0 = true → s.read b 4 + 32 ≤ trcSize (s.ctx (s.ctxOf n)).tracectl → s.mem.wf → 64 ≤ s.read b 4 →
        ∃ t, exec (.traceRequest n va typ) s = .next t ∧ t.read64 (b + s.read b 4) = va ∧ t.read b 4 = s.read b 4 + 32) ∧
    (∃ ts, exec .reset s = .next { State.reset with towers := ts, agenda := s.agenda, free := s.free } ∧
      ∀ w, Rising s.towers → ts.get Tower.reset w = let o := s.tower w
        { Tower.reset with fwVersion := o.fwVersion, fwHash := o.fwHash, recovery := o.recovery, rollback := o.rollback })

/-- A link that is DOWN or FENCED trains; in TRAINING, locked lanes, or half of them after the timeout, put it into NEGOTIATING, the latter narrow, and with fewer what waited for
the link waits no more (R366, R389); there an accepted set
within what is offered makes it UP, narrow DEGRADED, or FENCED where another link that is up to the endpoint has another set; a set with other bits is reported
and the link stays (R365, R367). A failing lane makes an UP link DEGRADED; a flit is taken where its CRC is good and its number due, else dropped (R364); the replay
limit and H fence a link that carries traffic (R365, R366). A lane group with a free spare quiesces, switches and is REPAIRED with a spare less, which is
logged; with none left it runs NARROW (R362, R363). Each step leaves a unit in another state as it is. -/
def Obligations.LinksAndLanes : Prop :=
  ∀ (s : State) (port : BitVec 4) (half ok : Bool) (ep g : Nat) (mask : BitVec 128) (seq : BitVec 8),
    let p := port.toNat
    let l := s.link p
    let becomes (i : Instr) (m : Link) : Prop := exec i s = .next { s with links := s.links.put p m }
    let stays (i : Instr) : Prop := exec i s = .next s
    let carries := l.st = .up ∨ l.st = .degraded
    let offered : BitVec 128 := if (s.tower (p / 4)).recovery then 0 else 0x3F
    let differs := ∃ e ∈ s.links, e.1 ≠ p ∧ e.2.endpoint = some ep ∧ (e.2.st = .up ∨ e.2.st = .degraded) ∧ e.2.accepted ≠ mask
    ((l.st = .down ∨ l.st = .fenced) → becomes (.linkTrainingStart port) { l with
      st := .training, narrow := false, accepted := 0, rxSeq := 0, resume := false }) ∧
    (l.st ≠ .down → l.st ≠ .fenced → stays (.linkTrainingStart port)) ∧
    (l.st = .training → becomes (.lanesLocked port) { l with st := .negotiating, narrow := false } ∧
      becomes (.trainingTimeout port true) { l with st := .negotiating, narrow := true } ∧
      becomes (.trainingTimeout port false) { l with resume := false }) ∧
    (l.st ≠ .training → stays (.lanesLocked port) ∧ stays (.trainingTimeout port half)) ∧
    (l.st = .negotiating →
      (mask &&& ~~~offered ≠ 0 → exec (.acceptedSetWritten port ep mask) s = .next (s.note (.badFeatures p))) ∧
      (mask &&& ~~~offered = 0 → (¬differs → becomes (.acceptedSetWritten port ep mask)
          { l with st := if l.narrow then .degraded else .up, endpoint := some ep, accepted := mask, resume := false }) ∧
        (differs → becomes (.acceptedSetWritten port ep mask) { l with st := .fenced, endpoint := some ep, accepted := mask, resume := false }))) ∧
    (l.st ≠ .negotiating → stays (.acceptedSetWritten port ep mask)) ∧
    (l.st = .up → becomes (.laneFailure port) { l with st := .degraded }) ∧ (l.st ≠ .up → stays (.laneFailure port)) ∧
    (carries → becomes (.flitReceive port l.rxSeq true) { l with rxSeq := l.rxSeq + 1 } ∧
      becomes (.flitReplayLimit port) { l with st := .fenced } ∧ becomes (.linkFence port) { l with st := .fenced }) ∧
    ((¬carries ∨ ok = false ∨ seq ≠ l.rxSeq) → stays (.flitReceive port seq ok)) ∧
    (¬carries → stays (.flitReplayLimit port) ∧ stays (.linkFence port)) ∧
    (g < nLanes → let a := s.lane g
      let turns (i : Instr) (b : LaneGroup) (ns : List Note) : Prop := exec i s = .next { s with lanes := s.lanes.put g b, notes := s.notes ++ ns }
      ((a.st = .normal ∨ a.st = .repaired) → 0 < a.spares → turns (.laneRepairTrigger g) { a with st := .quiescing } []) ∧
      (((a.st ≠ .normal ∧ a.st ≠ .repaired) ∨ a.spares = 0) → stays (.laneRepairTrigger g)) ∧
      (a.st = .quiescing → turns (.laneQuiesced g) { a with st := .switching } []) ∧ (a.st ≠ .quiescing → stays (.laneQuiesced g)) ∧
      (a.st = .switching → turns (.laneSwitched g) ⟨.repaired, a.spares - 1⟩ [.laneRepaired g]) ∧ (a.st ≠ .switching → stays (.laneSwitched g)) ∧
      (a.st = .repaired → a.spares = 0 → turns (.laneFailNoSpare g) { a with st := .narrow } [.laneNarrow g]) ∧
      ((a.st ≠ .repaired ∨ a.spares ≠ 0) → stays (.laneFailNoSpare g)))

/-- A descriptor or a way mask that breaks a rule is refused and changes nothing; else the partition has it, and lent ways that it excludes, and that nothing under way touches, are returned (R333, R361). A Blocking request
of another sender, of a plinth in recovery, with roles that break R14, or while one runs is refused; else the tower's layers DRAIN and the RUNNING contexts that it affects are pre-empted: PREEMPTING with PEND set on their cores, or SWAPPED where all were saved (R352, R353). Once these
are SWAPPED the layers FLUSH; the flush leaves no line in the tower's L1Ds, gives the layers their new roles and the tower its slice table, and they are
re-enumerated; then they are ACTIVE or OFFLINE, no Blocking runs and H is told (R351, R353). The contents of the slice table are the model's choice
(notes/assumptions/5.md), so are the refusal codes (notes/assumptions/93.md). -/
def Obligations.Layers : Prop :=
  ∀ (s : State) (by' : Sender) (d : PartDesc) (p z : Nat) (mask : BitVec 16) (tw : BitVec 2) (roles : List Role),
    let t0 := tw.toNat
    let role (l : Nat) : Role := if l / 8 = t0 then roles.getD (l % 8) .offline else (s.layer l).role
    let cs (t : Nat) : Nat := ((List.range 8).filter (fun l => role (8 * t + l) == .c)).length
    let beside (l : Nat) : Prop := (0 < l % 8 ∧ role (l - 1) = .m) ∨ (l % 8 < 7 ∧ role (l + 1) = .m)
    let legal := (∀ t, t < 4 → cs t ≤ 5) ∧ cs 0 + cs 1 + cs 2 + cs 3 ≤ 18 ∧ ∀ l, l < 32 → role l = .c → beside l
    let quiet := ∀ l, l < 8 → (s.layer (8 * t0 + l)).st = .active ∨ (s.layer (8 * t0 + l)).st = .offline
    let runs := ∃ b, s.blocking = some b ∧ b.tower = t0
    let layersAre (t : State) (st : LayerState) : Prop := ∀ l, l < 8 → (t.layer (8 * t0 + l)).st = st
    let all (r : Nat) : Prop := Refuses (.partitionDescriptor by' d) s r ∧ Refuses (.wayMaskWrite by' p z mask) s r ∧
      Refuses (.blockingRequest by' tw roles) s r
    (¬(by'.level = .h ∧ s.mgmt = some by'.endpoint) → all 1) ∧
    (by'.level = .h → s.mgmt = some by'.endpoint → (s.tower 0).recovery = true → all 2) ∧
    (Bidden s by' .h →
    (s.descOk d = false → Refuses (.partitionDescriptor by' d) s 3) ∧
    (s.descOk d = true → (∀ k ∈ (s.part d.id).desc.clusters, (s.cluster k).ctx = none) →
      (∀ z k, s.waysBusy d.id z k = false) →
      ∃ t, exec (.partitionDescriptor by' d) s = .next t ∧ (t.part d.id).desc = d ∧ t.cores = s.cores) ∧
    ((s.parts.find? p = none ∨ (s.tower (z / 32)).recovery = true) → Refuses (.wayMaskWrite by' p z mask) s 2) ∧
    ((∃ q, s.parts.find? p = some q) → (s.tower (z / 32)).recovery = false → ((128 ≤ z ∨ (mask ≠ 0 ∧ (s.layer (z / 4)).role ≠ .m)) → Refuses (.wayMaskWrite by' p z mask) s 3) ∧
      (z < 128 → (mask = 0 ∨ (s.layer (z / 4)).role = .m) → (∀ q ∈ s.parts, q.1 ≠ p → s.wayMask q.1 z &&& mask = 0) → Rising (s.part p).lent → (∀ k, s.waysBusy p z k = false) →
        ∃ t, exec (.wayMaskWrite by' p z mask) s = .next t ∧ t.wayMask p z = mask ∧ t.lentWays p z ≤ s.lentWays p z ∧
          ∀ k, k < t.lentWays p z → mask.getLsbD (15 - k) = true)) ∧
    ((roles.length ≠ 8 ∨ ¬legal) → Refuses (.blockingRequest by' tw roles) s 3) ∧
    (roles.length = 8 → legal → (s.blocking ≠ none ∨ ¬quiet ∨ (s.tower t0).recovery = true) → Refuses (.blockingRequest by' tw roles) s 2) ∧
    (roles.length = 8 → legal → s.blocking = none → quiet → (s.tower t0).recovery = false →
      ∃ t, exec (.blockingRequest by' tw roles) s = .next t ∧ layersAre t .draining ∧
        (∃ b, t.blocking = some b ∧ b.tower = t0 ∧ b.roles = roles ∧ (Rising s.ctxs → Rising s.clusters →
          ∀ x, (s.ctx x).st = .running → s.affected b x = true → (t.ctx x).st = .swapped ∨
            ((t.ctx x).st = .preempting ∧ ∀ m ∈ s.coresOfCtx x, (t.core m).preempt.getLsbD 0 = true))))) ∧
    (¬runs → exec (.blockingDrainComplete tw) s = .next s ∧ exec (.blockingFlushComplete tw) s = .next s ∧ exec (.blockingResume tw) s = .next s) ∧
    (∀ b, s.blocking = some b → b.tower = t0 →
      ((s.layer (8 * t0)).st = .draining → (∀ x, (s.ctx x).st = .swapped ∨ (s.ctx x).st = .free) →
        ∃ t, exec (.blockingDrainComplete tw) s = .next t ∧ layersAre t .flushing ∧ t.cores = s.cores ∧ t.mem = s.mem) ∧
      ((s.layer (8 * t0)).st = .draining → (∃ x e, s.ctxs.find? x = some e ∧ Rising s.ctxs ∧ s.affected b x = true ∧ e.st ≠ .swapped) →
        exec (.blockingDrainComplete tw) s = .next s) ∧
      ((s.layer (8 * t0)).st = .flushing → b.roles.length = 8 → (∀ k, k / 512 = t0 → (s.cluster k).l1 = []) → s.linesAt t0 (fun _ => true) = [] →
        (∀ L, s.isU L = false) → s.flight = [] → (∀ e ∈ s.counters, e.2.queue = []) →
        ∃ t, exec (.blockingFlushComplete tw) s = .next t ∧ layersAre t .reenumerating ∧
          (∀ l, l < 8 → (t.layer (8 * t0 + l)).role = b.roles.getD l .offline ∧ (t.layer (8 * t0 + l)).tlb = []) ∧
          (t.tower t0).sht = (let n := 4 * (b.roles.filter (· == .m)).length; if n = 0 then [] else (List.range 64).map (· % n)) ∧
          ∀ k, k / 512 = t0 → (t.cluster k).l1 = [] ∧ (t.cluster k).tlb = [] ∧ (t.cluster k).icache = []) ∧
      ((s.layer (8 * t0)).st = .reenumerating → ∃ t, exec (.blockingResume tw) s = .next t ∧ t.blocking = none ∧ .blockingDone t0 ∈ t.notes ∧
        ∀ l, l < 8 → (t.layer (8 * t0 + l)).st = if (s.layer (8 * t0 + l)).role = .offline then LayerState.offline else .active))

/-- From each stable state, where no request waits and no Blocking holds the home, the directory serves GETS, GETX and UPG as R228 lists them: an unheld line is granted exclusive; a shared one is shared on, or its other holders
are invalidated first; an owned one is forwarded to its owner; in a transient state a request waits, and in U a recall comes first. The last invalidation's
acknowledgement grants the requester with the stamp of the value it is owed and the largest rts. A PUT of the owner
leaves the line unheld, or with its sharers, raises MTS to its rts and is acknowledged. An acknowledgement or a PUT of an old incarnation is discarded and
counted (R227, R233). A reduction joins U (R232); a line that no agent holds becomes U. The model's choices: a clean PUT raises MTS too
(notes/assumptions/27.md), and the owner of a shared line that upgrades is granted by the other holders' invalidation (notes/assumptions/68.md). -/
def Obligations.Directory : Prop :=
  ∀ (s : State) (line t : Nat), t < 4 →
    let L := lineOf line
    let m := s.mts L
    let d := (s.dir L).st
    let empty := (s.dir L).queue = []
    let free := empty ∧ s.heldLine L = false
    let data (e : Bool) : Msg := .dataGrant L t e m m
    let write (upg : Bool) (d' : DirState) (ms : List Msg) : Prop :=
      if upg then ∃ u, Moves (.dirUpg line t) s L d' ms u else ∃ u, Moves (.dirGetx line t) s L d' ms u
    let waits (i : Instr) (q : DirReq) (d' : DirState) (ms : List Msg) : Prop :=
      ∃ u, Moves i s L d' ms u ∧ (u.dir L).queue = (s.dir L).queue ++ [q]
    let invs (l : List Nat) : List Msg := l.map (Msg.agentInvalidation L)
    let without (l : List Nat) := l.filter (· != t)
    (d = .i → free → (∃ u, Moves (.dirGets line t) s L (.x t) [data true] u) ∧ ∀ upg, write upg (.x t) [data true]) ∧
    (∀ set, d = .s set → free → (∃ u, Moves (.dirGets line t) s L (.s (if t ∈ set then set else set ++ [t])) [data false] u) ∧
      ∀ upg, (without set = [] → write upg (.x t) [data true]) ∧
        (without set ≠ [] → write upg (.bInv (without set) t (if upg = true ∧ t ∈ set then false else true) m 0) (invs (without set)))) ∧
    (∀ o, d = .x o → free → o ≠ t → (∃ u, Moves (.dirGets line t) s L (.bFwd o t false []) [.forwardedGets L o t] u) ∧
      ∀ upg, write upg (.bFwd o t true []) [.forwardedGetx L o t]) ∧
    (∀ o set, d = .o o set → free → (o ≠ t → (∃ u, Moves (.dirGets line t) s L (.bFwd o t false set) [.forwardedGets L o t] u) ∧
        ∀ upg, write upg (.bFwd o t true (without set)) (.forwardedGetx L o t :: invs (without set))) ∧
      (o = t → ∀ upg, (without set = [] → write upg (.x t) [data true]) ∧ (without set ≠ [] → write upg (.bInv (without set) t false m 0) (invs (without set))))) ∧
    (∀ set op z, d = .u set op z → free → waits (.dirGets line t) (.gets t) (.bRec set op z) [.recallComplete L] ∧
      waits (.dirGetx line t) (.getx t) (.bRec set op z) [.recallComplete L] ∧ waits (.dirUpg line t) (.upg t) (.bRec set op z) [.recallComplete L] ∧
      (s.joinOp L t = some (op, z) → ∃ u, Moves (.dirRedJoin line t) s L (.u (if t ∈ set then set else set ++ [t]) op z) [] u)) ∧
    (DirState.stable d = false → waits (.dirGets line t) (.gets t) d [] ∧ waits (.dirGetx line t) (.getx t) d [] ∧ waits (.dirUpg line t) (.upg t) d []) ∧
    (∀ op z, d = .i → free → s.granting L (fun _ => true) = false → (∀ a, (s.agent a L).st = .i) → s.joinOp L t = some (op, z) → ∃ u, Moves (.dirRedJoin line t) s L (.u [t] op z) [] u) ∧
    (∀ (dirty : Bool) (rts inc : Nat), inc ≠ s.incarnation L t →
      exec (.invalidationAck line t rts inc) s = .next (s.note (.staleMessage t)) ∧
      exec (.dirPut line t dirty ⟨rts, inc⟩) s = .next (s.note (.staleMessage t))) ∧
    (empty → ∀ (dirty : Bool) (rts : Nat), let inc := s.incarnation L t
      (∀ set, (d = .x t ∧ set = []) ∨ d = .o t set → ∃ u, Moves (.dirPut line t dirty ⟨rts, inc⟩) s L (if set = [] then .i else .s set) [.writebackAck L t] u ∧
        u.mts L = max m rts) ∧
      (∀ set, d = .s set → without set ≠ [] → ∃ u, Moves (.dirPut line t dirty ⟨rts, inc⟩) s L (.s (without set)) [.writebackAck L t] u ∧ u.mts L = max m rts) ∧
      (∀ o, d = .x o → o ≠ t → ∃ u, Moves (.dirPut line t dirty ⟨rts, inc⟩) s L d [.writebackAck L t] u ∧ u.mts L = m) ∧
      (∀ o set, d = .o o set → o ≠ t → ∃ u, Moves (.dirPut line t dirty ⟨rts, inc⟩) s L (.o o (without set)) [.writebackAck L t] u ∧ u.mts L = m) ∧
      (∀ r b w x left, d = .bInv left r b w x → without left = [] →
        ∃ u, Moves (.invalidationAck line t rts inc) s L (.x r) [.dataGrant L r true w (max w (max x rts))] u) ∧
      (∀ r b w x left, d = .bInv left r b w x → without left ≠ [] →
        ∃ u, Moves (.invalidationAck line t rts inc) s L (.bInv (without left) r b w (max x rts)) [] u))

/-- The steps at an agent are those of R229: an invalidation drops a shared copy and is acknowledged with the copy's rts; a forwarded read leaves the owner a holder and grants the
data; a forwarded write takes the copy; what reaches an agent before the data or grant it waits for is held, and served once that has come; a forward waits
for queued stores that are not yet stamped (R402); data that arrives fills the line; an owned line leaves with a PUT and is free when that is acknowledged. A fill at a slice
that may read extends the lease, else asks the home; the reply fills the L1D while it is the slice's value (R223, R224). A store at a slice asks the
home where it may not write, else performs. Partials move to the slice and are folded into memory by the recall (R232). A dead agent's lines of the home
are what DRAM holds and are unheld, its incarnation rises, only where it has left three sends unanswered; the agent, once it learns of it, has no line of that home (R233). Each clause of an agent is of one that knows its incarnation. The model's choices: a fill reply that is not the slice's value any more is
dropped (notes/assumptions/67.md); an owner whose own upgrade is under way waits for data (notes/assumptions/68.md); when an agent counts as dead and what DRAM holds
of its lines (notes/assumptions/70.md). -/
def Obligations.Agents : Prop :=
  ∀ (s : State) (line t o k : Nat), t < 4 → o < 4 → k < nClusters →
    let L := lineOf line
    let a := s.agent t L
    let b := s.agent o L
    let d := (s.dir L).st
    let slice := s.agent (k / 512) L
    let knows (p : Nat) : Prop := (s.tower (homeTower L)).incarn[p]? = some (s.tower p).known[homeTower L % 4]
    let room (p : Nat) : Prop := s.slotFor p L = some s
    let calm := (s.dir L).queue = []
    let owed (p : Nat) : Prop := s.granting L (· == p) = true
    let holds (i : Instr) (p : Nat) (m : Msg) : Prop :=
      ∃ u, Moves i s L d [] u ∧ u.agent p L = { s.agent p L with held := (s.agent p L).held ++ [m] }
    (knows t → owed t → holds (.agentInvalidation line t) t (.agentInvalidation L t)) ∧
    (knows t → ¬owed t → ∃ u, Moves (.agentInvalidation line t) s L d [.invalidationAck L t a.rts (s.knownInc L t)] u ∧
      (u.agent t L).st = (match a.st with | .s => .i | .sm => .im | x => x)) ∧
    (knows o → (owed o ∨ b.st = .is ∨ b.st = .im ∨ b.st = .sm) → holds (.agentForwardedGets line o t) o (.forwardedGets L o t) ∧
      holds (.agentForwardedGetx line o t) o (.forwardedGetx L o t)) ∧
    (knows o → ¬owed o → (b.st = .e ∨ b.st = .m) → s.stampsDue o L = true → exec (.agentForwardedGets line o t) s = .next (s.later .again) ∧
      exec (.agentForwardedGetx line o t) s = .next (s.later .again)) ∧
    (knows o → ¬owed o → calm → b.queued = [] → o ≠ t → ∀ set r e, d = .bFwd r e false set →
      (b.st = .e → ∃ u, Moves (.agentForwardedGets line o t) s L (.s (addTo (addTo set o) t)) [.dataGrant L t false b.wts b.rts] u ∧ (u.agent o L).st = .s) ∧
      ((b.st = .m ∨ b.st = .o) → ∃ u, Moves (.agentForwardedGets line o t) s L (.o o (addTo set t)) [.dataGrant L t false b.wts b.rts] u ∧
        (u.agent o L).st = .o)) ∧
    (knows o → ¬owed o → calm → b.queued = [] → o ≠ t → ∀ r e set, d = .bFwd r e true set → (b.st = .e ∨ b.st = .m ∨ b.st = .o) →
      let left : AgentState := if s.upgrading L o then .im else .i
      (set = [] → ∃ u, Moves (.agentForwardedGetx line o t) s L (.x t) [.dataGrant L t true b.wts b.rts] u ∧ (u.agent o L).st = left) ∧
      (set ≠ [] → ∃ u, Moves (.agentForwardedGetx line o t) s L (.bInv set t true b.wts b.rts) [] u ∧ (u.agent o L).st = left)) ∧
    (knows t → a.queued = [] → calm → a.st = .im → ¬owed t → s.upgrading L t = false → o ≠ t → a.held = [.forwardedGetx L t o] → ∀ e wts rts,
      d = .bFwd t e true [] → ∃ u, Moves (.agentDataGrant line t true wts rts) s L (.x o) [.dataGrant L o true wts (max a.rts rts)] u ∧ (u.agent t L).st = .i) ∧
    (knows t → a.queued = [] → a.held = [] → calm → ∀ (excl : Bool) (wts rts : Nat), let g := exec (.agentDataGrant line t excl wts rts) s
      (a.st = .is → ∃ u, Moves (.agentDataGrant line t excl wts rts) s L d [] u ∧
        u.agent t L = { a with st := if excl then .e else .s, wts := wts, rts := rts }) ∧
      (a.st = .im → excl = true → ∃ u, g = .next u ∧ (u.agent t L).st = .m ∧ (u.agent t L).wts = wts ∧ (u.agent t L).rts = max a.rts rts ∧
        (u.agent t L).dram = s.imageOf L a ∧ u.mem = s.mem) ∧
      ((a.st = .sm ∨ a.st = .o) → excl = true → ∃ u, g = .next u ∧ (u.agent t L).st = .m ∧ (u.agent t L).wts = a.wts ∧ u.mem = s.mem)) ∧
    (a.parts = [] → (a.st = .e ∨ a.st = .m ∨ a.st = .o) → s.upgrading L t = false → ¬owed t →
      ∃ u, Moves (.agentEviction line t) s L d [.dirPut L t (if a.st = .e then false else true) a.rts (s.knownInc L t)] u ∧ (u.agent t L).st = .mi) ∧
    (a.st = .mi → calm → (∀ r, Msg.forwardedGets L t r ∉ s.flight ∧ Msg.forwardedGetx L t r ∉ s.flight) → ∃ u, Moves (.writebackAck line t) s L d [] u ∧ (u.agent t L).st = .i) ∧ (a.st ≠ .mi → exec (.writebackAck line t) s = .next s) ∧
    (∀ pts, ((slice.st = .s ∨ slice.st = .sm ∨ slice.st = .e ∨ slice.st = .m ∨ slice.st = .o) → let rts := max slice.rts (max (slice.wts + 16) (pts + 16))
        ∃ u, Moves (.sliceFillRequest k line pts) s L d [.fillReply k L slice.wts rts] u ∧ u.agent (k / 512) L = { slice with rts := rts }) ∧
      (slice.st = .i → room (k / 512) → ∃ u, Moves (.sliceFillRequest k line pts) s L d [.dirGets L (k / 512)] u ∧ (u.agent (k / 512) L).st = .is)) ∧
    (∀ wts rts, s.l1 k L = none → (s.cluster k).l1.length < 8 → (slice.st = .s ∨ slice.st = .sm ∨ slice.st = .e ∨ slice.st = .m ∨ slice.st = .o) → slice.wts = wts → rts ≤ slice.rts →
      ∃ u, Moves (.l1FillReply k line wts rts) s L d [] u ∧ u.l1 k L = some (.v wts rts s.time (s.lineData L) (s.lineTags L) (s.lineBad L))) ∧
    (∀ wts rts, slice.wts ≠ wts → exec (.l1FillReply k line wts rts) s = .next s) ∧
    (∀ c e rest, c < nCores → (s.core c).sb = e :: rest → e.kind = .store → e.loc.place = .tracked → lineOf e.loc.key = L → s.counter L = none →
      towerOf c = t →
      (a.st = .s → ∃ u, Moves (.sliceStore c) s L d [.dirUpg L t] u ∧ (u.agent t L).st = .sm) ∧
      (a.st = .i → room t → ∃ u, Moves (.sliceStore c) s L d [.dirGetx L t] u ∧ (u.agent t L).st = .im) ∧
      (a.st = .o → s.upgrading L t = false → ¬owed t → ∃ u, Moves (.sliceStore c) s L d [.dirUpg L t] u) ∧
      ((a.st = .is ∨ a.st = .im ∨ a.st = .sm ∨ a.st = .mi) → ∃ u, Moves (.sliceStore c) s L d [] u ∧ u.agent t L = { a with queued := addTo a.queued c }) ∧
      ((a.st = .m ∨ a.st = .e) → knows t → e.loc.plain = true → (s.core c).paused = [] → (∀ v, (s.core c).wait ≠ .pause v) → s.isU L = false →
        ∃ u, exec (.sliceStore c) s = .next u ∧ (u.core c).sb = rest ∧ (u.agent t L).st = .m ∧ u.mem = writeNat s.mem e.loc.key e.data.toNat e.size ∧
          (u.agent t L).wts = max (s.core c).pts (a.rts + 1))) ∧
    (∀ op z ps, s.l1 k L = some (.u op z ps) → room (k / 512) → Rising (s.cluster k).l1 →
      ∃ u, Moves (.uPartialEvict k line) s L d [] u ∧ u.l1 k L = none ∧ (u.agent (k / 512) L).parts = slice.parts ++ [(s.lclus k, op, z, ps)]) ∧
    (∀ set op z c off v x, (d = .u set op z ∨ d = .bRec set op z) → s.partials L = [(c, op, z, [⟨off, v, labelTrue, x⟩])] → off + z ≤ 64 →
      (∀ i, i < 16 → s.tags.get labelTrue (L / 4 + i) = labelTrue) →
      ∃ u, exec (.uRecallComplete line) s = .next u ∧ (calm → (u.dir L).st = .i) ∧
        ((s.dir L).queue = [.gets t] → s.heldLine L = false → (u.dir L).st = .x t ∧ .dataGrant L t true (s.mts L) (s.mts L) ∈ u.flight) ∧ u.mem = writeNat s.mem (L + off) (memOp op z (readNat s.mem (L + off) z) v.toNat) z) ∧
    (s.silent o t = false → exec (.deadAgentTimeout o t) s = .next s) ∧
    (s.silent o t = true → ∃ u, exec (.deadAgentTimeout o t) s = .next u ∧
      (u.tower o).incarn[t]? = (s.tower o).incarn[t]?.map (· + 1) ∧
      ((∀ e ∈ s.ctxs, e.2.mcbase = 0) → (∀ e ∈ s.counters, homeTower e.1 ≠ o) → Rising s.agents → Rising s.dirs → homeTower L = o → calm → (u.agent t L).dram = none ∧
        (u.agent t L).st = (if a.st = .i then .i else .mi) ∧ (d = .x t → (u.dir L).st = .i) ∧
        (∀ e g, s.mem.wf → (∀ x ∈ s.agents, x.1 / 4 % 64 = 0) → a.dram = some (e, g) → readNat u.mem L 64 = e.toNat))) ∧
    ((s.tower o).incarn[t]? ≠ some ((s.tower t).known[o % 4]) → ∃ u, exec (.newerIncarnation o t) s = .next u ∧
      some ((u.tower t).known[o % 4]) = (s.tower o).incarn[t]? ∧ (Rising s.agents → homeTower L = o → u.agent t L = Agent.reset) ∧ u.mem = s.mem)

/-- From every state whose memory and tags stand in canonical form (locations rising, no byte listed that reads as an unlisted one, no tag listed that is TRUE), whatever the step is, the
next state has them so: equal memories stay equal data. The canonical form is the model's own (its memory is R1's bytes and R200's tags). -/
def Obligations.StepCanonical : Prop :=
  ∀ s t : State, s.Canonical → step s = .next t → t.Canonical

/-- After reset memory and tags are canonical with nothing listed, no context, partition, kernel or link is up, every core is RETIRED with g registers 0 under TRUE, p0 all ones, SRSEED, SHAPE, the scales,
FBDEPTH, VSHARE, MWEIGHT and FOCUS at the values of the spec, STATUS at K; layers alternate M and C, all ACTIVE (R13). The value 0 of the g registers, of the other predicates and of
memory is the model's choice (notes/assumptions/1.md, 2.md), as R81 gives none; so are RETIRED cores with SSC 0 (notes/assumptions/2.md) and the
contents of the slice table (notes/assumptions/5.md). -/
def Obligations.ResetState : Prop :=
  let s := State.reset
  s.Canonical ∧ (∀ a, s.mem.get 0 a = 0) ∧ (∀ w, s.tags.get labelTrue w = labelTrue) ∧ s.frozen = false ∧ s.blocking = none ∧ s.time = 0 ∧ s.pulses = 0 ∧
  (∀ x, (s.ctx x).st = .free ∧ (s.ctx x).fbdepth = 8 ∧ (s.ctx x).fbstat = 0 ∧ (s.ctx x).lspace = 0 ∧ (s.ctx x).tracectl = 0) ∧
  (∀ p, (s.link p).st = .down) ∧ (∀ L, s.dir L = ⟨.i, [], none⟩ ∧ s.counter L = none) ∧
  (∀ l, (s.layer l).st = .active ∧ (s.layer l).role = if l % 2 = 0 then .m else .c) ∧
  (∀ t, (s.tower t).sht = (List.range 64).map (· % 16) ∧ (s.tower t).t1 = 95 ∧ (s.tower t).t2 = 102) ∧
  (∀ k, (s.cluster k).ctx = none ∧ (s.cluster k).l1 = [] ∧ ∀ e : Fin 32, (s.cluster k).line e = ⟨0, 0, 0⟩) ∧
  ∀ n, let c := s.core n
    c.run = .retired ∧ (∀ r, c.rg r = 0 ∧ c.lg r = labelTrue) ∧ c.rp 0 = BitVec.allOnes 256 ∧ c.srseed = 0x6C8E9CF5701342B1#64 ∧ c.shape = 0x00080008#64 ∧
    c.scla = 0x00100000#64 ∧ c.sclb = 0x00100000#64 ∧ c.supa = 0 ∧ c.supb = 0 ∧ c.fflags = 0 ∧ c.frm = 0 ∧ c.status = 0 ∧ c.lflags = 0 ∧
    c.vshare = 4 ∧ c.mweight = 1 ∧ c.focus = BitVec.allOnes 128 ∧ c.ssc = 0 ∧ c.preempt = 0 ∧ c.group.st = .none ∧ c.sb = [] ∧ c.vq = [] ∧ c.mq = [] ∧ c.cq = []

/-- Every instruction that has a word answers a next state in every state: where it cannot complete it waits (R88), traps (R336), or stops its context (R337), and the machine goes on. A step
of the surroundings or of an engine answers a next state, or stops only because it names a unit that the package lacks; without ordered moves, messages or steps under
way a step of a core of the package always answers a next state. The stop on a unit that the package lacks is the model's choice
(notes/assumptions/101.md). -/
def Obligations.NoStop : Prop :=
  (∀ (i : Instr) (w : HWord) (s : State), encode i = some w → ∃ t, exec i s = .next t) ∧
  (∀ (i : Instr) (s : State), (∃ t, exec i s = .next t) ∨ exec i s = .fault .noSuchUnit) ∧
  ∀ s : State, s.agenda = [] → s.flight = [] → s.waiting = [] → s.cur < nCores → ∃ t, step s = .next t

/-- Where the package is not frozen, no pulse, move or machine check is due and the current core runs, in no pair, frame or wait, the step runs the instruction that the word at its program counter decodes
to: in no group, with PEND 0 and no context being pre-empted the step IS that instruction's exec on the state after the fetch; in a group what the group does
follows, and a context whose last core rests is SWAPPED. The word comes from the prefetch buffer, the
instruction cache, or memory, which fills the cache (R217, R218). A word that is none raises ILL_ZERO or ILLEGAL (R59). A fetch from a window raises PROTECT with its address (R106).
PAGE_WALK_COMPLETE fills the TLBs, posts the missing page and puts the core into FAULTWAIT, at its fetch or at the word it holds, or traps (R319, R326). -/
def Obligations.StepRunsDecoded : Prop :=
  ∀ (s t u s1 : State) (w : HWord) (i : Instr),
    let c := s.me
    (s.frozen = false → s.pulseNow = false → s.agenda = [] → s.checkDue s.cur = false → s.overdue s.cur = false → c.run = .running → c.wait = .none →
      c.pair = none → c.frame = none → fetchNth 0 s = .ok w t → s.noRoom s.cur w = [] → decode w = .ok i →
      step s = settle (s.run t i w) ∧
      (c.group.st = .none → exec i t = .next u → (u.core s.cur).preempt.getLsbD 0 = false → (∀ x ∈ u.ctxs, x.2.st ≠ .preempting) →
        step s = .next u)) ∧
    (c.group.st = .none →
      (∀ e, c.prefetch.find? (fun e => e.1 == c.pc) = some e → ∃ t, fetchNth 0 s = .ok e.2 t ∧ t.mem = s.mem ∧ t.me.pc = c.pc) ∧
      (∀ loc, c.prefetch = [] → c.pc.toNat < 0x7F0000000000 → translateMe .fetch c.pc.toNat false s = .ok loc s1 →
        (∀ w, (s1.cluster (clusterOf s1.cur)).icache.find? loc.key = some w → fetchNth 0 s = .ok w s1) ∧
        ((s1.cluster (clusterOf s1.cur)).icache.find? loc.key = none → loc.place = .untracked → s1.blocking = none →
          (s1.dir (lineOf loc.key)).queue = [] → s1.inCounter loc = false → s1.peerBarred loc = false →
          (s1.cluster (clusterOf s1.cur)).icache.length < 16384 → (s1.badAt loc.key 4 = false → fetchNth 0 s =
          .ok (s1.read32 loc.key) (s1.modCluster (clusterOf s1.cur) (fun d => { d with icache := d.icache.put loc.key (s1.read32 loc.key) }))) ∧
          (s1.badAt loc.key 4 = true → fetchNth 0 s = raiseAddr .machineCheck c.pc.toNat s1)))) ∧
    (w = 0 → exec (.wordNotAnInstruction w) s = .next (s.trapInstr s.cur 0 .illZero (.other 0 false))) ∧
    (∀ e, w ≠ 0 → decode w = .error e → exec (.wordNotAnInstruction w) s = .next (s.trapInstr s.cur w .illegal (.word false))) ∧
    (decode w = .ok i → exec (.wordNotAnInstruction w) s = .next s) ∧
    (∀ va : Word, (2 ^ 48 ≤ va.toNat ∨ (0x7F0000000000 ≤ va.toNat ∧ va.toNat < 2 ^ 47)) →
      exec (.fetchFault va) s = .next ((s.keepLoss s).trapInstr s.cur (Instr.word .brk) .protect (.other va false))) ∧
    (∀ (n : Nat) (va : Word) (acc : Access), n < nCores → ((s.core n).run = .running ∨ (s.core n).run = .stalled) →
      let a := va.toNat % 2 ^ 48
      let r := s.translate (s.ctxOf n) (n / 512) (some (n / 8)) acc a
      (∀ leaf pa, r.2 = .ok leaf pa → exec (.pageWalkComplete n va acc) s = .next r.1) ∧
      (r.2 = .held → exec (.pageWalkComplete n va acc) s = .next s) ∧
      (∀ level, r.2 = .absent level → ∃ t, exec (.pageWalkComplete n va acc) s = .next t ∧ (t.core n).run = .faultwait ∧
        (t.core n).wait = (if (s.core n).wait = .none ∨ acc = .fetch then .fetch (n / 512) else .fault (n / 512)) ∧ (t.core n).pc = (s.core n).pc ∧ (n / 512 < 32 → (t.ctx (s.ctxOf n)).fbstat.getLsbD (n / 512) = true)) ∧
      (∀ x e, r.2 = .trap x e → exec (.pageWalkComplete n va acc) s = .next (s.trapInstr n (s.core n).held x (.other e false))))

/-- On a core with nothing queued, no wait and no guard label: at S, where no core of the package has an access pending, TLBINV of each extent answers the state without the entries
of its extent, and FREPLAY the state in which every access at a missing page is made again; WAYSET to a permitted count that nothing touches, no line at the
slice, answers the partition's new count with the old one in gd, and to the count it has only the latter; WAYSET.Q the report in gd; TRACE without EN only goes on, with EN it queues its
record, which the model keeps in the store buffer (notes/assumptions/39.md); the ways and the report are as notes/assumptions/84.md and 85.md choose; a SAMPLE whose pulse has come gives its number; a load of the STATE of a line, of a barrier's CONFIG, of a mutex's STATE gives it and a CONFIG store of a legal mask sets the members. The
commands of a partition's own endpoint to replay and to invalidate answer the same states, a trace request under EN the ring with its record, and a pulse
that is due the next pulse number (R329, R330, R359, R360, R378, R383, R253, R371, R382). -/
def Obligations.PlainCompletions : Prop :=
  ∀ (s : State) (d ra rb : GReg) (ix : BitVec 6) (off : BitVec 10) (by' : Sender) (x n : Nat) (va v : Word) (typ : Byte),
    let c := s.me
    let p := s.partOf s.cur
    let y := (c.rg ra).toNat
    let z := y % 2 ^ 7
    let m := y / 2 ^ 8 % 16
    let old := s.lentWays p z
    let gives (i : Instr) (w : Word) : Prop := exec i s = .next (s.modCore s.cur (fun c => (c.wg d w labelTrue).past))
    let still := ∀ k, (s.core k).sb = [] ∧ (s.core k).nt = [] ∧ (s.core k).mq = [] ∧ s.awaitsCounter k = false
    let k := s.cluster (clusterOf s.cur)
    let shows (o : Nat) (w : Nat) : Prop := off.toNat = o → ∃ t, exec (.eventWindowLoad d off) s = .next t ∧
      (d ≠ 0 → t.me.rg d = BitVec.ofNat 64 w ∧ t.me.lg d = labelTrue) ∧ t.me.pc = c.past.pc ∧ t.clusters = s.clusters ∧ t.mem = s.mem
    let own := ∃ e, s.parts.find? (s.ctx x).part = some e ∧ by'.endpoint = e.desc.endpoint
    (Idle c → c.guardLabel = labelTrue →
      (c.atS = true → still →
        (y < 0x7F0000000000 → exec (.tlbinvPage ra) s = .next ((s.dropTlb (.page y) (s.ctxOf s.cur)).modCore s.cur Core.past)) ∧
        exec .tlbinvContext s = .next ((s.dropTlb .context (s.ctxOf s.cur)).modCore s.cur Core.past) ∧
        exec .tlbinvPartition s = .next ((s.dropTlb .partition (s.ctxOf s.cur)).modCore s.cur Core.past)) ∧
      (c.atS = true → exec .freplay s = .next ((s.replay (s.ctxOf s.cur)).modCore s.cur Core.past)) ∧
      (c.atS = true → y < 2 ^ 12 → y / 2 ^ 7 % 2 = 0 → m ≤ 8 → s.isM (z / 4) = true → inMask (s.wayMask p z) (max m old) = true →
        (m = old → gives (.wayset d ra) (BitVec.ofNat 64 old)) ∧
        (m ≠ old → s.touched p (waysLo z (min m old)) (waysLo z (max m old)) = false →
          s.linesOfSlot p z = [] →
          exec (.wayset d ra) s = .next ((s.setWays p z m).modCore s.cur (fun c => (c.wg d (BitVec.ofNat 64 old) labelTrue).past)))) ∧
      (y < 2 ^ 7 → gives (.waysetQ d ra) (s.slotReport s.cur y)) ∧
      ((s.ctx (s.ctxOf s.cur)).tracectl.getLsbD 0 = false → exec (.trace ra ix) s = .next (s.modCore s.cur Core.past)) ∧
      ((s.ctx (s.ctxOf s.cur)).tracectl.getLsbD 0 = true → exec (.trace ra ix) s =
        .next (s.modCore s.cur (fun c => ({ c with sb := [s.traceEntry s.cur (c.rg ra) ix.toNat] } : Core).past))) ∧
      (c.wait = .granted v → gives (.sample d) v) ∧
      (c.wait = .none →
        (∀ e : Fin 32, let l := k.line e
          shows (0x100 + 8 * e) (l.count.toNat + 2 ^ 16 * l.target.toNat + 2 ^ 32 * l.gen.toNat)) ∧
        (∀ b : Fin 16, let r := k.bar b
          shows (0x280 + 8 * b) (r.members.toNat + 2 ^ 8 * r.arrived.toNat + 2 ^ 16 * r.phase.toNat) ∧
          (off.toNat = 0x280 + 8 * b → c.rg rb ≠ 0 → (c.rg rb).toNat < 256 → r.arrived = 0 → exec (.eventWindowStore off rb) s =
            .next ((s.modCluster (clusterOf s.cur) (fun k => k.setBar b { r with members := (c.rg rb).truncate 8 })).modCore s.cur Core.past))) ∧
        (∀ q : Fin 16, k.mutex q = ⟨none, []⟩ → shows (0x380 + 8 * q) 0))) ∧
    (own → (s.tower 0).recovery = false → (s.ctx x).st ≠ .free → exec (.fabricReplay by' x) s = .next (s.replay x) ∧
      (still → exec (.fabricTlbinv by' x 1 va) s = .next (s.dropTlb .context x) ∧ exec (.fabricTlbinv by' x 2 va) s = .next (s.dropTlb .partition x) ∧
        (va.toNat < 0x7F0000000000 → exec (.fabricTlbinv by' x 0 va) s = .next (s.dropTlb (.page va.toNat) x)))) ∧
    (n < nCores → (s.ctx (s.ctxOf n)).tracectl.getLsbD 0 = true →
      exec (.traceRequest n va typ) s = .next (s.ringWrite (s.ctxOf n) [(s.traceRec n va typ.toNat).bytes])) ∧
    (s.pulseNow = true → s.frozen = false → ∃ t, exec .samplingPulse s = .next t ∧ t.pulses = s.pulses + 1 ∧ t.time = s.time)
end

