-- ==== Sys2Proof/Laws/Map.lean ====
section
/-! SUPPORT. Sparse data by number: what is read after a write, and that writes keep the canonical form; then bytes, words and tags
of memory. -/

namespace Sys2Proof.Machine

/-! ### Maps -/

@[simp] theorem AMap.get_nil {α : Type} (d : α) (k : Nat) : AMap.get [] d k = d := rfl

@[simp] theorem AMap.get_put_self {α : Type} (m : AMap α) (d : α) (k : Nat) (v : α) : (m.put k v).get d k = v := by
  induction m with
  | nil => simp [AMap.put, AMap.get]
  | cons e r ih =>
    obtain ⟨j, w⟩ := e
    by_cases h1 : k < j
    · simp [AMap.put, AMap.get, h1]
    · by_cases h2 : k = j
      · simp [AMap.put, AMap.get, h2]
      · simp [AMap.put, AMap.get, h1, h2, ih]

theorem AMap.get_put_ne {α : Type} (m : AMap α) (d : α) {k i : Nat} (v : α) (h : i ≠ k) : (m.put k v).get d i = m.get d i := by
  induction m with
  | nil => simp [AMap.put, AMap.get, h]
  | cons e r ih =>
    obtain ⟨j, w⟩ := e
    by_cases h1 : k < j
    · by_cases h3 : i < k
      · simp [AMap.put, AMap.get, h1, h3, show i < j by omega]
      · simp [AMap.put, AMap.get, h1, h3, h]
    · by_cases h2 : k = j
      · subst h2
        simp [AMap.put, AMap.get, h]
      · simp [AMap.put, AMap.get, h1, h2, ih]

theorem AMap.get_put {α : Type} (m : AMap α) (d : α) (k i : Nat) (v : α) :
    (m.put k v).get d i = if i = k then v else m.get d i := by
  by_cases h : i = k
  · subst h; simp
  · simp [h, AMap.get_put_ne m d v h]

@[simp] theorem AMap.find_put_self {α : Type} (m : AMap α) (k : Nat) (v : α) : (m.put k v).find? k = some v := by
  induction m with
  | nil => simp [AMap.put, AMap.find?]
  | cons e r ih =>
    obtain ⟨j, w⟩ := e
    by_cases h1 : k < j
    · simp [AMap.put, AMap.find?, h1]
    · by_cases h2 : k = j
      · simp [AMap.put, AMap.find?, h2]
      · simp [AMap.put, AMap.find?, h1, h2, ih]

theorem AMap.find_put_ne {α : Type} (m : AMap α) {k i : Nat} (v : α) (h : i ≠ k) : (m.put k v).find? i = m.find? i := by
  induction m with
  | nil => simp [AMap.put, AMap.find?, h]
  | cons e r ih =>
    obtain ⟨j, w⟩ := e
    by_cases h1 : k < j
    · by_cases h3 : i < k
      · simp [AMap.put, AMap.find?, h1, h3, show i < j by omega]
      · simp [AMap.put, AMap.find?, h1, h3, h]
    · by_cases h2 : k = j
      · subst h2
        simp [AMap.put, AMap.find?, h]
      · simp [AMap.put, AMap.find?, h1, h2, ih]

/-! ### The canonical form -/

section
variable {α : Type} [DecidableEq α] {d : α}

theorem AMap.wfFrom_mono {lo lo' : Nat} {m : AMap α} (h : AMap.wfFrom d lo m = true) (hl : lo' ≤ lo) :
    AMap.wfFrom d lo' m = true := by
  cases m with
  | nil => rfl
  | cons e r =>
    obtain ⟨j, w⟩ := e
    simp only [AMap.wfFrom, Bool.and_eq_true, decide_eq_true_eq] at h ⊢
    exact ⟨⟨by omega, h.1.2⟩, h.2⟩

theorem AMap.wfFrom_put {lo k : Nat} {v : α} {m : AMap α} (h : AMap.wfFrom d lo m = true) (hk : lo ≤ k) (hv : v ≠ d) :
    AMap.wfFrom d lo (m.put k v) = true := by
  induction m generalizing lo with
  | nil => simp [AMap.put, AMap.wfFrom, hk, hv]
  | cons e r ih =>
    obtain ⟨j, w⟩ := e
    simp only [AMap.wfFrom, Bool.and_eq_true, decide_eq_true_eq] at h
    by_cases h1 : k < j
    · simp only [AMap.put, h1, if_true, AMap.wfFrom, Bool.and_eq_true, decide_eq_true_eq]
      exact ⟨⟨hk, hv⟩, ⟨by omega, h.1.2⟩, h.2⟩
    · by_cases h2 : k = j
      · subst h2
        simp only [AMap.put, lt_irrefl, if_false, if_true, AMap.wfFrom, Bool.and_eq_true, decide_eq_true_eq]
        exact ⟨⟨hk, hv⟩, h.2⟩
      · simp only [AMap.put, h1, h2, if_false, AMap.wfFrom, Bool.and_eq_true, decide_eq_true_eq]
        exact ⟨h.1, ih h.2 (by omega)⟩

theorem AMap.wfFrom_erase {lo k : Nat} {m : AMap α} (h : AMap.wfFrom d lo m = true) : AMap.wfFrom d lo (m.erase k) = true := by
  induction m generalizing lo with
  | nil => simpa [AMap.erase] using h
  | cons e r ih =>
    obtain ⟨j, w⟩ := e
    by_cases h1 : k < j
    · simpa [AMap.erase, h1] using h
    · simp only [AMap.wfFrom, Bool.and_eq_true, decide_eq_true_eq] at h
      by_cases h2 : k = j
      · simp only [AMap.erase, h2, if_false, if_true, lt_irrefl]
        exact AMap.wfFrom_mono h.2 (by omega)
      · simp only [AMap.erase, h1, h2, if_false, AMap.wfFrom, Bool.and_eq_true, decide_eq_true_eq]
        exact ⟨h.1, ih h.2⟩

/-- Setting a key keeps the canonical form. -/
theorem AMap.wf_set {m : AMap α} (h : AMap.wf d m = true) (k : Nat) (v : α) : AMap.wf d (m.set d k v) = true := by
  unfold AMap.set
  split
  · exact AMap.wfFrom_erase h
  · exact AMap.wfFrom_put h (Nat.zero_le _) ‹_›

theorem AMap.wfFrom_filter {lo : Nat} {m : AMap α} (p : Nat × α → Bool) (h : AMap.wfFrom d lo m = true) :
    AMap.wfFrom d lo (m.filter p) = true := by
  induction m generalizing lo with
  | nil => rfl
  | cons e r ih =>
    obtain ⟨j, w⟩ := e
    simp only [AMap.wfFrom, Bool.and_eq_true, decide_eq_true_eq] at h
    by_cases hp : p (j, w) = true
    · rw [List.filter_cons_of_pos hp]
      simp only [AMap.wfFrom, Bool.and_eq_true, decide_eq_true_eq]
      exact ⟨h.1, ih h.2⟩
    · rw [List.filter_cons_of_neg hp]
      exact AMap.wfFrom_mono (ih h.2) (by omega)

/-- Leaving entries out keeps the canonical form. -/
theorem AMap.wf_filter {m : AMap α} (p : Nat × α → Bool) (h : AMap.wf d m = true) : AMap.wf d (m.filter p) = true :=
  AMap.wfFrom_filter p h

/-- Setting several keys keeps the canonical form. -/
theorem AMap.wf_foldl {β : Type} (l : List β) (f : β → Nat × α) {m : AMap α} (h : AMap.wf d m = true) :
    AMap.wf d (l.foldl (fun t e => t.set d (f e).1 (f e).2) m) = true := by
  induction l generalizing m with
  | nil => exact h
  | cons e r ih => exact ih (AMap.wf_set h _ _)

theorem AMap.get_below {lo k : Nat} {m : AMap α} (h : AMap.wfFrom d lo m = true) (hk : k < lo) : m.get d k = d := by
  cases m with
  | nil => rfl
  | cons e r =>
    obtain ⟨j, w⟩ := e
    simp only [AMap.wfFrom, Bool.and_eq_true, decide_eq_true_eq] at h
    simp [AMap.get, show k < j by omega]

theorem AMap.get_erase {lo k : Nat} {m : AMap α} (h : AMap.wfFrom d lo m = true) (i : Nat) :
    (m.erase k).get d i = if i = k then d else m.get d i := by
  induction m generalizing lo with
  | nil => simp [AMap.erase]
  | cons e r ih =>
    obtain ⟨j, w⟩ := e
    simp only [AMap.wfFrom, Bool.and_eq_true, decide_eq_true_eq] at h
    by_cases h1 : k < j
    · by_cases hi : i = k
      · subst hi; simp [AMap.erase, AMap.get, h1]
      · simp [AMap.erase, h1, hi]
    · by_cases h2 : k = j
      · subst h2
        by_cases hi : i = k
        · subst hi; simp only [AMap.erase, lt_irrefl, if_false, if_true]; exact AMap.get_below h.2 (by omega)
        · by_cases h3 : i < k
          · simp only [AMap.erase, lt_irrefl, if_false, if_true, hi, AMap.get, h3]
            exact AMap.get_below h.2 (by omega)
          · simp [AMap.erase, hi, AMap.get, h3]
      · have := ih h.2
        by_cases hij : i < j
        · simp [AMap.erase, h1, h2, AMap.get, hij]
        · by_cases hj : i = j
          · subst hj; simp [AMap.erase, h1, h2, AMap.get, Ne.symm h2]
          · simp [AMap.erase, h1, h2, AMap.get, hij, hj, this]

/-- What is read after a key is set, in canonical form. -/
theorem AMap.get_set {m : AMap α} (h : AMap.wf d m = true) (k i : Nat) (v : α) :
    (m.set d k v).get d i = if i = k then v else m.get d i := by
  unfold AMap.set
  split
  · subst_vars; exact AMap.get_erase h i
  · exact AMap.get_put m d k i v

theorem AMap.eq_of_get {lo lo' : Nat} {m n : AMap α} (hm : AMap.wfFrom d lo m = true) (hn : AMap.wfFrom d lo' n = true)
    (h : ∀ k, m.get d k = n.get d k) : m = n := by
  induction m generalizing lo lo' n with
  | nil =>
    cases n with
    | nil => rfl
    | cons e r =>
      obtain ⟨j, w⟩ := e
      simp only [AMap.wfFrom, Bool.and_eq_true, decide_eq_true_eq] at hn
      exact absurd (by simpa [AMap.get] using (h j).symm) hn.1.2
  | cons e r ih =>
    obtain ⟨j, w⟩ := e
    have hm' := hm
    simp only [AMap.wfFrom, Bool.and_eq_true, decide_eq_true_eq] at hm
    cases n with
    | nil => exact absurd (by simpa [AMap.get] using h j) hm.1.2
    | cons f q =>
      obtain ⟨i, x⟩ := f
      have hn' := hn
      simp only [AMap.wfFrom, Bool.and_eq_true, decide_eq_true_eq] at hn
      have hj : j = i := by
        rcases Nat.lt_trichotomy j i with hlt | heq | hgt
        · exact absurd (by simpa [AMap.get, hlt] using h j) hm.1.2
        · exact heq
        · exact absurd (by simpa [AMap.get, hgt] using (h i).symm) hn.1.2
      subst hj
      have hv : w = x := by simpa [AMap.get] using h j
      subst hv
      congr 1
      refine ih hm.2 hn.2 (fun k => ?_)
      by_cases hk : k < j + 1
      · rw [AMap.get_below hm.2 hk, AMap.get_below hn.2 hk]
      · have := h k
        simpa [AMap.get, show ¬ k < j by omega, show k ≠ j by omega] using this
end

/-! ### Bytes and tags of memory -/

/-- A write keeps memory's canonical form. -/
theorem writeNat_wf (n : Nat) {m : Memory} (h : Memory.wf m) (k v : Nat) : Memory.wf (writeNat m k v n) := by
  induction n generalizing m k v with
  | zero => exact h
  | succ n ih => exact ih (AMap.wf_set h _ _) _ _

/-- The bytes outside a write read as before. -/
theorem writeNat_get_outside (n : Nat) {m : Memory} (h : Memory.wf m) (k v i : Nat) (hi : i < k ∨ k + n ≤ i) :
    (writeNat m k v n).get 0 i = m.get 0 i := by
  induction n generalizing m k v with
  | zero => rfl
  | succ n ih =>
    rw [writeNat, ih (AMap.wf_set h _ _) _ _ (by omega), AMap.get_set h]
    simp [show i ≠ k by omega]

/-- Setting the tags of words keeps their canonical form. -/
theorem setTags_wf (n : Nat) {t : Tags} (h : Tags.wf t) (w : Nat) (l : Label) : Tags.wf (setTags t w l n) := by
  induction n generalizing t w with
  | zero => exact h
  | succ n ih => exact ih (AMap.wf_set h _ _) _

end Sys2Proof.Machine
end

