-- ==== Sys2Proof/Laws/State.lean ====
section
/-! SUPPORT. What each update of a part of the state leaves unchanged, field by field, and what is read of a part after it is
updated. -/

namespace Sys2Proof.Machine

/-! ### Fields after an update of a part -/

@[simp] theorem State.setCore_cur (s : State) (n : Nat) (c : Core) : (s.setCore n c).cur = s.cur := rfl
@[simp] theorem State.setCore_clusters (s : State) (n : Nat) (c : Core) : (s.setCore n c).clusters = s.clusters := rfl
@[simp] theorem State.setCore_layers (s : State) (n : Nat) (c : Core) : (s.setCore n c).layers = s.layers := rfl
@[simp] theorem State.setCore_towers (s : State) (n : Nat) (c : Core) : (s.setCore n c).towers = s.towers := rfl
@[simp] theorem State.setCore_mem (s : State) (n : Nat) (c : Core) : (s.setCore n c).mem = s.mem := rfl
@[simp] theorem State.setCore_tags (s : State) (n : Nat) (c : Core) : (s.setCore n c).tags = s.tags := rfl
@[simp] theorem State.setCore_damaged (s : State) (n : Nat) (c : Core) : (s.setCore n c).damaged = s.damaged := rfl
@[simp] theorem State.setCore_dirs (s : State) (n : Nat) (c : Core) : (s.setCore n c).dirs = s.dirs := rfl
@[simp] theorem State.setCore_agents (s : State) (n : Nat) (c : Core) : (s.setCore n c).agents = s.agents := rfl
@[simp] theorem State.setCore_slices (s : State) (n : Nat) (c : Core) : (s.setCore n c).slices = s.slices := rfl
@[simp] theorem State.setCore_counters (s : State) (n : Nat) (c : Core) : (s.setCore n c).counters = s.counters := rfl
@[simp] theorem State.setCore_aliases (s : State) (n : Nat) (c : Core) : (s.setCore n c).aliases = s.aliases := rfl
@[simp] theorem State.setCore_parts (s : State) (n : Nat) (c : Core) : (s.setCore n c).parts = s.parts := rfl
@[simp] theorem State.setCore_ctxs (s : State) (n : Nat) (c : Core) : (s.setCore n c).ctxs = s.ctxs := rfl
@[simp] theorem State.setCore_kernels (s : State) (n : Nat) (c : Core) : (s.setCore n c).kernels = s.kernels := rfl
@[simp] theorem State.setCore_links (s : State) (n : Nat) (c : Core) : (s.setCore n c).links = s.links := rfl
@[simp] theorem State.setCore_lanes (s : State) (n : Nat) (c : Core) : (s.setCore n c).lanes = s.lanes := rfl
@[simp] theorem State.setCore_sends (s : State) (n : Nat) (c : Core) : (s.setCore n c).sends = s.sends := rfl
@[simp] theorem State.setCore_blocking (s : State) (n : Nat) (c : Core) : (s.setCore n c).blocking = s.blocking := rfl
@[simp] theorem State.setCore_ring (s : State) (n : Nat) (c : Core) : (s.setCore n c).ring = s.ring := rfl
@[simp] theorem State.setCore_nextId (s : State) (n : Nat) (c : Core) : (s.setCore n c).nextId = s.nextId := rfl
@[simp] theorem State.setCore_decided (s : State) (n : Nat) (c : Core) : (s.setCore n c).decided = s.decided := rfl
@[simp] theorem State.setCore_time (s : State) (n : Nat) (c : Core) : (s.setCore n c).time = s.time := rfl
@[simp] theorem State.setCore_pulses (s : State) (n : Nat) (c : Core) : (s.setCore n c).pulses = s.pulses := rfl
@[simp] theorem State.setCore_pulseDue (s : State) (n : Nat) (c : Core) : (s.setCore n c).pulseDue = s.pulseDue := rfl
@[simp] theorem State.setCore_lastPulse (s : State) (n : Nat) (c : Core) : (s.setCore n c).lastPulse = s.lastPulse := rfl
@[simp] theorem State.setCore_frozen (s : State) (n : Nat) (c : Core) : (s.setCore n c).frozen = s.frozen := rfl
@[simp] theorem State.setCore_notes (s : State) (n : Nat) (c : Core) : (s.setCore n c).notes = s.notes := rfl
@[simp] theorem State.setCore_agenda (s : State) (n : Nat) (c : Core) : (s.setCore n c).agenda = s.agenda := rfl
@[simp] theorem State.setCore_flight (s : State) (n : Nat) (c : Core) : (s.setCore n c).flight = s.flight := rfl
@[simp] theorem State.setCore_waiting (s : State) (n : Nat) (c : Core) : (s.setCore n c).waiting = s.waiting := rfl
@[simp] theorem State.setCore_undone (s : State) (n : Nat) (c : Core) : (s.setCore n c).undone = s.undone := rfl
@[simp] theorem State.setCore_mgmt (s : State) (n : Nat) (c : Core) : (s.setCore n c).mgmt = s.mgmt := rfl
@[simp] theorem State.setCore_free (s : State) (n : Nat) (c : Core) : (s.setCore n c).free = s.free := rfl

@[simp] theorem State.modCore_cur (s : State) (n : Nat) (f : Core → Core) : (s.modCore n f).cur = s.cur := rfl
@[simp] theorem State.modCore_clusters (s : State) (n : Nat) (f : Core → Core) : (s.modCore n f).clusters = s.clusters := rfl
@[simp] theorem State.modCore_layers (s : State) (n : Nat) (f : Core → Core) : (s.modCore n f).layers = s.layers := rfl
@[simp] theorem State.modCore_towers (s : State) (n : Nat) (f : Core → Core) : (s.modCore n f).towers = s.towers := rfl
@[simp] theorem State.modCore_mem (s : State) (n : Nat) (f : Core → Core) : (s.modCore n f).mem = s.mem := rfl
@[simp] theorem State.modCore_tags (s : State) (n : Nat) (f : Core → Core) : (s.modCore n f).tags = s.tags := rfl
@[simp] theorem State.modCore_damaged (s : State) (n : Nat) (f : Core → Core) : (s.modCore n f).damaged = s.damaged := rfl
@[simp] theorem State.modCore_dirs (s : State) (n : Nat) (f : Core → Core) : (s.modCore n f).dirs = s.dirs := rfl
@[simp] theorem State.modCore_agents (s : State) (n : Nat) (f : Core → Core) : (s.modCore n f).agents = s.agents := rfl
@[simp] theorem State.modCore_slices (s : State) (n : Nat) (f : Core → Core) : (s.modCore n f).slices = s.slices := rfl
@[simp] theorem State.modCore_counters (s : State) (n : Nat) (f : Core → Core) : (s.modCore n f).counters = s.counters := rfl
@[simp] theorem State.modCore_aliases (s : State) (n : Nat) (f : Core → Core) : (s.modCore n f).aliases = s.aliases := rfl
@[simp] theorem State.modCore_parts (s : State) (n : Nat) (f : Core → Core) : (s.modCore n f).parts = s.parts := rfl
@[simp] theorem State.modCore_ctxs (s : State) (n : Nat) (f : Core → Core) : (s.modCore n f).ctxs = s.ctxs := rfl
@[simp] theorem State.modCore_kernels (s : State) (n : Nat) (f : Core → Core) : (s.modCore n f).kernels = s.kernels := rfl
@[simp] theorem State.modCore_links (s : State) (n : Nat) (f : Core → Core) : (s.modCore n f).links = s.links := rfl
@[simp] theorem State.modCore_lanes (s : State) (n : Nat) (f : Core → Core) : (s.modCore n f).lanes = s.lanes := rfl
@[simp] theorem State.modCore_sends (s : State) (n : Nat) (f : Core → Core) : (s.modCore n f).sends = s.sends := rfl
@[simp] theorem State.modCore_blocking (s : State) (n : Nat) (f : Core → Core) : (s.modCore n f).blocking = s.blocking := rfl
@[simp] theorem State.modCore_ring (s : State) (n : Nat) (f : Core → Core) : (s.modCore n f).ring = s.ring := rfl
@[simp] theorem State.modCore_nextId (s : State) (n : Nat) (f : Core → Core) : (s.modCore n f).nextId = s.nextId := rfl
@[simp] theorem State.modCore_decided (s : State) (n : Nat) (f : Core → Core) : (s.modCore n f).decided = s.decided := rfl
@[simp] theorem State.modCore_time (s : State) (n : Nat) (f : Core → Core) : (s.modCore n f).time = s.time := rfl
@[simp] theorem State.modCore_pulses (s : State) (n : Nat) (f : Core → Core) : (s.modCore n f).pulses = s.pulses := rfl
@[simp] theorem State.modCore_pulseDue (s : State) (n : Nat) (f : Core → Core) : (s.modCore n f).pulseDue = s.pulseDue := rfl
@[simp] theorem State.modCore_lastPulse (s : State) (n : Nat) (f : Core → Core) : (s.modCore n f).lastPulse = s.lastPulse := rfl
@[simp] theorem State.modCore_frozen (s : State) (n : Nat) (f : Core → Core) : (s.modCore n f).frozen = s.frozen := rfl
@[simp] theorem State.modCore_notes (s : State) (n : Nat) (f : Core → Core) : (s.modCore n f).notes = s.notes := rfl
@[simp] theorem State.modCore_agenda (s : State) (n : Nat) (f : Core → Core) : (s.modCore n f).agenda = s.agenda := rfl
@[simp] theorem State.modCore_flight (s : State) (n : Nat) (f : Core → Core) : (s.modCore n f).flight = s.flight := rfl
@[simp] theorem State.modCore_waiting (s : State) (n : Nat) (f : Core → Core) : (s.modCore n f).waiting = s.waiting := rfl
@[simp] theorem State.modCore_undone (s : State) (n : Nat) (f : Core → Core) : (s.modCore n f).undone = s.undone := rfl
@[simp] theorem State.modCore_mgmt (s : State) (n : Nat) (f : Core → Core) : (s.modCore n f).mgmt = s.mgmt := rfl
@[simp] theorem State.modCore_free (s : State) (n : Nat) (f : Core → Core) : (s.modCore n f).free = s.free := rfl

@[simp] theorem State.setCluster_cur (s : State) (k : Nat) (c : Cluster) : (s.setCluster k c).cur = s.cur := rfl
@[simp] theorem State.setCluster_cores (s : State) (k : Nat) (c : Cluster) : (s.setCluster k c).cores = s.cores := rfl
@[simp] theorem State.setCluster_layers (s : State) (k : Nat) (c : Cluster) : (s.setCluster k c).layers = s.layers := rfl
@[simp] theorem State.setCluster_towers (s : State) (k : Nat) (c : Cluster) : (s.setCluster k c).towers = s.towers := rfl
@[simp] theorem State.setCluster_mem (s : State) (k : Nat) (c : Cluster) : (s.setCluster k c).mem = s.mem := rfl
@[simp] theorem State.setCluster_tags (s : State) (k : Nat) (c : Cluster) : (s.setCluster k c).tags = s.tags := rfl
@[simp] theorem State.setCluster_damaged (s : State) (k : Nat) (c : Cluster) : (s.setCluster k c).damaged = s.damaged := rfl
@[simp] theorem State.setCluster_dirs (s : State) (k : Nat) (c : Cluster) : (s.setCluster k c).dirs = s.dirs := rfl
@[simp] theorem State.setCluster_agents (s : State) (k : Nat) (c : Cluster) : (s.setCluster k c).agents = s.agents := rfl
@[simp] theorem State.setCluster_slices (s : State) (k : Nat) (c : Cluster) : (s.setCluster k c).slices = s.slices := rfl
@[simp] theorem State.setCluster_counters (s : State) (k : Nat) (c : Cluster) : (s.setCluster k c).counters = s.counters := rfl
@[simp] theorem State.setCluster_aliases (s : State) (k : Nat) (c : Cluster) : (s.setCluster k c).aliases = s.aliases := rfl
@[simp] theorem State.setCluster_parts (s : State) (k : Nat) (c : Cluster) : (s.setCluster k c).parts = s.parts := rfl
@[simp] theorem State.setCluster_ctxs (s : State) (k : Nat) (c : Cluster) : (s.setCluster k c).ctxs = s.ctxs := rfl
@[simp] theorem State.setCluster_kernels (s : State) (k : Nat) (c : Cluster) : (s.setCluster k c).kernels = s.kernels := rfl
@[simp] theorem State.setCluster_links (s : State) (k : Nat) (c : Cluster) : (s.setCluster k c).links = s.links := rfl
@[simp] theorem State.setCluster_lanes (s : State) (k : Nat) (c : Cluster) : (s.setCluster k c).lanes = s.lanes := rfl
@[simp] theorem State.setCluster_sends (s : State) (k : Nat) (c : Cluster) : (s.setCluster k c).sends = s.sends := rfl
@[simp] theorem State.setCluster_blocking (s : State) (k : Nat) (c : Cluster) : (s.setCluster k c).blocking = s.blocking := rfl
@[simp] theorem State.setCluster_ring (s : State) (k : Nat) (c : Cluster) : (s.setCluster k c).ring = s.ring := rfl
@[simp] theorem State.setCluster_nextId (s : State) (k : Nat) (c : Cluster) : (s.setCluster k c).nextId = s.nextId := rfl
@[simp] theorem State.setCluster_decided (s : State) (k : Nat) (c : Cluster) : (s.setCluster k c).decided = s.decided := rfl
@[simp] theorem State.setCluster_time (s : State) (k : Nat) (c : Cluster) : (s.setCluster k c).time = s.time := rfl
@[simp] theorem State.setCluster_pulses (s : State) (k : Nat) (c : Cluster) : (s.setCluster k c).pulses = s.pulses := rfl
@[simp] theorem State.setCluster_pulseDue (s : State) (k : Nat) (c : Cluster) : (s.setCluster k c).pulseDue = s.pulseDue := rfl
@[simp] theorem State.setCluster_lastPulse (s : State) (k : Nat) (c : Cluster) : (s.setCluster k c).lastPulse = s.lastPulse := rfl
@[simp] theorem State.setCluster_frozen (s : State) (k : Nat) (c : Cluster) : (s.setCluster k c).frozen = s.frozen := rfl
@[simp] theorem State.setCluster_notes (s : State) (k : Nat) (c : Cluster) : (s.setCluster k c).notes = s.notes := rfl
@[simp] theorem State.setCluster_agenda (s : State) (k : Nat) (c : Cluster) : (s.setCluster k c).agenda = s.agenda := rfl
@[simp] theorem State.setCluster_flight (s : State) (k : Nat) (c : Cluster) : (s.setCluster k c).flight = s.flight := rfl
@[simp] theorem State.setCluster_waiting (s : State) (k : Nat) (c : Cluster) : (s.setCluster k c).waiting = s.waiting := rfl
@[simp] theorem State.setCluster_undone (s : State) (k : Nat) (c : Cluster) : (s.setCluster k c).undone = s.undone := rfl
@[simp] theorem State.setCluster_mgmt (s : State) (k : Nat) (c : Cluster) : (s.setCluster k c).mgmt = s.mgmt := rfl
@[simp] theorem State.setCluster_free (s : State) (k : Nat) (c : Cluster) : (s.setCluster k c).free = s.free := rfl

@[simp] theorem State.modCluster_cur (s : State) (k : Nat) (f : Cluster → Cluster) : (s.modCluster k f).cur = s.cur := rfl
@[simp] theorem State.modCluster_cores (s : State) (k : Nat) (f : Cluster → Cluster) : (s.modCluster k f).cores = s.cores := rfl
@[simp] theorem State.modCluster_layers (s : State) (k : Nat) (f : Cluster → Cluster) : (s.modCluster k f).layers = s.layers := rfl
@[simp] theorem State.modCluster_towers (s : State) (k : Nat) (f : Cluster → Cluster) : (s.modCluster k f).towers = s.towers := rfl
@[simp] theorem State.modCluster_mem (s : State) (k : Nat) (f : Cluster → Cluster) : (s.modCluster k f).mem = s.mem := rfl
@[simp] theorem State.modCluster_tags (s : State) (k : Nat) (f : Cluster → Cluster) : (s.modCluster k f).tags = s.tags := rfl
@[simp] theorem State.modCluster_damaged (s : State) (k : Nat) (f : Cluster → Cluster) : (s.modCluster k f).damaged = s.damaged := rfl
@[simp] theorem State.modCluster_dirs (s : State) (k : Nat) (f : Cluster → Cluster) : (s.modCluster k f).dirs = s.dirs := rfl
@[simp] theorem State.modCluster_agents (s : State) (k : Nat) (f : Cluster → Cluster) : (s.modCluster k f).agents = s.agents := rfl
@[simp] theorem State.modCluster_slices (s : State) (k : Nat) (f : Cluster → Cluster) : (s.modCluster k f).slices = s.slices := rfl
@[simp] theorem State.modCluster_counters (s : State) (k : Nat) (f : Cluster → Cluster) : (s.modCluster k f).counters = s.counters := rfl
@[simp] theorem State.modCluster_aliases (s : State) (k : Nat) (f : Cluster → Cluster) : (s.modCluster k f).aliases = s.aliases := rfl
@[simp] theorem State.modCluster_parts (s : State) (k : Nat) (f : Cluster → Cluster) : (s.modCluster k f).parts = s.parts := rfl
@[simp] theorem State.modCluster_ctxs (s : State) (k : Nat) (f : Cluster → Cluster) : (s.modCluster k f).ctxs = s.ctxs := rfl
@[simp] theorem State.modCluster_kernels (s : State) (k : Nat) (f : Cluster → Cluster) : (s.modCluster k f).kernels = s.kernels := rfl
@[simp] theorem State.modCluster_links (s : State) (k : Nat) (f : Cluster → Cluster) : (s.modCluster k f).links = s.links := rfl
@[simp] theorem State.modCluster_lanes (s : State) (k : Nat) (f : Cluster → Cluster) : (s.modCluster k f).lanes = s.lanes := rfl
@[simp] theorem State.modCluster_sends (s : State) (k : Nat) (f : Cluster → Cluster) : (s.modCluster k f).sends = s.sends := rfl
@[simp] theorem State.modCluster_blocking (s : State) (k : Nat) (f : Cluster → Cluster) : (s.modCluster k f).blocking = s.blocking := rfl
@[simp] theorem State.modCluster_ring (s : State) (k : Nat) (f : Cluster → Cluster) : (s.modCluster k f).ring = s.ring := rfl
@[simp] theorem State.modCluster_nextId (s : State) (k : Nat) (f : Cluster → Cluster) : (s.modCluster k f).nextId = s.nextId := rfl
@[simp] theorem State.modCluster_decided (s : State) (k : Nat) (f : Cluster → Cluster) : (s.modCluster k f).decided = s.decided := rfl
@[simp] theorem State.modCluster_time (s : State) (k : Nat) (f : Cluster → Cluster) : (s.modCluster k f).time = s.time := rfl
@[simp] theorem State.modCluster_pulses (s : State) (k : Nat) (f : Cluster → Cluster) : (s.modCluster k f).pulses = s.pulses := rfl
@[simp] theorem State.modCluster_pulseDue (s : State) (k : Nat) (f : Cluster → Cluster) : (s.modCluster k f).pulseDue = s.pulseDue := rfl
@[simp] theorem State.modCluster_lastPulse (s : State) (k : Nat) (f : Cluster → Cluster) : (s.modCluster k f).lastPulse = s.lastPulse := rfl
@[simp] theorem State.modCluster_frozen (s : State) (k : Nat) (f : Cluster → Cluster) : (s.modCluster k f).frozen = s.frozen := rfl
@[simp] theorem State.modCluster_notes (s : State) (k : Nat) (f : Cluster → Cluster) : (s.modCluster k f).notes = s.notes := rfl
@[simp] theorem State.modCluster_agenda (s : State) (k : Nat) (f : Cluster → Cluster) : (s.modCluster k f).agenda = s.agenda := rfl
@[simp] theorem State.modCluster_flight (s : State) (k : Nat) (f : Cluster → Cluster) : (s.modCluster k f).flight = s.flight := rfl
@[simp] theorem State.modCluster_waiting (s : State) (k : Nat) (f : Cluster → Cluster) : (s.modCluster k f).waiting = s.waiting := rfl
@[simp] theorem State.modCluster_undone (s : State) (k : Nat) (f : Cluster → Cluster) : (s.modCluster k f).undone = s.undone := rfl
@[simp] theorem State.modCluster_mgmt (s : State) (k : Nat) (f : Cluster → Cluster) : (s.modCluster k f).mgmt = s.mgmt := rfl
@[simp] theorem State.modCluster_free (s : State) (k : Nat) (f : Cluster → Cluster) : (s.modCluster k f).free = s.free := rfl

@[simp] theorem State.modLayer_cur (s : State) (l : Nat) (f : Layer → Layer) : (s.modLayer l f).cur = s.cur := rfl
@[simp] theorem State.modLayer_cores (s : State) (l : Nat) (f : Layer → Layer) : (s.modLayer l f).cores = s.cores := rfl
@[simp] theorem State.modLayer_clusters (s : State) (l : Nat) (f : Layer → Layer) : (s.modLayer l f).clusters = s.clusters := rfl
@[simp] theorem State.modLayer_towers (s : State) (l : Nat) (f : Layer → Layer) : (s.modLayer l f).towers = s.towers := rfl
@[simp] theorem State.modLayer_mem (s : State) (l : Nat) (f : Layer → Layer) : (s.modLayer l f).mem = s.mem := rfl
@[simp] theorem State.modLayer_tags (s : State) (l : Nat) (f : Layer → Layer) : (s.modLayer l f).tags = s.tags := rfl
@[simp] theorem State.modLayer_damaged (s : State) (l : Nat) (f : Layer → Layer) : (s.modLayer l f).damaged = s.damaged := rfl
@[simp] theorem State.modLayer_dirs (s : State) (l : Nat) (f : Layer → Layer) : (s.modLayer l f).dirs = s.dirs := rfl
@[simp] theorem State.modLayer_agents (s : State) (l : Nat) (f : Layer → Layer) : (s.modLayer l f).agents = s.agents := rfl
@[simp] theorem State.modLayer_slices (s : State) (l : Nat) (f : Layer → Layer) : (s.modLayer l f).slices = s.slices := rfl
@[simp] theorem State.modLayer_counters (s : State) (l : Nat) (f : Layer → Layer) : (s.modLayer l f).counters = s.counters := rfl
@[simp] theorem State.modLayer_aliases (s : State) (l : Nat) (f : Layer → Layer) : (s.modLayer l f).aliases = s.aliases := rfl
@[simp] theorem State.modLayer_parts (s : State) (l : Nat) (f : Layer → Layer) : (s.modLayer l f).parts = s.parts := rfl
@[simp] theorem State.modLayer_ctxs (s : State) (l : Nat) (f : Layer → Layer) : (s.modLayer l f).ctxs = s.ctxs := rfl
@[simp] theorem State.modLayer_kernels (s : State) (l : Nat) (f : Layer → Layer) : (s.modLayer l f).kernels = s.kernels := rfl
@[simp] theorem State.modLayer_links (s : State) (l : Nat) (f : Layer → Layer) : (s.modLayer l f).links = s.links := rfl
@[simp] theorem State.modLayer_lanes (s : State) (l : Nat) (f : Layer → Layer) : (s.modLayer l f).lanes = s.lanes := rfl
@[simp] theorem State.modLayer_sends (s : State) (l : Nat) (f : Layer → Layer) : (s.modLayer l f).sends = s.sends := rfl
@[simp] theorem State.modLayer_blocking (s : State) (l : Nat) (f : Layer → Layer) : (s.modLayer l f).blocking = s.blocking := rfl
@[simp] theorem State.modLayer_ring (s : State) (l : Nat) (f : Layer → Layer) : (s.modLayer l f).ring = s.ring := rfl
@[simp] theorem State.modLayer_nextId (s : State) (l : Nat) (f : Layer → Layer) : (s.modLayer l f).nextId = s.nextId := rfl
@[simp] theorem State.modLayer_decided (s : State) (l : Nat) (f : Layer → Layer) : (s.modLayer l f).decided = s.decided := rfl
@[simp] theorem State.modLayer_time (s : State) (l : Nat) (f : Layer → Layer) : (s.modLayer l f).time = s.time := rfl
@[simp] theorem State.modLayer_pulses (s : State) (l : Nat) (f : Layer → Layer) : (s.modLayer l f).pulses = s.pulses := rfl
@[simp] theorem State.modLayer_pulseDue (s : State) (l : Nat) (f : Layer → Layer) : (s.modLayer l f).pulseDue = s.pulseDue := rfl
@[simp] theorem State.modLayer_lastPulse (s : State) (l : Nat) (f : Layer → Layer) : (s.modLayer l f).lastPulse = s.lastPulse := rfl
@[simp] theorem State.modLayer_frozen (s : State) (l : Nat) (f : Layer → Layer) : (s.modLayer l f).frozen = s.frozen := rfl
@[simp] theorem State.modLayer_notes (s : State) (l : Nat) (f : Layer → Layer) : (s.modLayer l f).notes = s.notes := rfl
@[simp] theorem State.modLayer_agenda (s : State) (l : Nat) (f : Layer → Layer) : (s.modLayer l f).agenda = s.agenda := rfl
@[simp] theorem State.modLayer_flight (s : State) (l : Nat) (f : Layer → Layer) : (s.modLayer l f).flight = s.flight := rfl
@[simp] theorem State.modLayer_waiting (s : State) (l : Nat) (f : Layer → Layer) : (s.modLayer l f).waiting = s.waiting := rfl
@[simp] theorem State.modLayer_undone (s : State) (l : Nat) (f : Layer → Layer) : (s.modLayer l f).undone = s.undone := rfl
@[simp] theorem State.modLayer_mgmt (s : State) (l : Nat) (f : Layer → Layer) : (s.modLayer l f).mgmt = s.mgmt := rfl
@[simp] theorem State.modLayer_free (s : State) (l : Nat) (f : Layer → Layer) : (s.modLayer l f).free = s.free := rfl

@[simp] theorem State.modTower_cur (s : State) (t : Nat) (f : Tower → Tower) : (s.modTower t f).cur = s.cur := rfl
@[simp] theorem State.modTower_cores (s : State) (t : Nat) (f : Tower → Tower) : (s.modTower t f).cores = s.cores := rfl
@[simp] theorem State.modTower_clusters (s : State) (t : Nat) (f : Tower → Tower) : (s.modTower t f).clusters = s.clusters := rfl
@[simp] theorem State.modTower_layers (s : State) (t : Nat) (f : Tower → Tower) : (s.modTower t f).layers = s.layers := rfl
@[simp] theorem State.modTower_mem (s : State) (t : Nat) (f : Tower → Tower) : (s.modTower t f).mem = s.mem := rfl
@[simp] theorem State.modTower_tags (s : State) (t : Nat) (f : Tower → Tower) : (s.modTower t f).tags = s.tags := rfl
@[simp] theorem State.modTower_damaged (s : State) (t : Nat) (f : Tower → Tower) : (s.modTower t f).damaged = s.damaged := rfl
@[simp] theorem State.modTower_dirs (s : State) (t : Nat) (f : Tower → Tower) : (s.modTower t f).dirs = s.dirs := rfl
@[simp] theorem State.modTower_agents (s : State) (t : Nat) (f : Tower → Tower) : (s.modTower t f).agents = s.agents := rfl
@[simp] theorem State.modTower_slices (s : State) (t : Nat) (f : Tower → Tower) : (s.modTower t f).slices = s.slices := rfl
@[simp] theorem State.modTower_counters (s : State) (t : Nat) (f : Tower → Tower) : (s.modTower t f).counters = s.counters := rfl
@[simp] theorem State.modTower_aliases (s : State) (t : Nat) (f : Tower → Tower) : (s.modTower t f).aliases = s.aliases := rfl
@[simp] theorem State.modTower_parts (s : State) (t : Nat) (f : Tower → Tower) : (s.modTower t f).parts = s.parts := rfl
@[simp] theorem State.modTower_ctxs (s : State) (t : Nat) (f : Tower → Tower) : (s.modTower t f).ctxs = s.ctxs := rfl
@[simp] theorem State.modTower_kernels (s : State) (t : Nat) (f : Tower → Tower) : (s.modTower t f).kernels = s.kernels := rfl
@[simp] theorem State.modTower_links (s : State) (t : Nat) (f : Tower → Tower) : (s.modTower t f).links = s.links := rfl
@[simp] theorem State.modTower_lanes (s : State) (t : Nat) (f : Tower → Tower) : (s.modTower t f).lanes = s.lanes := rfl
@[simp] theorem State.modTower_sends (s : State) (t : Nat) (f : Tower → Tower) : (s.modTower t f).sends = s.sends := rfl
@[simp] theorem State.modTower_blocking (s : State) (t : Nat) (f : Tower → Tower) : (s.modTower t f).blocking = s.blocking := rfl
@[simp] theorem State.modTower_ring (s : State) (t : Nat) (f : Tower → Tower) : (s.modTower t f).ring = s.ring := rfl
@[simp] theorem State.modTower_nextId (s : State) (t : Nat) (f : Tower → Tower) : (s.modTower t f).nextId = s.nextId := rfl
@[simp] theorem State.modTower_decided (s : State) (t : Nat) (f : Tower → Tower) : (s.modTower t f).decided = s.decided := rfl
@[simp] theorem State.modTower_time (s : State) (t : Nat) (f : Tower → Tower) : (s.modTower t f).time = s.time := rfl
@[simp] theorem State.modTower_pulses (s : State) (t : Nat) (f : Tower → Tower) : (s.modTower t f).pulses = s.pulses := rfl
@[simp] theorem State.modTower_pulseDue (s : State) (t : Nat) (f : Tower → Tower) : (s.modTower t f).pulseDue = s.pulseDue := rfl
@[simp] theorem State.modTower_lastPulse (s : State) (t : Nat) (f : Tower → Tower) : (s.modTower t f).lastPulse = s.lastPulse := rfl
@[simp] theorem State.modTower_frozen (s : State) (t : Nat) (f : Tower → Tower) : (s.modTower t f).frozen = s.frozen := rfl
@[simp] theorem State.modTower_notes (s : State) (t : Nat) (f : Tower → Tower) : (s.modTower t f).notes = s.notes := rfl
@[simp] theorem State.modTower_agenda (s : State) (t : Nat) (f : Tower → Tower) : (s.modTower t f).agenda = s.agenda := rfl
@[simp] theorem State.modTower_flight (s : State) (t : Nat) (f : Tower → Tower) : (s.modTower t f).flight = s.flight := rfl
@[simp] theorem State.modTower_waiting (s : State) (t : Nat) (f : Tower → Tower) : (s.modTower t f).waiting = s.waiting := rfl
@[simp] theorem State.modTower_undone (s : State) (t : Nat) (f : Tower → Tower) : (s.modTower t f).undone = s.undone := rfl
@[simp] theorem State.modTower_mgmt (s : State) (t : Nat) (f : Tower → Tower) : (s.modTower t f).mgmt = s.mgmt := rfl
@[simp] theorem State.modTower_free (s : State) (t : Nat) (f : Tower → Tower) : (s.modTower t f).free = s.free := rfl

@[simp] theorem State.modCtx_cur (s : State) (x : Nat) (f : Context → Context) : (s.modCtx x f).cur = s.cur := rfl
@[simp] theorem State.modCtx_cores (s : State) (x : Nat) (f : Context → Context) : (s.modCtx x f).cores = s.cores := rfl
@[simp] theorem State.modCtx_clusters (s : State) (x : Nat) (f : Context → Context) : (s.modCtx x f).clusters = s.clusters := rfl
@[simp] theorem State.modCtx_layers (s : State) (x : Nat) (f : Context → Context) : (s.modCtx x f).layers = s.layers := rfl
@[simp] theorem State.modCtx_towers (s : State) (x : Nat) (f : Context → Context) : (s.modCtx x f).towers = s.towers := rfl
@[simp] theorem State.modCtx_mem (s : State) (x : Nat) (f : Context → Context) : (s.modCtx x f).mem = s.mem := rfl
@[simp] theorem State.modCtx_tags (s : State) (x : Nat) (f : Context → Context) : (s.modCtx x f).tags = s.tags := rfl
@[simp] theorem State.modCtx_damaged (s : State) (x : Nat) (f : Context → Context) : (s.modCtx x f).damaged = s.damaged := rfl
@[simp] theorem State.modCtx_dirs (s : State) (x : Nat) (f : Context → Context) : (s.modCtx x f).dirs = s.dirs := rfl
@[simp] theorem State.modCtx_agents (s : State) (x : Nat) (f : Context → Context) : (s.modCtx x f).agents = s.agents := rfl
@[simp] theorem State.modCtx_slices (s : State) (x : Nat) (f : Context → Context) : (s.modCtx x f).slices = s.slices := rfl
@[simp] theorem State.modCtx_counters (s : State) (x : Nat) (f : Context → Context) : (s.modCtx x f).counters = s.counters := rfl
@[simp] theorem State.modCtx_aliases (s : State) (x : Nat) (f : Context → Context) : (s.modCtx x f).aliases = s.aliases := rfl
@[simp] theorem State.modCtx_parts (s : State) (x : Nat) (f : Context → Context) : (s.modCtx x f).parts = s.parts := rfl
@[simp] theorem State.modCtx_kernels (s : State) (x : Nat) (f : Context → Context) : (s.modCtx x f).kernels = s.kernels := rfl
@[simp] theorem State.modCtx_links (s : State) (x : Nat) (f : Context → Context) : (s.modCtx x f).links = s.links := rfl
@[simp] theorem State.modCtx_lanes (s : State) (x : Nat) (f : Context → Context) : (s.modCtx x f).lanes = s.lanes := rfl
@[simp] theorem State.modCtx_sends (s : State) (x : Nat) (f : Context → Context) : (s.modCtx x f).sends = s.sends := rfl
@[simp] theorem State.modCtx_blocking (s : State) (x : Nat) (f : Context → Context) : (s.modCtx x f).blocking = s.blocking := rfl
@[simp] theorem State.modCtx_ring (s : State) (x : Nat) (f : Context → Context) : (s.modCtx x f).ring = s.ring := rfl
@[simp] theorem State.modCtx_nextId (s : State) (x : Nat) (f : Context → Context) : (s.modCtx x f).nextId = s.nextId := rfl
@[simp] theorem State.modCtx_decided (s : State) (x : Nat) (f : Context → Context) : (s.modCtx x f).decided = s.decided := rfl
@[simp] theorem State.modCtx_time (s : State) (x : Nat) (f : Context → Context) : (s.modCtx x f).time = s.time := rfl
@[simp] theorem State.modCtx_pulses (s : State) (x : Nat) (f : Context → Context) : (s.modCtx x f).pulses = s.pulses := rfl
@[simp] theorem State.modCtx_pulseDue (s : State) (x : Nat) (f : Context → Context) : (s.modCtx x f).pulseDue = s.pulseDue := rfl
@[simp] theorem State.modCtx_lastPulse (s : State) (x : Nat) (f : Context → Context) : (s.modCtx x f).lastPulse = s.lastPulse := rfl
@[simp] theorem State.modCtx_frozen (s : State) (x : Nat) (f : Context → Context) : (s.modCtx x f).frozen = s.frozen := rfl
@[simp] theorem State.modCtx_notes (s : State) (x : Nat) (f : Context → Context) : (s.modCtx x f).notes = s.notes := rfl
@[simp] theorem State.modCtx_agenda (s : State) (x : Nat) (f : Context → Context) : (s.modCtx x f).agenda = s.agenda := rfl
@[simp] theorem State.modCtx_flight (s : State) (x : Nat) (f : Context → Context) : (s.modCtx x f).flight = s.flight := rfl
@[simp] theorem State.modCtx_waiting (s : State) (x : Nat) (f : Context → Context) : (s.modCtx x f).waiting = s.waiting := rfl
@[simp] theorem State.modCtx_undone (s : State) (x : Nat) (f : Context → Context) : (s.modCtx x f).undone = s.undone := rfl
@[simp] theorem State.modCtx_mgmt (s : State) (x : Nat) (f : Context → Context) : (s.modCtx x f).mgmt = s.mgmt := rfl
@[simp] theorem State.modCtx_free (s : State) (x : Nat) (f : Context → Context) : (s.modCtx x f).free = s.free := rfl

@[simp] theorem State.modPart_cur (s : State) (p : Nat) (f : Partition → Partition) : (s.modPart p f).cur = s.cur := rfl
@[simp] theorem State.modPart_cores (s : State) (p : Nat) (f : Partition → Partition) : (s.modPart p f).cores = s.cores := rfl
@[simp] theorem State.modPart_clusters (s : State) (p : Nat) (f : Partition → Partition) : (s.modPart p f).clusters = s.clusters := rfl
@[simp] theorem State.modPart_layers (s : State) (p : Nat) (f : Partition → Partition) : (s.modPart p f).layers = s.layers := rfl
@[simp] theorem State.modPart_towers (s : State) (p : Nat) (f : Partition → Partition) : (s.modPart p f).towers = s.towers := rfl
@[simp] theorem State.modPart_mem (s : State) (p : Nat) (f : Partition → Partition) : (s.modPart p f).mem = s.mem := rfl
@[simp] theorem State.modPart_tags (s : State) (p : Nat) (f : Partition → Partition) : (s.modPart p f).tags = s.tags := rfl
@[simp] theorem State.modPart_damaged (s : State) (p : Nat) (f : Partition → Partition) : (s.modPart p f).damaged = s.damaged := rfl
@[simp] theorem State.modPart_dirs (s : State) (p : Nat) (f : Partition → Partition) : (s.modPart p f).dirs = s.dirs := rfl
@[simp] theorem State.modPart_agents (s : State) (p : Nat) (f : Partition → Partition) : (s.modPart p f).agents = s.agents := rfl
@[simp] theorem State.modPart_slices (s : State) (p : Nat) (f : Partition → Partition) : (s.modPart p f).slices = s.slices := rfl
@[simp] theorem State.modPart_counters (s : State) (p : Nat) (f : Partition → Partition) : (s.modPart p f).counters = s.counters := rfl
@[simp] theorem State.modPart_aliases (s : State) (p : Nat) (f : Partition → Partition) : (s.modPart p f).aliases = s.aliases := rfl
@[simp] theorem State.modPart_ctxs (s : State) (p : Nat) (f : Partition → Partition) : (s.modPart p f).ctxs = s.ctxs := rfl
@[simp] theorem State.modPart_kernels (s : State) (p : Nat) (f : Partition → Partition) : (s.modPart p f).kernels = s.kernels := rfl
@[simp] theorem State.modPart_links (s : State) (p : Nat) (f : Partition → Partition) : (s.modPart p f).links = s.links := rfl
@[simp] theorem State.modPart_lanes (s : State) (p : Nat) (f : Partition → Partition) : (s.modPart p f).lanes = s.lanes := rfl
@[simp] theorem State.modPart_sends (s : State) (p : Nat) (f : Partition → Partition) : (s.modPart p f).sends = s.sends := rfl
@[simp] theorem State.modPart_blocking (s : State) (p : Nat) (f : Partition → Partition) : (s.modPart p f).blocking = s.blocking := rfl
@[simp] theorem State.modPart_ring (s : State) (p : Nat) (f : Partition → Partition) : (s.modPart p f).ring = s.ring := rfl
@[simp] theorem State.modPart_nextId (s : State) (p : Nat) (f : Partition → Partition) : (s.modPart p f).nextId = s.nextId := rfl
@[simp] theorem State.modPart_decided (s : State) (p : Nat) (f : Partition → Partition) : (s.modPart p f).decided = s.decided := rfl
@[simp] theorem State.modPart_time (s : State) (p : Nat) (f : Partition → Partition) : (s.modPart p f).time = s.time := rfl
@[simp] theorem State.modPart_pulses (s : State) (p : Nat) (f : Partition → Partition) : (s.modPart p f).pulses = s.pulses := rfl
@[simp] theorem State.modPart_pulseDue (s : State) (p : Nat) (f : Partition → Partition) : (s.modPart p f).pulseDue = s.pulseDue := rfl
@[simp] theorem State.modPart_lastPulse (s : State) (p : Nat) (f : Partition → Partition) : (s.modPart p f).lastPulse = s.lastPulse := rfl
@[simp] theorem State.modPart_frozen (s : State) (p : Nat) (f : Partition → Partition) : (s.modPart p f).frozen = s.frozen := rfl
@[simp] theorem State.modPart_notes (s : State) (p : Nat) (f : Partition → Partition) : (s.modPart p f).notes = s.notes := rfl
@[simp] theorem State.modPart_agenda (s : State) (p : Nat) (f : Partition → Partition) : (s.modPart p f).agenda = s.agenda := rfl
@[simp] theorem State.modPart_flight (s : State) (p : Nat) (f : Partition → Partition) : (s.modPart p f).flight = s.flight := rfl
@[simp] theorem State.modPart_waiting (s : State) (p : Nat) (f : Partition → Partition) : (s.modPart p f).waiting = s.waiting := rfl
@[simp] theorem State.modPart_undone (s : State) (p : Nat) (f : Partition → Partition) : (s.modPart p f).undone = s.undone := rfl
@[simp] theorem State.modPart_mgmt (s : State) (p : Nat) (f : Partition → Partition) : (s.modPart p f).mgmt = s.mgmt := rfl
@[simp] theorem State.modPart_free (s : State) (p : Nat) (f : Partition → Partition) : (s.modPart p f).free = s.free := rfl

@[simp] theorem State.modKernel_cur (s : State) (k : Nat) (f : Kernel → Kernel) : (s.modKernel k f).cur = s.cur := rfl
@[simp] theorem State.modKernel_cores (s : State) (k : Nat) (f : Kernel → Kernel) : (s.modKernel k f).cores = s.cores := rfl
@[simp] theorem State.modKernel_clusters (s : State) (k : Nat) (f : Kernel → Kernel) : (s.modKernel k f).clusters = s.clusters := rfl
@[simp] theorem State.modKernel_layers (s : State) (k : Nat) (f : Kernel → Kernel) : (s.modKernel k f).layers = s.layers := rfl
@[simp] theorem State.modKernel_towers (s : State) (k : Nat) (f : Kernel → Kernel) : (s.modKernel k f).towers = s.towers := rfl
@[simp] theorem State.modKernel_mem (s : State) (k : Nat) (f : Kernel → Kernel) : (s.modKernel k f).mem = s.mem := rfl
@[simp] theorem State.modKernel_tags (s : State) (k : Nat) (f : Kernel → Kernel) : (s.modKernel k f).tags = s.tags := rfl
@[simp] theorem State.modKernel_damaged (s : State) (k : Nat) (f : Kernel → Kernel) : (s.modKernel k f).damaged = s.damaged := rfl
@[simp] theorem State.modKernel_dirs (s : State) (k : Nat) (f : Kernel → Kernel) : (s.modKernel k f).dirs = s.dirs := rfl
@[simp] theorem State.modKernel_agents (s : State) (k : Nat) (f : Kernel → Kernel) : (s.modKernel k f).agents = s.agents := rfl
@[simp] theorem State.modKernel_slices (s : State) (k : Nat) (f : Kernel → Kernel) : (s.modKernel k f).slices = s.slices := rfl
@[simp] theorem State.modKernel_counters (s : State) (k : Nat) (f : Kernel → Kernel) : (s.modKernel k f).counters = s.counters := rfl
@[simp] theorem State.modKernel_aliases (s : State) (k : Nat) (f : Kernel → Kernel) : (s.modKernel k f).aliases = s.aliases := rfl
@[simp] theorem State.modKernel_parts (s : State) (k : Nat) (f : Kernel → Kernel) : (s.modKernel k f).parts = s.parts := rfl
@[simp] theorem State.modKernel_ctxs (s : State) (k : Nat) (f : Kernel → Kernel) : (s.modKernel k f).ctxs = s.ctxs := rfl
@[simp] theorem State.modKernel_links (s : State) (k : Nat) (f : Kernel → Kernel) : (s.modKernel k f).links = s.links := rfl
@[simp] theorem State.modKernel_lanes (s : State) (k : Nat) (f : Kernel → Kernel) : (s.modKernel k f).lanes = s.lanes := rfl
@[simp] theorem State.modKernel_sends (s : State) (k : Nat) (f : Kernel → Kernel) : (s.modKernel k f).sends = s.sends := rfl
@[simp] theorem State.modKernel_blocking (s : State) (k : Nat) (f : Kernel → Kernel) : (s.modKernel k f).blocking = s.blocking := rfl
@[simp] theorem State.modKernel_ring (s : State) (k : Nat) (f : Kernel → Kernel) : (s.modKernel k f).ring = s.ring := rfl
@[simp] theorem State.modKernel_nextId (s : State) (k : Nat) (f : Kernel → Kernel) : (s.modKernel k f).nextId = s.nextId := rfl
@[simp] theorem State.modKernel_decided (s : State) (k : Nat) (f : Kernel → Kernel) : (s.modKernel k f).decided = s.decided := rfl
@[simp] theorem State.modKernel_time (s : State) (k : Nat) (f : Kernel → Kernel) : (s.modKernel k f).time = s.time := rfl
@[simp] theorem State.modKernel_pulses (s : State) (k : Nat) (f : Kernel → Kernel) : (s.modKernel k f).pulses = s.pulses := rfl
@[simp] theorem State.modKernel_pulseDue (s : State) (k : Nat) (f : Kernel → Kernel) : (s.modKernel k f).pulseDue = s.pulseDue := rfl
@[simp] theorem State.modKernel_lastPulse (s : State) (k : Nat) (f : Kernel → Kernel) : (s.modKernel k f).lastPulse = s.lastPulse := rfl
@[simp] theorem State.modKernel_frozen (s : State) (k : Nat) (f : Kernel → Kernel) : (s.modKernel k f).frozen = s.frozen := rfl
@[simp] theorem State.modKernel_notes (s : State) (k : Nat) (f : Kernel → Kernel) : (s.modKernel k f).notes = s.notes := rfl
@[simp] theorem State.modKernel_agenda (s : State) (k : Nat) (f : Kernel → Kernel) : (s.modKernel k f).agenda = s.agenda := rfl
@[simp] theorem State.modKernel_flight (s : State) (k : Nat) (f : Kernel → Kernel) : (s.modKernel k f).flight = s.flight := rfl
@[simp] theorem State.modKernel_waiting (s : State) (k : Nat) (f : Kernel → Kernel) : (s.modKernel k f).waiting = s.waiting := rfl
@[simp] theorem State.modKernel_undone (s : State) (k : Nat) (f : Kernel → Kernel) : (s.modKernel k f).undone = s.undone := rfl
@[simp] theorem State.modKernel_mgmt (s : State) (k : Nat) (f : Kernel → Kernel) : (s.modKernel k f).mgmt = s.mgmt := rfl
@[simp] theorem State.modKernel_free (s : State) (k : Nat) (f : Kernel → Kernel) : (s.modKernel k f).free = s.free := rfl

@[simp] theorem State.modLink_cur (s : State) (p : Nat) (f : Link → Link) : (s.modLink p f).cur = s.cur := rfl
@[simp] theorem State.modLink_cores (s : State) (p : Nat) (f : Link → Link) : (s.modLink p f).cores = s.cores := rfl
@[simp] theorem State.modLink_clusters (s : State) (p : Nat) (f : Link → Link) : (s.modLink p f).clusters = s.clusters := rfl
@[simp] theorem State.modLink_layers (s : State) (p : Nat) (f : Link → Link) : (s.modLink p f).layers = s.layers := rfl
@[simp] theorem State.modLink_towers (s : State) (p : Nat) (f : Link → Link) : (s.modLink p f).towers = s.towers := rfl
@[simp] theorem State.modLink_mem (s : State) (p : Nat) (f : Link → Link) : (s.modLink p f).mem = s.mem := rfl
@[simp] theorem State.modLink_tags (s : State) (p : Nat) (f : Link → Link) : (s.modLink p f).tags = s.tags := rfl
@[simp] theorem State.modLink_damaged (s : State) (p : Nat) (f : Link → Link) : (s.modLink p f).damaged = s.damaged := rfl
@[simp] theorem State.modLink_dirs (s : State) (p : Nat) (f : Link → Link) : (s.modLink p f).dirs = s.dirs := rfl
@[simp] theorem State.modLink_agents (s : State) (p : Nat) (f : Link → Link) : (s.modLink p f).agents = s.agents := rfl
@[simp] theorem State.modLink_slices (s : State) (p : Nat) (f : Link → Link) : (s.modLink p f).slices = s.slices := rfl
@[simp] theorem State.modLink_counters (s : State) (p : Nat) (f : Link → Link) : (s.modLink p f).counters = s.counters := rfl
@[simp] theorem State.modLink_aliases (s : State) (p : Nat) (f : Link → Link) : (s.modLink p f).aliases = s.aliases := rfl
@[simp] theorem State.modLink_parts (s : State) (p : Nat) (f : Link → Link) : (s.modLink p f).parts = s.parts := rfl
@[simp] theorem State.modLink_ctxs (s : State) (p : Nat) (f : Link → Link) : (s.modLink p f).ctxs = s.ctxs := rfl
@[simp] theorem State.modLink_kernels (s : State) (p : Nat) (f : Link → Link) : (s.modLink p f).kernels = s.kernels := rfl
@[simp] theorem State.modLink_lanes (s : State) (p : Nat) (f : Link → Link) : (s.modLink p f).lanes = s.lanes := rfl
@[simp] theorem State.modLink_sends (s : State) (p : Nat) (f : Link → Link) : (s.modLink p f).sends = s.sends := rfl
@[simp] theorem State.modLink_blocking (s : State) (p : Nat) (f : Link → Link) : (s.modLink p f).blocking = s.blocking := rfl
@[simp] theorem State.modLink_ring (s : State) (p : Nat) (f : Link → Link) : (s.modLink p f).ring = s.ring := rfl
@[simp] theorem State.modLink_nextId (s : State) (p : Nat) (f : Link → Link) : (s.modLink p f).nextId = s.nextId := rfl
@[simp] theorem State.modLink_decided (s : State) (p : Nat) (f : Link → Link) : (s.modLink p f).decided = s.decided := rfl
@[simp] theorem State.modLink_time (s : State) (p : Nat) (f : Link → Link) : (s.modLink p f).time = s.time := rfl
@[simp] theorem State.modLink_pulses (s : State) (p : Nat) (f : Link → Link) : (s.modLink p f).pulses = s.pulses := rfl
@[simp] theorem State.modLink_pulseDue (s : State) (p : Nat) (f : Link → Link) : (s.modLink p f).pulseDue = s.pulseDue := rfl
@[simp] theorem State.modLink_lastPulse (s : State) (p : Nat) (f : Link → Link) : (s.modLink p f).lastPulse = s.lastPulse := rfl
@[simp] theorem State.modLink_frozen (s : State) (p : Nat) (f : Link → Link) : (s.modLink p f).frozen = s.frozen := rfl
@[simp] theorem State.modLink_notes (s : State) (p : Nat) (f : Link → Link) : (s.modLink p f).notes = s.notes := rfl
@[simp] theorem State.modLink_agenda (s : State) (p : Nat) (f : Link → Link) : (s.modLink p f).agenda = s.agenda := rfl
@[simp] theorem State.modLink_flight (s : State) (p : Nat) (f : Link → Link) : (s.modLink p f).flight = s.flight := rfl
@[simp] theorem State.modLink_waiting (s : State) (p : Nat) (f : Link → Link) : (s.modLink p f).waiting = s.waiting := rfl
@[simp] theorem State.modLink_undone (s : State) (p : Nat) (f : Link → Link) : (s.modLink p f).undone = s.undone := rfl
@[simp] theorem State.modLink_mgmt (s : State) (p : Nat) (f : Link → Link) : (s.modLink p f).mgmt = s.mgmt := rfl
@[simp] theorem State.modLink_free (s : State) (p : Nat) (f : Link → Link) : (s.modLink p f).free = s.free := rfl

@[simp] theorem State.note_cur (s : State) (n : Note) : (s.note n).cur = s.cur := rfl
@[simp] theorem State.note_cores (s : State) (n : Note) : (s.note n).cores = s.cores := rfl
@[simp] theorem State.note_clusters (s : State) (n : Note) : (s.note n).clusters = s.clusters := rfl
@[simp] theorem State.note_layers (s : State) (n : Note) : (s.note n).layers = s.layers := rfl
@[simp] theorem State.note_towers (s : State) (n : Note) : (s.note n).towers = s.towers := rfl
@[simp] theorem State.note_mem (s : State) (n : Note) : (s.note n).mem = s.mem := rfl
@[simp] theorem State.note_tags (s : State) (n : Note) : (s.note n).tags = s.tags := rfl
@[simp] theorem State.note_damaged (s : State) (n : Note) : (s.note n).damaged = s.damaged := rfl
@[simp] theorem State.note_dirs (s : State) (n : Note) : (s.note n).dirs = s.dirs := rfl
@[simp] theorem State.note_agents (s : State) (n : Note) : (s.note n).agents = s.agents := rfl
@[simp] theorem State.note_slices (s : State) (n : Note) : (s.note n).slices = s.slices := rfl
@[simp] theorem State.note_counters (s : State) (n : Note) : (s.note n).counters = s.counters := rfl
@[simp] theorem State.note_aliases (s : State) (n : Note) : (s.note n).aliases = s.aliases := rfl
@[simp] theorem State.note_parts (s : State) (n : Note) : (s.note n).parts = s.parts := rfl
@[simp] theorem State.note_ctxs (s : State) (n : Note) : (s.note n).ctxs = s.ctxs := rfl
@[simp] theorem State.note_kernels (s : State) (n : Note) : (s.note n).kernels = s.kernels := rfl
@[simp] theorem State.note_links (s : State) (n : Note) : (s.note n).links = s.links := rfl
@[simp] theorem State.note_lanes (s : State) (n : Note) : (s.note n).lanes = s.lanes := rfl
@[simp] theorem State.note_sends (s : State) (n : Note) : (s.note n).sends = s.sends := rfl
@[simp] theorem State.note_blocking (s : State) (n : Note) : (s.note n).blocking = s.blocking := rfl
@[simp] theorem State.note_ring (s : State) (n : Note) : (s.note n).ring = s.ring := rfl
@[simp] theorem State.note_nextId (s : State) (n : Note) : (s.note n).nextId = s.nextId := rfl
@[simp] theorem State.note_decided (s : State) (n : Note) : (s.note n).decided = s.decided := rfl
@[simp] theorem State.note_time (s : State) (n : Note) : (s.note n).time = s.time := rfl
@[simp] theorem State.note_pulses (s : State) (n : Note) : (s.note n).pulses = s.pulses := rfl
@[simp] theorem State.note_pulseDue (s : State) (n : Note) : (s.note n).pulseDue = s.pulseDue := rfl
@[simp] theorem State.note_lastPulse (s : State) (n : Note) : (s.note n).lastPulse = s.lastPulse := rfl
@[simp] theorem State.note_frozen (s : State) (n : Note) : (s.note n).frozen = s.frozen := rfl
@[simp] theorem State.note_agenda (s : State) (n : Note) : (s.note n).agenda = s.agenda := rfl
@[simp] theorem State.note_flight (s : State) (n : Note) : (s.note n).flight = s.flight := rfl
@[simp] theorem State.note_waiting (s : State) (n : Note) : (s.note n).waiting = s.waiting := rfl
@[simp] theorem State.note_undone (s : State) (n : Note) : (s.note n).undone = s.undone := rfl
@[simp] theorem State.note_mgmt (s : State) (n : Note) : (s.note n).mgmt = s.mgmt := rfl
@[simp] theorem State.note_free (s : State) (n : Note) : (s.note n).free = s.free := rfl

@[simp] theorem State.grant_cur (s : State) (n : Nat) (v : Word) : (s.grant n v).cur = s.cur := rfl
@[simp] theorem State.grant_clusters (s : State) (n : Nat) (v : Word) : (s.grant n v).clusters = s.clusters := rfl
@[simp] theorem State.grant_layers (s : State) (n : Nat) (v : Word) : (s.grant n v).layers = s.layers := rfl
@[simp] theorem State.grant_towers (s : State) (n : Nat) (v : Word) : (s.grant n v).towers = s.towers := rfl
@[simp] theorem State.grant_mem (s : State) (n : Nat) (v : Word) : (s.grant n v).mem = s.mem := rfl
@[simp] theorem State.grant_tags (s : State) (n : Nat) (v : Word) : (s.grant n v).tags = s.tags := rfl
@[simp] theorem State.grant_damaged (s : State) (n : Nat) (v : Word) : (s.grant n v).damaged = s.damaged := rfl
@[simp] theorem State.grant_dirs (s : State) (n : Nat) (v : Word) : (s.grant n v).dirs = s.dirs := rfl
@[simp] theorem State.grant_agents (s : State) (n : Nat) (v : Word) : (s.grant n v).agents = s.agents := rfl
@[simp] theorem State.grant_slices (s : State) (n : Nat) (v : Word) : (s.grant n v).slices = s.slices := rfl
@[simp] theorem State.grant_counters (s : State) (n : Nat) (v : Word) : (s.grant n v).counters = s.counters := rfl
@[simp] theorem State.grant_aliases (s : State) (n : Nat) (v : Word) : (s.grant n v).aliases = s.aliases := rfl
@[simp] theorem State.grant_parts (s : State) (n : Nat) (v : Word) : (s.grant n v).parts = s.parts := rfl
@[simp] theorem State.grant_ctxs (s : State) (n : Nat) (v : Word) : (s.grant n v).ctxs = s.ctxs := rfl
@[simp] theorem State.grant_kernels (s : State) (n : Nat) (v : Word) : (s.grant n v).kernels = s.kernels := rfl
@[simp] theorem State.grant_links (s : State) (n : Nat) (v : Word) : (s.grant n v).links = s.links := rfl
@[simp] theorem State.grant_lanes (s : State) (n : Nat) (v : Word) : (s.grant n v).lanes = s.lanes := rfl
@[simp] theorem State.grant_sends (s : State) (n : Nat) (v : Word) : (s.grant n v).sends = s.sends := rfl
@[simp] theorem State.grant_blocking (s : State) (n : Nat) (v : Word) : (s.grant n v).blocking = s.blocking := rfl
@[simp] theorem State.grant_ring (s : State) (n : Nat) (v : Word) : (s.grant n v).ring = s.ring := rfl
@[simp] theorem State.grant_nextId (s : State) (n : Nat) (v : Word) : (s.grant n v).nextId = s.nextId := rfl
@[simp] theorem State.grant_decided (s : State) (n : Nat) (v : Word) : (s.grant n v).decided = s.decided := rfl
@[simp] theorem State.grant_time (s : State) (n : Nat) (v : Word) : (s.grant n v).time = s.time := rfl
@[simp] theorem State.grant_pulses (s : State) (n : Nat) (v : Word) : (s.grant n v).pulses = s.pulses := rfl
@[simp] theorem State.grant_pulseDue (s : State) (n : Nat) (v : Word) : (s.grant n v).pulseDue = s.pulseDue := rfl
@[simp] theorem State.grant_lastPulse (s : State) (n : Nat) (v : Word) : (s.grant n v).lastPulse = s.lastPulse := rfl
@[simp] theorem State.grant_frozen (s : State) (n : Nat) (v : Word) : (s.grant n v).frozen = s.frozen := rfl
@[simp] theorem State.grant_notes (s : State) (n : Nat) (v : Word) : (s.grant n v).notes = s.notes := rfl
@[simp] theorem State.grant_agenda (s : State) (n : Nat) (v : Word) : (s.grant n v).agenda = s.agenda := rfl
@[simp] theorem State.grant_flight (s : State) (n : Nat) (v : Word) : (s.grant n v).flight = s.flight := rfl
@[simp] theorem State.grant_waiting (s : State) (n : Nat) (v : Word) : (s.grant n v).waiting = s.waiting := rfl
@[simp] theorem State.grant_undone (s : State) (n : Nat) (v : Word) : (s.grant n v).undone = s.undone := rfl
@[simp] theorem State.grant_mgmt (s : State) (n : Nat) (v : Word) : (s.grant n v).mgmt = s.mgmt := rfl
@[simp] theorem State.grant_free (s : State) (n : Nat) (v : Word) : (s.grant n v).free = s.free := rfl

@[simp] theorem State.setAgent_cur (s : State) (t L : Nat) (a : Agent) : (s.setAgent t L a).cur = s.cur := rfl
@[simp] theorem State.setAgent_cores (s : State) (t L : Nat) (a : Agent) : (s.setAgent t L a).cores = s.cores := rfl
@[simp] theorem State.setAgent_clusters (s : State) (t L : Nat) (a : Agent) : (s.setAgent t L a).clusters = s.clusters := rfl
@[simp] theorem State.setAgent_layers (s : State) (t L : Nat) (a : Agent) : (s.setAgent t L a).layers = s.layers := rfl
@[simp] theorem State.setAgent_towers (s : State) (t L : Nat) (a : Agent) : (s.setAgent t L a).towers = s.towers := rfl
@[simp] theorem State.setAgent_mem (s : State) (t L : Nat) (a : Agent) : (s.setAgent t L a).mem = s.mem := rfl
@[simp] theorem State.setAgent_tags (s : State) (t L : Nat) (a : Agent) : (s.setAgent t L a).tags = s.tags := rfl
@[simp] theorem State.setAgent_damaged (s : State) (t L : Nat) (a : Agent) : (s.setAgent t L a).damaged = s.damaged := rfl
@[simp] theorem State.setAgent_dirs (s : State) (t L : Nat) (a : Agent) : (s.setAgent t L a).dirs = s.dirs := rfl
@[simp] theorem State.setAgent_slices (s : State) (t L : Nat) (a : Agent) : (s.setAgent t L a).slices = s.slices := rfl
@[simp] theorem State.setAgent_counters (s : State) (t L : Nat) (a : Agent) : (s.setAgent t L a).counters = s.counters := rfl
@[simp] theorem State.setAgent_aliases (s : State) (t L : Nat) (a : Agent) : (s.setAgent t L a).aliases = s.aliases := rfl
@[simp] theorem State.setAgent_parts (s : State) (t L : Nat) (a : Agent) : (s.setAgent t L a).parts = s.parts := rfl
@[simp] theorem State.setAgent_ctxs (s : State) (t L : Nat) (a : Agent) : (s.setAgent t L a).ctxs = s.ctxs := rfl
@[simp] theorem State.setAgent_kernels (s : State) (t L : Nat) (a : Agent) : (s.setAgent t L a).kernels = s.kernels := rfl
@[simp] theorem State.setAgent_links (s : State) (t L : Nat) (a : Agent) : (s.setAgent t L a).links = s.links := rfl
@[simp] theorem State.setAgent_lanes (s : State) (t L : Nat) (a : Agent) : (s.setAgent t L a).lanes = s.lanes := rfl
@[simp] theorem State.setAgent_sends (s : State) (t L : Nat) (a : Agent) : (s.setAgent t L a).sends = s.sends := rfl
@[simp] theorem State.setAgent_blocking (s : State) (t L : Nat) (a : Agent) : (s.setAgent t L a).blocking = s.blocking := rfl
@[simp] theorem State.setAgent_ring (s : State) (t L : Nat) (a : Agent) : (s.setAgent t L a).ring = s.ring := rfl
@[simp] theorem State.setAgent_nextId (s : State) (t L : Nat) (a : Agent) : (s.setAgent t L a).nextId = s.nextId := rfl
@[simp] theorem State.setAgent_decided (s : State) (t L : Nat) (a : Agent) : (s.setAgent t L a).decided = s.decided := rfl
@[simp] theorem State.setAgent_time (s : State) (t L : Nat) (a : Agent) : (s.setAgent t L a).time = s.time := rfl
@[simp] theorem State.setAgent_pulses (s : State) (t L : Nat) (a : Agent) : (s.setAgent t L a).pulses = s.pulses := rfl
@[simp] theorem State.setAgent_pulseDue (s : State) (t L : Nat) (a : Agent) : (s.setAgent t L a).pulseDue = s.pulseDue := rfl
@[simp] theorem State.setAgent_lastPulse (s : State) (t L : Nat) (a : Agent) : (s.setAgent t L a).lastPulse = s.lastPulse := rfl
@[simp] theorem State.setAgent_frozen (s : State) (t L : Nat) (a : Agent) : (s.setAgent t L a).frozen = s.frozen := rfl
@[simp] theorem State.setAgent_notes (s : State) (t L : Nat) (a : Agent) : (s.setAgent t L a).notes = s.notes := rfl
@[simp] theorem State.setAgent_agenda (s : State) (t L : Nat) (a : Agent) : (s.setAgent t L a).agenda = s.agenda := rfl
@[simp] theorem State.setAgent_flight (s : State) (t L : Nat) (a : Agent) : (s.setAgent t L a).flight = s.flight := rfl
@[simp] theorem State.setAgent_waiting (s : State) (t L : Nat) (a : Agent) : (s.setAgent t L a).waiting = s.waiting := rfl
@[simp] theorem State.setAgent_undone (s : State) (t L : Nat) (a : Agent) : (s.setAgent t L a).undone = s.undone := rfl
@[simp] theorem State.setAgent_mgmt (s : State) (t L : Nat) (a : Agent) : (s.setAgent t L a).mgmt = s.mgmt := rfl
@[simp] theorem State.setAgent_free (s : State) (t L : Nat) (a : Agent) : (s.setAgent t L a).free = s.free := rfl

@[simp] theorem State.setDir_cur (s : State) (L : Nat) (d : Dir) : (s.setDir L d).cur = s.cur := rfl
@[simp] theorem State.setDir_cores (s : State) (L : Nat) (d : Dir) : (s.setDir L d).cores = s.cores := rfl
@[simp] theorem State.setDir_clusters (s : State) (L : Nat) (d : Dir) : (s.setDir L d).clusters = s.clusters := rfl
@[simp] theorem State.setDir_layers (s : State) (L : Nat) (d : Dir) : (s.setDir L d).layers = s.layers := rfl
@[simp] theorem State.setDir_towers (s : State) (L : Nat) (d : Dir) : (s.setDir L d).towers = s.towers := rfl
@[simp] theorem State.setDir_mem (s : State) (L : Nat) (d : Dir) : (s.setDir L d).mem = s.mem := rfl
@[simp] theorem State.setDir_tags (s : State) (L : Nat) (d : Dir) : (s.setDir L d).tags = s.tags := rfl
@[simp] theorem State.setDir_damaged (s : State) (L : Nat) (d : Dir) : (s.setDir L d).damaged = s.damaged := rfl
@[simp] theorem State.setDir_agents (s : State) (L : Nat) (d : Dir) : (s.setDir L d).agents = s.agents := rfl
@[simp] theorem State.setDir_slices (s : State) (L : Nat) (d : Dir) : (s.setDir L d).slices = s.slices := rfl
@[simp] theorem State.setDir_counters (s : State) (L : Nat) (d : Dir) : (s.setDir L d).counters = s.counters := rfl
@[simp] theorem State.setDir_aliases (s : State) (L : Nat) (d : Dir) : (s.setDir L d).aliases = s.aliases := rfl
@[simp] theorem State.setDir_parts (s : State) (L : Nat) (d : Dir) : (s.setDir L d).parts = s.parts := rfl
@[simp] theorem State.setDir_ctxs (s : State) (L : Nat) (d : Dir) : (s.setDir L d).ctxs = s.ctxs := rfl
@[simp] theorem State.setDir_kernels (s : State) (L : Nat) (d : Dir) : (s.setDir L d).kernels = s.kernels := rfl
@[simp] theorem State.setDir_links (s : State) (L : Nat) (d : Dir) : (s.setDir L d).links = s.links := rfl
@[simp] theorem State.setDir_lanes (s : State) (L : Nat) (d : Dir) : (s.setDir L d).lanes = s.lanes := rfl
@[simp] theorem State.setDir_sends (s : State) (L : Nat) (d : Dir) : (s.setDir L d).sends = s.sends := rfl
@[simp] theorem State.setDir_blocking (s : State) (L : Nat) (d : Dir) : (s.setDir L d).blocking = s.blocking := rfl
@[simp] theorem State.setDir_ring (s : State) (L : Nat) (d : Dir) : (s.setDir L d).ring = s.ring := rfl
@[simp] theorem State.setDir_nextId (s : State) (L : Nat) (d : Dir) : (s.setDir L d).nextId = s.nextId := rfl
@[simp] theorem State.setDir_decided (s : State) (L : Nat) (d : Dir) : (s.setDir L d).decided = s.decided := rfl
@[simp] theorem State.setDir_time (s : State) (L : Nat) (d : Dir) : (s.setDir L d).time = s.time := rfl
@[simp] theorem State.setDir_pulses (s : State) (L : Nat) (d : Dir) : (s.setDir L d).pulses = s.pulses := rfl
@[simp] theorem State.setDir_pulseDue (s : State) (L : Nat) (d : Dir) : (s.setDir L d).pulseDue = s.pulseDue := rfl
@[simp] theorem State.setDir_lastPulse (s : State) (L : Nat) (d : Dir) : (s.setDir L d).lastPulse = s.lastPulse := rfl
@[simp] theorem State.setDir_frozen (s : State) (L : Nat) (d : Dir) : (s.setDir L d).frozen = s.frozen := rfl
@[simp] theorem State.setDir_notes (s : State) (L : Nat) (d : Dir) : (s.setDir L d).notes = s.notes := rfl
@[simp] theorem State.setDir_agenda (s : State) (L : Nat) (d : Dir) : (s.setDir L d).agenda = s.agenda := rfl
@[simp] theorem State.setDir_flight (s : State) (L : Nat) (d : Dir) : (s.setDir L d).flight = s.flight := rfl
@[simp] theorem State.setDir_waiting (s : State) (L : Nat) (d : Dir) : (s.setDir L d).waiting = s.waiting := rfl
@[simp] theorem State.setDir_undone (s : State) (L : Nat) (d : Dir) : (s.setDir L d).undone = s.undone := rfl
@[simp] theorem State.setDir_mgmt (s : State) (L : Nat) (d : Dir) : (s.setDir L d).mgmt = s.mgmt := rfl
@[simp] theorem State.setDir_free (s : State) (L : Nat) (d : Dir) : (s.setDir L d).free = s.free := rfl

@[simp] theorem State.setDirSt_cur (s : State) (L : Nat) (d : DirState) : (s.setDirSt L d).cur = s.cur := rfl
@[simp] theorem State.setDirSt_cores (s : State) (L : Nat) (d : DirState) : (s.setDirSt L d).cores = s.cores := rfl
@[simp] theorem State.setDirSt_clusters (s : State) (L : Nat) (d : DirState) : (s.setDirSt L d).clusters = s.clusters := rfl
@[simp] theorem State.setDirSt_layers (s : State) (L : Nat) (d : DirState) : (s.setDirSt L d).layers = s.layers := rfl
@[simp] theorem State.setDirSt_towers (s : State) (L : Nat) (d : DirState) : (s.setDirSt L d).towers = s.towers := rfl
@[simp] theorem State.setDirSt_mem (s : State) (L : Nat) (d : DirState) : (s.setDirSt L d).mem = s.mem := rfl
@[simp] theorem State.setDirSt_tags (s : State) (L : Nat) (d : DirState) : (s.setDirSt L d).tags = s.tags := rfl
@[simp] theorem State.setDirSt_damaged (s : State) (L : Nat) (d : DirState) : (s.setDirSt L d).damaged = s.damaged := rfl
@[simp] theorem State.setDirSt_agents (s : State) (L : Nat) (d : DirState) : (s.setDirSt L d).agents = s.agents := rfl
@[simp] theorem State.setDirSt_slices (s : State) (L : Nat) (d : DirState) : (s.setDirSt L d).slices = s.slices := rfl
@[simp] theorem State.setDirSt_counters (s : State) (L : Nat) (d : DirState) : (s.setDirSt L d).counters = s.counters := rfl
@[simp] theorem State.setDirSt_aliases (s : State) (L : Nat) (d : DirState) : (s.setDirSt L d).aliases = s.aliases := rfl
@[simp] theorem State.setDirSt_parts (s : State) (L : Nat) (d : DirState) : (s.setDirSt L d).parts = s.parts := rfl
@[simp] theorem State.setDirSt_ctxs (s : State) (L : Nat) (d : DirState) : (s.setDirSt L d).ctxs = s.ctxs := rfl
@[simp] theorem State.setDirSt_kernels (s : State) (L : Nat) (d : DirState) : (s.setDirSt L d).kernels = s.kernels := rfl
@[simp] theorem State.setDirSt_links (s : State) (L : Nat) (d : DirState) : (s.setDirSt L d).links = s.links := rfl
@[simp] theorem State.setDirSt_lanes (s : State) (L : Nat) (d : DirState) : (s.setDirSt L d).lanes = s.lanes := rfl
@[simp] theorem State.setDirSt_sends (s : State) (L : Nat) (d : DirState) : (s.setDirSt L d).sends = s.sends := rfl
@[simp] theorem State.setDirSt_blocking (s : State) (L : Nat) (d : DirState) : (s.setDirSt L d).blocking = s.blocking := rfl
@[simp] theorem State.setDirSt_ring (s : State) (L : Nat) (d : DirState) : (s.setDirSt L d).ring = s.ring := rfl
@[simp] theorem State.setDirSt_nextId (s : State) (L : Nat) (d : DirState) : (s.setDirSt L d).nextId = s.nextId := rfl
@[simp] theorem State.setDirSt_decided (s : State) (L : Nat) (d : DirState) : (s.setDirSt L d).decided = s.decided := rfl
@[simp] theorem State.setDirSt_time (s : State) (L : Nat) (d : DirState) : (s.setDirSt L d).time = s.time := rfl
@[simp] theorem State.setDirSt_pulses (s : State) (L : Nat) (d : DirState) : (s.setDirSt L d).pulses = s.pulses := rfl
@[simp] theorem State.setDirSt_pulseDue (s : State) (L : Nat) (d : DirState) : (s.setDirSt L d).pulseDue = s.pulseDue := rfl
@[simp] theorem State.setDirSt_lastPulse (s : State) (L : Nat) (d : DirState) : (s.setDirSt L d).lastPulse = s.lastPulse := rfl
@[simp] theorem State.setDirSt_frozen (s : State) (L : Nat) (d : DirState) : (s.setDirSt L d).frozen = s.frozen := rfl
@[simp] theorem State.setDirSt_notes (s : State) (L : Nat) (d : DirState) : (s.setDirSt L d).notes = s.notes := rfl
@[simp] theorem State.setDirSt_agenda (s : State) (L : Nat) (d : DirState) : (s.setDirSt L d).agenda = s.agenda := rfl
@[simp] theorem State.setDirSt_flight (s : State) (L : Nat) (d : DirState) : (s.setDirSt L d).flight = s.flight := rfl
@[simp] theorem State.setDirSt_waiting (s : State) (L : Nat) (d : DirState) : (s.setDirSt L d).waiting = s.waiting := rfl
@[simp] theorem State.setDirSt_undone (s : State) (L : Nat) (d : DirState) : (s.setDirSt L d).undone = s.undone := rfl
@[simp] theorem State.setDirSt_mgmt (s : State) (L : Nat) (d : DirState) : (s.setDirSt L d).mgmt = s.mgmt := rfl
@[simp] theorem State.setDirSt_free (s : State) (L : Nat) (d : DirState) : (s.setDirSt L d).free = s.free := rfl

@[simp] theorem State.askDir_cur (s : State) (L : Nat) (d : DirState) : (s.askDir L d).cur = s.cur := rfl
@[simp] theorem State.askDir_cores (s : State) (L : Nat) (d : DirState) : (s.askDir L d).cores = s.cores := rfl
@[simp] theorem State.askDir_clusters (s : State) (L : Nat) (d : DirState) : (s.askDir L d).clusters = s.clusters := rfl
@[simp] theorem State.askDir_layers (s : State) (L : Nat) (d : DirState) : (s.askDir L d).layers = s.layers := rfl
@[simp] theorem State.askDir_towers (s : State) (L : Nat) (d : DirState) : (s.askDir L d).towers = s.towers := rfl
@[simp] theorem State.askDir_mem (s : State) (L : Nat) (d : DirState) : (s.askDir L d).mem = s.mem := rfl
@[simp] theorem State.askDir_tags (s : State) (L : Nat) (d : DirState) : (s.askDir L d).tags = s.tags := rfl
@[simp] theorem State.askDir_damaged (s : State) (L : Nat) (d : DirState) : (s.askDir L d).damaged = s.damaged := rfl
@[simp] theorem State.askDir_agents (s : State) (L : Nat) (d : DirState) : (s.askDir L d).agents = s.agents := rfl
@[simp] theorem State.askDir_slices (s : State) (L : Nat) (d : DirState) : (s.askDir L d).slices = s.slices := rfl
@[simp] theorem State.askDir_counters (s : State) (L : Nat) (d : DirState) : (s.askDir L d).counters = s.counters := rfl
@[simp] theorem State.askDir_aliases (s : State) (L : Nat) (d : DirState) : (s.askDir L d).aliases = s.aliases := rfl
@[simp] theorem State.askDir_parts (s : State) (L : Nat) (d : DirState) : (s.askDir L d).parts = s.parts := rfl
@[simp] theorem State.askDir_ctxs (s : State) (L : Nat) (d : DirState) : (s.askDir L d).ctxs = s.ctxs := rfl
@[simp] theorem State.askDir_kernels (s : State) (L : Nat) (d : DirState) : (s.askDir L d).kernels = s.kernels := rfl
@[simp] theorem State.askDir_links (s : State) (L : Nat) (d : DirState) : (s.askDir L d).links = s.links := rfl
@[simp] theorem State.askDir_lanes (s : State) (L : Nat) (d : DirState) : (s.askDir L d).lanes = s.lanes := rfl
@[simp] theorem State.askDir_sends (s : State) (L : Nat) (d : DirState) : (s.askDir L d).sends = s.sends := rfl
@[simp] theorem State.askDir_blocking (s : State) (L : Nat) (d : DirState) : (s.askDir L d).blocking = s.blocking := rfl
@[simp] theorem State.askDir_ring (s : State) (L : Nat) (d : DirState) : (s.askDir L d).ring = s.ring := rfl
@[simp] theorem State.askDir_nextId (s : State) (L : Nat) (d : DirState) : (s.askDir L d).nextId = s.nextId := rfl
@[simp] theorem State.askDir_decided (s : State) (L : Nat) (d : DirState) : (s.askDir L d).decided = s.decided := rfl
@[simp] theorem State.askDir_time (s : State) (L : Nat) (d : DirState) : (s.askDir L d).time = s.time := rfl
@[simp] theorem State.askDir_pulses (s : State) (L : Nat) (d : DirState) : (s.askDir L d).pulses = s.pulses := rfl
@[simp] theorem State.askDir_pulseDue (s : State) (L : Nat) (d : DirState) : (s.askDir L d).pulseDue = s.pulseDue := rfl
@[simp] theorem State.askDir_lastPulse (s : State) (L : Nat) (d : DirState) : (s.askDir L d).lastPulse = s.lastPulse := rfl
@[simp] theorem State.askDir_frozen (s : State) (L : Nat) (d : DirState) : (s.askDir L d).frozen = s.frozen := rfl
@[simp] theorem State.askDir_notes (s : State) (L : Nat) (d : DirState) : (s.askDir L d).notes = s.notes := rfl
@[simp] theorem State.askDir_agenda (s : State) (L : Nat) (d : DirState) : (s.askDir L d).agenda = s.agenda := rfl
@[simp] theorem State.askDir_flight (s : State) (L : Nat) (d : DirState) : (s.askDir L d).flight = s.flight := rfl
@[simp] theorem State.askDir_waiting (s : State) (L : Nat) (d : DirState) : (s.askDir L d).waiting = s.waiting := rfl
@[simp] theorem State.askDir_undone (s : State) (L : Nat) (d : DirState) : (s.askDir L d).undone = s.undone := rfl
@[simp] theorem State.askDir_mgmt (s : State) (L : Nat) (d : DirState) : (s.askDir L d).mgmt = s.mgmt := rfl
@[simp] theorem State.askDir_free (s : State) (L : Nat) (d : DirState) : (s.askDir L d).free = s.free := rfl

@[simp] theorem State.later_cur (s : State) (w : Waits) : (s.later w).cur = s.cur := rfl
@[simp] theorem State.later_cores (s : State) (w : Waits) : (s.later w).cores = s.cores := rfl
@[simp] theorem State.later_clusters (s : State) (w : Waits) : (s.later w).clusters = s.clusters := rfl
@[simp] theorem State.later_layers (s : State) (w : Waits) : (s.later w).layers = s.layers := rfl
@[simp] theorem State.later_towers (s : State) (w : Waits) : (s.later w).towers = s.towers := rfl
@[simp] theorem State.later_mem (s : State) (w : Waits) : (s.later w).mem = s.mem := rfl
@[simp] theorem State.later_tags (s : State) (w : Waits) : (s.later w).tags = s.tags := rfl
@[simp] theorem State.later_damaged (s : State) (w : Waits) : (s.later w).damaged = s.damaged := rfl
@[simp] theorem State.later_dirs (s : State) (w : Waits) : (s.later w).dirs = s.dirs := rfl
@[simp] theorem State.later_agents (s : State) (w : Waits) : (s.later w).agents = s.agents := rfl
@[simp] theorem State.later_slices (s : State) (w : Waits) : (s.later w).slices = s.slices := rfl
@[simp] theorem State.later_counters (s : State) (w : Waits) : (s.later w).counters = s.counters := rfl
@[simp] theorem State.later_aliases (s : State) (w : Waits) : (s.later w).aliases = s.aliases := rfl
@[simp] theorem State.later_parts (s : State) (w : Waits) : (s.later w).parts = s.parts := rfl
@[simp] theorem State.later_ctxs (s : State) (w : Waits) : (s.later w).ctxs = s.ctxs := rfl
@[simp] theorem State.later_kernels (s : State) (w : Waits) : (s.later w).kernels = s.kernels := rfl
@[simp] theorem State.later_links (s : State) (w : Waits) : (s.later w).links = s.links := rfl
@[simp] theorem State.later_lanes (s : State) (w : Waits) : (s.later w).lanes = s.lanes := rfl
@[simp] theorem State.later_sends (s : State) (w : Waits) : (s.later w).sends = s.sends := rfl
@[simp] theorem State.later_blocking (s : State) (w : Waits) : (s.later w).blocking = s.blocking := rfl
@[simp] theorem State.later_ring (s : State) (w : Waits) : (s.later w).ring = s.ring := rfl
@[simp] theorem State.later_nextId (s : State) (w : Waits) : (s.later w).nextId = s.nextId := rfl
@[simp] theorem State.later_decided (s : State) (w : Waits) : (s.later w).decided = s.decided := rfl
@[simp] theorem State.later_time (s : State) (w : Waits) : (s.later w).time = s.time := rfl
@[simp] theorem State.later_pulses (s : State) (w : Waits) : (s.later w).pulses = s.pulses := rfl
@[simp] theorem State.later_pulseDue (s : State) (w : Waits) : (s.later w).pulseDue = s.pulseDue := rfl
@[simp] theorem State.later_lastPulse (s : State) (w : Waits) : (s.later w).lastPulse = s.lastPulse := rfl
@[simp] theorem State.later_frozen (s : State) (w : Waits) : (s.later w).frozen = s.frozen := rfl
@[simp] theorem State.later_notes (s : State) (w : Waits) : (s.later w).notes = s.notes := rfl
@[simp] theorem State.later_agenda (s : State) (w : Waits) : (s.later w).agenda = s.agenda := rfl
@[simp] theorem State.later_flight (s : State) (w : Waits) : (s.later w).flight = s.flight := rfl
@[simp] theorem State.later_waiting (s : State) (w : Waits) : (s.later w).waiting = s.waiting := rfl
@[simp] theorem State.later_mgmt (s : State) (w : Waits) : (s.later w).mgmt = s.mgmt := rfl
@[simp] theorem State.later_free (s : State) (w : Waits) : (s.later w).free = s.free := rfl

@[simp] theorem State.raiseMts_cur (s : State) (L r : Nat) : (s.raiseMts L r).cur = s.cur := rfl
@[simp] theorem State.raiseMts_cores (s : State) (L r : Nat) : (s.raiseMts L r).cores = s.cores := rfl
@[simp] theorem State.raiseMts_clusters (s : State) (L r : Nat) : (s.raiseMts L r).clusters = s.clusters := rfl
@[simp] theorem State.raiseMts_layers (s : State) (L r : Nat) : (s.raiseMts L r).layers = s.layers := rfl
@[simp] theorem State.raiseMts_mem (s : State) (L r : Nat) : (s.raiseMts L r).mem = s.mem := rfl
@[simp] theorem State.raiseMts_tags (s : State) (L r : Nat) : (s.raiseMts L r).tags = s.tags := rfl
@[simp] theorem State.raiseMts_damaged (s : State) (L r : Nat) : (s.raiseMts L r).damaged = s.damaged := rfl
@[simp] theorem State.raiseMts_dirs (s : State) (L r : Nat) : (s.raiseMts L r).dirs = s.dirs := rfl
@[simp] theorem State.raiseMts_agents (s : State) (L r : Nat) : (s.raiseMts L r).agents = s.agents := rfl
@[simp] theorem State.raiseMts_slices (s : State) (L r : Nat) : (s.raiseMts L r).slices = s.slices := rfl
@[simp] theorem State.raiseMts_counters (s : State) (L r : Nat) : (s.raiseMts L r).counters = s.counters := rfl
@[simp] theorem State.raiseMts_aliases (s : State) (L r : Nat) : (s.raiseMts L r).aliases = s.aliases := rfl
@[simp] theorem State.raiseMts_parts (s : State) (L r : Nat) : (s.raiseMts L r).parts = s.parts := rfl
@[simp] theorem State.raiseMts_ctxs (s : State) (L r : Nat) : (s.raiseMts L r).ctxs = s.ctxs := rfl
@[simp] theorem State.raiseMts_kernels (s : State) (L r : Nat) : (s.raiseMts L r).kernels = s.kernels := rfl
@[simp] theorem State.raiseMts_links (s : State) (L r : Nat) : (s.raiseMts L r).links = s.links := rfl
@[simp] theorem State.raiseMts_lanes (s : State) (L r : Nat) : (s.raiseMts L r).lanes = s.lanes := rfl
@[simp] theorem State.raiseMts_sends (s : State) (L r : Nat) : (s.raiseMts L r).sends = s.sends := rfl
@[simp] theorem State.raiseMts_blocking (s : State) (L r : Nat) : (s.raiseMts L r).blocking = s.blocking := rfl
@[simp] theorem State.raiseMts_ring (s : State) (L r : Nat) : (s.raiseMts L r).ring = s.ring := rfl
@[simp] theorem State.raiseMts_nextId (s : State) (L r : Nat) : (s.raiseMts L r).nextId = s.nextId := rfl
@[simp] theorem State.raiseMts_decided (s : State) (L r : Nat) : (s.raiseMts L r).decided = s.decided := rfl
@[simp] theorem State.raiseMts_time (s : State) (L r : Nat) : (s.raiseMts L r).time = s.time := rfl
@[simp] theorem State.raiseMts_pulses (s : State) (L r : Nat) : (s.raiseMts L r).pulses = s.pulses := rfl
@[simp] theorem State.raiseMts_pulseDue (s : State) (L r : Nat) : (s.raiseMts L r).pulseDue = s.pulseDue := rfl
@[simp] theorem State.raiseMts_lastPulse (s : State) (L r : Nat) : (s.raiseMts L r).lastPulse = s.lastPulse := rfl
@[simp] theorem State.raiseMts_frozen (s : State) (L r : Nat) : (s.raiseMts L r).frozen = s.frozen := rfl
@[simp] theorem State.raiseMts_notes (s : State) (L r : Nat) : (s.raiseMts L r).notes = s.notes := rfl
@[simp] theorem State.raiseMts_agenda (s : State) (L r : Nat) : (s.raiseMts L r).agenda = s.agenda := rfl
@[simp] theorem State.raiseMts_flight (s : State) (L r : Nat) : (s.raiseMts L r).flight = s.flight := rfl
@[simp] theorem State.raiseMts_waiting (s : State) (L r : Nat) : (s.raiseMts L r).waiting = s.waiting := rfl
@[simp] theorem State.raiseMts_undone (s : State) (L r : Nat) : (s.raiseMts L r).undone = s.undone := rfl
@[simp] theorem State.raiseMts_mgmt (s : State) (L r : Nat) : (s.raiseMts L r).mgmt = s.mgmt := rfl
@[simp] theorem State.raiseMts_free (s : State) (L r : Nat) : (s.raiseMts L r).free = s.free := rfl

@[simp] theorem State.setL1_cur (s : State) (k L : Nat) (e : L1Line) : (s.setL1 k L e).cur = s.cur := rfl
@[simp] theorem State.setL1_cores (s : State) (k L : Nat) (e : L1Line) : (s.setL1 k L e).cores = s.cores := rfl
@[simp] theorem State.setL1_layers (s : State) (k L : Nat) (e : L1Line) : (s.setL1 k L e).layers = s.layers := rfl
@[simp] theorem State.setL1_towers (s : State) (k L : Nat) (e : L1Line) : (s.setL1 k L e).towers = s.towers := rfl
@[simp] theorem State.setL1_mem (s : State) (k L : Nat) (e : L1Line) : (s.setL1 k L e).mem = s.mem := rfl
@[simp] theorem State.setL1_tags (s : State) (k L : Nat) (e : L1Line) : (s.setL1 k L e).tags = s.tags := rfl
@[simp] theorem State.setL1_damaged (s : State) (k L : Nat) (e : L1Line) : (s.setL1 k L e).damaged = s.damaged := rfl
@[simp] theorem State.setL1_dirs (s : State) (k L : Nat) (e : L1Line) : (s.setL1 k L e).dirs = s.dirs := rfl
@[simp] theorem State.setL1_agents (s : State) (k L : Nat) (e : L1Line) : (s.setL1 k L e).agents = s.agents := rfl
@[simp] theorem State.setL1_slices (s : State) (k L : Nat) (e : L1Line) : (s.setL1 k L e).slices = s.slices := rfl
@[simp] theorem State.setL1_counters (s : State) (k L : Nat) (e : L1Line) : (s.setL1 k L e).counters = s.counters := rfl
@[simp] theorem State.setL1_aliases (s : State) (k L : Nat) (e : L1Line) : (s.setL1 k L e).aliases = s.aliases := rfl
@[simp] theorem State.setL1_parts (s : State) (k L : Nat) (e : L1Line) : (s.setL1 k L e).parts = s.parts := rfl
@[simp] theorem State.setL1_ctxs (s : State) (k L : Nat) (e : L1Line) : (s.setL1 k L e).ctxs = s.ctxs := rfl
@[simp] theorem State.setL1_kernels (s : State) (k L : Nat) (e : L1Line) : (s.setL1 k L e).kernels = s.kernels := rfl
@[simp] theorem State.setL1_links (s : State) (k L : Nat) (e : L1Line) : (s.setL1 k L e).links = s.links := rfl
@[simp] theorem State.setL1_lanes (s : State) (k L : Nat) (e : L1Line) : (s.setL1 k L e).lanes = s.lanes := rfl
@[simp] theorem State.setL1_sends (s : State) (k L : Nat) (e : L1Line) : (s.setL1 k L e).sends = s.sends := rfl
@[simp] theorem State.setL1_blocking (s : State) (k L : Nat) (e : L1Line) : (s.setL1 k L e).blocking = s.blocking := rfl
@[simp] theorem State.setL1_ring (s : State) (k L : Nat) (e : L1Line) : (s.setL1 k L e).ring = s.ring := rfl
@[simp] theorem State.setL1_nextId (s : State) (k L : Nat) (e : L1Line) : (s.setL1 k L e).nextId = s.nextId := rfl
@[simp] theorem State.setL1_decided (s : State) (k L : Nat) (e : L1Line) : (s.setL1 k L e).decided = s.decided := rfl
@[simp] theorem State.setL1_time (s : State) (k L : Nat) (e : L1Line) : (s.setL1 k L e).time = s.time := rfl
@[simp] theorem State.setL1_pulses (s : State) (k L : Nat) (e : L1Line) : (s.setL1 k L e).pulses = s.pulses := rfl
@[simp] theorem State.setL1_pulseDue (s : State) (k L : Nat) (e : L1Line) : (s.setL1 k L e).pulseDue = s.pulseDue := rfl
@[simp] theorem State.setL1_lastPulse (s : State) (k L : Nat) (e : L1Line) : (s.setL1 k L e).lastPulse = s.lastPulse := rfl
@[simp] theorem State.setL1_frozen (s : State) (k L : Nat) (e : L1Line) : (s.setL1 k L e).frozen = s.frozen := rfl
@[simp] theorem State.setL1_notes (s : State) (k L : Nat) (e : L1Line) : (s.setL1 k L e).notes = s.notes := rfl
@[simp] theorem State.setL1_agenda (s : State) (k L : Nat) (e : L1Line) : (s.setL1 k L e).agenda = s.agenda := rfl
@[simp] theorem State.setL1_flight (s : State) (k L : Nat) (e : L1Line) : (s.setL1 k L e).flight = s.flight := rfl
@[simp] theorem State.setL1_waiting (s : State) (k L : Nat) (e : L1Line) : (s.setL1 k L e).waiting = s.waiting := rfl
@[simp] theorem State.setL1_undone (s : State) (k L : Nat) (e : L1Line) : (s.setL1 k L e).undone = s.undone := rfl
@[simp] theorem State.setL1_mgmt (s : State) (k L : Nat) (e : L1Line) : (s.setL1 k L e).mgmt = s.mgmt := rfl
@[simp] theorem State.setL1_free (s : State) (k L : Nat) (e : L1Line) : (s.setL1 k L e).free = s.free := rfl

@[simp] theorem State.dropL1_cur (s : State) (k L : Nat) : (s.dropL1 k L).cur = s.cur := rfl
@[simp] theorem State.dropL1_cores (s : State) (k L : Nat) : (s.dropL1 k L).cores = s.cores := rfl
@[simp] theorem State.dropL1_layers (s : State) (k L : Nat) : (s.dropL1 k L).layers = s.layers := rfl
@[simp] theorem State.dropL1_towers (s : State) (k L : Nat) : (s.dropL1 k L).towers = s.towers := rfl
@[simp] theorem State.dropL1_mem (s : State) (k L : Nat) : (s.dropL1 k L).mem = s.mem := rfl
@[simp] theorem State.dropL1_tags (s : State) (k L : Nat) : (s.dropL1 k L).tags = s.tags := rfl
@[simp] theorem State.dropL1_damaged (s : State) (k L : Nat) : (s.dropL1 k L).damaged = s.damaged := rfl
@[simp] theorem State.dropL1_dirs (s : State) (k L : Nat) : (s.dropL1 k L).dirs = s.dirs := rfl
@[simp] theorem State.dropL1_agents (s : State) (k L : Nat) : (s.dropL1 k L).agents = s.agents := rfl
@[simp] theorem State.dropL1_slices (s : State) (k L : Nat) : (s.dropL1 k L).slices = s.slices := rfl
@[simp] theorem State.dropL1_counters (s : State) (k L : Nat) : (s.dropL1 k L).counters = s.counters := rfl
@[simp] theorem State.dropL1_aliases (s : State) (k L : Nat) : (s.dropL1 k L).aliases = s.aliases := rfl
@[simp] theorem State.dropL1_parts (s : State) (k L : Nat) : (s.dropL1 k L).parts = s.parts := rfl
@[simp] theorem State.dropL1_ctxs (s : State) (k L : Nat) : (s.dropL1 k L).ctxs = s.ctxs := rfl
@[simp] theorem State.dropL1_kernels (s : State) (k L : Nat) : (s.dropL1 k L).kernels = s.kernels := rfl
@[simp] theorem State.dropL1_links (s : State) (k L : Nat) : (s.dropL1 k L).links = s.links := rfl
@[simp] theorem State.dropL1_lanes (s : State) (k L : Nat) : (s.dropL1 k L).lanes = s.lanes := rfl
@[simp] theorem State.dropL1_sends (s : State) (k L : Nat) : (s.dropL1 k L).sends = s.sends := rfl
@[simp] theorem State.dropL1_blocking (s : State) (k L : Nat) : (s.dropL1 k L).blocking = s.blocking := rfl
@[simp] theorem State.dropL1_ring (s : State) (k L : Nat) : (s.dropL1 k L).ring = s.ring := rfl
@[simp] theorem State.dropL1_nextId (s : State) (k L : Nat) : (s.dropL1 k L).nextId = s.nextId := rfl
@[simp] theorem State.dropL1_decided (s : State) (k L : Nat) : (s.dropL1 k L).decided = s.decided := rfl
@[simp] theorem State.dropL1_time (s : State) (k L : Nat) : (s.dropL1 k L).time = s.time := rfl
@[simp] theorem State.dropL1_pulses (s : State) (k L : Nat) : (s.dropL1 k L).pulses = s.pulses := rfl
@[simp] theorem State.dropL1_pulseDue (s : State) (k L : Nat) : (s.dropL1 k L).pulseDue = s.pulseDue := rfl
@[simp] theorem State.dropL1_lastPulse (s : State) (k L : Nat) : (s.dropL1 k L).lastPulse = s.lastPulse := rfl
@[simp] theorem State.dropL1_frozen (s : State) (k L : Nat) : (s.dropL1 k L).frozen = s.frozen := rfl
@[simp] theorem State.dropL1_notes (s : State) (k L : Nat) : (s.dropL1 k L).notes = s.notes := rfl
@[simp] theorem State.dropL1_agenda (s : State) (k L : Nat) : (s.dropL1 k L).agenda = s.agenda := rfl
@[simp] theorem State.dropL1_flight (s : State) (k L : Nat) : (s.dropL1 k L).flight = s.flight := rfl
@[simp] theorem State.dropL1_waiting (s : State) (k L : Nat) : (s.dropL1 k L).waiting = s.waiting := rfl
@[simp] theorem State.dropL1_undone (s : State) (k L : Nat) : (s.dropL1 k L).undone = s.undone := rfl
@[simp] theorem State.dropL1_mgmt (s : State) (k L : Nat) : (s.dropL1 k L).mgmt = s.mgmt := rfl
@[simp] theorem State.dropL1_free (s : State) (k L : Nat) : (s.dropL1 k L).free = s.free := rfl

/-! ### A part after its update, and the other parts -/

@[simp] theorem State.modCore_core (s : State) (k : Nat) (f : Core → Core) : (s.modCore k f).core k = f (s.core k) :=
  AMap.get_put_self _ _ _ _
theorem State.modCore_core_ne (s : State) {k j : Nat} (f : Core → Core) (h : j ≠ k) : (s.modCore k f).core j = s.core j :=
  AMap.get_put_ne _ _ _ h
@[simp] theorem State.setCluster_core_other (s : State) (k : Nat) (c : Cluster) (j : Nat) : (s.setCluster k c).core j = s.core j := rfl
@[simp] theorem State.modCluster_core_other (s : State) (k : Nat) (f : Cluster → Cluster) (j : Nat) : (s.modCluster k f).core j = s.core j := rfl
@[simp] theorem State.modLayer_core_other (s : State) (l : Nat) (f : Layer → Layer) (j : Nat) : (s.modLayer l f).core j = s.core j := rfl
@[simp] theorem State.modTower_core_other (s : State) (t : Nat) (f : Tower → Tower) (j : Nat) : (s.modTower t f).core j = s.core j := rfl
@[simp] theorem State.modCtx_core_other (s : State) (x : Nat) (f : Context → Context) (j : Nat) : (s.modCtx x f).core j = s.core j := rfl
@[simp] theorem State.modPart_core_other (s : State) (p : Nat) (f : Partition → Partition) (j : Nat) : (s.modPart p f).core j = s.core j := rfl
@[simp] theorem State.modKernel_core_other (s : State) (k : Nat) (f : Kernel → Kernel) (j : Nat) : (s.modKernel k f).core j = s.core j := rfl
@[simp] theorem State.modLink_core_other (s : State) (p : Nat) (f : Link → Link) (j : Nat) : (s.modLink p f).core j = s.core j := rfl
@[simp] theorem State.note_core_other (s : State) (n : Note) (j : Nat) : (s.note n).core j = s.core j := rfl
@[simp] theorem State.setAgent_core_other (s : State) (t L : Nat) (a : Agent) (j : Nat) : (s.setAgent t L a).core j = s.core j := rfl
@[simp] theorem State.setDir_core_other (s : State) (L : Nat) (d : Dir) (j : Nat) : (s.setDir L d).core j = s.core j := rfl
@[simp] theorem State.setDirSt_core_other (s : State) (L : Nat) (d : DirState) (j : Nat) : (s.setDirSt L d).core j = s.core j := rfl
@[simp] theorem State.askDir_core_other (s : State) (L : Nat) (d : DirState) (j : Nat) : (s.askDir L d).core j = s.core j := rfl
@[simp] theorem State.later_core_other (s : State) (w : Waits) (j : Nat) : (s.later w).core j = s.core j := rfl
@[simp] theorem State.raiseMts_core_other (s : State) (L r : Nat) (j : Nat) : (s.raiseMts L r).core j = s.core j := rfl
@[simp] theorem State.setL1_core_other (s : State) (k L : Nat) (e : L1Line) (j : Nat) : (s.setL1 k L e).core j = s.core j := rfl
@[simp] theorem State.dropL1_core_other (s : State) (k L : Nat) (j : Nat) : (s.dropL1 k L).core j = s.core j := rfl

@[simp] theorem State.modCluster_cluster (s : State) (k : Nat) (f : Cluster → Cluster) : (s.modCluster k f).cluster k = f (s.cluster k) :=
  AMap.get_put_self _ _ _ _
theorem State.modCluster_cluster_ne (s : State) {k j : Nat} (f : Cluster → Cluster) (h : j ≠ k) : (s.modCluster k f).cluster j = s.cluster j :=
  AMap.get_put_ne _ _ _ h
@[simp] theorem State.setCore_cluster_other (s : State) (n : Nat) (c : Core) (j : Nat) : (s.setCore n c).cluster j = s.cluster j := rfl
@[simp] theorem State.modCore_cluster_other (s : State) (n : Nat) (f : Core → Core) (j : Nat) : (s.modCore n f).cluster j = s.cluster j := rfl
@[simp] theorem State.modLayer_cluster_other (s : State) (l : Nat) (f : Layer → Layer) (j : Nat) : (s.modLayer l f).cluster j = s.cluster j := rfl
@[simp] theorem State.modTower_cluster_other (s : State) (t : Nat) (f : Tower → Tower) (j : Nat) : (s.modTower t f).cluster j = s.cluster j := rfl
@[simp] theorem State.modCtx_cluster_other (s : State) (x : Nat) (f : Context → Context) (j : Nat) : (s.modCtx x f).cluster j = s.cluster j := rfl
@[simp] theorem State.modPart_cluster_other (s : State) (p : Nat) (f : Partition → Partition) (j : Nat) : (s.modPart p f).cluster j = s.cluster j := rfl
@[simp] theorem State.modKernel_cluster_other (s : State) (k : Nat) (f : Kernel → Kernel) (j : Nat) : (s.modKernel k f).cluster j = s.cluster j := rfl
@[simp] theorem State.modLink_cluster_other (s : State) (p : Nat) (f : Link → Link) (j : Nat) : (s.modLink p f).cluster j = s.cluster j := rfl
@[simp] theorem State.note_cluster_other (s : State) (n : Note) (j : Nat) : (s.note n).cluster j = s.cluster j := rfl
@[simp] theorem State.grant_cluster_other (s : State) (n : Nat) (v : Word) (j : Nat) : (s.grant n v).cluster j = s.cluster j := rfl
@[simp] theorem State.setAgent_cluster_other (s : State) (t L : Nat) (a : Agent) (j : Nat) : (s.setAgent t L a).cluster j = s.cluster j := rfl
@[simp] theorem State.setDir_cluster_other (s : State) (L : Nat) (d : Dir) (j : Nat) : (s.setDir L d).cluster j = s.cluster j := rfl
@[simp] theorem State.setDirSt_cluster_other (s : State) (L : Nat) (d : DirState) (j : Nat) : (s.setDirSt L d).cluster j = s.cluster j := rfl
@[simp] theorem State.askDir_cluster_other (s : State) (L : Nat) (d : DirState) (j : Nat) : (s.askDir L d).cluster j = s.cluster j := rfl
@[simp] theorem State.later_cluster_other (s : State) (w : Waits) (j : Nat) : (s.later w).cluster j = s.cluster j := rfl
@[simp] theorem State.raiseMts_cluster_other (s : State) (L r : Nat) (j : Nat) : (s.raiseMts L r).cluster j = s.cluster j := rfl

@[simp] theorem State.modLayer_layer (s : State) (k : Nat) (f : Layer → Layer) : (s.modLayer k f).layer k = f (s.layer k) :=
  AMap.get_put_self _ _ _ _
theorem State.modLayer_layer_ne (s : State) {k j : Nat} (f : Layer → Layer) (h : j ≠ k) : (s.modLayer k f).layer j = s.layer j :=
  AMap.get_put_ne _ _ _ h
@[simp] theorem State.setCore_layer_other (s : State) (n : Nat) (c : Core) (j : Nat) : (s.setCore n c).layer j = s.layer j := rfl
@[simp] theorem State.modCore_layer_other (s : State) (n : Nat) (f : Core → Core) (j : Nat) : (s.modCore n f).layer j = s.layer j := rfl
@[simp] theorem State.setCluster_layer_other (s : State) (k : Nat) (c : Cluster) (j : Nat) : (s.setCluster k c).layer j = s.layer j := rfl
@[simp] theorem State.modCluster_layer_other (s : State) (k : Nat) (f : Cluster → Cluster) (j : Nat) : (s.modCluster k f).layer j = s.layer j := rfl
@[simp] theorem State.modTower_layer_other (s : State) (t : Nat) (f : Tower → Tower) (j : Nat) : (s.modTower t f).layer j = s.layer j := rfl
@[simp] theorem State.modCtx_layer_other (s : State) (x : Nat) (f : Context → Context) (j : Nat) : (s.modCtx x f).layer j = s.layer j := rfl
@[simp] theorem State.modPart_layer_other (s : State) (p : Nat) (f : Partition → Partition) (j : Nat) : (s.modPart p f).layer j = s.layer j := rfl
@[simp] theorem State.modKernel_layer_other (s : State) (k : Nat) (f : Kernel → Kernel) (j : Nat) : (s.modKernel k f).layer j = s.layer j := rfl
@[simp] theorem State.modLink_layer_other (s : State) (p : Nat) (f : Link → Link) (j : Nat) : (s.modLink p f).layer j = s.layer j := rfl
@[simp] theorem State.note_layer_other (s : State) (n : Note) (j : Nat) : (s.note n).layer j = s.layer j := rfl
@[simp] theorem State.grant_layer_other (s : State) (n : Nat) (v : Word) (j : Nat) : (s.grant n v).layer j = s.layer j := rfl
@[simp] theorem State.setAgent_layer_other (s : State) (t L : Nat) (a : Agent) (j : Nat) : (s.setAgent t L a).layer j = s.layer j := rfl
@[simp] theorem State.setDir_layer_other (s : State) (L : Nat) (d : Dir) (j : Nat) : (s.setDir L d).layer j = s.layer j := rfl
@[simp] theorem State.setDirSt_layer_other (s : State) (L : Nat) (d : DirState) (j : Nat) : (s.setDirSt L d).layer j = s.layer j := rfl
@[simp] theorem State.askDir_layer_other (s : State) (L : Nat) (d : DirState) (j : Nat) : (s.askDir L d).layer j = s.layer j := rfl
@[simp] theorem State.later_layer_other (s : State) (w : Waits) (j : Nat) : (s.later w).layer j = s.layer j := rfl
@[simp] theorem State.raiseMts_layer_other (s : State) (L r : Nat) (j : Nat) : (s.raiseMts L r).layer j = s.layer j := rfl
@[simp] theorem State.setL1_layer_other (s : State) (k L : Nat) (e : L1Line) (j : Nat) : (s.setL1 k L e).layer j = s.layer j := rfl
@[simp] theorem State.dropL1_layer_other (s : State) (k L : Nat) (j : Nat) : (s.dropL1 k L).layer j = s.layer j := rfl

@[simp] theorem State.modTower_tower (s : State) (k : Nat) (f : Tower → Tower) : (s.modTower k f).tower k = f (s.tower k) :=
  AMap.get_put_self _ _ _ _
theorem State.modTower_tower_ne (s : State) {k j : Nat} (f : Tower → Tower) (h : j ≠ k) : (s.modTower k f).tower j = s.tower j :=
  AMap.get_put_ne _ _ _ h
@[simp] theorem State.setCore_tower_other (s : State) (n : Nat) (c : Core) (j : Nat) : (s.setCore n c).tower j = s.tower j := rfl
@[simp] theorem State.modCore_tower_other (s : State) (n : Nat) (f : Core → Core) (j : Nat) : (s.modCore n f).tower j = s.tower j := rfl
@[simp] theorem State.setCluster_tower_other (s : State) (k : Nat) (c : Cluster) (j : Nat) : (s.setCluster k c).tower j = s.tower j := rfl
@[simp] theorem State.modCluster_tower_other (s : State) (k : Nat) (f : Cluster → Cluster) (j : Nat) : (s.modCluster k f).tower j = s.tower j := rfl
@[simp] theorem State.modLayer_tower_other (s : State) (l : Nat) (f : Layer → Layer) (j : Nat) : (s.modLayer l f).tower j = s.tower j := rfl
@[simp] theorem State.modCtx_tower_other (s : State) (x : Nat) (f : Context → Context) (j : Nat) : (s.modCtx x f).tower j = s.tower j := rfl
@[simp] theorem State.modPart_tower_other (s : State) (p : Nat) (f : Partition → Partition) (j : Nat) : (s.modPart p f).tower j = s.tower j := rfl
@[simp] theorem State.modKernel_tower_other (s : State) (k : Nat) (f : Kernel → Kernel) (j : Nat) : (s.modKernel k f).tower j = s.tower j := rfl
@[simp] theorem State.modLink_tower_other (s : State) (p : Nat) (f : Link → Link) (j : Nat) : (s.modLink p f).tower j = s.tower j := rfl
@[simp] theorem State.note_tower_other (s : State) (n : Note) (j : Nat) : (s.note n).tower j = s.tower j := rfl
@[simp] theorem State.grant_tower_other (s : State) (n : Nat) (v : Word) (j : Nat) : (s.grant n v).tower j = s.tower j := rfl
@[simp] theorem State.setAgent_tower_other (s : State) (t L : Nat) (a : Agent) (j : Nat) : (s.setAgent t L a).tower j = s.tower j := rfl
@[simp] theorem State.setDir_tower_other (s : State) (L : Nat) (d : Dir) (j : Nat) : (s.setDir L d).tower j = s.tower j := rfl
@[simp] theorem State.setDirSt_tower_other (s : State) (L : Nat) (d : DirState) (j : Nat) : (s.setDirSt L d).tower j = s.tower j := rfl
@[simp] theorem State.askDir_tower_other (s : State) (L : Nat) (d : DirState) (j : Nat) : (s.askDir L d).tower j = s.tower j := rfl
@[simp] theorem State.later_tower_other (s : State) (w : Waits) (j : Nat) : (s.later w).tower j = s.tower j := rfl
@[simp] theorem State.setL1_tower_other (s : State) (k L : Nat) (e : L1Line) (j : Nat) : (s.setL1 k L e).tower j = s.tower j := rfl
@[simp] theorem State.dropL1_tower_other (s : State) (k L : Nat) (j : Nat) : (s.dropL1 k L).tower j = s.tower j := rfl

@[simp] theorem State.modCtx_ctx (s : State) (k : Nat) (f : Context → Context) : (s.modCtx k f).ctx k = f (s.ctx k) :=
  AMap.get_put_self _ _ _ _
theorem State.modCtx_ctx_ne (s : State) {k j : Nat} (f : Context → Context) (h : j ≠ k) : (s.modCtx k f).ctx j = s.ctx j :=
  AMap.get_put_ne _ _ _ h
@[simp] theorem State.setCore_ctx_other (s : State) (n : Nat) (c : Core) (j : Nat) : (s.setCore n c).ctx j = s.ctx j := rfl
@[simp] theorem State.modCore_ctx_other (s : State) (n : Nat) (f : Core → Core) (j : Nat) : (s.modCore n f).ctx j = s.ctx j := rfl
@[simp] theorem State.setCluster_ctx_other (s : State) (k : Nat) (c : Cluster) (j : Nat) : (s.setCluster k c).ctx j = s.ctx j := rfl
@[simp] theorem State.modCluster_ctx_other (s : State) (k : Nat) (f : Cluster → Cluster) (j : Nat) : (s.modCluster k f).ctx j = s.ctx j := rfl
@[simp] theorem State.modLayer_ctx_other (s : State) (l : Nat) (f : Layer → Layer) (j : Nat) : (s.modLayer l f).ctx j = s.ctx j := rfl
@[simp] theorem State.modTower_ctx_other (s : State) (t : Nat) (f : Tower → Tower) (j : Nat) : (s.modTower t f).ctx j = s.ctx j := rfl
@[simp] theorem State.modPart_ctx_other (s : State) (p : Nat) (f : Partition → Partition) (j : Nat) : (s.modPart p f).ctx j = s.ctx j := rfl
@[simp] theorem State.modKernel_ctx_other (s : State) (k : Nat) (f : Kernel → Kernel) (j : Nat) : (s.modKernel k f).ctx j = s.ctx j := rfl
@[simp] theorem State.modLink_ctx_other (s : State) (p : Nat) (f : Link → Link) (j : Nat) : (s.modLink p f).ctx j = s.ctx j := rfl
@[simp] theorem State.note_ctx_other (s : State) (n : Note) (j : Nat) : (s.note n).ctx j = s.ctx j := rfl
@[simp] theorem State.grant_ctx_other (s : State) (n : Nat) (v : Word) (j : Nat) : (s.grant n v).ctx j = s.ctx j := rfl
@[simp] theorem State.setAgent_ctx_other (s : State) (t L : Nat) (a : Agent) (j : Nat) : (s.setAgent t L a).ctx j = s.ctx j := rfl
@[simp] theorem State.setDir_ctx_other (s : State) (L : Nat) (d : Dir) (j : Nat) : (s.setDir L d).ctx j = s.ctx j := rfl
@[simp] theorem State.setDirSt_ctx_other (s : State) (L : Nat) (d : DirState) (j : Nat) : (s.setDirSt L d).ctx j = s.ctx j := rfl
@[simp] theorem State.askDir_ctx_other (s : State) (L : Nat) (d : DirState) (j : Nat) : (s.askDir L d).ctx j = s.ctx j := rfl
@[simp] theorem State.later_ctx_other (s : State) (w : Waits) (j : Nat) : (s.later w).ctx j = s.ctx j := rfl
@[simp] theorem State.raiseMts_ctx_other (s : State) (L r : Nat) (j : Nat) : (s.raiseMts L r).ctx j = s.ctx j := rfl
@[simp] theorem State.setL1_ctx_other (s : State) (k L : Nat) (e : L1Line) (j : Nat) : (s.setL1 k L e).ctx j = s.ctx j := rfl
@[simp] theorem State.dropL1_ctx_other (s : State) (k L : Nat) (j : Nat) : (s.dropL1 k L).ctx j = s.ctx j := rfl

@[simp] theorem State.modPart_part (s : State) (k : Nat) (f : Partition → Partition) : (s.modPart k f).part k = f (s.part k) :=
  AMap.get_put_self _ _ _ _
theorem State.modPart_part_ne (s : State) {k j : Nat} (f : Partition → Partition) (h : j ≠ k) : (s.modPart k f).part j = s.part j :=
  AMap.get_put_ne _ _ _ h
@[simp] theorem State.setCore_part_other (s : State) (n : Nat) (c : Core) (j : Nat) : (s.setCore n c).part j = s.part j := rfl
@[simp] theorem State.modCore_part_other (s : State) (n : Nat) (f : Core → Core) (j : Nat) : (s.modCore n f).part j = s.part j := rfl
@[simp] theorem State.setCluster_part_other (s : State) (k : Nat) (c : Cluster) (j : Nat) : (s.setCluster k c).part j = s.part j := rfl
@[simp] theorem State.modCluster_part_other (s : State) (k : Nat) (f : Cluster → Cluster) (j : Nat) : (s.modCluster k f).part j = s.part j := rfl
@[simp] theorem State.modLayer_part_other (s : State) (l : Nat) (f : Layer → Layer) (j : Nat) : (s.modLayer l f).part j = s.part j := rfl
@[simp] theorem State.modTower_part_other (s : State) (t : Nat) (f : Tower → Tower) (j : Nat) : (s.modTower t f).part j = s.part j := rfl
@[simp] theorem State.modCtx_part_other (s : State) (x : Nat) (f : Context → Context) (j : Nat) : (s.modCtx x f).part j = s.part j := rfl
@[simp] theorem State.modKernel_part_other (s : State) (k : Nat) (f : Kernel → Kernel) (j : Nat) : (s.modKernel k f).part j = s.part j := rfl
@[simp] theorem State.modLink_part_other (s : State) (p : Nat) (f : Link → Link) (j : Nat) : (s.modLink p f).part j = s.part j := rfl
@[simp] theorem State.note_part_other (s : State) (n : Note) (j : Nat) : (s.note n).part j = s.part j := rfl
@[simp] theorem State.grant_part_other (s : State) (n : Nat) (v : Word) (j : Nat) : (s.grant n v).part j = s.part j := rfl
@[simp] theorem State.setAgent_part_other (s : State) (t L : Nat) (a : Agent) (j : Nat) : (s.setAgent t L a).part j = s.part j := rfl
@[simp] theorem State.setDir_part_other (s : State) (L : Nat) (d : Dir) (j : Nat) : (s.setDir L d).part j = s.part j := rfl
@[simp] theorem State.setDirSt_part_other (s : State) (L : Nat) (d : DirState) (j : Nat) : (s.setDirSt L d).part j = s.part j := rfl
@[simp] theorem State.askDir_part_other (s : State) (L : Nat) (d : DirState) (j : Nat) : (s.askDir L d).part j = s.part j := rfl
@[simp] theorem State.later_part_other (s : State) (w : Waits) (j : Nat) : (s.later w).part j = s.part j := rfl
@[simp] theorem State.raiseMts_part_other (s : State) (L r : Nat) (j : Nat) : (s.raiseMts L r).part j = s.part j := rfl
@[simp] theorem State.setL1_part_other (s : State) (k L : Nat) (e : L1Line) (j : Nat) : (s.setL1 k L e).part j = s.part j := rfl
@[simp] theorem State.dropL1_part_other (s : State) (k L : Nat) (j : Nat) : (s.dropL1 k L).part j = s.part j := rfl

@[simp] theorem State.modKernel_kernel (s : State) (k : Nat) (f : Kernel → Kernel) : (s.modKernel k f).kernel k = f (s.kernel k) :=
  AMap.get_put_self _ _ _ _
theorem State.modKernel_kernel_ne (s : State) {k j : Nat} (f : Kernel → Kernel) (h : j ≠ k) : (s.modKernel k f).kernel j = s.kernel j :=
  AMap.get_put_ne _ _ _ h
@[simp] theorem State.setCore_kernel_other (s : State) (n : Nat) (c : Core) (j : Nat) : (s.setCore n c).kernel j = s.kernel j := rfl
@[simp] theorem State.modCore_kernel_other (s : State) (n : Nat) (f : Core → Core) (j : Nat) : (s.modCore n f).kernel j = s.kernel j := rfl
@[simp] theorem State.setCluster_kernel_other (s : State) (k : Nat) (c : Cluster) (j : Nat) : (s.setCluster k c).kernel j = s.kernel j := rfl
@[simp] theorem State.modCluster_kernel_other (s : State) (k : Nat) (f : Cluster → Cluster) (j : Nat) : (s.modCluster k f).kernel j = s.kernel j := rfl
@[simp] theorem State.modLayer_kernel_other (s : State) (l : Nat) (f : Layer → Layer) (j : Nat) : (s.modLayer l f).kernel j = s.kernel j := rfl
@[simp] theorem State.modTower_kernel_other (s : State) (t : Nat) (f : Tower → Tower) (j : Nat) : (s.modTower t f).kernel j = s.kernel j := rfl
@[simp] theorem State.modCtx_kernel_other (s : State) (x : Nat) (f : Context → Context) (j : Nat) : (s.modCtx x f).kernel j = s.kernel j := rfl
@[simp] theorem State.modPart_kernel_other (s : State) (p : Nat) (f : Partition → Partition) (j : Nat) : (s.modPart p f).kernel j = s.kernel j := rfl
@[simp] theorem State.modLink_kernel_other (s : State) (p : Nat) (f : Link → Link) (j : Nat) : (s.modLink p f).kernel j = s.kernel j := rfl
@[simp] theorem State.note_kernel_other (s : State) (n : Note) (j : Nat) : (s.note n).kernel j = s.kernel j := rfl
@[simp] theorem State.grant_kernel_other (s : State) (n : Nat) (v : Word) (j : Nat) : (s.grant n v).kernel j = s.kernel j := rfl
@[simp] theorem State.setAgent_kernel_other (s : State) (t L : Nat) (a : Agent) (j : Nat) : (s.setAgent t L a).kernel j = s.kernel j := rfl
@[simp] theorem State.setDir_kernel_other (s : State) (L : Nat) (d : Dir) (j : Nat) : (s.setDir L d).kernel j = s.kernel j := rfl
@[simp] theorem State.setDirSt_kernel_other (s : State) (L : Nat) (d : DirState) (j : Nat) : (s.setDirSt L d).kernel j = s.kernel j := rfl
@[simp] theorem State.askDir_kernel_other (s : State) (L : Nat) (d : DirState) (j : Nat) : (s.askDir L d).kernel j = s.kernel j := rfl
@[simp] theorem State.later_kernel_other (s : State) (w : Waits) (j : Nat) : (s.later w).kernel j = s.kernel j := rfl
@[simp] theorem State.raiseMts_kernel_other (s : State) (L r : Nat) (j : Nat) : (s.raiseMts L r).kernel j = s.kernel j := rfl
@[simp] theorem State.setL1_kernel_other (s : State) (k L : Nat) (e : L1Line) (j : Nat) : (s.setL1 k L e).kernel j = s.kernel j := rfl
@[simp] theorem State.dropL1_kernel_other (s : State) (k L : Nat) (j : Nat) : (s.dropL1 k L).kernel j = s.kernel j := rfl

@[simp] theorem State.modLink_link (s : State) (k : Nat) (f : Link → Link) : (s.modLink k f).link k = f (s.link k) :=
  AMap.get_put_self _ _ _ _
theorem State.modLink_link_ne (s : State) {k j : Nat} (f : Link → Link) (h : j ≠ k) : (s.modLink k f).link j = s.link j :=
  AMap.get_put_ne _ _ _ h
@[simp] theorem State.setCore_link_other (s : State) (n : Nat) (c : Core) (j : Nat) : (s.setCore n c).link j = s.link j := rfl
@[simp] theorem State.modCore_link_other (s : State) (n : Nat) (f : Core → Core) (j : Nat) : (s.modCore n f).link j = s.link j := rfl
@[simp] theorem State.setCluster_link_other (s : State) (k : Nat) (c : Cluster) (j : Nat) : (s.setCluster k c).link j = s.link j := rfl
@[simp] theorem State.modCluster_link_other (s : State) (k : Nat) (f : Cluster → Cluster) (j : Nat) : (s.modCluster k f).link j = s.link j := rfl
@[simp] theorem State.modLayer_link_other (s : State) (l : Nat) (f : Layer → Layer) (j : Nat) : (s.modLayer l f).link j = s.link j := rfl
@[simp] theorem State.modTower_link_other (s : State) (t : Nat) (f : Tower → Tower) (j : Nat) : (s.modTower t f).link j = s.link j := rfl
@[simp] theorem State.modCtx_link_other (s : State) (x : Nat) (f : Context → Context) (j : Nat) : (s.modCtx x f).link j = s.link j := rfl
@[simp] theorem State.modPart_link_other (s : State) (p : Nat) (f : Partition → Partition) (j : Nat) : (s.modPart p f).link j = s.link j := rfl
@[simp] theorem State.modKernel_link_other (s : State) (k : Nat) (f : Kernel → Kernel) (j : Nat) : (s.modKernel k f).link j = s.link j := rfl
@[simp] theorem State.note_link_other (s : State) (n : Note) (j : Nat) : (s.note n).link j = s.link j := rfl
@[simp] theorem State.grant_link_other (s : State) (n : Nat) (v : Word) (j : Nat) : (s.grant n v).link j = s.link j := rfl
@[simp] theorem State.setAgent_link_other (s : State) (t L : Nat) (a : Agent) (j : Nat) : (s.setAgent t L a).link j = s.link j := rfl
@[simp] theorem State.setDir_link_other (s : State) (L : Nat) (d : Dir) (j : Nat) : (s.setDir L d).link j = s.link j := rfl
@[simp] theorem State.setDirSt_link_other (s : State) (L : Nat) (d : DirState) (j : Nat) : (s.setDirSt L d).link j = s.link j := rfl
@[simp] theorem State.askDir_link_other (s : State) (L : Nat) (d : DirState) (j : Nat) : (s.askDir L d).link j = s.link j := rfl
@[simp] theorem State.later_link_other (s : State) (w : Waits) (j : Nat) : (s.later w).link j = s.link j := rfl
@[simp] theorem State.raiseMts_link_other (s : State) (L r : Nat) (j : Nat) : (s.raiseMts L r).link j = s.link j := rfl
@[simp] theorem State.setL1_link_other (s : State) (k L : Nat) (e : L1Line) (j : Nat) : (s.setL1 k L e).link j = s.link j := rfl
@[simp] theorem State.dropL1_link_other (s : State) (k L : Nat) (j : Nat) : (s.dropL1 k L).link j = s.link j := rfl

@[simp] theorem State.setCore_core (s : State) (n : Nat) (c : Core) : (s.setCore n c).core n = c := AMap.get_put_self _ _ _ _
theorem State.setCore_core_ne (s : State) {n m : Nat} (c : Core) (h : m ≠ n) : (s.setCore n c).core m = s.core m :=
  AMap.get_put_ne _ _ _ h
@[simp] theorem State.setAgent_agent (s : State) (t L : Nat) (a : Agent) : (s.setAgent t L a).agent t L = a :=
  AMap.get_put_self _ _ _ _
@[simp] theorem State.setDir_dir (s : State) (L : Nat) (d : Dir) : (s.setDir L d).dir L = d := AMap.get_put_self _ _ _ _
@[simp] theorem State.setDirSt_dir (s : State) (L : Nat) (d : DirState) : (s.setDirSt L d).dir L = { s.dir L with st := d, sent := none } :=
  AMap.get_put_self _ _ _ _
@[simp] theorem State.setL1_l1 (s : State) (k L : Nat) (e : L1Line) : (s.setL1 k L e).l1 k L = some e := by
  simp [State.setL1, State.l1]

/-! ### Fields of a core after a register is written -/

@[simp] theorem Core.wg_run (c : Core) (r : GReg) (v : Word) (l : Label) : (Core.wg c r v l).run = c.run := by
  unfold Core.wg; split
  · rfl
  · split <;> rfl
@[simp] theorem Core.wg_wait (c : Core) (r : GReg) (v : Word) (l : Label) : (Core.wg c r v l).wait = c.wait := by
  unfold Core.wg; split
  · rfl
  · split <;> rfl
@[simp] theorem Core.wg_since (c : Core) (r : GReg) (v : Word) (l : Label) : (Core.wg c r v l).since = c.since := by
  unfold Core.wg; split
  · rfl
  · split <;> rfl
@[simp] theorem Core.wg_held (c : Core) (r : GReg) (v : Word) (l : Label) : (Core.wg c r v l).held = c.held := by
  unfold Core.wg; split
  · rfl
  · split <;> rfl
@[simp] theorem Core.wg_pc (c : Core) (r : GReg) (v : Word) (l : Label) : (Core.wg c r v l).pc = c.pc := by
  unfold Core.wg; split
  · rfl
  · split <;> rfl
@[simp] theorem Core.wg_pair (c : Core) (r : GReg) (v : Word) (l : Label) : (Core.wg c r v l).pair = c.pair := by
  unfold Core.wg; split
  · rfl
  · split <;> rfl
@[simp] theorem Core.wg_frame (c : Core) (r : GReg) (v : Word) (l : Label) : (Core.wg c r v l).frame = c.frame := by
  unfold Core.wg; split
  · rfl
  · split <;> rfl
@[simp] theorem Core.wg_prefetch (c : Core) (r : GReg) (v : Word) (l : Label) : (Core.wg c r v l).prefetch = c.prefetch := by
  unfold Core.wg; split
  · rfl
  · split <;> rfl
@[simp] theorem Core.wg_p (c : Core) (r : GReg) (v : Word) (l : Label) : (Core.wg c r v l).p = c.p := by
  unfold Core.wg; split
  · rfl
  · split <;> rfl
@[simp] theorem Core.wg_pl (c : Core) (r : GReg) (v : Word) (l : Label) : (Core.wg c r v l).pl = c.pl := by
  unfold Core.wg; split
  · rfl
  · split <;> rfl
@[simp] theorem Core.wg_v (c : Core) (r : GReg) (v : Word) (l : Label) : (Core.wg c r v l).v = c.v := by
  unfold Core.wg; split
  · rfl
  · split <;> rfl
@[simp] theorem Core.wg_vl (c : Core) (r : GReg) (v : Word) (l : Label) : (Core.wg c r v l).vl = c.vl := by
  unfold Core.wg; split
  · rfl
  · split <;> rfl
@[simp] theorem Core.wg_m (c : Core) (r : GReg) (v : Word) (l : Label) : (Core.wg c r v l).m = c.m := by
  unfold Core.wg; split
  · rfl
  · split <;> rfl
@[simp] theorem Core.wg_ml (c : Core) (r : GReg) (v : Word) (l : Label) : (Core.wg c r v l).ml = c.ml := by
  unfold Core.wg; split
  · rfl
  · split <;> rfl
@[simp] theorem Core.wg_mmark (c : Core) (r : GReg) (v : Word) (l : Label) : (Core.wg c r v l).mmark = c.mmark := by
  unfold Core.wg; split
  · rfl
  · split <;> rfl
@[simp] theorem Core.wg_inbox (c : Core) (r : GReg) (v : Word) (l : Label) : (Core.wg c r v l).inbox = c.inbox := by
  unfold Core.wg; split
  · rfl
  · split <;> rfl
@[simp] theorem Core.wg_domain (c : Core) (r : GReg) (v : Word) (l : Label) : (Core.wg c r v l).domain = c.domain := by
  unfold Core.wg; split
  · rfl
  · split <;> rfl
@[simp] theorem Core.wg_ssc (c : Core) (r : GReg) (v : Word) (l : Label) : (Core.wg c r v l).ssc = c.ssc := by
  unfold Core.wg; split
  · rfl
  · split <;> rfl
@[simp] theorem Core.wg_shape (c : Core) (r : GReg) (v : Word) (l : Label) : (Core.wg c r v l).shape = c.shape := by
  unfold Core.wg; split
  · rfl
  · split <;> rfl
@[simp] theorem Core.wg_vshare (c : Core) (r : GReg) (v : Word) (l : Label) : (Core.wg c r v l).vshare = c.vshare := by
  unfold Core.wg; split
  · rfl
  · split <;> rfl
@[simp] theorem Core.wg_fflags (c : Core) (r : GReg) (v : Word) (l : Label) : (Core.wg c r v l).fflags = c.fflags := by
  unfold Core.wg; split
  · rfl
  · split <;> rfl
@[simp] theorem Core.wg_frm (c : Core) (r : GReg) (v : Word) (l : Label) : (Core.wg c r v l).frm = c.frm := by
  unfold Core.wg; split
  · rfl
  · split <;> rfl
@[simp] theorem Core.wg_srseed (c : Core) (r : GReg) (v : Word) (l : Label) : (Core.wg c r v l).srseed = c.srseed := by
  unfold Core.wg; split
  · rfl
  · split <;> rfl
@[simp] theorem Core.wg_fmta (c : Core) (r : GReg) (v : Word) (l : Label) : (Core.wg c r v l).fmta = c.fmta := by
  unfold Core.wg; split
  · rfl
  · split <;> rfl
@[simp] theorem Core.wg_fmtb (c : Core) (r : GReg) (v : Word) (l : Label) : (Core.wg c r v l).fmtb = c.fmtb := by
  unfold Core.wg; split
  · rfl
  · split <;> rfl
@[simp] theorem Core.wg_scla (c : Core) (r : GReg) (v : Word) (l : Label) : (Core.wg c r v l).scla = c.scla := by
  unfold Core.wg; split
  · rfl
  · split <;> rfl
@[simp] theorem Core.wg_sclb (c : Core) (r : GReg) (v : Word) (l : Label) : (Core.wg c r v l).sclb = c.sclb := by
  unfold Core.wg; split
  · rfl
  · split <;> rfl
@[simp] theorem Core.wg_supa (c : Core) (r : GReg) (v : Word) (l : Label) : (Core.wg c r v l).supa = c.supa := by
  unfold Core.wg; split
  · rfl
  · split <;> rfl
@[simp] theorem Core.wg_supb (c : Core) (r : GReg) (v : Word) (l : Label) : (Core.wg c r v l).supb = c.supb := by
  unfold Core.wg; split
  · rfl
  · split <;> rfl
@[simp] theorem Core.wg_mweight (c : Core) (r : GReg) (v : Word) (l : Label) : (Core.wg c r v l).mweight = c.mweight := by
  unfold Core.wg; split
  · rfl
  · split <;> rfl
@[simp] theorem Core.wg_lflags (c : Core) (r : GReg) (v : Word) (l : Label) : (Core.wg c r v l).lflags = c.lflags := by
  unfold Core.wg; split
  · rfl
  · split <;> rfl
@[simp] theorem Core.wg_focus (c : Core) (r : GReg) (v : Word) (l : Label) : (Core.wg c r v l).focus = c.focus := by
  unfold Core.wg; split
  · rfl
  · split <;> rfl
@[simp] theorem Core.wg_brbuf (c : Core) (r : GReg) (v : Word) (l : Label) : (Core.wg c r v l).brbuf = c.brbuf := by
  unfold Core.wg; split
  · rfl
  · split <;> rfl
@[simp] theorem Core.wg_brptr (c : Core) (r : GReg) (v : Word) (l : Label) : (Core.wg c r v l).brptr = c.brptr := by
  unfold Core.wg; split
  · rfl
  · split <;> rfl
@[simp] theorem Core.wg_bwbuf (c : Core) (r : GReg) (v : Word) (l : Label) : (Core.wg c r v l).bwbuf = c.bwbuf := by
  unfold Core.wg; split
  · rfl
  · split <;> rfl
@[simp] theorem Core.wg_bwptr (c : Core) (r : GReg) (v : Word) (l : Label) : (Core.wg c r v l).bwptr = c.bwptr := by
  unfold Core.wg; split
  · rfl
  · split <;> rfl
@[simp] theorem Core.wg_brl (c : Core) (r : GReg) (v : Word) (l : Label) : (Core.wg c r v l).brl = c.brl := by
  unfold Core.wg; split
  · rfl
  · split <;> rfl
@[simp] theorem Core.wg_bwl (c : Core) (r : GReg) (v : Word) (l : Label) : (Core.wg c r v l).bwl = c.bwl := by
  unfold Core.wg; split
  · rfl
  · split <;> rfl
@[simp] theorem Core.wg_epc (c : Core) (r : GReg) (v : Word) (l : Label) : (Core.wg c r v l).epc = c.epc := by
  unfold Core.wg; split
  · rfl
  · split <;> rfl
@[simp] theorem Core.wg_ecause (c : Core) (r : GReg) (v : Word) (l : Label) : (Core.wg c r v l).ecause = c.ecause := by
  unfold Core.wg; split
  · rfl
  · split <;> rfl
@[simp] theorem Core.wg_einfo (c : Core) (r : GReg) (v : Word) (l : Label) : (Core.wg c r v l).einfo = c.einfo := by
  unfold Core.wg; split
  · rfl
  · split <;> rfl
@[simp] theorem Core.wg_status (c : Core) (r : GReg) (v : Word) (l : Label) : (Core.wg c r v l).status = c.status := by
  unfold Core.wg; split
  · rfl
  · split <;> rfl
@[simp] theorem Core.wg_preempt (c : Core) (r : GReg) (v : Word) (l : Label) : (Core.wg c r v l).preempt = c.preempt := by
  unfold Core.wg; split
  · rfl
  · split <;> rfl
@[simp] theorem Core.wg_preemptSince (c : Core) (r : GReg) (v : Word) (l : Label) : (Core.wg c r v l).preemptSince = c.preemptSince := by
  unfold Core.wg; split
  · rfl
  · split <;> rfl
@[simp] theorem Core.wg_sb (c : Core) (r : GReg) (v : Word) (l : Label) : (Core.wg c r v l).sb = c.sb := by
  unfold Core.wg; split
  · rfl
  · split <;> rfl
@[simp] theorem Core.wg_nt (c : Core) (r : GReg) (v : Word) (l : Label) : (Core.wg c r v l).nt = c.nt := by
  unfold Core.wg; split
  · rfl
  · split <;> rfl
@[simp] theorem Core.wg_vq (c : Core) (r : GReg) (v : Word) (l : Label) : (Core.wg c r v l).vq = c.vq := by
  unfold Core.wg; split
  · rfl
  · split <;> rfl
@[simp] theorem Core.wg_mq (c : Core) (r : GReg) (v : Word) (l : Label) : (Core.wg c r v l).mq = c.mq := by
  unfold Core.wg; split
  · rfl
  · split <;> rfl
@[simp] theorem Core.wg_cq (c : Core) (r : GReg) (v : Word) (l : Label) : (Core.wg c r v l).cq = c.cq := by
  unfold Core.wg; split
  · rfl
  · split <;> rfl
@[simp] theorem Core.wg_cfail (c : Core) (r : GReg) (v : Word) (l : Label) : (Core.wg c r v l).cfail = c.cfail := by
  unfold Core.wg; split
  · rfl
  · split <;> rfl
@[simp] theorem Core.wg_paused (c : Core) (r : GReg) (v : Word) (l : Label) : (Core.wg c r v l).paused = c.paused := by
  unfold Core.wg; split
  · rfl
  · split <;> rfl
@[simp] theorem Core.wg_seen (c : Core) (r : GReg) (v : Word) (l : Label) : (Core.wg c r v l).seen = c.seen := by
  unfold Core.wg; split
  · rfl
  · split <;> rfl
@[simp] theorem Core.wg_arrival (c : Core) (r : GReg) (v : Word) (l : Label) : (Core.wg c r v l).arrival = c.arrival := by
  unfold Core.wg; split
  · rfl
  · split <;> rfl
@[simp] theorem Core.wg_arr (c : Core) (r : GReg) (v : Word) (l : Label) : (Core.wg c r v l).arr = c.arr := by
  unfold Core.wg; split
  · rfl
  · split <;> rfl
@[simp] theorem Core.wg_group (c : Core) (r : GReg) (v : Word) (l : Label) : (Core.wg c r v l).group = c.group := by
  unfold Core.wg; split
  · rfl
  · split <;> rfl
@[simp] theorem Core.wg_pts (c : Core) (r : GReg) (v : Word) (l : Label) : (Core.wg c r v l).pts = c.pts := by
  unfold Core.wg; split
  · rfl
  · split <;> rfl
@[simp] theorem Core.wg_va (c : Core) (r : GReg) (v : Word) (l : Label) : (Core.wg c r v l).va = c.va := by
  unfold Core.wg; split
  · rfl
  · split <;> rfl
@[simp] theorem Core.wg_vstarve (c : Core) (r : GReg) (v : Word) (l : Label) : (Core.wg c r v l).vstarve = c.vstarve := by
  unfold Core.wg; split
  · rfl
  · split <;> rfl
@[simp] theorem Core.wg_sfua (c : Core) (r : GReg) (v : Word) (l : Label) : (Core.wg c r v l).sfua = c.sfua := by
  unfold Core.wg; split
  · rfl
  · split <;> rfl
@[simp] theorem Core.wg_sfustarve (c : Core) (r : GReg) (v : Word) (l : Label) : (Core.wg c r v l).sfustarve = c.sfustarve := by
  unfold Core.wg; split
  · rfl
  · split <;> rfl
@[simp] theorem Core.wg_recorded (c : Core) (r : GReg) (v : Word) (l : Label) : (Core.wg c r v l).recorded = c.recorded := by
  unfold Core.wg; split
  · rfl
  · split <;> rfl
@[simp] theorem Core.wg_formed (c : Core) (r : GReg) (v : Word) (l : Label) : (Core.wg c r v l).formed = c.formed := by
  unfold Core.wg; split
  · rfl
  · split <;> rfl

@[simp] theorem Core.wp_run (c : Core) (n : PReg) (v : Pred) : (Core.wp c n v).run = c.run := by
  unfold Core.wp; split <;> rfl
@[simp] theorem Core.wp_wait (c : Core) (n : PReg) (v : Pred) : (Core.wp c n v).wait = c.wait := by
  unfold Core.wp; split <;> rfl
@[simp] theorem Core.wp_since (c : Core) (n : PReg) (v : Pred) : (Core.wp c n v).since = c.since := by
  unfold Core.wp; split <;> rfl
@[simp] theorem Core.wp_held (c : Core) (n : PReg) (v : Pred) : (Core.wp c n v).held = c.held := by
  unfold Core.wp; split <;> rfl
@[simp] theorem Core.wp_pc (c : Core) (n : PReg) (v : Pred) : (Core.wp c n v).pc = c.pc := by
  unfold Core.wp; split <;> rfl
@[simp] theorem Core.wp_pair (c : Core) (n : PReg) (v : Pred) : (Core.wp c n v).pair = c.pair := by
  unfold Core.wp; split <;> rfl
@[simp] theorem Core.wp_frame (c : Core) (n : PReg) (v : Pred) : (Core.wp c n v).frame = c.frame := by
  unfold Core.wp; split <;> rfl
@[simp] theorem Core.wp_prefetch (c : Core) (n : PReg) (v : Pred) : (Core.wp c n v).prefetch = c.prefetch := by
  unfold Core.wp; split <;> rfl
@[simp] theorem Core.wp_g (c : Core) (n : PReg) (v : Pred) : (Core.wp c n v).g = c.g := by
  unfold Core.wp; split <;> rfl
@[simp] theorem Core.wp_gl (c : Core) (n : PReg) (v : Pred) : (Core.wp c n v).gl = c.gl := by
  unfold Core.wp; split <;> rfl
@[simp] theorem Core.wp_sg (c : Core) (n : PReg) (v : Pred) : (Core.wp c n v).sg = c.sg := by
  unfold Core.wp; split <;> rfl
@[simp] theorem Core.wp_sgl (c : Core) (n : PReg) (v : Pred) : (Core.wp c n v).sgl = c.sgl := by
  unfold Core.wp; split <;> rfl
@[simp] theorem Core.wp_pl (c : Core) (n : PReg) (v : Pred) : (Core.wp c n v).pl = c.pl := by
  unfold Core.wp; split <;> rfl
@[simp] theorem Core.wp_v (c : Core) (n : PReg) (v : Pred) : (Core.wp c n v).v = c.v := by
  unfold Core.wp; split <;> rfl
@[simp] theorem Core.wp_vl (c : Core) (n : PReg) (v : Pred) : (Core.wp c n v).vl = c.vl := by
  unfold Core.wp; split <;> rfl
@[simp] theorem Core.wp_m (c : Core) (n : PReg) (v : Pred) : (Core.wp c n v).m = c.m := by
  unfold Core.wp; split <;> rfl
@[simp] theorem Core.wp_ml (c : Core) (n : PReg) (v : Pred) : (Core.wp c n v).ml = c.ml := by
  unfold Core.wp; split <;> rfl
@[simp] theorem Core.wp_mmark (c : Core) (n : PReg) (v : Pred) : (Core.wp c n v).mmark = c.mmark := by
  unfold Core.wp; split <;> rfl
@[simp] theorem Core.wp_inbox (c : Core) (n : PReg) (v : Pred) : (Core.wp c n v).inbox = c.inbox := by
  unfold Core.wp; split <;> rfl
@[simp] theorem Core.wp_domain (c : Core) (n : PReg) (v : Pred) : (Core.wp c n v).domain = c.domain := by
  unfold Core.wp; split <;> rfl
@[simp] theorem Core.wp_ssc (c : Core) (n : PReg) (v : Pred) : (Core.wp c n v).ssc = c.ssc := by
  unfold Core.wp; split <;> rfl
@[simp] theorem Core.wp_shape (c : Core) (n : PReg) (v : Pred) : (Core.wp c n v).shape = c.shape := by
  unfold Core.wp; split <;> rfl
@[simp] theorem Core.wp_vshare (c : Core) (n : PReg) (v : Pred) : (Core.wp c n v).vshare = c.vshare := by
  unfold Core.wp; split <;> rfl
@[simp] theorem Core.wp_fflags (c : Core) (n : PReg) (v : Pred) : (Core.wp c n v).fflags = c.fflags := by
  unfold Core.wp; split <;> rfl
@[simp] theorem Core.wp_frm (c : Core) (n : PReg) (v : Pred) : (Core.wp c n v).frm = c.frm := by
  unfold Core.wp; split <;> rfl
@[simp] theorem Core.wp_srseed (c : Core) (n : PReg) (v : Pred) : (Core.wp c n v).srseed = c.srseed := by
  unfold Core.wp; split <;> rfl
@[simp] theorem Core.wp_fmta (c : Core) (n : PReg) (v : Pred) : (Core.wp c n v).fmta = c.fmta := by
  unfold Core.wp; split <;> rfl
@[simp] theorem Core.wp_fmtb (c : Core) (n : PReg) (v : Pred) : (Core.wp c n v).fmtb = c.fmtb := by
  unfold Core.wp; split <;> rfl
@[simp] theorem Core.wp_scla (c : Core) (n : PReg) (v : Pred) : (Core.wp c n v).scla = c.scla := by
  unfold Core.wp; split <;> rfl
@[simp] theorem Core.wp_sclb (c : Core) (n : PReg) (v : Pred) : (Core.wp c n v).sclb = c.sclb := by
  unfold Core.wp; split <;> rfl
@[simp] theorem Core.wp_supa (c : Core) (n : PReg) (v : Pred) : (Core.wp c n v).supa = c.supa := by
  unfold Core.wp; split <;> rfl
@[simp] theorem Core.wp_supb (c : Core) (n : PReg) (v : Pred) : (Core.wp c n v).supb = c.supb := by
  unfold Core.wp; split <;> rfl
@[simp] theorem Core.wp_mweight (c : Core) (n : PReg) (v : Pred) : (Core.wp c n v).mweight = c.mweight := by
  unfold Core.wp; split <;> rfl
@[simp] theorem Core.wp_lflags (c : Core) (n : PReg) (v : Pred) : (Core.wp c n v).lflags = c.lflags := by
  unfold Core.wp; split <;> rfl
@[simp] theorem Core.wp_focus (c : Core) (n : PReg) (v : Pred) : (Core.wp c n v).focus = c.focus := by
  unfold Core.wp; split <;> rfl
@[simp] theorem Core.wp_brbuf (c : Core) (n : PReg) (v : Pred) : (Core.wp c n v).brbuf = c.brbuf := by
  unfold Core.wp; split <;> rfl
@[simp] theorem Core.wp_brptr (c : Core) (n : PReg) (v : Pred) : (Core.wp c n v).brptr = c.brptr := by
  unfold Core.wp; split <;> rfl
@[simp] theorem Core.wp_bwbuf (c : Core) (n : PReg) (v : Pred) : (Core.wp c n v).bwbuf = c.bwbuf := by
  unfold Core.wp; split <;> rfl
@[simp] theorem Core.wp_bwptr (c : Core) (n : PReg) (v : Pred) : (Core.wp c n v).bwptr = c.bwptr := by
  unfold Core.wp; split <;> rfl
@[simp] theorem Core.wp_brl (c : Core) (n : PReg) (v : Pred) : (Core.wp c n v).brl = c.brl := by
  unfold Core.wp; split <;> rfl
@[simp] theorem Core.wp_bwl (c : Core) (n : PReg) (v : Pred) : (Core.wp c n v).bwl = c.bwl := by
  unfold Core.wp; split <;> rfl
@[simp] theorem Core.wp_epc (c : Core) (n : PReg) (v : Pred) : (Core.wp c n v).epc = c.epc := by
  unfold Core.wp; split <;> rfl
@[simp] theorem Core.wp_ecause (c : Core) (n : PReg) (v : Pred) : (Core.wp c n v).ecause = c.ecause := by
  unfold Core.wp; split <;> rfl
@[simp] theorem Core.wp_einfo (c : Core) (n : PReg) (v : Pred) : (Core.wp c n v).einfo = c.einfo := by
  unfold Core.wp; split <;> rfl
@[simp] theorem Core.wp_status (c : Core) (n : PReg) (v : Pred) : (Core.wp c n v).status = c.status := by
  unfold Core.wp; split <;> rfl
@[simp] theorem Core.wp_preempt (c : Core) (n : PReg) (v : Pred) : (Core.wp c n v).preempt = c.preempt := by
  unfold Core.wp; split <;> rfl
@[simp] theorem Core.wp_preemptSince (c : Core) (n : PReg) (v : Pred) : (Core.wp c n v).preemptSince = c.preemptSince := by
  unfold Core.wp; split <;> rfl
@[simp] theorem Core.wp_sb (c : Core) (n : PReg) (v : Pred) : (Core.wp c n v).sb = c.sb := by
  unfold Core.wp; split <;> rfl
@[simp] theorem Core.wp_nt (c : Core) (n : PReg) (v : Pred) : (Core.wp c n v).nt = c.nt := by
  unfold Core.wp; split <;> rfl
@[simp] theorem Core.wp_vq (c : Core) (n : PReg) (v : Pred) : (Core.wp c n v).vq = c.vq := by
  unfold Core.wp; split <;> rfl
@[simp] theorem Core.wp_mq (c : Core) (n : PReg) (v : Pred) : (Core.wp c n v).mq = c.mq := by
  unfold Core.wp; split <;> rfl
@[simp] theorem Core.wp_cq (c : Core) (n : PReg) (v : Pred) : (Core.wp c n v).cq = c.cq := by
  unfold Core.wp; split <;> rfl
@[simp] theorem Core.wp_cfail (c : Core) (n : PReg) (v : Pred) : (Core.wp c n v).cfail = c.cfail := by
  unfold Core.wp; split <;> rfl
@[simp] theorem Core.wp_paused (c : Core) (n : PReg) (v : Pred) : (Core.wp c n v).paused = c.paused := by
  unfold Core.wp; split <;> rfl
@[simp] theorem Core.wp_seen (c : Core) (n : PReg) (v : Pred) : (Core.wp c n v).seen = c.seen := by
  unfold Core.wp; split <;> rfl
@[simp] theorem Core.wp_arrival (c : Core) (n : PReg) (v : Pred) : (Core.wp c n v).arrival = c.arrival := by
  unfold Core.wp; split <;> rfl
@[simp] theorem Core.wp_arr (c : Core) (n : PReg) (v : Pred) : (Core.wp c n v).arr = c.arr := by
  unfold Core.wp; split <;> rfl
@[simp] theorem Core.wp_group (c : Core) (n : PReg) (v : Pred) : (Core.wp c n v).group = c.group := by
  unfold Core.wp; split <;> rfl
@[simp] theorem Core.wp_pts (c : Core) (n : PReg) (v : Pred) : (Core.wp c n v).pts = c.pts := by
  unfold Core.wp; split <;> rfl
@[simp] theorem Core.wp_va (c : Core) (n : PReg) (v : Pred) : (Core.wp c n v).va = c.va := by
  unfold Core.wp; split <;> rfl
@[simp] theorem Core.wp_vstarve (c : Core) (n : PReg) (v : Pred) : (Core.wp c n v).vstarve = c.vstarve := by
  unfold Core.wp; split <;> rfl
@[simp] theorem Core.wp_sfua (c : Core) (n : PReg) (v : Pred) : (Core.wp c n v).sfua = c.sfua := by
  unfold Core.wp; split <;> rfl
@[simp] theorem Core.wp_sfustarve (c : Core) (n : PReg) (v : Pred) : (Core.wp c n v).sfustarve = c.sfustarve := by
  unfold Core.wp; split <;> rfl
@[simp] theorem Core.wp_recorded (c : Core) (n : PReg) (v : Pred) : (Core.wp c n v).recorded = c.recorded := by
  unfold Core.wp; split <;> rfl
@[simp] theorem Core.wp_formed (c : Core) (n : PReg) (v : Pred) : (Core.wp c n v).formed = c.formed := by
  unfold Core.wp; split <;> rfl

@[simp] theorem Core.wpl_run (c : Core) (n : PReg) (l : Label) : (Core.wpl c n l).run = c.run := by
  unfold Core.wpl; split <;> rfl
@[simp] theorem Core.wpl_wait (c : Core) (n : PReg) (l : Label) : (Core.wpl c n l).wait = c.wait := by
  unfold Core.wpl; split <;> rfl
@[simp] theorem Core.wpl_since (c : Core) (n : PReg) (l : Label) : (Core.wpl c n l).since = c.since := by
  unfold Core.wpl; split <;> rfl
@[simp] theorem Core.wpl_held (c : Core) (n : PReg) (l : Label) : (Core.wpl c n l).held = c.held := by
  unfold Core.wpl; split <;> rfl
@[simp] theorem Core.wpl_pc (c : Core) (n : PReg) (l : Label) : (Core.wpl c n l).pc = c.pc := by
  unfold Core.wpl; split <;> rfl
@[simp] theorem Core.wpl_pair (c : Core) (n : PReg) (l : Label) : (Core.wpl c n l).pair = c.pair := by
  unfold Core.wpl; split <;> rfl
@[simp] theorem Core.wpl_frame (c : Core) (n : PReg) (l : Label) : (Core.wpl c n l).frame = c.frame := by
  unfold Core.wpl; split <;> rfl
@[simp] theorem Core.wpl_prefetch (c : Core) (n : PReg) (l : Label) : (Core.wpl c n l).prefetch = c.prefetch := by
  unfold Core.wpl; split <;> rfl
@[simp] theorem Core.wpl_g (c : Core) (n : PReg) (l : Label) : (Core.wpl c n l).g = c.g := by
  unfold Core.wpl; split <;> rfl
@[simp] theorem Core.wpl_gl (c : Core) (n : PReg) (l : Label) : (Core.wpl c n l).gl = c.gl := by
  unfold Core.wpl; split <;> rfl
@[simp] theorem Core.wpl_sg (c : Core) (n : PReg) (l : Label) : (Core.wpl c n l).sg = c.sg := by
  unfold Core.wpl; split <;> rfl
@[simp] theorem Core.wpl_sgl (c : Core) (n : PReg) (l : Label) : (Core.wpl c n l).sgl = c.sgl := by
  unfold Core.wpl; split <;> rfl
@[simp] theorem Core.wpl_p (c : Core) (n : PReg) (l : Label) : (Core.wpl c n l).p = c.p := by
  unfold Core.wpl; split <;> rfl
@[simp] theorem Core.wpl_v (c : Core) (n : PReg) (l : Label) : (Core.wpl c n l).v = c.v := by
  unfold Core.wpl; split <;> rfl
@[simp] theorem Core.wpl_vl (c : Core) (n : PReg) (l : Label) : (Core.wpl c n l).vl = c.vl := by
  unfold Core.wpl; split <;> rfl
@[simp] theorem Core.wpl_m (c : Core) (n : PReg) (l : Label) : (Core.wpl c n l).m = c.m := by
  unfold Core.wpl; split <;> rfl
@[simp] theorem Core.wpl_ml (c : Core) (n : PReg) (l : Label) : (Core.wpl c n l).ml = c.ml := by
  unfold Core.wpl; split <;> rfl
@[simp] theorem Core.wpl_mmark (c : Core) (n : PReg) (l : Label) : (Core.wpl c n l).mmark = c.mmark := by
  unfold Core.wpl; split <;> rfl
@[simp] theorem Core.wpl_inbox (c : Core) (n : PReg) (l : Label) : (Core.wpl c n l).inbox = c.inbox := by
  unfold Core.wpl; split <;> rfl
@[simp] theorem Core.wpl_domain (c : Core) (n : PReg) (l : Label) : (Core.wpl c n l).domain = c.domain := by
  unfold Core.wpl; split <;> rfl
@[simp] theorem Core.wpl_ssc (c : Core) (n : PReg) (l : Label) : (Core.wpl c n l).ssc = c.ssc := by
  unfold Core.wpl; split <;> rfl
@[simp] theorem Core.wpl_shape (c : Core) (n : PReg) (l : Label) : (Core.wpl c n l).shape = c.shape := by
  unfold Core.wpl; split <;> rfl
@[simp] theorem Core.wpl_vshare (c : Core) (n : PReg) (l : Label) : (Core.wpl c n l).vshare = c.vshare := by
  unfold Core.wpl; split <;> rfl
@[simp] theorem Core.wpl_fflags (c : Core) (n : PReg) (l : Label) : (Core.wpl c n l).fflags = c.fflags := by
  unfold Core.wpl; split <;> rfl
@[simp] theorem Core.wpl_frm (c : Core) (n : PReg) (l : Label) : (Core.wpl c n l).frm = c.frm := by
  unfold Core.wpl; split <;> rfl
@[simp] theorem Core.wpl_srseed (c : Core) (n : PReg) (l : Label) : (Core.wpl c n l).srseed = c.srseed := by
  unfold Core.wpl; split <;> rfl
@[simp] theorem Core.wpl_fmta (c : Core) (n : PReg) (l : Label) : (Core.wpl c n l).fmta = c.fmta := by
  unfold Core.wpl; split <;> rfl
@[simp] theorem Core.wpl_fmtb (c : Core) (n : PReg) (l : Label) : (Core.wpl c n l).fmtb = c.fmtb := by
  unfold Core.wpl; split <;> rfl
@[simp] theorem Core.wpl_scla (c : Core) (n : PReg) (l : Label) : (Core.wpl c n l).scla = c.scla := by
  unfold Core.wpl; split <;> rfl
@[simp] theorem Core.wpl_sclb (c : Core) (n : PReg) (l : Label) : (Core.wpl c n l).sclb = c.sclb := by
  unfold Core.wpl; split <;> rfl
@[simp] theorem Core.wpl_supa (c : Core) (n : PReg) (l : Label) : (Core.wpl c n l).supa = c.supa := by
  unfold Core.wpl; split <;> rfl
@[simp] theorem Core.wpl_supb (c : Core) (n : PReg) (l : Label) : (Core.wpl c n l).supb = c.supb := by
  unfold Core.wpl; split <;> rfl
@[simp] theorem Core.wpl_mweight (c : Core) (n : PReg) (l : Label) : (Core.wpl c n l).mweight = c.mweight := by
  unfold Core.wpl; split <;> rfl
@[simp] theorem Core.wpl_lflags (c : Core) (n : PReg) (l : Label) : (Core.wpl c n l).lflags = c.lflags := by
  unfold Core.wpl; split <;> rfl
@[simp] theorem Core.wpl_focus (c : Core) (n : PReg) (l : Label) : (Core.wpl c n l).focus = c.focus := by
  unfold Core.wpl; split <;> rfl
@[simp] theorem Core.wpl_brbuf (c : Core) (n : PReg) (l : Label) : (Core.wpl c n l).brbuf = c.brbuf := by
  unfold Core.wpl; split <;> rfl
@[simp] theorem Core.wpl_brptr (c : Core) (n : PReg) (l : Label) : (Core.wpl c n l).brptr = c.brptr := by
  unfold Core.wpl; split <;> rfl
@[simp] theorem Core.wpl_bwbuf (c : Core) (n : PReg) (l : Label) : (Core.wpl c n l).bwbuf = c.bwbuf := by
  unfold Core.wpl; split <;> rfl
@[simp] theorem Core.wpl_bwptr (c : Core) (n : PReg) (l : Label) : (Core.wpl c n l).bwptr = c.bwptr := by
  unfold Core.wpl; split <;> rfl
@[simp] theorem Core.wpl_brl (c : Core) (n : PReg) (l : Label) : (Core.wpl c n l).brl = c.brl := by
  unfold Core.wpl; split <;> rfl
@[simp] theorem Core.wpl_bwl (c : Core) (n : PReg) (l : Label) : (Core.wpl c n l).bwl = c.bwl := by
  unfold Core.wpl; split <;> rfl
@[simp] theorem Core.wpl_epc (c : Core) (n : PReg) (l : Label) : (Core.wpl c n l).epc = c.epc := by
  unfold Core.wpl; split <;> rfl
@[simp] theorem Core.wpl_ecause (c : Core) (n : PReg) (l : Label) : (Core.wpl c n l).ecause = c.ecause := by
  unfold Core.wpl; split <;> rfl
@[simp] theorem Core.wpl_einfo (c : Core) (n : PReg) (l : Label) : (Core.wpl c n l).einfo = c.einfo := by
  unfold Core.wpl; split <;> rfl
@[simp] theorem Core.wpl_status (c : Core) (n : PReg) (l : Label) : (Core.wpl c n l).status = c.status := by
  unfold Core.wpl; split <;> rfl
@[simp] theorem Core.wpl_preempt (c : Core) (n : PReg) (l : Label) : (Core.wpl c n l).preempt = c.preempt := by
  unfold Core.wpl; split <;> rfl
@[simp] theorem Core.wpl_preemptSince (c : Core) (n : PReg) (l : Label) : (Core.wpl c n l).preemptSince = c.preemptSince := by
  unfold Core.wpl; split <;> rfl
@[simp] theorem Core.wpl_sb (c : Core) (n : PReg) (l : Label) : (Core.wpl c n l).sb = c.sb := by
  unfold Core.wpl; split <;> rfl
@[simp] theorem Core.wpl_nt (c : Core) (n : PReg) (l : Label) : (Core.wpl c n l).nt = c.nt := by
  unfold Core.wpl; split <;> rfl
@[simp] theorem Core.wpl_vq (c : Core) (n : PReg) (l : Label) : (Core.wpl c n l).vq = c.vq := by
  unfold Core.wpl; split <;> rfl
@[simp] theorem Core.wpl_mq (c : Core) (n : PReg) (l : Label) : (Core.wpl c n l).mq = c.mq := by
  unfold Core.wpl; split <;> rfl
@[simp] theorem Core.wpl_cq (c : Core) (n : PReg) (l : Label) : (Core.wpl c n l).cq = c.cq := by
  unfold Core.wpl; split <;> rfl
@[simp] theorem Core.wpl_cfail (c : Core) (n : PReg) (l : Label) : (Core.wpl c n l).cfail = c.cfail := by
  unfold Core.wpl; split <;> rfl
@[simp] theorem Core.wpl_paused (c : Core) (n : PReg) (l : Label) : (Core.wpl c n l).paused = c.paused := by
  unfold Core.wpl; split <;> rfl
@[simp] theorem Core.wpl_seen (c : Core) (n : PReg) (l : Label) : (Core.wpl c n l).seen = c.seen := by
  unfold Core.wpl; split <;> rfl
@[simp] theorem Core.wpl_arrival (c : Core) (n : PReg) (l : Label) : (Core.wpl c n l).arrival = c.arrival := by
  unfold Core.wpl; split <;> rfl
@[simp] theorem Core.wpl_arr (c : Core) (n : PReg) (l : Label) : (Core.wpl c n l).arr = c.arr := by
  unfold Core.wpl; split <;> rfl
@[simp] theorem Core.wpl_group (c : Core) (n : PReg) (l : Label) : (Core.wpl c n l).group = c.group := by
  unfold Core.wpl; split <;> rfl
@[simp] theorem Core.wpl_pts (c : Core) (n : PReg) (l : Label) : (Core.wpl c n l).pts = c.pts := by
  unfold Core.wpl; split <;> rfl
@[simp] theorem Core.wpl_va (c : Core) (n : PReg) (l : Label) : (Core.wpl c n l).va = c.va := by
  unfold Core.wpl; split <;> rfl
@[simp] theorem Core.wpl_vstarve (c : Core) (n : PReg) (l : Label) : (Core.wpl c n l).vstarve = c.vstarve := by
  unfold Core.wpl; split <;> rfl
@[simp] theorem Core.wpl_sfua (c : Core) (n : PReg) (l : Label) : (Core.wpl c n l).sfua = c.sfua := by
  unfold Core.wpl; split <;> rfl
@[simp] theorem Core.wpl_sfustarve (c : Core) (n : PReg) (l : Label) : (Core.wpl c n l).sfustarve = c.sfustarve := by
  unfold Core.wpl; split <;> rfl
@[simp] theorem Core.wpl_recorded (c : Core) (n : PReg) (l : Label) : (Core.wpl c n l).recorded = c.recorded := by
  unfold Core.wpl; split <;> rfl
@[simp] theorem Core.wpl_formed (c : Core) (n : PReg) (l : Label) : (Core.wpl c n l).formed = c.formed := by
  unfold Core.wpl; split <;> rfl

@[simp] theorem Core.wv_run (c : Core) (n : VReg) (t : Tile) : (Core.wv c n t).run = c.run := rfl
@[simp] theorem Core.wv_wait (c : Core) (n : VReg) (t : Tile) : (Core.wv c n t).wait = c.wait := rfl
@[simp] theorem Core.wv_since (c : Core) (n : VReg) (t : Tile) : (Core.wv c n t).since = c.since := rfl
@[simp] theorem Core.wv_held (c : Core) (n : VReg) (t : Tile) : (Core.wv c n t).held = c.held := rfl
@[simp] theorem Core.wv_pc (c : Core) (n : VReg) (t : Tile) : (Core.wv c n t).pc = c.pc := rfl
@[simp] theorem Core.wv_pair (c : Core) (n : VReg) (t : Tile) : (Core.wv c n t).pair = c.pair := rfl
@[simp] theorem Core.wv_frame (c : Core) (n : VReg) (t : Tile) : (Core.wv c n t).frame = c.frame := rfl
@[simp] theorem Core.wv_prefetch (c : Core) (n : VReg) (t : Tile) : (Core.wv c n t).prefetch = c.prefetch := rfl
@[simp] theorem Core.wv_g (c : Core) (n : VReg) (t : Tile) : (Core.wv c n t).g = c.g := rfl
@[simp] theorem Core.wv_gl (c : Core) (n : VReg) (t : Tile) : (Core.wv c n t).gl = c.gl := rfl
@[simp] theorem Core.wv_sg (c : Core) (n : VReg) (t : Tile) : (Core.wv c n t).sg = c.sg := rfl
@[simp] theorem Core.wv_sgl (c : Core) (n : VReg) (t : Tile) : (Core.wv c n t).sgl = c.sgl := rfl
@[simp] theorem Core.wv_p (c : Core) (n : VReg) (t : Tile) : (Core.wv c n t).p = c.p := rfl
@[simp] theorem Core.wv_pl (c : Core) (n : VReg) (t : Tile) : (Core.wv c n t).pl = c.pl := rfl
@[simp] theorem Core.wv_vl (c : Core) (n : VReg) (t : Tile) : (Core.wv c n t).vl = c.vl := rfl
@[simp] theorem Core.wv_m (c : Core) (n : VReg) (t : Tile) : (Core.wv c n t).m = c.m := rfl
@[simp] theorem Core.wv_ml (c : Core) (n : VReg) (t : Tile) : (Core.wv c n t).ml = c.ml := rfl
@[simp] theorem Core.wv_mmark (c : Core) (n : VReg) (t : Tile) : (Core.wv c n t).mmark = c.mmark := rfl
@[simp] theorem Core.wv_inbox (c : Core) (n : VReg) (t : Tile) : (Core.wv c n t).inbox = c.inbox := rfl
@[simp] theorem Core.wv_domain (c : Core) (n : VReg) (t : Tile) : (Core.wv c n t).domain = c.domain := rfl
@[simp] theorem Core.wv_ssc (c : Core) (n : VReg) (t : Tile) : (Core.wv c n t).ssc = c.ssc := rfl
@[simp] theorem Core.wv_shape (c : Core) (n : VReg) (t : Tile) : (Core.wv c n t).shape = c.shape := rfl
@[simp] theorem Core.wv_vshare (c : Core) (n : VReg) (t : Tile) : (Core.wv c n t).vshare = c.vshare := rfl
@[simp] theorem Core.wv_fflags (c : Core) (n : VReg) (t : Tile) : (Core.wv c n t).fflags = c.fflags := rfl
@[simp] theorem Core.wv_frm (c : Core) (n : VReg) (t : Tile) : (Core.wv c n t).frm = c.frm := rfl
@[simp] theorem Core.wv_srseed (c : Core) (n : VReg) (t : Tile) : (Core.wv c n t).srseed = c.srseed := rfl
@[simp] theorem Core.wv_fmta (c : Core) (n : VReg) (t : Tile) : (Core.wv c n t).fmta = c.fmta := rfl
@[simp] theorem Core.wv_fmtb (c : Core) (n : VReg) (t : Tile) : (Core.wv c n t).fmtb = c.fmtb := rfl
@[simp] theorem Core.wv_scla (c : Core) (n : VReg) (t : Tile) : (Core.wv c n t).scla = c.scla := rfl
@[simp] theorem Core.wv_sclb (c : Core) (n : VReg) (t : Tile) : (Core.wv c n t).sclb = c.sclb := rfl
@[simp] theorem Core.wv_supa (c : Core) (n : VReg) (t : Tile) : (Core.wv c n t).supa = c.supa := rfl
@[simp] theorem Core.wv_supb (c : Core) (n : VReg) (t : Tile) : (Core.wv c n t).supb = c.supb := rfl
@[simp] theorem Core.wv_mweight (c : Core) (n : VReg) (t : Tile) : (Core.wv c n t).mweight = c.mweight := rfl
@[simp] theorem Core.wv_lflags (c : Core) (n : VReg) (t : Tile) : (Core.wv c n t).lflags = c.lflags := rfl
@[simp] theorem Core.wv_focus (c : Core) (n : VReg) (t : Tile) : (Core.wv c n t).focus = c.focus := rfl
@[simp] theorem Core.wv_brbuf (c : Core) (n : VReg) (t : Tile) : (Core.wv c n t).brbuf = c.brbuf := rfl
@[simp] theorem Core.wv_brptr (c : Core) (n : VReg) (t : Tile) : (Core.wv c n t).brptr = c.brptr := rfl
@[simp] theorem Core.wv_bwbuf (c : Core) (n : VReg) (t : Tile) : (Core.wv c n t).bwbuf = c.bwbuf := rfl
@[simp] theorem Core.wv_bwptr (c : Core) (n : VReg) (t : Tile) : (Core.wv c n t).bwptr = c.bwptr := rfl
@[simp] theorem Core.wv_brl (c : Core) (n : VReg) (t : Tile) : (Core.wv c n t).brl = c.brl := rfl
@[simp] theorem Core.wv_bwl (c : Core) (n : VReg) (t : Tile) : (Core.wv c n t).bwl = c.bwl := rfl
@[simp] theorem Core.wv_epc (c : Core) (n : VReg) (t : Tile) : (Core.wv c n t).epc = c.epc := rfl
@[simp] theorem Core.wv_ecause (c : Core) (n : VReg) (t : Tile) : (Core.wv c n t).ecause = c.ecause := rfl
@[simp] theorem Core.wv_einfo (c : Core) (n : VReg) (t : Tile) : (Core.wv c n t).einfo = c.einfo := rfl
@[simp] theorem Core.wv_status (c : Core) (n : VReg) (t : Tile) : (Core.wv c n t).status = c.status := rfl
@[simp] theorem Core.wv_preempt (c : Core) (n : VReg) (t : Tile) : (Core.wv c n t).preempt = c.preempt := rfl
@[simp] theorem Core.wv_preemptSince (c : Core) (n : VReg) (t : Tile) : (Core.wv c n t).preemptSince = c.preemptSince := rfl
@[simp] theorem Core.wv_sb (c : Core) (n : VReg) (t : Tile) : (Core.wv c n t).sb = c.sb := rfl
@[simp] theorem Core.wv_nt (c : Core) (n : VReg) (t : Tile) : (Core.wv c n t).nt = c.nt := rfl
@[simp] theorem Core.wv_vq (c : Core) (n : VReg) (t : Tile) : (Core.wv c n t).vq = c.vq := rfl
@[simp] theorem Core.wv_mq (c : Core) (n : VReg) (t : Tile) : (Core.wv c n t).mq = c.mq := rfl
@[simp] theorem Core.wv_cq (c : Core) (n : VReg) (t : Tile) : (Core.wv c n t).cq = c.cq := rfl
@[simp] theorem Core.wv_cfail (c : Core) (n : VReg) (t : Tile) : (Core.wv c n t).cfail = c.cfail := rfl
@[simp] theorem Core.wv_paused (c : Core) (n : VReg) (t : Tile) : (Core.wv c n t).paused = c.paused := rfl
@[simp] theorem Core.wv_seen (c : Core) (n : VReg) (t : Tile) : (Core.wv c n t).seen = c.seen := rfl
@[simp] theorem Core.wv_arrival (c : Core) (n : VReg) (t : Tile) : (Core.wv c n t).arrival = c.arrival := rfl
@[simp] theorem Core.wv_arr (c : Core) (n : VReg) (t : Tile) : (Core.wv c n t).arr = c.arr := rfl
@[simp] theorem Core.wv_group (c : Core) (n : VReg) (t : Tile) : (Core.wv c n t).group = c.group := rfl
@[simp] theorem Core.wv_pts (c : Core) (n : VReg) (t : Tile) : (Core.wv c n t).pts = c.pts := rfl
@[simp] theorem Core.wv_va (c : Core) (n : VReg) (t : Tile) : (Core.wv c n t).va = c.va := rfl
@[simp] theorem Core.wv_vstarve (c : Core) (n : VReg) (t : Tile) : (Core.wv c n t).vstarve = c.vstarve := rfl
@[simp] theorem Core.wv_sfua (c : Core) (n : VReg) (t : Tile) : (Core.wv c n t).sfua = c.sfua := rfl
@[simp] theorem Core.wv_sfustarve (c : Core) (n : VReg) (t : Tile) : (Core.wv c n t).sfustarve = c.sfustarve := rfl
@[simp] theorem Core.wv_recorded (c : Core) (n : VReg) (t : Tile) : (Core.wv c n t).recorded = c.recorded := rfl
@[simp] theorem Core.wv_formed (c : Core) (n : VReg) (t : Tile) : (Core.wv c n t).formed = c.formed := rfl

@[simp] theorem Core.wvl_run (c : Core) (n : VReg) (l : Label) : (Core.wvl c n l).run = c.run := rfl
@[simp] theorem Core.wvl_wait (c : Core) (n : VReg) (l : Label) : (Core.wvl c n l).wait = c.wait := rfl
@[simp] theorem Core.wvl_since (c : Core) (n : VReg) (l : Label) : (Core.wvl c n l).since = c.since := rfl
@[simp] theorem Core.wvl_held (c : Core) (n : VReg) (l : Label) : (Core.wvl c n l).held = c.held := rfl
@[simp] theorem Core.wvl_pc (c : Core) (n : VReg) (l : Label) : (Core.wvl c n l).pc = c.pc := rfl
@[simp] theorem Core.wvl_pair (c : Core) (n : VReg) (l : Label) : (Core.wvl c n l).pair = c.pair := rfl
@[simp] theorem Core.wvl_frame (c : Core) (n : VReg) (l : Label) : (Core.wvl c n l).frame = c.frame := rfl
@[simp] theorem Core.wvl_prefetch (c : Core) (n : VReg) (l : Label) : (Core.wvl c n l).prefetch = c.prefetch := rfl
@[simp] theorem Core.wvl_g (c : Core) (n : VReg) (l : Label) : (Core.wvl c n l).g = c.g := rfl
@[simp] theorem Core.wvl_gl (c : Core) (n : VReg) (l : Label) : (Core.wvl c n l).gl = c.gl := rfl
@[simp] theorem Core.wvl_sg (c : Core) (n : VReg) (l : Label) : (Core.wvl c n l).sg = c.sg := rfl
@[simp] theorem Core.wvl_sgl (c : Core) (n : VReg) (l : Label) : (Core.wvl c n l).sgl = c.sgl := rfl
@[simp] theorem Core.wvl_p (c : Core) (n : VReg) (l : Label) : (Core.wvl c n l).p = c.p := rfl
@[simp] theorem Core.wvl_pl (c : Core) (n : VReg) (l : Label) : (Core.wvl c n l).pl = c.pl := rfl
@[simp] theorem Core.wvl_v (c : Core) (n : VReg) (l : Label) : (Core.wvl c n l).v = c.v := rfl
@[simp] theorem Core.wvl_m (c : Core) (n : VReg) (l : Label) : (Core.wvl c n l).m = c.m := rfl
@[simp] theorem Core.wvl_ml (c : Core) (n : VReg) (l : Label) : (Core.wvl c n l).ml = c.ml := rfl
@[simp] theorem Core.wvl_mmark (c : Core) (n : VReg) (l : Label) : (Core.wvl c n l).mmark = c.mmark := rfl
@[simp] theorem Core.wvl_inbox (c : Core) (n : VReg) (l : Label) : (Core.wvl c n l).inbox = c.inbox := rfl
@[simp] theorem Core.wvl_domain (c : Core) (n : VReg) (l : Label) : (Core.wvl c n l).domain = c.domain := rfl
@[simp] theorem Core.wvl_ssc (c : Core) (n : VReg) (l : Label) : (Core.wvl c n l).ssc = c.ssc := rfl
@[simp] theorem Core.wvl_shape (c : Core) (n : VReg) (l : Label) : (Core.wvl c n l).shape = c.shape := rfl
@[simp] theorem Core.wvl_vshare (c : Core) (n : VReg) (l : Label) : (Core.wvl c n l).vshare = c.vshare := rfl
@[simp] theorem Core.wvl_fflags (c : Core) (n : VReg) (l : Label) : (Core.wvl c n l).fflags = c.fflags := rfl
@[simp] theorem Core.wvl_frm (c : Core) (n : VReg) (l : Label) : (Core.wvl c n l).frm = c.frm := rfl
@[simp] theorem Core.wvl_srseed (c : Core) (n : VReg) (l : Label) : (Core.wvl c n l).srseed = c.srseed := rfl
@[simp] theorem Core.wvl_fmta (c : Core) (n : VReg) (l : Label) : (Core.wvl c n l).fmta = c.fmta := rfl
@[simp] theorem Core.wvl_fmtb (c : Core) (n : VReg) (l : Label) : (Core.wvl c n l).fmtb = c.fmtb := rfl
@[simp] theorem Core.wvl_scla (c : Core) (n : VReg) (l : Label) : (Core.wvl c n l).scla = c.scla := rfl
@[simp] theorem Core.wvl_sclb (c : Core) (n : VReg) (l : Label) : (Core.wvl c n l).sclb = c.sclb := rfl
@[simp] theorem Core.wvl_supa (c : Core) (n : VReg) (l : Label) : (Core.wvl c n l).supa = c.supa := rfl
@[simp] theorem Core.wvl_supb (c : Core) (n : VReg) (l : Label) : (Core.wvl c n l).supb = c.supb := rfl
@[simp] theorem Core.wvl_mweight (c : Core) (n : VReg) (l : Label) : (Core.wvl c n l).mweight = c.mweight := rfl
@[simp] theorem Core.wvl_lflags (c : Core) (n : VReg) (l : Label) : (Core.wvl c n l).lflags = c.lflags := rfl
@[simp] theorem Core.wvl_focus (c : Core) (n : VReg) (l : Label) : (Core.wvl c n l).focus = c.focus := rfl
@[simp] theorem Core.wvl_brbuf (c : Core) (n : VReg) (l : Label) : (Core.wvl c n l).brbuf = c.brbuf := rfl
@[simp] theorem Core.wvl_brptr (c : Core) (n : VReg) (l : Label) : (Core.wvl c n l).brptr = c.brptr := rfl
@[simp] theorem Core.wvl_bwbuf (c : Core) (n : VReg) (l : Label) : (Core.wvl c n l).bwbuf = c.bwbuf := rfl
@[simp] theorem Core.wvl_bwptr (c : Core) (n : VReg) (l : Label) : (Core.wvl c n l).bwptr = c.bwptr := rfl
@[simp] theorem Core.wvl_brl (c : Core) (n : VReg) (l : Label) : (Core.wvl c n l).brl = c.brl := rfl
@[simp] theorem Core.wvl_bwl (c : Core) (n : VReg) (l : Label) : (Core.wvl c n l).bwl = c.bwl := rfl
@[simp] theorem Core.wvl_epc (c : Core) (n : VReg) (l : Label) : (Core.wvl c n l).epc = c.epc := rfl
@[simp] theorem Core.wvl_ecause (c : Core) (n : VReg) (l : Label) : (Core.wvl c n l).ecause = c.ecause := rfl
@[simp] theorem Core.wvl_einfo (c : Core) (n : VReg) (l : Label) : (Core.wvl c n l).einfo = c.einfo := rfl
@[simp] theorem Core.wvl_status (c : Core) (n : VReg) (l : Label) : (Core.wvl c n l).status = c.status := rfl
@[simp] theorem Core.wvl_preempt (c : Core) (n : VReg) (l : Label) : (Core.wvl c n l).preempt = c.preempt := rfl
@[simp] theorem Core.wvl_preemptSince (c : Core) (n : VReg) (l : Label) : (Core.wvl c n l).preemptSince = c.preemptSince := rfl
@[simp] theorem Core.wvl_sb (c : Core) (n : VReg) (l : Label) : (Core.wvl c n l).sb = c.sb := rfl
@[simp] theorem Core.wvl_nt (c : Core) (n : VReg) (l : Label) : (Core.wvl c n l).nt = c.nt := rfl
@[simp] theorem Core.wvl_vq (c : Core) (n : VReg) (l : Label) : (Core.wvl c n l).vq = c.vq := rfl
@[simp] theorem Core.wvl_mq (c : Core) (n : VReg) (l : Label) : (Core.wvl c n l).mq = c.mq := rfl
@[simp] theorem Core.wvl_cq (c : Core) (n : VReg) (l : Label) : (Core.wvl c n l).cq = c.cq := rfl
@[simp] theorem Core.wvl_cfail (c : Core) (n : VReg) (l : Label) : (Core.wvl c n l).cfail = c.cfail := rfl
@[simp] theorem Core.wvl_paused (c : Core) (n : VReg) (l : Label) : (Core.wvl c n l).paused = c.paused := rfl
@[simp] theorem Core.wvl_seen (c : Core) (n : VReg) (l : Label) : (Core.wvl c n l).seen = c.seen := rfl
@[simp] theorem Core.wvl_arrival (c : Core) (n : VReg) (l : Label) : (Core.wvl c n l).arrival = c.arrival := rfl
@[simp] theorem Core.wvl_arr (c : Core) (n : VReg) (l : Label) : (Core.wvl c n l).arr = c.arr := rfl
@[simp] theorem Core.wvl_group (c : Core) (n : VReg) (l : Label) : (Core.wvl c n l).group = c.group := rfl
@[simp] theorem Core.wvl_pts (c : Core) (n : VReg) (l : Label) : (Core.wvl c n l).pts = c.pts := rfl
@[simp] theorem Core.wvl_va (c : Core) (n : VReg) (l : Label) : (Core.wvl c n l).va = c.va := rfl
@[simp] theorem Core.wvl_vstarve (c : Core) (n : VReg) (l : Label) : (Core.wvl c n l).vstarve = c.vstarve := rfl
@[simp] theorem Core.wvl_sfua (c : Core) (n : VReg) (l : Label) : (Core.wvl c n l).sfua = c.sfua := rfl
@[simp] theorem Core.wvl_sfustarve (c : Core) (n : VReg) (l : Label) : (Core.wvl c n l).sfustarve = c.sfustarve := rfl
@[simp] theorem Core.wvl_recorded (c : Core) (n : VReg) (l : Label) : (Core.wvl c n l).recorded = c.recorded := rfl
@[simp] theorem Core.wvl_formed (c : Core) (n : VReg) (l : Label) : (Core.wvl c n l).formed = c.formed := rfl

@[simp] theorem Core.wm_run (c : Core) (n : MReg) (a : AMap (BitVec 32)) (l : Label) : (Core.wm c n a l).run = c.run := rfl
@[simp] theorem Core.wm_wait (c : Core) (n : MReg) (a : AMap (BitVec 32)) (l : Label) : (Core.wm c n a l).wait = c.wait := rfl
@[simp] theorem Core.wm_since (c : Core) (n : MReg) (a : AMap (BitVec 32)) (l : Label) : (Core.wm c n a l).since = c.since := rfl
@[simp] theorem Core.wm_held (c : Core) (n : MReg) (a : AMap (BitVec 32)) (l : Label) : (Core.wm c n a l).held = c.held := rfl
@[simp] theorem Core.wm_pc (c : Core) (n : MReg) (a : AMap (BitVec 32)) (l : Label) : (Core.wm c n a l).pc = c.pc := rfl
@[simp] theorem Core.wm_pair (c : Core) (n : MReg) (a : AMap (BitVec 32)) (l : Label) : (Core.wm c n a l).pair = c.pair := rfl
@[simp] theorem Core.wm_frame (c : Core) (n : MReg) (a : AMap (BitVec 32)) (l : Label) : (Core.wm c n a l).frame = c.frame := rfl
@[simp] theorem Core.wm_prefetch (c : Core) (n : MReg) (a : AMap (BitVec 32)) (l : Label) : (Core.wm c n a l).prefetch = c.prefetch := rfl
@[simp] theorem Core.wm_g (c : Core) (n : MReg) (a : AMap (BitVec 32)) (l : Label) : (Core.wm c n a l).g = c.g := rfl
@[simp] theorem Core.wm_gl (c : Core) (n : MReg) (a : AMap (BitVec 32)) (l : Label) : (Core.wm c n a l).gl = c.gl := rfl
@[simp] theorem Core.wm_sg (c : Core) (n : MReg) (a : AMap (BitVec 32)) (l : Label) : (Core.wm c n a l).sg = c.sg := rfl
@[simp] theorem Core.wm_sgl (c : Core) (n : MReg) (a : AMap (BitVec 32)) (l : Label) : (Core.wm c n a l).sgl = c.sgl := rfl
@[simp] theorem Core.wm_p (c : Core) (n : MReg) (a : AMap (BitVec 32)) (l : Label) : (Core.wm c n a l).p = c.p := rfl
@[simp] theorem Core.wm_pl (c : Core) (n : MReg) (a : AMap (BitVec 32)) (l : Label) : (Core.wm c n a l).pl = c.pl := rfl
@[simp] theorem Core.wm_v (c : Core) (n : MReg) (a : AMap (BitVec 32)) (l : Label) : (Core.wm c n a l).v = c.v := rfl
@[simp] theorem Core.wm_vl (c : Core) (n : MReg) (a : AMap (BitVec 32)) (l : Label) : (Core.wm c n a l).vl = c.vl := rfl
@[simp] theorem Core.wm_mmark (c : Core) (n : MReg) (a : AMap (BitVec 32)) (l : Label) : (Core.wm c n a l).mmark = c.mmark := rfl
@[simp] theorem Core.wm_inbox (c : Core) (n : MReg) (a : AMap (BitVec 32)) (l : Label) : (Core.wm c n a l).inbox = c.inbox := rfl
@[simp] theorem Core.wm_domain (c : Core) (n : MReg) (a : AMap (BitVec 32)) (l : Label) : (Core.wm c n a l).domain = c.domain := rfl
@[simp] theorem Core.wm_ssc (c : Core) (n : MReg) (a : AMap (BitVec 32)) (l : Label) : (Core.wm c n a l).ssc = c.ssc := rfl
@[simp] theorem Core.wm_shape (c : Core) (n : MReg) (a : AMap (BitVec 32)) (l : Label) : (Core.wm c n a l).shape = c.shape := rfl
@[simp] theorem Core.wm_vshare (c : Core) (n : MReg) (a : AMap (BitVec 32)) (l : Label) : (Core.wm c n a l).vshare = c.vshare := rfl
@[simp] theorem Core.wm_fflags (c : Core) (n : MReg) (a : AMap (BitVec 32)) (l : Label) : (Core.wm c n a l).fflags = c.fflags := rfl
@[simp] theorem Core.wm_frm (c : Core) (n : MReg) (a : AMap (BitVec 32)) (l : Label) : (Core.wm c n a l).frm = c.frm := rfl
@[simp] theorem Core.wm_srseed (c : Core) (n : MReg) (a : AMap (BitVec 32)) (l : Label) : (Core.wm c n a l).srseed = c.srseed := rfl
@[simp] theorem Core.wm_fmta (c : Core) (n : MReg) (a : AMap (BitVec 32)) (l : Label) : (Core.wm c n a l).fmta = c.fmta := rfl
@[simp] theorem Core.wm_fmtb (c : Core) (n : MReg) (a : AMap (BitVec 32)) (l : Label) : (Core.wm c n a l).fmtb = c.fmtb := rfl
@[simp] theorem Core.wm_scla (c : Core) (n : MReg) (a : AMap (BitVec 32)) (l : Label) : (Core.wm c n a l).scla = c.scla := rfl
@[simp] theorem Core.wm_sclb (c : Core) (n : MReg) (a : AMap (BitVec 32)) (l : Label) : (Core.wm c n a l).sclb = c.sclb := rfl
@[simp] theorem Core.wm_supa (c : Core) (n : MReg) (a : AMap (BitVec 32)) (l : Label) : (Core.wm c n a l).supa = c.supa := rfl
@[simp] theorem Core.wm_supb (c : Core) (n : MReg) (a : AMap (BitVec 32)) (l : Label) : (Core.wm c n a l).supb = c.supb := rfl
@[simp] theorem Core.wm_mweight (c : Core) (n : MReg) (a : AMap (BitVec 32)) (l : Label) : (Core.wm c n a l).mweight = c.mweight := rfl
@[simp] theorem Core.wm_lflags (c : Core) (n : MReg) (a : AMap (BitVec 32)) (l : Label) : (Core.wm c n a l).lflags = c.lflags := rfl
@[simp] theorem Core.wm_focus (c : Core) (n : MReg) (a : AMap (BitVec 32)) (l : Label) : (Core.wm c n a l).focus = c.focus := rfl
@[simp] theorem Core.wm_brbuf (c : Core) (n : MReg) (a : AMap (BitVec 32)) (l : Label) : (Core.wm c n a l).brbuf = c.brbuf := rfl
@[simp] theorem Core.wm_brptr (c : Core) (n : MReg) (a : AMap (BitVec 32)) (l : Label) : (Core.wm c n a l).brptr = c.brptr := rfl
@[simp] theorem Core.wm_bwbuf (c : Core) (n : MReg) (a : AMap (BitVec 32)) (l : Label) : (Core.wm c n a l).bwbuf = c.bwbuf := rfl
@[simp] theorem Core.wm_bwptr (c : Core) (n : MReg) (a : AMap (BitVec 32)) (l : Label) : (Core.wm c n a l).bwptr = c.bwptr := rfl
@[simp] theorem Core.wm_brl (c : Core) (n : MReg) (a : AMap (BitVec 32)) (l : Label) : (Core.wm c n a l).brl = c.brl := rfl
@[simp] theorem Core.wm_bwl (c : Core) (n : MReg) (a : AMap (BitVec 32)) (l : Label) : (Core.wm c n a l).bwl = c.bwl := rfl
@[simp] theorem Core.wm_epc (c : Core) (n : MReg) (a : AMap (BitVec 32)) (l : Label) : (Core.wm c n a l).epc = c.epc := rfl
@[simp] theorem Core.wm_ecause (c : Core) (n : MReg) (a : AMap (BitVec 32)) (l : Label) : (Core.wm c n a l).ecause = c.ecause := rfl
@[simp] theorem Core.wm_einfo (c : Core) (n : MReg) (a : AMap (BitVec 32)) (l : Label) : (Core.wm c n a l).einfo = c.einfo := rfl
@[simp] theorem Core.wm_status (c : Core) (n : MReg) (a : AMap (BitVec 32)) (l : Label) : (Core.wm c n a l).status = c.status := rfl
@[simp] theorem Core.wm_preempt (c : Core) (n : MReg) (a : AMap (BitVec 32)) (l : Label) : (Core.wm c n a l).preempt = c.preempt := rfl
@[simp] theorem Core.wm_preemptSince (c : Core) (n : MReg) (a : AMap (BitVec 32)) (l : Label) : (Core.wm c n a l).preemptSince = c.preemptSince := rfl
@[simp] theorem Core.wm_sb (c : Core) (n : MReg) (a : AMap (BitVec 32)) (l : Label) : (Core.wm c n a l).sb = c.sb := rfl
@[simp] theorem Core.wm_nt (c : Core) (n : MReg) (a : AMap (BitVec 32)) (l : Label) : (Core.wm c n a l).nt = c.nt := rfl
@[simp] theorem Core.wm_vq (c : Core) (n : MReg) (a : AMap (BitVec 32)) (l : Label) : (Core.wm c n a l).vq = c.vq := rfl
@[simp] theorem Core.wm_mq (c : Core) (n : MReg) (a : AMap (BitVec 32)) (l : Label) : (Core.wm c n a l).mq = c.mq := rfl
@[simp] theorem Core.wm_cq (c : Core) (n : MReg) (a : AMap (BitVec 32)) (l : Label) : (Core.wm c n a l).cq = c.cq := rfl
@[simp] theorem Core.wm_cfail (c : Core) (n : MReg) (a : AMap (BitVec 32)) (l : Label) : (Core.wm c n a l).cfail = c.cfail := rfl
@[simp] theorem Core.wm_paused (c : Core) (n : MReg) (a : AMap (BitVec 32)) (l : Label) : (Core.wm c n a l).paused = c.paused := rfl
@[simp] theorem Core.wm_seen (c : Core) (n : MReg) (a : AMap (BitVec 32)) (l : Label) : (Core.wm c n a l).seen = c.seen := rfl
@[simp] theorem Core.wm_arrival (c : Core) (n : MReg) (a : AMap (BitVec 32)) (l : Label) : (Core.wm c n a l).arrival = c.arrival := rfl
@[simp] theorem Core.wm_arr (c : Core) (n : MReg) (a : AMap (BitVec 32)) (l : Label) : (Core.wm c n a l).arr = c.arr := rfl
@[simp] theorem Core.wm_group (c : Core) (n : MReg) (a : AMap (BitVec 32)) (l : Label) : (Core.wm c n a l).group = c.group := rfl
@[simp] theorem Core.wm_pts (c : Core) (n : MReg) (a : AMap (BitVec 32)) (l : Label) : (Core.wm c n a l).pts = c.pts := rfl
@[simp] theorem Core.wm_va (c : Core) (n : MReg) (a : AMap (BitVec 32)) (l : Label) : (Core.wm c n a l).va = c.va := rfl
@[simp] theorem Core.wm_vstarve (c : Core) (n : MReg) (a : AMap (BitVec 32)) (l : Label) : (Core.wm c n a l).vstarve = c.vstarve := rfl
@[simp] theorem Core.wm_sfua (c : Core) (n : MReg) (a : AMap (BitVec 32)) (l : Label) : (Core.wm c n a l).sfua = c.sfua := rfl
@[simp] theorem Core.wm_sfustarve (c : Core) (n : MReg) (a : AMap (BitVec 32)) (l : Label) : (Core.wm c n a l).sfustarve = c.sfustarve := rfl
@[simp] theorem Core.wm_recorded (c : Core) (n : MReg) (a : AMap (BitVec 32)) (l : Label) : (Core.wm c n a l).recorded = c.recorded := rfl
@[simp] theorem Core.wm_formed (c : Core) (n : MReg) (a : AMap (BitVec 32)) (l : Label) : (Core.wm c n a l).formed = c.formed := rfl

@[simp] theorem Core.wmk_run (c : Core) (n : MReg) (k : Option Mark) : (Core.wmk c n k).run = c.run := rfl
@[simp] theorem Core.wmk_wait (c : Core) (n : MReg) (k : Option Mark) : (Core.wmk c n k).wait = c.wait := rfl
@[simp] theorem Core.wmk_since (c : Core) (n : MReg) (k : Option Mark) : (Core.wmk c n k).since = c.since := rfl
@[simp] theorem Core.wmk_held (c : Core) (n : MReg) (k : Option Mark) : (Core.wmk c n k).held = c.held := rfl
@[simp] theorem Core.wmk_pc (c : Core) (n : MReg) (k : Option Mark) : (Core.wmk c n k).pc = c.pc := rfl
@[simp] theorem Core.wmk_pair (c : Core) (n : MReg) (k : Option Mark) : (Core.wmk c n k).pair = c.pair := rfl
@[simp] theorem Core.wmk_frame (c : Core) (n : MReg) (k : Option Mark) : (Core.wmk c n k).frame = c.frame := rfl
@[simp] theorem Core.wmk_prefetch (c : Core) (n : MReg) (k : Option Mark) : (Core.wmk c n k).prefetch = c.prefetch := rfl
@[simp] theorem Core.wmk_g (c : Core) (n : MReg) (k : Option Mark) : (Core.wmk c n k).g = c.g := rfl
@[simp] theorem Core.wmk_gl (c : Core) (n : MReg) (k : Option Mark) : (Core.wmk c n k).gl = c.gl := rfl
@[simp] theorem Core.wmk_sg (c : Core) (n : MReg) (k : Option Mark) : (Core.wmk c n k).sg = c.sg := rfl
@[simp] theorem Core.wmk_sgl (c : Core) (n : MReg) (k : Option Mark) : (Core.wmk c n k).sgl = c.sgl := rfl
@[simp] theorem Core.wmk_p (c : Core) (n : MReg) (k : Option Mark) : (Core.wmk c n k).p = c.p := rfl
@[simp] theorem Core.wmk_pl (c : Core) (n : MReg) (k : Option Mark) : (Core.wmk c n k).pl = c.pl := rfl
@[simp] theorem Core.wmk_v (c : Core) (n : MReg) (k : Option Mark) : (Core.wmk c n k).v = c.v := rfl
@[simp] theorem Core.wmk_vl (c : Core) (n : MReg) (k : Option Mark) : (Core.wmk c n k).vl = c.vl := rfl
@[simp] theorem Core.wmk_m (c : Core) (n : MReg) (k : Option Mark) : (Core.wmk c n k).m = c.m := rfl
@[simp] theorem Core.wmk_ml (c : Core) (n : MReg) (k : Option Mark) : (Core.wmk c n k).ml = c.ml := rfl
@[simp] theorem Core.wmk_inbox (c : Core) (n : MReg) (k : Option Mark) : (Core.wmk c n k).inbox = c.inbox := rfl
@[simp] theorem Core.wmk_domain (c : Core) (n : MReg) (k : Option Mark) : (Core.wmk c n k).domain = c.domain := rfl
@[simp] theorem Core.wmk_ssc (c : Core) (n : MReg) (k : Option Mark) : (Core.wmk c n k).ssc = c.ssc := rfl
@[simp] theorem Core.wmk_shape (c : Core) (n : MReg) (k : Option Mark) : (Core.wmk c n k).shape = c.shape := rfl
@[simp] theorem Core.wmk_vshare (c : Core) (n : MReg) (k : Option Mark) : (Core.wmk c n k).vshare = c.vshare := rfl
@[simp] theorem Core.wmk_fflags (c : Core) (n : MReg) (k : Option Mark) : (Core.wmk c n k).fflags = c.fflags := rfl
@[simp] theorem Core.wmk_frm (c : Core) (n : MReg) (k : Option Mark) : (Core.wmk c n k).frm = c.frm := rfl
@[simp] theorem Core.wmk_srseed (c : Core) (n : MReg) (k : Option Mark) : (Core.wmk c n k).srseed = c.srseed := rfl
@[simp] theorem Core.wmk_fmta (c : Core) (n : MReg) (k : Option Mark) : (Core.wmk c n k).fmta = c.fmta := rfl
@[simp] theorem Core.wmk_fmtb (c : Core) (n : MReg) (k : Option Mark) : (Core.wmk c n k).fmtb = c.fmtb := rfl
@[simp] theorem Core.wmk_scla (c : Core) (n : MReg) (k : Option Mark) : (Core.wmk c n k).scla = c.scla := rfl
@[simp] theorem Core.wmk_sclb (c : Core) (n : MReg) (k : Option Mark) : (Core.wmk c n k).sclb = c.sclb := rfl
@[simp] theorem Core.wmk_supa (c : Core) (n : MReg) (k : Option Mark) : (Core.wmk c n k).supa = c.supa := rfl
@[simp] theorem Core.wmk_supb (c : Core) (n : MReg) (k : Option Mark) : (Core.wmk c n k).supb = c.supb := rfl
@[simp] theorem Core.wmk_mweight (c : Core) (n : MReg) (k : Option Mark) : (Core.wmk c n k).mweight = c.mweight := rfl
@[simp] theorem Core.wmk_lflags (c : Core) (n : MReg) (k : Option Mark) : (Core.wmk c n k).lflags = c.lflags := rfl
@[simp] theorem Core.wmk_focus (c : Core) (n : MReg) (k : Option Mark) : (Core.wmk c n k).focus = c.focus := rfl
@[simp] theorem Core.wmk_brbuf (c : Core) (n : MReg) (k : Option Mark) : (Core.wmk c n k).brbuf = c.brbuf := rfl
@[simp] theorem Core.wmk_brptr (c : Core) (n : MReg) (k : Option Mark) : (Core.wmk c n k).brptr = c.brptr := rfl
@[simp] theorem Core.wmk_bwbuf (c : Core) (n : MReg) (k : Option Mark) : (Core.wmk c n k).bwbuf = c.bwbuf := rfl
@[simp] theorem Core.wmk_bwptr (c : Core) (n : MReg) (k : Option Mark) : (Core.wmk c n k).bwptr = c.bwptr := rfl
@[simp] theorem Core.wmk_brl (c : Core) (n : MReg) (k : Option Mark) : (Core.wmk c n k).brl = c.brl := rfl
@[simp] theorem Core.wmk_bwl (c : Core) (n : MReg) (k : Option Mark) : (Core.wmk c n k).bwl = c.bwl := rfl
@[simp] theorem Core.wmk_epc (c : Core) (n : MReg) (k : Option Mark) : (Core.wmk c n k).epc = c.epc := rfl
@[simp] theorem Core.wmk_ecause (c : Core) (n : MReg) (k : Option Mark) : (Core.wmk c n k).ecause = c.ecause := rfl
@[simp] theorem Core.wmk_einfo (c : Core) (n : MReg) (k : Option Mark) : (Core.wmk c n k).einfo = c.einfo := rfl
@[simp] theorem Core.wmk_status (c : Core) (n : MReg) (k : Option Mark) : (Core.wmk c n k).status = c.status := rfl
@[simp] theorem Core.wmk_preempt (c : Core) (n : MReg) (k : Option Mark) : (Core.wmk c n k).preempt = c.preempt := rfl
@[simp] theorem Core.wmk_preemptSince (c : Core) (n : MReg) (k : Option Mark) : (Core.wmk c n k).preemptSince = c.preemptSince := rfl
@[simp] theorem Core.wmk_sb (c : Core) (n : MReg) (k : Option Mark) : (Core.wmk c n k).sb = c.sb := rfl
@[simp] theorem Core.wmk_nt (c : Core) (n : MReg) (k : Option Mark) : (Core.wmk c n k).nt = c.nt := rfl
@[simp] theorem Core.wmk_vq (c : Core) (n : MReg) (k : Option Mark) : (Core.wmk c n k).vq = c.vq := rfl
@[simp] theorem Core.wmk_mq (c : Core) (n : MReg) (k : Option Mark) : (Core.wmk c n k).mq = c.mq := rfl
@[simp] theorem Core.wmk_cq (c : Core) (n : MReg) (k : Option Mark) : (Core.wmk c n k).cq = c.cq := rfl
@[simp] theorem Core.wmk_cfail (c : Core) (n : MReg) (k : Option Mark) : (Core.wmk c n k).cfail = c.cfail := rfl
@[simp] theorem Core.wmk_paused (c : Core) (n : MReg) (k : Option Mark) : (Core.wmk c n k).paused = c.paused := rfl
@[simp] theorem Core.wmk_seen (c : Core) (n : MReg) (k : Option Mark) : (Core.wmk c n k).seen = c.seen := rfl
@[simp] theorem Core.wmk_arrival (c : Core) (n : MReg) (k : Option Mark) : (Core.wmk c n k).arrival = c.arrival := rfl
@[simp] theorem Core.wmk_arr (c : Core) (n : MReg) (k : Option Mark) : (Core.wmk c n k).arr = c.arr := rfl
@[simp] theorem Core.wmk_group (c : Core) (n : MReg) (k : Option Mark) : (Core.wmk c n k).group = c.group := rfl
@[simp] theorem Core.wmk_pts (c : Core) (n : MReg) (k : Option Mark) : (Core.wmk c n k).pts = c.pts := rfl
@[simp] theorem Core.wmk_va (c : Core) (n : MReg) (k : Option Mark) : (Core.wmk c n k).va = c.va := rfl
@[simp] theorem Core.wmk_vstarve (c : Core) (n : MReg) (k : Option Mark) : (Core.wmk c n k).vstarve = c.vstarve := rfl
@[simp] theorem Core.wmk_sfua (c : Core) (n : MReg) (k : Option Mark) : (Core.wmk c n k).sfua = c.sfua := rfl
@[simp] theorem Core.wmk_sfustarve (c : Core) (n : MReg) (k : Option Mark) : (Core.wmk c n k).sfustarve = c.sfustarve := rfl
@[simp] theorem Core.wmk_recorded (c : Core) (n : MReg) (k : Option Mark) : (Core.wmk c n k).recorded = c.recorded := rfl
@[simp] theorem Core.wmk_formed (c : Core) (n : MReg) (k : Option Mark) : (Core.wmk c n k).formed = c.formed := rfl

@[simp] theorem Core.wi_run (c : Core) (i : IReg) (r : InboxReg) : (Core.wi c i r).run = c.run := rfl
@[simp] theorem Core.wi_wait (c : Core) (i : IReg) (r : InboxReg) : (Core.wi c i r).wait = c.wait := rfl
@[simp] theorem Core.wi_since (c : Core) (i : IReg) (r : InboxReg) : (Core.wi c i r).since = c.since := rfl
@[simp] theorem Core.wi_held (c : Core) (i : IReg) (r : InboxReg) : (Core.wi c i r).held = c.held := rfl
@[simp] theorem Core.wi_pc (c : Core) (i : IReg) (r : InboxReg) : (Core.wi c i r).pc = c.pc := rfl
@[simp] theorem Core.wi_pair (c : Core) (i : IReg) (r : InboxReg) : (Core.wi c i r).pair = c.pair := rfl
@[simp] theorem Core.wi_frame (c : Core) (i : IReg) (r : InboxReg) : (Core.wi c i r).frame = c.frame := rfl
@[simp] theorem Core.wi_prefetch (c : Core) (i : IReg) (r : InboxReg) : (Core.wi c i r).prefetch = c.prefetch := rfl
@[simp] theorem Core.wi_g (c : Core) (i : IReg) (r : InboxReg) : (Core.wi c i r).g = c.g := rfl
@[simp] theorem Core.wi_gl (c : Core) (i : IReg) (r : InboxReg) : (Core.wi c i r).gl = c.gl := rfl
@[simp] theorem Core.wi_sg (c : Core) (i : IReg) (r : InboxReg) : (Core.wi c i r).sg = c.sg := rfl
@[simp] theorem Core.wi_sgl (c : Core) (i : IReg) (r : InboxReg) : (Core.wi c i r).sgl = c.sgl := rfl
@[simp] theorem Core.wi_p (c : Core) (i : IReg) (r : InboxReg) : (Core.wi c i r).p = c.p := rfl
@[simp] theorem Core.wi_pl (c : Core) (i : IReg) (r : InboxReg) : (Core.wi c i r).pl = c.pl := rfl
@[simp] theorem Core.wi_v (c : Core) (i : IReg) (r : InboxReg) : (Core.wi c i r).v = c.v := rfl
@[simp] theorem Core.wi_vl (c : Core) (i : IReg) (r : InboxReg) : (Core.wi c i r).vl = c.vl := rfl
@[simp] theorem Core.wi_m (c : Core) (i : IReg) (r : InboxReg) : (Core.wi c i r).m = c.m := rfl
@[simp] theorem Core.wi_ml (c : Core) (i : IReg) (r : InboxReg) : (Core.wi c i r).ml = c.ml := rfl
@[simp] theorem Core.wi_mmark (c : Core) (i : IReg) (r : InboxReg) : (Core.wi c i r).mmark = c.mmark := rfl
@[simp] theorem Core.wi_domain (c : Core) (i : IReg) (r : InboxReg) : (Core.wi c i r).domain = c.domain := rfl
@[simp] theorem Core.wi_ssc (c : Core) (i : IReg) (r : InboxReg) : (Core.wi c i r).ssc = c.ssc := rfl
@[simp] theorem Core.wi_shape (c : Core) (i : IReg) (r : InboxReg) : (Core.wi c i r).shape = c.shape := rfl
@[simp] theorem Core.wi_vshare (c : Core) (i : IReg) (r : InboxReg) : (Core.wi c i r).vshare = c.vshare := rfl
@[simp] theorem Core.wi_fflags (c : Core) (i : IReg) (r : InboxReg) : (Core.wi c i r).fflags = c.fflags := rfl
@[simp] theorem Core.wi_frm (c : Core) (i : IReg) (r : InboxReg) : (Core.wi c i r).frm = c.frm := rfl
@[simp] theorem Core.wi_srseed (c : Core) (i : IReg) (r : InboxReg) : (Core.wi c i r).srseed = c.srseed := rfl
@[simp] theorem Core.wi_fmta (c : Core) (i : IReg) (r : InboxReg) : (Core.wi c i r).fmta = c.fmta := rfl
@[simp] theorem Core.wi_fmtb (c : Core) (i : IReg) (r : InboxReg) : (Core.wi c i r).fmtb = c.fmtb := rfl
@[simp] theorem Core.wi_scla (c : Core) (i : IReg) (r : InboxReg) : (Core.wi c i r).scla = c.scla := rfl
@[simp] theorem Core.wi_sclb (c : Core) (i : IReg) (r : InboxReg) : (Core.wi c i r).sclb = c.sclb := rfl
@[simp] theorem Core.wi_supa (c : Core) (i : IReg) (r : InboxReg) : (Core.wi c i r).supa = c.supa := rfl
@[simp] theorem Core.wi_supb (c : Core) (i : IReg) (r : InboxReg) : (Core.wi c i r).supb = c.supb := rfl
@[simp] theorem Core.wi_mweight (c : Core) (i : IReg) (r : InboxReg) : (Core.wi c i r).mweight = c.mweight := rfl
@[simp] theorem Core.wi_lflags (c : Core) (i : IReg) (r : InboxReg) : (Core.wi c i r).lflags = c.lflags := rfl
@[simp] theorem Core.wi_focus (c : Core) (i : IReg) (r : InboxReg) : (Core.wi c i r).focus = c.focus := rfl
@[simp] theorem Core.wi_brbuf (c : Core) (i : IReg) (r : InboxReg) : (Core.wi c i r).brbuf = c.brbuf := rfl
@[simp] theorem Core.wi_brptr (c : Core) (i : IReg) (r : InboxReg) : (Core.wi c i r).brptr = c.brptr := rfl
@[simp] theorem Core.wi_bwbuf (c : Core) (i : IReg) (r : InboxReg) : (Core.wi c i r).bwbuf = c.bwbuf := rfl
@[simp] theorem Core.wi_bwptr (c : Core) (i : IReg) (r : InboxReg) : (Core.wi c i r).bwptr = c.bwptr := rfl
@[simp] theorem Core.wi_brl (c : Core) (i : IReg) (r : InboxReg) : (Core.wi c i r).brl = c.brl := rfl
@[simp] theorem Core.wi_bwl (c : Core) (i : IReg) (r : InboxReg) : (Core.wi c i r).bwl = c.bwl := rfl
@[simp] theorem Core.wi_epc (c : Core) (i : IReg) (r : InboxReg) : (Core.wi c i r).epc = c.epc := rfl
@[simp] theorem Core.wi_ecause (c : Core) (i : IReg) (r : InboxReg) : (Core.wi c i r).ecause = c.ecause := rfl
@[simp] theorem Core.wi_einfo (c : Core) (i : IReg) (r : InboxReg) : (Core.wi c i r).einfo = c.einfo := rfl
@[simp] theorem Core.wi_status (c : Core) (i : IReg) (r : InboxReg) : (Core.wi c i r).status = c.status := rfl
@[simp] theorem Core.wi_preempt (c : Core) (i : IReg) (r : InboxReg) : (Core.wi c i r).preempt = c.preempt := rfl
@[simp] theorem Core.wi_preemptSince (c : Core) (i : IReg) (r : InboxReg) : (Core.wi c i r).preemptSince = c.preemptSince := rfl
@[simp] theorem Core.wi_sb (c : Core) (i : IReg) (r : InboxReg) : (Core.wi c i r).sb = c.sb := rfl
@[simp] theorem Core.wi_nt (c : Core) (i : IReg) (r : InboxReg) : (Core.wi c i r).nt = c.nt := rfl
@[simp] theorem Core.wi_vq (c : Core) (i : IReg) (r : InboxReg) : (Core.wi c i r).vq = c.vq := rfl
@[simp] theorem Core.wi_mq (c : Core) (i : IReg) (r : InboxReg) : (Core.wi c i r).mq = c.mq := rfl
@[simp] theorem Core.wi_cq (c : Core) (i : IReg) (r : InboxReg) : (Core.wi c i r).cq = c.cq := rfl
@[simp] theorem Core.wi_cfail (c : Core) (i : IReg) (r : InboxReg) : (Core.wi c i r).cfail = c.cfail := rfl
@[simp] theorem Core.wi_paused (c : Core) (i : IReg) (r : InboxReg) : (Core.wi c i r).paused = c.paused := rfl
@[simp] theorem Core.wi_seen (c : Core) (i : IReg) (r : InboxReg) : (Core.wi c i r).seen = c.seen := rfl
@[simp] theorem Core.wi_arrival (c : Core) (i : IReg) (r : InboxReg) : (Core.wi c i r).arrival = c.arrival := rfl
@[simp] theorem Core.wi_arr (c : Core) (i : IReg) (r : InboxReg) : (Core.wi c i r).arr = c.arr := rfl
@[simp] theorem Core.wi_group (c : Core) (i : IReg) (r : InboxReg) : (Core.wi c i r).group = c.group := rfl
@[simp] theorem Core.wi_pts (c : Core) (i : IReg) (r : InboxReg) : (Core.wi c i r).pts = c.pts := rfl
@[simp] theorem Core.wi_va (c : Core) (i : IReg) (r : InboxReg) : (Core.wi c i r).va = c.va := rfl
@[simp] theorem Core.wi_vstarve (c : Core) (i : IReg) (r : InboxReg) : (Core.wi c i r).vstarve = c.vstarve := rfl
@[simp] theorem Core.wi_sfua (c : Core) (i : IReg) (r : InboxReg) : (Core.wi c i r).sfua = c.sfua := rfl
@[simp] theorem Core.wi_sfustarve (c : Core) (i : IReg) (r : InboxReg) : (Core.wi c i r).sfustarve = c.sfustarve := rfl
@[simp] theorem Core.wi_recorded (c : Core) (i : IReg) (r : InboxReg) : (Core.wi c i r).recorded = c.recorded := rfl
@[simp] theorem Core.wi_formed (c : Core) (i : IReg) (r : InboxReg) : (Core.wi c i r).formed = c.formed := rfl

@[simp] theorem Core.at_since (c : Core) (a : Word) : (Core.at c a).since = c.since := rfl
@[simp] theorem Core.at_held (c : Core) (a : Word) : (Core.at c a).held = c.held := rfl
@[simp] theorem Core.at_frame (c : Core) (a : Word) : (Core.at c a).frame = c.frame := rfl
@[simp] theorem Core.at_prefetch (c : Core) (a : Word) : (Core.at c a).prefetch = c.prefetch := rfl
@[simp] theorem Core.at_g (c : Core) (a : Word) : (Core.at c a).g = c.g := rfl
@[simp] theorem Core.at_gl (c : Core) (a : Word) : (Core.at c a).gl = c.gl := rfl
@[simp] theorem Core.at_sg (c : Core) (a : Word) : (Core.at c a).sg = c.sg := rfl
@[simp] theorem Core.at_sgl (c : Core) (a : Word) : (Core.at c a).sgl = c.sgl := rfl
@[simp] theorem Core.at_p (c : Core) (a : Word) : (Core.at c a).p = c.p := rfl
@[simp] theorem Core.at_pl (c : Core) (a : Word) : (Core.at c a).pl = c.pl := rfl
@[simp] theorem Core.at_v (c : Core) (a : Word) : (Core.at c a).v = c.v := rfl
@[simp] theorem Core.at_vl (c : Core) (a : Word) : (Core.at c a).vl = c.vl := rfl
@[simp] theorem Core.at_m (c : Core) (a : Word) : (Core.at c a).m = c.m := rfl
@[simp] theorem Core.at_ml (c : Core) (a : Word) : (Core.at c a).ml = c.ml := rfl
@[simp] theorem Core.at_mmark (c : Core) (a : Word) : (Core.at c a).mmark = c.mmark := rfl
@[simp] theorem Core.at_inbox (c : Core) (a : Word) : (Core.at c a).inbox = c.inbox := rfl
@[simp] theorem Core.at_domain (c : Core) (a : Word) : (Core.at c a).domain = c.domain := rfl
@[simp] theorem Core.at_ssc (c : Core) (a : Word) : (Core.at c a).ssc = c.ssc := rfl
@[simp] theorem Core.at_shape (c : Core) (a : Word) : (Core.at c a).shape = c.shape := rfl
@[simp] theorem Core.at_vshare (c : Core) (a : Word) : (Core.at c a).vshare = c.vshare := rfl
@[simp] theorem Core.at_fflags (c : Core) (a : Word) : (Core.at c a).fflags = c.fflags := rfl
@[simp] theorem Core.at_frm (c : Core) (a : Word) : (Core.at c a).frm = c.frm := rfl
@[simp] theorem Core.at_srseed (c : Core) (a : Word) : (Core.at c a).srseed = c.srseed := rfl
@[simp] theorem Core.at_fmta (c : Core) (a : Word) : (Core.at c a).fmta = c.fmta := rfl
@[simp] theorem Core.at_fmtb (c : Core) (a : Word) : (Core.at c a).fmtb = c.fmtb := rfl
@[simp] theorem Core.at_scla (c : Core) (a : Word) : (Core.at c a).scla = c.scla := rfl
@[simp] theorem Core.at_sclb (c : Core) (a : Word) : (Core.at c a).sclb = c.sclb := rfl
@[simp] theorem Core.at_supa (c : Core) (a : Word) : (Core.at c a).supa = c.supa := rfl
@[simp] theorem Core.at_supb (c : Core) (a : Word) : (Core.at c a).supb = c.supb := rfl
@[simp] theorem Core.at_mweight (c : Core) (a : Word) : (Core.at c a).mweight = c.mweight := rfl
@[simp] theorem Core.at_lflags (c : Core) (a : Word) : (Core.at c a).lflags = c.lflags := rfl
@[simp] theorem Core.at_focus (c : Core) (a : Word) : (Core.at c a).focus = c.focus := rfl
@[simp] theorem Core.at_brbuf (c : Core) (a : Word) : (Core.at c a).brbuf = c.brbuf := rfl
@[simp] theorem Core.at_brptr (c : Core) (a : Word) : (Core.at c a).brptr = c.brptr := rfl
@[simp] theorem Core.at_bwbuf (c : Core) (a : Word) : (Core.at c a).bwbuf = c.bwbuf := rfl
@[simp] theorem Core.at_bwptr (c : Core) (a : Word) : (Core.at c a).bwptr = c.bwptr := rfl
@[simp] theorem Core.at_brl (c : Core) (a : Word) : (Core.at c a).brl = c.brl := rfl
@[simp] theorem Core.at_bwl (c : Core) (a : Word) : (Core.at c a).bwl = c.bwl := rfl
@[simp] theorem Core.at_epc (c : Core) (a : Word) : (Core.at c a).epc = c.epc := rfl
@[simp] theorem Core.at_ecause (c : Core) (a : Word) : (Core.at c a).ecause = c.ecause := rfl
@[simp] theorem Core.at_einfo (c : Core) (a : Word) : (Core.at c a).einfo = c.einfo := rfl
@[simp] theorem Core.at_status (c : Core) (a : Word) : (Core.at c a).status = c.status := rfl
@[simp] theorem Core.at_preempt (c : Core) (a : Word) : (Core.at c a).preempt = c.preempt := rfl
@[simp] theorem Core.at_preemptSince (c : Core) (a : Word) : (Core.at c a).preemptSince = c.preemptSince := rfl
@[simp] theorem Core.at_sb (c : Core) (a : Word) : (Core.at c a).sb = c.sb := rfl
@[simp] theorem Core.at_nt (c : Core) (a : Word) : (Core.at c a).nt = c.nt := rfl
@[simp] theorem Core.at_vq (c : Core) (a : Word) : (Core.at c a).vq = c.vq := rfl
@[simp] theorem Core.at_mq (c : Core) (a : Word) : (Core.at c a).mq = c.mq := rfl
@[simp] theorem Core.at_cq (c : Core) (a : Word) : (Core.at c a).cq = c.cq := rfl
@[simp] theorem Core.at_cfail (c : Core) (a : Word) : (Core.at c a).cfail = c.cfail := rfl
@[simp] theorem Core.at_paused (c : Core) (a : Word) : (Core.at c a).paused = c.paused := rfl
@[simp] theorem Core.at_seen (c : Core) (a : Word) : (Core.at c a).seen = c.seen := rfl
@[simp] theorem Core.at_arrival (c : Core) (a : Word) : (Core.at c a).arrival = c.arrival := rfl
@[simp] theorem Core.at_arr (c : Core) (a : Word) : (Core.at c a).arr = c.arr := rfl
@[simp] theorem Core.at_group (c : Core) (a : Word) : (Core.at c a).group = c.group := rfl
@[simp] theorem Core.at_pts (c : Core) (a : Word) : (Core.at c a).pts = c.pts := rfl
@[simp] theorem Core.at_va (c : Core) (a : Word) : (Core.at c a).va = c.va := rfl
@[simp] theorem Core.at_vstarve (c : Core) (a : Word) : (Core.at c a).vstarve = c.vstarve := rfl
@[simp] theorem Core.at_sfua (c : Core) (a : Word) : (Core.at c a).sfua = c.sfua := rfl
@[simp] theorem Core.at_sfustarve (c : Core) (a : Word) : (Core.at c a).sfustarve = c.sfustarve := rfl
@[simp] theorem Core.at_recorded (c : Core) (a : Word) : (Core.at c a).recorded = c.recorded := rfl
@[simp] theorem Core.at_formed (c : Core) (a : Word) : (Core.at c a).formed = c.formed := rfl

@[simp] theorem Core.past_since (c : Core) : (Core.past c).since = c.since := by
  unfold Core.past; split
  · rfl
  · split
    · rfl
    · split <;> rfl
@[simp] theorem Core.past_held (c : Core) : (Core.past c).held = c.held := by
  unfold Core.past; split
  · rfl
  · split
    · rfl
    · split <;> rfl
@[simp] theorem Core.past_prefetch (c : Core) : (Core.past c).prefetch = c.prefetch := by
  unfold Core.past; split
  · rfl
  · split
    · rfl
    · split <;> rfl
@[simp] theorem Core.past_g (c : Core) : (Core.past c).g = c.g := by
  unfold Core.past; split
  · rfl
  · split
    · rfl
    · split <;> rfl
@[simp] theorem Core.past_gl (c : Core) : (Core.past c).gl = c.gl := by
  unfold Core.past; split
  · rfl
  · split
    · rfl
    · split <;> rfl
@[simp] theorem Core.past_sg (c : Core) : (Core.past c).sg = c.sg := by
  unfold Core.past; split
  · rfl
  · split
    · rfl
    · split <;> rfl
@[simp] theorem Core.past_sgl (c : Core) : (Core.past c).sgl = c.sgl := by
  unfold Core.past; split
  · rfl
  · split
    · rfl
    · split <;> rfl
@[simp] theorem Core.past_p (c : Core) : (Core.past c).p = c.p := by
  unfold Core.past; split
  · rfl
  · split
    · rfl
    · split <;> rfl
@[simp] theorem Core.past_pl (c : Core) : (Core.past c).pl = c.pl := by
  unfold Core.past; split
  · rfl
  · split
    · rfl
    · split <;> rfl
@[simp] theorem Core.past_v (c : Core) : (Core.past c).v = c.v := by
  unfold Core.past; split
  · rfl
  · split
    · rfl
    · split <;> rfl
@[simp] theorem Core.past_vl (c : Core) : (Core.past c).vl = c.vl := by
  unfold Core.past; split
  · rfl
  · split
    · rfl
    · split <;> rfl
@[simp] theorem Core.past_m (c : Core) : (Core.past c).m = c.m := by
  unfold Core.past; split
  · rfl
  · split
    · rfl
    · split <;> rfl
@[simp] theorem Core.past_ml (c : Core) : (Core.past c).ml = c.ml := by
  unfold Core.past; split
  · rfl
  · split
    · rfl
    · split <;> rfl
@[simp] theorem Core.past_mmark (c : Core) : (Core.past c).mmark = c.mmark := by
  unfold Core.past; split
  · rfl
  · split
    · rfl
    · split <;> rfl
@[simp] theorem Core.past_inbox (c : Core) : (Core.past c).inbox = c.inbox := by
  unfold Core.past; split
  · rfl
  · split
    · rfl
    · split <;> rfl
@[simp] theorem Core.past_domain (c : Core) : (Core.past c).domain = c.domain := by
  unfold Core.past; split
  · rfl
  · split
    · rfl
    · split <;> rfl
@[simp] theorem Core.past_ssc (c : Core) : (Core.past c).ssc = c.ssc := by
  unfold Core.past; split
  · rfl
  · split
    · rfl
    · split <;> rfl
@[simp] theorem Core.past_shape (c : Core) : (Core.past c).shape = c.shape := by
  unfold Core.past; split
  · rfl
  · split
    · rfl
    · split <;> rfl
@[simp] theorem Core.past_vshare (c : Core) : (Core.past c).vshare = c.vshare := by
  unfold Core.past; split
  · rfl
  · split
    · rfl
    · split <;> rfl
@[simp] theorem Core.past_fflags (c : Core) : (Core.past c).fflags = c.fflags := by
  unfold Core.past; split
  · rfl
  · split
    · rfl
    · split <;> rfl
@[simp] theorem Core.past_frm (c : Core) : (Core.past c).frm = c.frm := by
  unfold Core.past; split
  · rfl
  · split
    · rfl
    · split <;> rfl
@[simp] theorem Core.past_srseed (c : Core) : (Core.past c).srseed = c.srseed := by
  unfold Core.past; split
  · rfl
  · split
    · rfl
    · split <;> rfl
@[simp] theorem Core.past_fmta (c : Core) : (Core.past c).fmta = c.fmta := by
  unfold Core.past; split
  · rfl
  · split
    · rfl
    · split <;> rfl
@[simp] theorem Core.past_fmtb (c : Core) : (Core.past c).fmtb = c.fmtb := by
  unfold Core.past; split
  · rfl
  · split
    · rfl
    · split <;> rfl
@[simp] theorem Core.past_scla (c : Core) : (Core.past c).scla = c.scla := by
  unfold Core.past; split
  · rfl
  · split
    · rfl
    · split <;> rfl
@[simp] theorem Core.past_sclb (c : Core) : (Core.past c).sclb = c.sclb := by
  unfold Core.past; split
  · rfl
  · split
    · rfl
    · split <;> rfl
@[simp] theorem Core.past_supa (c : Core) : (Core.past c).supa = c.supa := by
  unfold Core.past; split
  · rfl
  · split
    · rfl
    · split <;> rfl
@[simp] theorem Core.past_supb (c : Core) : (Core.past c).supb = c.supb := by
  unfold Core.past; split
  · rfl
  · split
    · rfl
    · split <;> rfl
@[simp] theorem Core.past_mweight (c : Core) : (Core.past c).mweight = c.mweight := by
  unfold Core.past; split
  · rfl
  · split
    · rfl
    · split <;> rfl
@[simp] theorem Core.past_lflags (c : Core) : (Core.past c).lflags = c.lflags := by
  unfold Core.past; split
  · rfl
  · split
    · rfl
    · split <;> rfl
@[simp] theorem Core.past_focus (c : Core) : (Core.past c).focus = c.focus := by
  unfold Core.past; split
  · rfl
  · split
    · rfl
    · split <;> rfl
@[simp] theorem Core.past_brbuf (c : Core) : (Core.past c).brbuf = c.brbuf := by
  unfold Core.past; split
  · rfl
  · split
    · rfl
    · split <;> rfl
@[simp] theorem Core.past_brptr (c : Core) : (Core.past c).brptr = c.brptr := by
  unfold Core.past; split
  · rfl
  · split
    · rfl
    · split <;> rfl
@[simp] theorem Core.past_bwbuf (c : Core) : (Core.past c).bwbuf = c.bwbuf := by
  unfold Core.past; split
  · rfl
  · split
    · rfl
    · split <;> rfl
@[simp] theorem Core.past_bwptr (c : Core) : (Core.past c).bwptr = c.bwptr := by
  unfold Core.past; split
  · rfl
  · split
    · rfl
    · split <;> rfl
@[simp] theorem Core.past_brl (c : Core) : (Core.past c).brl = c.brl := by
  unfold Core.past; split
  · rfl
  · split
    · rfl
    · split <;> rfl
@[simp] theorem Core.past_bwl (c : Core) : (Core.past c).bwl = c.bwl := by
  unfold Core.past; split
  · rfl
  · split
    · rfl
    · split <;> rfl
@[simp] theorem Core.past_epc (c : Core) : (Core.past c).epc = c.epc := by
  unfold Core.past; split
  · rfl
  · split
    · rfl
    · split <;> rfl
@[simp] theorem Core.past_ecause (c : Core) : (Core.past c).ecause = c.ecause := by
  unfold Core.past; split
  · rfl
  · split
    · rfl
    · split <;> rfl
@[simp] theorem Core.past_einfo (c : Core) : (Core.past c).einfo = c.einfo := by
  unfold Core.past; split
  · rfl
  · split
    · rfl
    · split <;> rfl
@[simp] theorem Core.past_status (c : Core) : (Core.past c).status = c.status := by
  unfold Core.past; split
  · rfl
  · split
    · rfl
    · split <;> rfl
@[simp] theorem Core.past_preempt (c : Core) : (Core.past c).preempt = c.preempt := by
  unfold Core.past; split
  · rfl
  · split
    · rfl
    · split <;> rfl
@[simp] theorem Core.past_preemptSince (c : Core) : (Core.past c).preemptSince = c.preemptSince := by
  unfold Core.past; split
  · rfl
  · split
    · rfl
    · split <;> rfl
@[simp] theorem Core.past_sb (c : Core) : (Core.past c).sb = c.sb := by
  unfold Core.past; split
  · rfl
  · split
    · rfl
    · split <;> rfl
@[simp] theorem Core.past_nt (c : Core) : (Core.past c).nt = c.nt := by
  unfold Core.past; split
  · rfl
  · split
    · rfl
    · split <;> rfl
@[simp] theorem Core.past_vq (c : Core) : (Core.past c).vq = c.vq := by
  unfold Core.past; split
  · rfl
  · split
    · rfl
    · split <;> rfl
@[simp] theorem Core.past_mq (c : Core) : (Core.past c).mq = c.mq := by
  unfold Core.past; split
  · rfl
  · split
    · rfl
    · split <;> rfl
@[simp] theorem Core.past_cq (c : Core) : (Core.past c).cq = c.cq := by
  unfold Core.past; split
  · rfl
  · split
    · rfl
    · split <;> rfl
@[simp] theorem Core.past_cfail (c : Core) : (Core.past c).cfail = c.cfail := by
  unfold Core.past; split
  · rfl
  · split
    · rfl
    · split <;> rfl
@[simp] theorem Core.past_paused (c : Core) : (Core.past c).paused = c.paused := by
  unfold Core.past; split
  · rfl
  · split
    · rfl
    · split <;> rfl
@[simp] theorem Core.past_seen (c : Core) : (Core.past c).seen = c.seen := by
  unfold Core.past; split
  · rfl
  · split
    · rfl
    · split <;> rfl
@[simp] theorem Core.past_arrival (c : Core) : (Core.past c).arrival = c.arrival := by
  unfold Core.past; split
  · rfl
  · split
    · rfl
    · split <;> rfl
@[simp] theorem Core.past_arr (c : Core) : (Core.past c).arr = c.arr := by
  unfold Core.past; split
  · rfl
  · split
    · rfl
    · split <;> rfl
@[simp] theorem Core.past_group (c : Core) : (Core.past c).group = c.group := by
  unfold Core.past; split
  · rfl
  · split
    · rfl
    · split <;> rfl
@[simp] theorem Core.past_pts (c : Core) : (Core.past c).pts = c.pts := by
  unfold Core.past; split
  · rfl
  · split
    · rfl
    · split <;> rfl
@[simp] theorem Core.past_va (c : Core) : (Core.past c).va = c.va := by
  unfold Core.past; split
  · rfl
  · split
    · rfl
    · split <;> rfl
@[simp] theorem Core.past_vstarve (c : Core) : (Core.past c).vstarve = c.vstarve := by
  unfold Core.past; split
  · rfl
  · split
    · rfl
    · split <;> rfl
@[simp] theorem Core.past_sfua (c : Core) : (Core.past c).sfua = c.sfua := by
  unfold Core.past; split
  · rfl
  · split
    · rfl
    · split <;> rfl
@[simp] theorem Core.past_sfustarve (c : Core) : (Core.past c).sfustarve = c.sfustarve := by
  unfold Core.past; split
  · rfl
  · split
    · rfl
    · split <;> rfl
@[simp] theorem Core.past_recorded (c : Core) : (Core.past c).recorded = c.recorded := by
  unfold Core.past; split
  · rfl
  · split
    · rfl
    · split <;> rfl
@[simp] theorem Core.past_formed (c : Core) : (Core.past c).formed = c.formed := by
  unfold Core.past; split
  · rfl
  · split
    · rfl
    · split <;> rfl

/-! ### A register after it is written -/

@[simp] theorem Core.rg_zero (c : Core) : c.rg 0 = 0 := by simp [Core.rg]
@[simp] theorem Core.lg_zero (c : Core) : c.lg 0 = labelTrue := by simp [Core.lg]
@[simp] theorem Core.wg_zero (c : Core) (v : Word) (l : Label) : c.wg 0 v l = c := by simp [Core.wg]
@[simp] theorem Core.rp_zero (c : Core) : c.rp 0 = BitVec.allOnes 256 := by simp [Core.rp]
@[simp] theorem Core.wp_zero (c : Core) (v : Pred) : c.wp 0 v = c := by simp [Core.wp]
@[simp] theorem Core.wpl_zero (c : Core) (l : Label) : c.wpl 0 l = c := by simp [Core.wpl]
@[simp] theorem Core.rv_wv (c : Core) (n : VReg) (t : Tile) : (c.wv n t).rv n = t := by simp [Core.wv, Core.rv]
@[simp] theorem Core.lv_wvl (c : Core) (n : VReg) (l : Label) : (c.wvl n l).lv n = l := by simp [Core.wvl, Core.lv]
@[simp] theorem Core.ri_wi (c : Core) (i : IReg) (r : InboxReg) : (c.wi i r).ri i = r := by simp [Core.wi, Core.ri]

end Sys2Proof.Machine
end

