-- ==== Sys2Proof/Laws/Ops.lean ====
section
/-! SUPPORT. What the shared operations can do: the steps of the monad, how a step ends, taking an exception and returning, labels
of one factor, results, and which operations keep memory canonical. -/

namespace Sys2Proof.Machine

/-! ### Updates of one part, one after another -/

theorem AMap.put_put {α : Type} (m : AMap α) (k : Nat) (v w : α) : (m.put k v).put k w = m.put k w := by
  induction m with
  | nil => simp [AMap.put]
  | cons e r ih =>
    obtain ⟨j, x⟩ := e
    by_cases h1 : k < j
    · simp [AMap.put, h1]
    · by_cases h2 : k = j
      · simp [AMap.put, h2]
      · simp [AMap.put, h1, h2, ih]

@[simp] theorem State.modCore_modCore (s : State) (n : Nat) (f g : Core → Core) :
    (s.modCore n f).modCore n g = s.modCore n (fun c => g (f c)) := by
  simp [State.modCore, State.setCore, State.core, AMap.put_put]

@[simp] theorem State.modCluster_modCluster (s : State) (n : Nat) (f g : Cluster → Cluster) :
    (s.modCluster n f).modCluster n g = s.modCluster n (fun c => g (f c)) := by
  simp [State.modCluster, State.setCluster, State.cluster, AMap.put_put]

@[simp] theorem State.modCore_me (s : State) (f : Core → Core) : (s.modCore s.cur f).me = f s.me := by
  simp [State.me]

/-! ### Steps of the monad -/

section
variable {α β : Type} (s t : State)

theorem M.run_bind (m : M α) (f : α → M β) :
    (m >>= f) s = match m s with
      | .ok a t => f a t
      | .error e t => .error e t := by
  show EStateM.bind m f s = _
  unfold EStateM.bind
  cases m s <;> rfl
theorem M.bind_ok {m : M α} {f : α → M β} {a : α} (h : m s = .ok a t) : (m >>= f) s = f a t := by rw [M.run_bind, h]
theorem M.bind_error {m : M α} {f : α → M β} {e : Stop} (h : m s = .error e t) : (m >>= f) s = .error e t := by
  rw [M.run_bind, h]
@[simp] theorem M.run_pure (a : α) : (pure a : M α) s = .ok a s := rfl
@[simp] theorem M.run_get : (get : M State) s = .ok s s := rfl
@[simp] theorem M.run_throw (e : Stop) : (throw e : M α) s = .error e s := rfl
@[simp] theorem M.run_getMe : getMe s = .ok s.me s := rfl
@[simp] theorem M.run_modMe (f : Core → Core) : modMe f s = .ok () (s.modCore s.cur f) := rfl
@[simp] theorem M.run_modS (f : State → State) : modS f s = .ok () (f s) := rfl
@[simp] theorem M.run_raise (c : Cause) (i : Info) : (raise c i : M α) s = .error (.trap c i) s := rfl
@[simp] theorem M.run_raiseWord (c : Cause) : (raiseWord c : M α) s = .error (.trap c (.word false)) s := rfl
@[simp] theorem M.run_raiseValue (c : Cause) : (raiseValue c : M α) s = .error (.trap c (.word true)) s := rfl
@[simp] theorem M.run_raiseAddr (c : Cause) (a : Nat) :
    (raiseAddr c a : M α) s = .error (.trap c (.other (BitVec.ofNat 64 a) false)) s := rfl
@[simp] theorem M.run_raiseAddrValue (c : Cause) (a : Nat) :
    (raiseAddrValue c a : M α) s = .error (.trap c (.other (BitVec.ofNat 64 a) true)) s := rfl
@[simp] theorem M.run_stall : (stall : M α) s = .error (.hold .stalled .busy) s := rfl
@[simp] theorem M.run_holdOn (r : RunState) (w : Wait) : (holdOn r w : M α) s = .error (.hold r w) s := rfl
@[simp] theorem M.run_needs_true : needs true s = .ok () s := rfl
@[simp] theorem M.run_needs_false : needs false s = .error (.hold .stalled .busy) s := rfl
@[simp] theorem M.run_advance : advance s = .ok () (s.modCore s.cur Core.past) := rfl
end

/-! ### How a step ends -/

/-- An instruction's step always answers a next state. -/
theorem runI_next (i : Instr) (m : M Unit) (s : State) : ∃ t, runI i m s = .next t := by
  unfold runI
  split
  · exact ⟨_, rfl⟩
  · unfold endStep
    split <;> exact ⟨_, rfl⟩

/-- An instruction whose step goes through leaves what the step leaves. -/
theorem runI_ok {i : Instr} {m : M Unit} {s t : State} (h : m s = .ok () t) : runI i m s = .next t := by
  simp [runI, h]

/-- An instruction that raises takes its trap. -/
theorem runI_trap {i : Instr} {m : M Unit} {s t : State} {c : Cause} {x : Info} (h : m s = .error (.trap c x) t) :
    runI i m s = .next ((t.keepLoss s).trapInstr s.cur i.word c x) := by
  simp [runI, h, endStep]

/-- An engine's step always answers a next state. -/
theorem runEngine_next (n : Nat) (e : Engine) (m : M Unit) (s : State) : ∃ t, runEngine n e m s = .next t := by
  unfold runEngine
  split <;> exact ⟨_, rfl⟩

theorem runEngine_ok {n : Nat} {e : Engine} {m : M Unit} {s t : State} (h : m s = .ok () t) : runEngine n e m s = .next t := by
  simp [runEngine, h]

theorem runEvent_next (m : M Unit) (s : State) : ∃ t, runEvent m s = .next t := by
  unfold runEvent
  split <;> exact ⟨_, rfl⟩

theorem runEvent_ok {m : M Unit} {s t : State} (h : m s = .ok () t) : runEvent m s = .next t := by
  simp [runEvent, h]

@[simp] theorem onUnits_true (f : State → State) (s : State) : onUnits true f s = .next (f s) := rfl

/-! ### Taking an exception and returning -/

/-- A trap that is not fatal writes the trap registers of its core alone, whose group apart. -/
theorem State.takeTrap_ok {s : State} {n : Nat} (h : s.fatal n = false) (epc : Word) (k : Cause) (a v : Bool) (e : Word) :
    s.takeTrap n epc k a v e =
      (s.groupTrap n).modCore n (fun c => c.enter ((s.ctx (s.ctxOf n)).tvec) (s.stackTop n) epc (ecauseOf a v k.code) e) := by
  simp [State.takeTrap, h]

/-- A fatal trap stops the context (R337). -/
theorem State.takeTrap_fatal {s : State} {n : Nat} (h : s.fatal n = true) (epc : Word) (k : Cause) (a v : Bool) (e : Word) :
    s.takeTrap n epc k a v e = s.faultContext (s.ctxOf n) := by
  simp [State.takeTrap, h]

/-! ### Results -/

/-- A result for g0 is discarded and forms no label. -/
theorem result_zero (v : Word) (ls : List Label) (s : State) : result 0 v ls s = .ok () (s.modCore s.cur Core.past) := rfl

/-- A result is written under the product of its factors. -/
theorem result_ok {d : GReg} {ls : List Label} {l : Label} {s t : State} (hd : d ≠ 0) (h : formLabel ls s = .ok l t) (v : Word) :
    result d v ls s = .ok () (t.modCore t.cur (fun c => (c.wg d v l).past)) := by
  have h1 : writeG d v ls s = .ok () (t.modCore t.cur (fun c => c.wg d v l)) := by
    unfold writeG
    rw [if_neg hd]
    exact M.bind_ok s t h
  unfold result
  rw [M.bind_ok s _ h1]
  simp

/-- A result whose factors form no label ends the step as the fold ended. -/
theorem result_error {d : GReg} {ls : List Label} {e : Stop} {s t : State} (hd : d ≠ 0) (h : formLabel ls s = .error e t)
    (v : Word) : result d v ls s = .error e t := by
  have h1 : writeG d v ls s = .error e t := by
    unfold writeG
    rw [if_neg hd]
    exact M.bind_error s t h
  unfold result
  exact M.bind_error s t h1

/-! ### Labels of few factors -/

/-- TRUE factors cost nothing and change nothing. -/
theorem foldProd_true (w : Who) (pol : Policy) (ls : List Label) (h : ∀ l ∈ ls, l = labelTrue) (f : Formed) (s : State) :
    foldProd w pol f ls s = .ok f s := by
  induction ls generalizing f with
  | nil => rfl
  | cons l r ih =>
    have hl : l = labelTrue := h l (by simp)
    subst hl
    have hp : prod w pol f.label labelTrue s = .ok ⟨f.label, false⟩ s := by
      unfold prod
      split
      · rename_i e; rw [e]; rfl
      · rfl
    unfold foldProd
    rw [M.bind_ok s s hp]
    have := ih (fun x hx => h x (by simp [hx])) ⟨f.label, f.cut || false⟩
    simpa using this

/-- An instruction whose factors are all TRUE gives TRUE and changes nothing. -/
theorem formLabel_true (ls : List Label) (h : ∀ l ∈ ls, l = labelTrue) (s : State) (hg : s.me.guardLabel = labelTrue) :
    formLabel ls s = .ok labelTrue s := by
  unfold formLabel forMe
  simp only [M.run_bind, M.run_get]
  rw [foldProd_true]
  · rfl
  · intro l hl
    rcases List.mem_append.mp hl with h1 | h1
    · exact h l h1
    · simp only [List.mem_singleton] at h1
      rw [h1]; exact hg

/-! ### Properties that operations keep -/

section
variable {P : State → Prop} {α β : Type}

theorem Keeps.pure (a : α) : Keeps P (Pure.pure a : M α) := fun _ h => h
theorem Keeps.get : Keeps P (MonadState.get : M State) := fun _ h => h
theorem Keeps.throw (e : Stop) : Keeps P (MonadExcept.throw e : M α) := fun _ h => h
theorem Keeps.getMe : Keeps P Machine.getMe := fun _ h => h
theorem Keeps.raise (c : Cause) (i : Info) : Keeps P (Machine.raise c i : M α) := fun _ h => h
theorem Keeps.stall : Keeps P (Machine.stall : M α) := fun _ h => h
theorem Keeps.holdOn (r : RunState) (w : Wait) : Keeps P (Machine.holdOn r w : M α) := fun _ h => h
theorem Keeps.needs (b : Bool) : Keeps P (Machine.needs b) := by
  intro s h
  cases b <;> exact h
theorem Keeps.modS {f : State → State} (hf : ∀ s, P s → P (f s)) : Keeps P (Machine.modS f) := fun s h => hf s h
theorem Keeps.modMe {f : Core → Core} (hf : ∀ s, P s → P (s.modCore s.cur f)) : Keeps P (Machine.modMe f) := fun s h => hf s h

theorem Keeps.bind {m : M α} {f : α → M β} (hm : Keeps P m) (hf : ∀ a, Keeps P (f a)) : Keeps P (m >>= f) := by
  intro s h
  have h1 := hm s h
  rw [M.run_bind]
  cases hr : m s with
  | ok a t => rw [hr] at h1; exact hf a t h1
  | error e t => rw [hr] at h1; exact h1

theorem Keeps.ite {c : Prop} [Decidable c] {m n : M α} (hm : Keeps P m) (hn : Keeps P n) : Keeps P (if c then m else n) := by
  split <;> assumption

theorem Keeps.forM (l : List β) {f : β → M PUnit} (hf : ∀ b, Keeps P (f b)) : Keeps P (l.forM f) := by
  induction l with
  | nil => exact Keeps.pure _
  | cons b r ih => exact Keeps.bind (hf b) (fun _ => ih)

/-- An instruction keeps a property that its operation and the ways it can end keep. -/
theorem Keeps.runI {i : Instr} {m : M Unit} {s t : State} (hm : Keeps P m) (hs : P s)
    (he : ∀ e u v, P u → P v → endStep i e u v = .next t → P t) (h : Machine.runI i m s = .next t) : P t := by
  unfold Machine.runI at h
  have h1 := hm s hs
  cases hr : m s with
  | ok a u => rw [hr] at h h1; cases h; exact h1
  | error e u => rw [hr] at h h1; exact he e s u hs h1 h
end

/-! ### Canonical memory -/

theorem State.canonical_of_eq {s t : State} (h : s.Canonical) (hm : t.mem = s.mem) (ht : t.tags = s.tags) : t.Canonical := by
  unfold State.Canonical
  rw [hm, ht]
  exact h

@[simp] theorem State.modCore_canonical (s : State) (n : Nat) (f : Core → Core) : (s.modCore n f).Canonical ↔ s.Canonical := Iff.rfl
@[simp] theorem State.setCore_canonical (s : State) (n : Nat) (c : Core) : (s.setCore n c).Canonical ↔ s.Canonical := Iff.rfl
@[simp] theorem State.modCluster_canonical (s : State) (n : Nat) (f : Cluster → Cluster) :
    (s.modCluster n f).Canonical ↔ s.Canonical := Iff.rfl
@[simp] theorem State.modCtx_canonical (s : State) (n : Nat) (f : Context → Context) :
    (s.modCtx n f).Canonical ↔ s.Canonical := Iff.rfl
@[simp] theorem State.modKernel_canonical (s : State) (n : Nat) (f : Kernel → Kernel) :
    (s.modKernel n f).Canonical ↔ s.Canonical := Iff.rfl
@[simp] theorem State.modTower_canonical (s : State) (n : Nat) (f : Tower → Tower) :
    (s.modTower n f).Canonical ↔ s.Canonical := Iff.rfl
@[simp] theorem State.modLayer_canonical (s : State) (n : Nat) (f : Layer → Layer) :
    (s.modLayer n f).Canonical ↔ s.Canonical := Iff.rfl
@[simp] theorem State.modPart_canonical (s : State) (n : Nat) (f : Partition → Partition) :
    (s.modPart n f).Canonical ↔ s.Canonical := Iff.rfl
@[simp] theorem State.modLink_canonical (s : State) (n : Nat) (f : Link → Link) :
    (s.modLink n f).Canonical ↔ s.Canonical := Iff.rfl
@[simp] theorem State.note_canonical (s : State) (n : Note) : (s.note n).Canonical ↔ s.Canonical := Iff.rfl
@[simp] theorem State.setAgent_canonical (s : State) (t L : Nat) (a : Agent) : (s.setAgent t L a).Canonical ↔ s.Canonical := Iff.rfl
@[simp] theorem State.setDir_canonical (s : State) (L : Nat) (d : Dir) : (s.setDir L d).Canonical ↔ s.Canonical := Iff.rfl

theorem State.wakeLocal_mem (s : State) (k : Nat) : (s.wakeLocal k).mem = s.mem ∧ (s.wakeLocal k).tags = s.tags := by
  unfold State.wakeLocal
  split
  · exact ⟨rfl, rfl⟩
  · split <;> exact ⟨rfl, rfl⟩

theorem State.poke_canonical {s : State} (h : s.Canonical) (k v n : Nat) : (s.poke k v n).Canonical := by
  have e := State.wakeLocal_mem { s with mem := writeNat s.mem k v n, damaged := repaired s.damaged k n } k
  refine ⟨?_, ?_⟩
  · rw [State.poke, e.1]; exact writeNat_wf n h.1 k v
  · rw [State.poke, e.2]; exact h.2

theorem State.dropLeases_mem (s : State) (k n : Nat) : (s.dropLeases k n).mem = s.mem ∧ (s.dropLeases k n).tags = s.tags := by
  unfold State.dropLeases
  dsimp only
  split <;> exact ⟨rfl, rfl⟩

/-- What each step of a fold keeps, the fold keeps. -/
theorem foldl_keeps {σ α : Type} {P : σ → Prop} (l : List α) (f : σ → α → σ) (h : ∀ s x, P s → P (f s x)) {s : σ} (hs : P s) :
    P (l.foldl f s) := by
  induction l generalizing s with
  | nil => exact hs
  | cons x r ih => exact ih (h s x hs)

theorem State.askRecall_canonical {s : State} (h : s.Canonical) (L : Nat) : (s.askRecall L).Canonical := by
  unfold State.askRecall
  split <;> exact h

theorem State.walked_canonical {s : State} (h : s.Canonical) (x va : Nat) : (s.walked x va).Canonical := by
  unfold State.walked
  exact foldl_keeps (P := State.Canonical) _ _ (fun s a hs => State.askRecall_canonical hs _) h

theorem State.stampLine_canonical {s : State} (h : s.Canonical) (L : Nat) : (s.stampLine L).Canonical := by
  unfold State.stampLine
  split
  · refine foldl_keeps (P := State.Canonical) _ _ ?_ h
    intro s t hs
    dsimp only
    split <;> exact hs
  · exact h

theorem State.foldUnder_canonical {s : State} (h : s.Canonical) (k n : Nat) : (s.foldUnder k n).Canonical := by
  unfold State.foldUnder
  dsimp only
  split
  · exact h
  · apply State.askRecall_canonical
    apply foldl_keeps (P := State.Canonical)
    · intro s t hs
      split <;> exact hs
    · apply foldl_keeps (P := State.Canonical)
      · intro s e hs
        split <;> exact hs
      · refine ⟨?_, h.2⟩
        apply foldl_keeps (P := fun m : Memory => Memory.wf m) _ _ _ h.1
        intro m e hm
        apply foldl_keeps (P := fun m : Memory => Memory.wf m) _ _ _ hm
        intro m p hm
        exact writeNat_wf _ hm _ _

theorem State.dropLeases_canonical {s : State} (h : s.Canonical) (k n : Nat) : (s.dropLeases k n).Canonical := by
  have e := State.dropLeases_mem s k n
  exact ⟨by rw [e.1]; exact h.1, by rw [e.2]; exact h.2⟩

theorem foldl_setTag_wf (l : List Nat) (x : Label) {t : Tags} (h : Tags.wf t) :
    Tags.wf (l.foldl (fun t w => t.set labelTrue w x) t) := by
  induction l generalizing t with
  | nil => exact h
  | cons w r ih => exact ih (AMap.wf_set h _ _)

theorem State.plinthWrite_canonical {s : State} (h : s.Canonical) (k v n : Nat) : (s.plinthWrite k v n).Canonical := by
  have hp := State.stampLine_canonical (State.dropLeases_canonical (State.poke_canonical (State.foldUnder_canonical h k n) k v n) k n)
    (lineOf k)
  exact ⟨hp.1, foldl_setTag_wf _ _ hp.2⟩

theorem State.store_canonical {s : State} (h : s.Canonical) (loc : Loc) (size v : Nat) (tags : List (Nat × Label)) :
    (s.store loc size v tags).Canonical := by
  have hp := State.poke_canonical h loc.key v size
  unfold State.store
  dsimp only
  split
  · exact hp
  · exact ⟨hp.1, AMap.wf_foldl tags (fun e => e) hp.2⟩

theorem State.putLine_canonical {s : State} (h : s.Canonical) (L : Nat) (d : Line) (t : LineTags) : (s.putLine L d t).Canonical := by
  unfold State.putLine
  exact ⟨writeNat_wf 64 h.1 L _, AMap.wf_foldl (List.range 16) (fun i => (L / 4 + i, tagGet t i)) h.2⟩

/-- After reset memory is canonical. -/
theorem reset_canonical : State.reset.mem = [] ∧ State.reset.tags = [] := ⟨rfl, rfl⟩

end Sys2Proof.Machine
end

