-- ==== Sys2Proof/Laws/Canonical.lean ====
section
/-! SUPPORT. Memory stays canonical through traps, posted faults, machine checks and the ends of a step. -/

namespace Sys2Proof.Machine

theorem State.canonical_ite {c : Prop} [Decidable c] {s t : State} (hs : s.Canonical) (ht : t.Canonical) :
    (if c then s else t).Canonical := by
  by_cases h : c
  · rw [if_pos h]; exact hs
  · rw [if_neg h]; exact ht

theorem State.stopCores_canonical {s : State} (h : s.Canonical) (x : Nat) : (s.stopCores x).Canonical := by
  unfold State.stopCores
  refine foldl_keeps (P := State.Canonical) _ _ ?_ h
  intro s n h
  exact h

theorem State.stopCheck_canonical {s : State} (h : s.Canonical) (x : Nat) : (s.stopCheck x).Canonical := by
  unfold State.stopCheck
  dsimp only
  split
  · exact h
  · exact h

theorem State.faultContext_canonical {s : State} (h : s.Canonical) (x : Nat) : (s.faultContext x).Canonical :=
  State.stopCheck_canonical ((State.note_canonical _ _).mpr ((State.modCtx_canonical _ _ _).mpr (State.stopCores_canonical h x))) x

theorem State.groupTrap_canonical {s : State} (h : s.Canonical) (n : Nat) : (s.groupTrap n).Canonical := by
  unfold State.groupTrap
  refine State.canonical_ite h (State.canonical_ite ?_ h)
  refine foldl_keeps (P := State.Canonical) _ _ ?_ h
  intro s n h
  exact h

theorem State.takeTrap_canonical {s : State} (h : s.Canonical) (n : Nat) (epc : Word) (k : Cause) (a v : Bool) (e : Word) :
    (s.takeTrap n epc k a v e).Canonical := by
  unfold State.takeTrap
  exact State.canonical_ite (State.faultContext_canonical h _) (State.groupTrap_canonical h n)

theorem State.trapInstr_canonical {s : State} (h : s.Canonical) (n : Nat) (w : HWord) (k : Cause) (i : Info) :
    (s.trapInstr n w k i).Canonical := State.takeTrap_canonical h _ _ _ _ _ _

theorem State.write_canonical {s : State} (h : s.Canonical) {k v n : Nat} : (s.plinthWrite k v n).Canonical :=
  State.plinthWrite_canonical h k v n

theorem State.fbEntry_canonical {s : State} (h : s.Canonical) (e va who kind level : Nat) :
    (s.fbEntry e va who kind level).Canonical := by
  rw [State.fbEntry]
  exact State.write_canonical (State.write_canonical (State.write_canonical (State.write_canonical (State.write_canonical
    (State.write_canonical h)))))

theorem State.fbPost_canonical {s : State} (h : s.Canonical) (x l b va who kind level : Nat) :
    (s.fbPost x l b va who kind level).Canonical := by
  rw [State.fbPost]
  split
  · exact State.write_canonical h
  · split
    · exact State.write_canonical (State.fbEntry_canonical h _ _ _ _ _)
    · exact (State.modCtx_canonical _ _ _).mpr (State.write_canonical h)

theorem State.postFault_canonical {s : State} (h : s.Canonical) (x l va who kind level : Nat) :
    (s.postFault x l va who kind level).Canonical := by
  have hp := State.fbPost_canonical (State.walked_canonical h x va) x l ((s.ctx x).faultBuffer l) va who kind level
  rw [State.postFault]
  split
  · exact (State.modCtx_canonical _ _ _).mpr hp
  · exact (State.note_canonical _ _).mpr ((State.modCtx_canonical _ _ _).mpr hp)

theorem State.mcPut_canonical {s : State} (h : s.Canonical) (r kind origin seq : Nat) (addrs : List Nat) :
    (s.mcPut r kind origin seq addrs).Canonical := by
  rw [State.mcPut]
  refine foldl_keeps (P := State.Canonical) _ _ ?_ ?_
  · intro t i ht
    exact State.write_canonical ht
  · exact State.write_canonical (State.write_canonical (State.write_canonical (State.write_canonical h)))

theorem State.mcAppend_canonical {s : State} (h : s.Canonical) (b kind origin seq : Nat) (addrs : List Nat) :
    (s.mcAppend b kind origin seq addrs).Canonical := by
  rw [State.mcAppend]
  split
  · exact State.write_canonical (State.mcPut_canonical h _ _ _ _ _)
  · exact State.write_canonical h

theorem State.mcRecord_canonical {s : State} (h : s.Canonical) (x kind origin : Nat) (addrs : List Nat) :
    (s.mcRecord x kind origin addrs).1.Canonical := State.mcAppend_canonical h _ _ _ _ _

theorem State.mcRecords_canonical {s : State} (h : s.Canonical) (x kind origin : Nat) (addrs : List Nat) :
    (s.mcRecords x kind origin addrs).1.Canonical := by
  rw [State.mcRecords]
  split
  · exact h
  · refine foldl_keeps (P := fun a : State × Nat × Bool => a.1.Canonical) _ _ ?_ h
    intro a l ha
    exact State.mcRecord_canonical ha x kind origin l

theorem State.machineCheck_canonical {s : State} (h : s.Canonical) (x kind origin : Nat) (addrs : List Nat) (core : Option Nat) :
    (s.machineCheck x kind origin addrs core).Canonical := by
  rw [State.machineCheck]
  exact (State.note_canonical _ _).mpr ((State.modCtx_canonical _ _ _).mpr (State.mcRecords_canonical h x kind origin addrs))

theorem State.unless_canonical {s : State} (h : s.Canonical) (e : Stop) : (s.unless e).Canonical := by
  cases e with
  | recalls L => exact State.askRecall_canonical h L
  | trap c i => exact h
  | absent x l va acc level fuller => exact h
  | hold r w => exact h

/-- However a step ends, memory stays canonical. -/
theorem endStep_canonical {i : Instr} {e : Stop} {s t u : State} (hs : s.Canonical) (ht : t.Canonical)
    (h : endStep i e s t = .next u) : u.Canonical := by
  unfold endStep at h
  split at h
  · cases h; exact State.trapInstr_canonical (s := t.keepLoss s) ht _ _ _ _
  · cases h; exact State.postFault_canonical hs _ _ _ _ _ _
  · cases h; exact ht
  · cases h; exact State.askRecall_canonical hs _

/-- An instruction whose operation keeps memory canonical keeps it, however it ends. -/
theorem runI_canonical {i : Instr} {m : M Unit} (hm : Keeps State.Canonical m) {s t : State} (hs : s.Canonical)
    (h : runI i m s = .next t) : t.Canonical :=
  Keeps.runI hm hs (fun _ _ _ hu hv he => endStep_canonical hu hv he) h

theorem runEngine_canonical {n : Nat} {e : Engine} {m : M Unit} (hm : Keeps State.Canonical m) {s t : State} (hs : s.Canonical)
    (h : runEngine n e m s = .next t) : t.Canonical := by
  unfold runEngine at h
  have h1 := hm s hs
  cases hr : m s with
  | ok a u => rw [hr] at h h1; cases h; exact h1
  | error x u =>
    rw [hr] at h
    cases x with
    | absent x l va acc level fuller => cases h; exact State.postFault_canonical hs _ _ _ _ _ _
    | trap c y => cases h; exact hs
    | hold r w => cases h; exact hs
    | recalls L => cases h; exact State.askRecall_canonical hs L

theorem runEvent_canonical {m : M Unit} (hm : Keeps State.Canonical m) {s t : State} (hs : s.Canonical)
    (h : runEvent m s = .next t) : t.Canonical := by
  unfold runEvent at h
  have h1 := hm s hs
  cases hr : m s with
  | ok a u => rw [hr] at h h1; cases h; exact h1
  | error x u => rw [hr] at h; cases h; exact State.unless_canonical hs x

end Sys2Proof.Machine
end

