-- ==== Sys2Proof/Laws/Forms.lean ====
section
/-! SUPPORT. Fields of a word in each form (R57): extracting a field of a word gives the field that the form was built from. -/

namespace Sys2Proof

theorem formT_f (op : BitVec 6) (d : BitVec 5) (a : BitVec 5) (b : BitVec 5) (f : BitVec 11) : (formT op d a b f).extractLsb' 0 11 = f := by
  unfold formT
  ext i hi
  simp only [BitVec.getElem_extractLsb', BitVec.getLsbD_append]
  split
  · rw [BitVec.getLsbD_eq_getElem (by omega)]; congr 1; omega
  · omega

theorem formT_b (op : BitVec 6) (d : BitVec 5) (a : BitVec 5) (b : BitVec 5) (f : BitVec 11) : (formT op d a b f).extractLsb' 11 5 = b := by
  unfold formT
  ext i hi
  simp only [BitVec.getElem_extractLsb', BitVec.getLsbD_append]
  split
  · omega
  split
  · rw [BitVec.getLsbD_eq_getElem (by omega)]; congr 1; omega
  · omega

theorem formT_a (op : BitVec 6) (d : BitVec 5) (a : BitVec 5) (b : BitVec 5) (f : BitVec 11) : (formT op d a b f).extractLsb' 16 5 = a := by
  unfold formT
  ext i hi
  simp only [BitVec.getElem_extractLsb', BitVec.getLsbD_append]
  split
  · omega
  split
  · omega
  split
  · rw [BitVec.getLsbD_eq_getElem (by omega)]; congr 1; omega
  · omega

theorem formT_d (op : BitVec 6) (d : BitVec 5) (a : BitVec 5) (b : BitVec 5) (f : BitVec 11) : (formT op d a b f).extractLsb' 21 5 = d := by
  unfold formT
  ext i hi
  simp only [BitVec.getElem_extractLsb', BitVec.getLsbD_append]
  split
  · omega
  split
  · omega
  split
  · omega
  split
  · rw [BitVec.getLsbD_eq_getElem (by omega)]; congr 1; omega
  · omega

theorem formT_opcode (op : BitVec 6) (d : BitVec 5) (a : BitVec 5) (b : BitVec 5) (f : BitVec 11) : (formT op d a b f).extractLsb' 26 6 = op := by
  unfold formT
  ext i hi
  simp only [BitVec.getElem_extractLsb', BitVec.getLsbD_append]
  split
  · omega
  split
  · omega
  split
  · omega
  split
  · omega
  rw [BitVec.getLsbD_eq_getElem (by omega)]; congr 1; omega

theorem formI_i (op : BitVec 6) (d : BitVec 5) (a : BitVec 5) (i : BitVec 16) : (formI op d a i).extractLsb' 0 16 = i := by
  unfold formI
  ext i hi
  simp only [BitVec.getElem_extractLsb', BitVec.getLsbD_append]
  split
  · rw [BitVec.getLsbD_eq_getElem (by omega)]; congr 1; omega
  · omega

theorem formI_a (op : BitVec 6) (d : BitVec 5) (a : BitVec 5) (i : BitVec 16) : (formI op d a i).extractLsb' 16 5 = a := by
  unfold formI
  ext i hi
  simp only [BitVec.getElem_extractLsb', BitVec.getLsbD_append]
  split
  · omega
  split
  · rw [BitVec.getLsbD_eq_getElem (by omega)]; congr 1; omega
  · omega

theorem formI_d (op : BitVec 6) (d : BitVec 5) (a : BitVec 5) (i : BitVec 16) : (formI op d a i).extractLsb' 21 5 = d := by
  unfold formI
  ext i hi
  simp only [BitVec.getElem_extractLsb', BitVec.getLsbD_append]
  split
  · omega
  split
  · omega
  split
  · rw [BitVec.getLsbD_eq_getElem (by omega)]; congr 1; omega
  · omega

theorem formI_opcode (op : BitVec 6) (d : BitVec 5) (a : BitVec 5) (i : BitVec 16) : (formI op d a i).extractLsb' 26 6 = op := by
  unfold formI
  ext i hi
  simp only [BitVec.getElem_extractLsb', BitVec.getLsbD_append]
  split
  · omega
  split
  · omega
  split
  · omega
  rw [BitVec.getLsbD_eq_getElem (by omega)]; congr 1; omega

theorem formL_i (op : BitVec 6) (d : BitVec 5) (i : BitVec 21) : (formL op d i).extractLsb' 0 21 = i := by
  unfold formL
  ext i hi
  simp only [BitVec.getElem_extractLsb', BitVec.getLsbD_append]
  split
  · rw [BitVec.getLsbD_eq_getElem (by omega)]; congr 1; omega
  · omega

theorem formL_d (op : BitVec 6) (d : BitVec 5) (i : BitVec 21) : (formL op d i).extractLsb' 21 5 = d := by
  unfold formL
  ext i hi
  simp only [BitVec.getElem_extractLsb', BitVec.getLsbD_append]
  split
  · omega
  split
  · rw [BitVec.getLsbD_eq_getElem (by omega)]; congr 1; omega
  · omega

theorem formL_opcode (op : BitVec 6) (d : BitVec 5) (i : BitVec 21) : (formL op d i).extractLsb' 26 6 = op := by
  unfold formL
  ext i hi
  simp only [BitVec.getElem_extractLsb', BitVec.getLsbD_append]
  split
  · omega
  split
  · omega
  rw [BitVec.getLsbD_eq_getElem (by omega)]; congr 1; omega

theorem formJ_o (op : BitVec 6) (o : BitVec 26) : (formJ op o).extractLsb' 0 26 = o := by
  unfold formJ
  ext i hi
  simp only [BitVec.getElem_extractLsb', BitVec.getLsbD_append]
  split
  · rw [BitVec.getLsbD_eq_getElem (by omega)]; congr 1; omega
  · omega

theorem formJ_opcode (op : BitVec 6) (o : BitVec 26) : (formJ op o).extractLsb' 26 6 = op := by
  unfold formJ
  ext i hi
  simp only [BitVec.getElem_extractLsb', BitVec.getLsbD_append]
  split
  · omega
  rw [BitVec.getLsbD_eq_getElem (by omega)]; congr 1; omega

theorem formB_o (op : BitVec 6) (c : BitVec 3) (a : BitVec 5) (b : BitVec 5) (o : BitVec 13) : (formB op c a b o).extractLsb' 0 13 = o := by
  unfold formB
  ext i hi
  simp only [BitVec.getElem_extractLsb', BitVec.getLsbD_append]
  split
  · rw [BitVec.getLsbD_eq_getElem (by omega)]; congr 1; omega
  · omega

theorem formB_b (op : BitVec 6) (c : BitVec 3) (a : BitVec 5) (b : BitVec 5) (o : BitVec 13) : (formB op c a b o).extractLsb' 13 5 = b := by
  unfold formB
  ext i hi
  simp only [BitVec.getElem_extractLsb', BitVec.getLsbD_append]
  split
  · omega
  split
  · rw [BitVec.getLsbD_eq_getElem (by omega)]; congr 1; omega
  · omega

theorem formB_a (op : BitVec 6) (c : BitVec 3) (a : BitVec 5) (b : BitVec 5) (o : BitVec 13) : (formB op c a b o).extractLsb' 18 5 = a := by
  unfold formB
  ext i hi
  simp only [BitVec.getElem_extractLsb', BitVec.getLsbD_append]
  split
  · omega
  split
  · omega
  split
  · rw [BitVec.getLsbD_eq_getElem (by omega)]; congr 1; omega
  · omega

theorem formB_c (op : BitVec 6) (c : BitVec 3) (a : BitVec 5) (b : BitVec 5) (o : BitVec 13) : (formB op c a b o).extractLsb' 23 3 = c := by
  unfold formB
  ext i hi
  simp only [BitVec.getElem_extractLsb', BitVec.getLsbD_append]
  split
  · omega
  split
  · omega
  split
  · omega
  split
  · rw [BitVec.getLsbD_eq_getElem (by omega)]; congr 1; omega
  · omega

theorem formB_opcode (op : BitVec 6) (c : BitVec 3) (a : BitVec 5) (b : BitVec 5) (o : BitVec 13) : (formB op c a b o).extractLsb' 26 6 = op := by
  unfold formB
  ext i hi
  simp only [BitVec.getElem_extractLsb', BitVec.getLsbD_append]
  split
  · omega
  split
  · omega
  split
  · omega
  split
  · omega
  rw [BitVec.getLsbD_eq_getElem (by omega)]; congr 1; omega

theorem formM_o (op : BitVec 6) (d : BitVec 5) (a : BitVec 5) (z : BitVec 3) (r : BitVec 2) (o : BitVec 11) : (formM op d a z r o).extractLsb' 0 11 = o := by
  unfold formM
  ext i hi
  simp only [BitVec.getElem_extractLsb', BitVec.getLsbD_append]
  split
  · rw [BitVec.getLsbD_eq_getElem (by omega)]; congr 1; omega
  · omega

theorem formM_r (op : BitVec 6) (d : BitVec 5) (a : BitVec 5) (z : BitVec 3) (r : BitVec 2) (o : BitVec 11) : (formM op d a z r o).extractLsb' 11 2 = r := by
  unfold formM
  ext i hi
  simp only [BitVec.getElem_extractLsb', BitVec.getLsbD_append]
  split
  · omega
  split
  · rw [BitVec.getLsbD_eq_getElem (by omega)]; congr 1; omega
  · omega

theorem formM_z (op : BitVec 6) (d : BitVec 5) (a : BitVec 5) (z : BitVec 3) (r : BitVec 2) (o : BitVec 11) : (formM op d a z r o).extractLsb' 13 3 = z := by
  unfold formM
  ext i hi
  simp only [BitVec.getElem_extractLsb', BitVec.getLsbD_append]
  split
  · omega
  split
  · omega
  split
  · rw [BitVec.getLsbD_eq_getElem (by omega)]; congr 1; omega
  · omega

theorem formM_a (op : BitVec 6) (d : BitVec 5) (a : BitVec 5) (z : BitVec 3) (r : BitVec 2) (o : BitVec 11) : (formM op d a z r o).extractLsb' 16 5 = a := by
  unfold formM
  ext i hi
  simp only [BitVec.getElem_extractLsb', BitVec.getLsbD_append]
  split
  · omega
  split
  · omega
  split
  · omega
  split
  · rw [BitVec.getLsbD_eq_getElem (by omega)]; congr 1; omega
  · omega

theorem formM_d (op : BitVec 6) (d : BitVec 5) (a : BitVec 5) (z : BitVec 3) (r : BitVec 2) (o : BitVec 11) : (formM op d a z r o).extractLsb' 21 5 = d := by
  unfold formM
  ext i hi
  simp only [BitVec.getElem_extractLsb', BitVec.getLsbD_append]
  split
  · omega
  split
  · omega
  split
  · omega
  split
  · omega
  split
  · rw [BitVec.getLsbD_eq_getElem (by omega)]; congr 1; omega
  · omega

theorem formM_opcode (op : BitVec 6) (d : BitVec 5) (a : BitVec 5) (z : BitVec 3) (r : BitVec 2) (o : BitVec 11) : (formM op d a z r o).extractLsb' 26 6 = op := by
  unfold formM
  ext i hi
  simp only [BitVec.getElem_extractLsb', BitVec.getLsbD_append]
  split
  · omega
  split
  · omega
  split
  · omega
  split
  · omega
  split
  · omega
  rw [BitVec.getLsbD_eq_getElem (by omega)]; congr 1; omega

theorem formQ_f (op : BitVec 6) (d : BitVec 5) (a : BitVec 5) (b : BitVec 5) (c : BitVec 5) (f : BitVec 6) : (formQ op d a b c f).extractLsb' 0 6 = f := by
  unfold formQ
  ext i hi
  simp only [BitVec.getElem_extractLsb', BitVec.getLsbD_append]
  split
  · rw [BitVec.getLsbD_eq_getElem (by omega)]; congr 1; omega
  · omega

theorem formQ_c (op : BitVec 6) (d : BitVec 5) (a : BitVec 5) (b : BitVec 5) (c : BitVec 5) (f : BitVec 6) : (formQ op d a b c f).extractLsb' 6 5 = c := by
  unfold formQ
  ext i hi
  simp only [BitVec.getElem_extractLsb', BitVec.getLsbD_append]
  split
  · omega
  split
  · rw [BitVec.getLsbD_eq_getElem (by omega)]; congr 1; omega
  · omega

theorem formQ_b (op : BitVec 6) (d : BitVec 5) (a : BitVec 5) (b : BitVec 5) (c : BitVec 5) (f : BitVec 6) : (formQ op d a b c f).extractLsb' 11 5 = b := by
  unfold formQ
  ext i hi
  simp only [BitVec.getElem_extractLsb', BitVec.getLsbD_append]
  split
  · omega
  split
  · omega
  split
  · rw [BitVec.getLsbD_eq_getElem (by omega)]; congr 1; omega
  · omega

theorem formQ_a (op : BitVec 6) (d : BitVec 5) (a : BitVec 5) (b : BitVec 5) (c : BitVec 5) (f : BitVec 6) : (formQ op d a b c f).extractLsb' 16 5 = a := by
  unfold formQ
  ext i hi
  simp only [BitVec.getElem_extractLsb', BitVec.getLsbD_append]
  split
  · omega
  split
  · omega
  split
  · omega
  split
  · rw [BitVec.getLsbD_eq_getElem (by omega)]; congr 1; omega
  · omega

theorem formQ_d (op : BitVec 6) (d : BitVec 5) (a : BitVec 5) (b : BitVec 5) (c : BitVec 5) (f : BitVec 6) : (formQ op d a b c f).extractLsb' 21 5 = d := by
  unfold formQ
  ext i hi
  simp only [BitVec.getElem_extractLsb', BitVec.getLsbD_append]
  split
  · omega
  split
  · omega
  split
  · omega
  split
  · omega
  split
  · rw [BitVec.getLsbD_eq_getElem (by omega)]; congr 1; omega
  · omega

theorem formQ_opcode (op : BitVec 6) (d : BitVec 5) (a : BitVec 5) (b : BitVec 5) (c : BitVec 5) (f : BitVec 6) : (formQ op d a b c f).extractLsb' 26 6 = op := by
  unfold formQ
  ext i hi
  simp only [BitVec.getElem_extractLsb', BitVec.getLsbD_append]
  split
  · omega
  split
  · omega
  split
  · omega
  split
  · omega
  split
  · omega
  rw [BitVec.getLsbD_eq_getElem (by omega)]; congr 1; omega

theorem formV_f (op : BitVec 6) (d : BitVec 4) (a : BitVec 4) (b : BitVec 4) (p : BitVec 3) (t : BitVec 4) (f : BitVec 7) : (formV op d a b p t f).extractLsb' 0 7 = f := by
  unfold formV
  ext i hi
  simp only [BitVec.getElem_extractLsb', BitVec.getLsbD_append]
  split
  · rw [BitVec.getLsbD_eq_getElem (by omega)]; congr 1; omega
  · omega

theorem formV_t (op : BitVec 6) (d : BitVec 4) (a : BitVec 4) (b : BitVec 4) (p : BitVec 3) (t : BitVec 4) (f : BitVec 7) : (formV op d a b p t f).extractLsb' 7 4 = t := by
  unfold formV
  ext i hi
  simp only [BitVec.getElem_extractLsb', BitVec.getLsbD_append]
  split
  · omega
  split
  · rw [BitVec.getLsbD_eq_getElem (by omega)]; congr 1; omega
  · omega

theorem formV_p (op : BitVec 6) (d : BitVec 4) (a : BitVec 4) (b : BitVec 4) (p : BitVec 3) (t : BitVec 4) (f : BitVec 7) : (formV op d a b p t f).extractLsb' 11 3 = p := by
  unfold formV
  ext i hi
  simp only [BitVec.getElem_extractLsb', BitVec.getLsbD_append]
  split
  · omega
  split
  · omega
  split
  · rw [BitVec.getLsbD_eq_getElem (by omega)]; congr 1; omega
  · omega

theorem formV_b (op : BitVec 6) (d : BitVec 4) (a : BitVec 4) (b : BitVec 4) (p : BitVec 3) (t : BitVec 4) (f : BitVec 7) : (formV op d a b p t f).extractLsb' 14 4 = b := by
  unfold formV
  ext i hi
  simp only [BitVec.getElem_extractLsb', BitVec.getLsbD_append]
  split
  · omega
  split
  · omega
  split
  · omega
  split
  · rw [BitVec.getLsbD_eq_getElem (by omega)]; congr 1; omega
  · omega

theorem formV_a (op : BitVec 6) (d : BitVec 4) (a : BitVec 4) (b : BitVec 4) (p : BitVec 3) (t : BitVec 4) (f : BitVec 7) : (formV op d a b p t f).extractLsb' 18 4 = a := by
  unfold formV
  ext i hi
  simp only [BitVec.getElem_extractLsb', BitVec.getLsbD_append]
  split
  · omega
  split
  · omega
  split
  · omega
  split
  · omega
  split
  · rw [BitVec.getLsbD_eq_getElem (by omega)]; congr 1; omega
  · omega

theorem formV_d (op : BitVec 6) (d : BitVec 4) (a : BitVec 4) (b : BitVec 4) (p : BitVec 3) (t : BitVec 4) (f : BitVec 7) : (formV op d a b p t f).extractLsb' 22 4 = d := by
  unfold formV
  ext i hi
  simp only [BitVec.getElem_extractLsb', BitVec.getLsbD_append]
  split
  · omega
  split
  · omega
  split
  · omega
  split
  · omega
  split
  · omega
  split
  · rw [BitVec.getLsbD_eq_getElem (by omega)]; congr 1; omega
  · omega

theorem formV_opcode (op : BitVec 6) (d : BitVec 4) (a : BitVec 4) (b : BitVec 4) (p : BitVec 3) (t : BitVec 4) (f : BitVec 7) : (formV op d a b p t f).extractLsb' 26 6 = op := by
  unfold formV
  ext i hi
  simp only [BitVec.getElem_extractLsb', BitVec.getLsbD_append]
  split
  · omega
  split
  · omega
  split
  · omega
  split
  · omega
  split
  · omega
  split
  · omega
  rw [BitVec.getLsbD_eq_getElem (by omega)]; congr 1; omega

theorem formS_i (f : BitVec 10) (d : BitVec 5) (a : BitVec 5) (i : BitVec 6) : (formS f d a i).extractLsb' 0 6 = i := by
  unfold formS
  ext i hi
  simp only [BitVec.getElem_extractLsb', BitVec.getLsbD_append]
  split
  · rw [BitVec.getLsbD_eq_getElem (by omega)]; congr 1; omega
  · omega

theorem formS_a (f : BitVec 10) (d : BitVec 5) (a : BitVec 5) (i : BitVec 6) : (formS f d a i).extractLsb' 6 5 = a := by
  unfold formS
  ext i hi
  simp only [BitVec.getElem_extractLsb', BitVec.getLsbD_append]
  split
  · omega
  split
  · rw [BitVec.getLsbD_eq_getElem (by omega)]; congr 1; omega
  · omega

theorem formS_d (f : BitVec 10) (d : BitVec 5) (a : BitVec 5) (i : BitVec 6) : (formS f d a i).extractLsb' 11 5 = d := by
  unfold formS
  ext i hi
  simp only [BitVec.getElem_extractLsb', BitVec.getLsbD_append]
  split
  · omega
  split
  · omega
  split
  · rw [BitVec.getLsbD_eq_getElem (by omega)]; congr 1; omega
  · omega

theorem formS_f (f : BitVec 10) (d : BitVec 5) (a : BitVec 5) (i : BitVec 6) : (formS f d a i).extractLsb' 16 10 = f := by
  unfold formS
  ext i hi
  simp only [BitVec.getElem_extractLsb', BitVec.getLsbD_append]
  split
  · omega
  split
  · omega
  split
  · omega
  split
  · rw [BitVec.getLsbD_eq_getElem (by omega)]; congr 1; omega
  · omega

theorem formS_opcode (f : BitVec 10) (d : BitVec 5) (a : BitVec 5) (i : BitVec 6) : (formS f d a i).extractLsb' 26 6 = (0 : BitVec 6) := by
  unfold formS
  ext i hi
  simp only [BitVec.getElem_extractLsb', BitVec.getLsbD_append]
  split
  · omega
  split
  · omega
  split
  · omega
  split
  · omega
  simp

theorem formP_zz (op : BitVec 6) (n : BitVec 4) (k : BitVec 4) (sd : BitVec 4) (sa : BitVec 4) (sb : BitVec 4) : (formP op n k sd sa sb).extractLsb' 0 6 = (0 : BitVec 6) := by
  unfold formP
  ext i hi
  simp only [BitVec.getElem_extractLsb', BitVec.getLsbD_append]
  split
  · simp
  · omega

theorem formP_sb (op : BitVec 6) (n : BitVec 4) (k : BitVec 4) (sd : BitVec 4) (sa : BitVec 4) (sb : BitVec 4) : (formP op n k sd sa sb).extractLsb' 6 4 = sb := by
  unfold formP
  ext i hi
  simp only [BitVec.getElem_extractLsb', BitVec.getLsbD_append]
  split
  · omega
  split
  · rw [BitVec.getLsbD_eq_getElem (by omega)]; congr 1; omega
  · omega

theorem formP_sa (op : BitVec 6) (n : BitVec 4) (k : BitVec 4) (sd : BitVec 4) (sa : BitVec 4) (sb : BitVec 4) : (formP op n k sd sa sb).extractLsb' 10 4 = sa := by
  unfold formP
  ext i hi
  simp only [BitVec.getElem_extractLsb', BitVec.getLsbD_append]
  split
  · omega
  split
  · omega
  split
  · rw [BitVec.getLsbD_eq_getElem (by omega)]; congr 1; omega
  · omega

theorem formP_sd (op : BitVec 6) (n : BitVec 4) (k : BitVec 4) (sd : BitVec 4) (sa : BitVec 4) (sb : BitVec 4) : (formP op n k sd sa sb).extractLsb' 14 4 = sd := by
  unfold formP
  ext i hi
  simp only [BitVec.getElem_extractLsb', BitVec.getLsbD_append]
  split
  · omega
  split
  · omega
  split
  · omega
  split
  · rw [BitVec.getLsbD_eq_getElem (by omega)]; congr 1; omega
  · omega

theorem formP_k (op : BitVec 6) (n : BitVec 4) (k : BitVec 4) (sd : BitVec 4) (sa : BitVec 4) (sb : BitVec 4) : (formP op n k sd sa sb).extractLsb' 18 4 = k := by
  unfold formP
  ext i hi
  simp only [BitVec.getElem_extractLsb', BitVec.getLsbD_append]
  split
  · omega
  split
  · omega
  split
  · omega
  split
  · omega
  split
  · rw [BitVec.getLsbD_eq_getElem (by omega)]; congr 1; omega
  · omega

theorem formP_n (op : BitVec 6) (n : BitVec 4) (k : BitVec 4) (sd : BitVec 4) (sa : BitVec 4) (sb : BitVec 4) : (formP op n k sd sa sb).extractLsb' 22 4 = n := by
  unfold formP
  ext i hi
  simp only [BitVec.getElem_extractLsb', BitVec.getLsbD_append]
  split
  · omega
  split
  · omega
  split
  · omega
  split
  · omega
  split
  · omega
  split
  · rw [BitVec.getLsbD_eq_getElem (by omega)]; congr 1; omega
  · omega

theorem formP_opcode (op : BitVec 6) (n : BitVec 4) (k : BitVec 4) (sd : BitVec 4) (sa : BitVec 4) (sb : BitVec 4) : (formP op n k sd sa sb).extractLsb' 26 6 = op := by
  unfold formP
  ext i hi
  simp only [BitVec.getElem_extractLsb', BitVec.getLsbD_append]
  split
  · omega
  split
  · omega
  split
  · omega
  split
  · omega
  split
  · omega
  split
  · omega
  rw [BitVec.getLsbD_eq_getElem (by omega)]; congr 1; omega

/-! ### Major opcodes -/

theorem opOf_formT (op : BitVec 6) (d : BitVec 5) (a : BitVec 5) (b : BitVec 5) (f : BitVec 11) : opOf (formT op d a b f) = op.toNat := by
  rw [opOf, formT_opcode]
theorem opOf_formI (op : BitVec 6) (d : BitVec 5) (a : BitVec 5) (i : BitVec 16) : opOf (formI op d a i) = op.toNat := by
  rw [opOf, formI_opcode]
theorem opOf_formL (op : BitVec 6) (d : BitVec 5) (i : BitVec 21) : opOf (formL op d i) = op.toNat := by
  rw [opOf, formL_opcode]
theorem opOf_formJ (op : BitVec 6) (o : BitVec 26) : opOf (formJ op o) = op.toNat := by
  rw [opOf, formJ_opcode]
theorem opOf_formB (op : BitVec 6) (c : BitVec 3) (a : BitVec 5) (b : BitVec 5) (o : BitVec 13) : opOf (formB op c a b o) = op.toNat := by
  rw [opOf, formB_opcode]
theorem opOf_formM (op : BitVec 6) (d : BitVec 5) (a : BitVec 5) (z : BitVec 3) (r : BitVec 2) (o : BitVec 11) : opOf (formM op d a z r o) = op.toNat := by
  rw [opOf, formM_opcode]
theorem opOf_formQ (op : BitVec 6) (d : BitVec 5) (a : BitVec 5) (b : BitVec 5) (c : BitVec 5) (f : BitVec 6) : opOf (formQ op d a b c f) = op.toNat := by
  rw [opOf, formQ_opcode]
theorem opOf_formV (op : BitVec 6) (d : BitVec 4) (a : BitVec 4) (b : BitVec 4) (p : BitVec 3) (t : BitVec 4) (f : BitVec 7) : opOf (formV op d a b p t f) = op.toNat := by
  rw [opOf, formV_opcode]
theorem opOf_formS (f : BitVec 10) (d a : BitVec 5) (i : BitVec 6) : opOf (formS f d a i) = 0 := by
  rw [opOf, formS_opcode]; rfl
theorem formS_ne_zero {f : BitVec 10} (h : f ≠ 0) (d a : BitVec 5) (i : BitVec 6) : formS f d a i ≠ 0 := by
  intro e
  have h1 := formS_f f d a i
  rw [e] at h1
  exact h (h1.symm.trans (by decide))
theorem ne_zero_of_opOf {w : HWord} (h : opOf w ≠ 0) : w ≠ 0 := by
  intro e
  subst e
  exact h (by decide)
theorem opOf_formP (op : BitVec 6) (n : BitVec 4) (k : BitVec 4) (sd : BitVec 4) (sa : BitVec 4) (sb : BitVec 4) : opOf (formP op n k sd sa sb) = op.toNat := by
  rw [opOf, formP_opcode]

end Sys2Proof
end

