-- ==== Sys2Proof/Laws/PerInstr.lean ====
section
/-! SUPPORT. Per instruction: its word is not zero and has an assigned major opcode (R59, R62), so no instruction shares a word with
the words that are none. -/

namespace Sys2Proof.Laws.Assigned

/-- The assigned major opcodes (R62). -/
def opcode (n : Nat) : Bool := n ≤ 0x0E || (0x10 ≤ n && n ≤ 0x21) || (0x28 ≤ n && n ≤ 0x2F)

/-- The word of an instruction is not zero and its major opcode is assigned. -/
def Statement (i : Instr) : Prop := ∀ w, encode i = some w → w ≠ 0 ∧ opcode (opOf w) = true

theorem of_op {n : Nat} {w w' : HWord} (h : some w = some w') (ho : opOf w = n) (hn : n ≠ 0) (ha : opcode n = true) :
    w' ≠ 0 ∧ opcode (opOf w') = true := by
  cases h
  exact ⟨ne_zero_of_opOf (by rw [ho]; exact hn), by rw [ho]; exact ha⟩

theorem of_sys {f : BitVec 10} {d a : BitVec 5} {i : BitVec 6} {w : HWord} (h : some (formS f d a i) = some w) (hf : f ≠ 0) :
    w ≠ 0 ∧ opcode (opOf w) = true := by
  cases h
  exact ⟨formS_ne_zero hf d a i, by rw [opOf_formS]; rfl⟩

theorem brk  : Statement (.brk) := fun _ h => of_sys h (by decide)
theorem trap (i : BitVec 6) : Statement (.trap i) := fun _ h => of_sys h (by decide)
theorem eret  : Statement (.eret) := fun _ h => of_sys h (by decide)
theorem guard (v : Bool) (n : PReg) : Statement (.guard v n) := fun _ h => of_sys h (by decide)
theorem yield  : Statement (.yield) := fun _ h => of_sys h (by decide)
theorem halt  : Statement (.halt) := fun _ h => of_sys h (by decide)
theorem mfc (d : GReg) (c : BitVec 6) : Statement (.mfc d c) := fun _ h => of_sys h (by decide)
theorem mfcFflags (d : GReg) : Statement (.mfcFflags d) := fun _ h => of_sys h (by decide)
theorem mtc (c : BitVec 6) (a : GReg) : Statement (.mtc c a) := fun _ h => of_sys h (by decide)
theorem mtcFflags (a : GReg) : Statement (.mtcFflags a) := fun _ h => of_sys h (by decide)
theorem mtcSrseed (a : GReg) : Statement (.mtcSrseed a) := fun _ h => of_sys h (by decide)
theorem mtcLspace (a : GReg) : Statement (.mtcLspace a) := fun _ h => of_sys h (by decide)
theorem mtcFbstat (a : GReg) : Statement (.mtcFbstat a) := fun _ h => of_sys h (by decide)
theorem mtcTracectl (a : GReg) : Statement (.mtcTracectl a) := fun _ h => of_sys h (by decide)
theorem tlbinvPage (a : GReg) : Statement (.tlbinvPage a) := fun _ h => of_sys h (by decide)
theorem tlbinvContext  : Statement (.tlbinvContext) := fun _ h => of_sys h (by decide)
theorem tlbinvPartition  : Statement (.tlbinvPartition) := fun _ h => of_sys h (by decide)
theorem freplay  : Statement (.freplay) := fun _ h => of_sys h (by decide)
theorem wayset (d a : GReg) : Statement (.wayset d a) := fun _ h => of_sys h (by decide)
theorem waysetQ (d a : GReg) : Statement (.waysetQ d a) := fun _ h => of_sys h (by decide)
theorem trace (a : GReg) (i : BitVec 6) : Statement (.trace a i) := fun _ h => of_sys h (by decide)
theorem sample (d : GReg) : Statement (.sample d) := fun _ h => of_sys h (by decide)
theorem add (d a b : GReg) : Statement (.add d a b) := fun _ h => of_op h (opOf_formT ..) (by decide) (by decide)
theorem sub (d a b : GReg) : Statement (.sub d a b) := fun _ h => of_op h (opOf_formT ..) (by decide) (by decide)
theorem and (d a b : GReg) : Statement (.and d a b) := fun _ h => of_op h (opOf_formT ..) (by decide) (by decide)
theorem or (d a b : GReg) : Statement (.or d a b) := fun _ h => of_op h (opOf_formT ..) (by decide) (by decide)
theorem xor (d a b : GReg) : Statement (.xor d a b) := fun _ h => of_op h (opOf_formT ..) (by decide) (by decide)
theorem andn (d a b : GReg) : Statement (.andn d a b) := fun _ h => of_op h (opOf_formT ..) (by decide) (by decide)
theorem orn (d a b : GReg) : Statement (.orn d a b) := fun _ h => of_op h (opOf_formT ..) (by decide) (by decide)
theorem sll (d a b : GReg) : Statement (.sll d a b) := fun _ h => of_op h (opOf_formT ..) (by decide) (by decide)
theorem srl (d a b : GReg) : Statement (.srl d a b) := fun _ h => of_op h (opOf_formT ..) (by decide) (by decide)
theorem sra (d a b : GReg) : Statement (.sra d a b) := fun _ h => of_op h (opOf_formT ..) (by decide) (by decide)
theorem rol (d a b : GReg) : Statement (.rol d a b) := fun _ h => of_op h (opOf_formT ..) (by decide) (by decide)
theorem ror (d a b : GReg) : Statement (.ror d a b) := fun _ h => of_op h (opOf_formT ..) (by decide) (by decide)
theorem min (d a b : GReg) : Statement (.min d a b) := fun _ h => of_op h (opOf_formT ..) (by decide) (by decide)
theorem max (d a b : GReg) : Statement (.max d a b) := fun _ h => of_op h (opOf_formT ..) (by decide) (by decide)
theorem minn (d a b : GReg) : Statement (.minn d a b) := fun _ h => of_op h (opOf_formT ..) (by decide) (by decide)
theorem maxn (d a b : GReg) : Statement (.maxn d a b) := fun _ h => of_op h (opOf_formT ..) (by decide) (by decide)
theorem seq (d a b : GReg) : Statement (.seq d a b) := fun _ h => of_op h (opOf_formT ..) (by decide) (by decide)
theorem sne (d a b : GReg) : Statement (.sne d a b) := fun _ h => of_op h (opOf_formT ..) (by decide) (by decide)
theorem slt (d a b : GReg) : Statement (.slt d a b) := fun _ h => of_op h (opOf_formT ..) (by decide) (by decide)
theorem sltn (d a b : GReg) : Statement (.sltn d a b) := fun _ h => of_op h (opOf_formT ..) (by decide) (by decide)
theorem sel (d : GReg) (n : PReg) (a b : GReg) : Statement (.sel d n a b) :=
  fun _ h => of_op h (opOf_formT ..) (by decide) (by decide)
theorem clz (d a : GReg) : Statement (.clz d a) := fun _ h => of_op h (opOf_formT ..) (by decide) (by decide)
theorem ctz (d a : GReg) : Statement (.ctz d a) := fun _ h => of_op h (opOf_formT ..) (by decide) (by decide)
theorem popc (d a : GReg) : Statement (.popc d a) := fun _ h => of_op h (opOf_formT ..) (by decide) (by decide)
theorem brev (d a : GReg) : Statement (.brev d a) := fun _ h => of_op h (opOf_formT ..) (by decide) (by decide)
theorem bswap (d a : GReg) : Statement (.bswap d a) := fun _ h => of_op h (opOf_formT ..) (by decide) (by decide)
theorem addi (d a : GReg) (i : BitVec 16) : Statement (.addi d a i) :=
  fun _ h => of_op h (opOf_formI ..) (by decide) (by decide)
theorem andi (d a : GReg) (i : BitVec 16) : Statement (.andi d a i) :=
  fun _ h => of_op h (opOf_formI ..) (by decide) (by decide)
theorem ori (d a : GReg) (i : BitVec 16) : Statement (.ori d a i) := fun _ h => of_op h (opOf_formI ..) (by decide) (by decide)
theorem xori (d a : GReg) (i : BitVec 16) : Statement (.xori d a i) :=
  fun _ h => of_op h (opOf_formI ..) (by decide) (by decide)
theorem slti (d a : GReg) (i : BitVec 16) : Statement (.slti d a i) :=
  fun _ h => of_op h (opOf_formI ..) (by decide) (by decide)
theorem sltni (d a : GReg) (i : BitVec 16) : Statement (.sltni d a i) :=
  fun _ h => of_op h (opOf_formI ..) (by decide) (by decide)
theorem slli (d a : GReg) (s : BitVec 6) : Statement (.slli d a s) := fun _ h => of_op h (opOf_formI ..) (by decide) (by decide)
theorem srli (d a : GReg) (s : BitVec 6) : Statement (.srli d a s) := fun _ h => of_op h (opOf_formI ..) (by decide) (by decide)
theorem srai (d a : GReg) (s : BitVec 6) : Statement (.srai d a s) := fun _ h => of_op h (opOf_formI ..) (by decide) (by decide)
theorem roli (d a : GReg) (s : BitVec 6) : Statement (.roli d a s) := fun _ h => of_op h (opOf_formI ..) (by decide) (by decide)
theorem lui (d : GReg) (k : BitVec 2) (i : BitVec 16) : Statement (.lui d k i) :=
  fun _ h => of_op h (opOf_formL ..) (by decide) (by decide)
theorem luiK (d : GReg) (k : BitVec 2) (i : BitVec 16) : Statement (.luiK d k i) :=
  fun _ h => of_op h (opOf_formL ..) (by decide) (by decide)
theorem adpc (d : GReg) (o : BitVec 21) : Statement (.adpc d o) := fun _ h => of_op h (opOf_formL ..) (by decide) (by decide)
theorem mul (d a b : GReg) : Statement (.mul d a b) := fun _ h => of_op h (opOf_formT ..) (by decide) (by decide)
theorem mulh (d a b : GReg) : Statement (.mulh d a b) := fun _ h => of_op h (opOf_formT ..) (by decide) (by decide)
theorem mulhn (d a b : GReg) : Statement (.mulhn d a b) := fun _ h => of_op h (opOf_formT ..) (by decide) (by decide)
theorem div (d a b : GReg) : Statement (.div d a b) := fun _ h => of_op h (opOf_formT ..) (by decide) (by decide)
theorem divn (d a b : GReg) : Statement (.divn d a b) := fun _ h => of_op h (opOf_formT ..) (by decide) (by decide)
theorem rem (d a b : GReg) : Statement (.rem d a b) := fun _ h => of_op h (opOf_formT ..) (by decide) (by decide)
theorem remn (d a b : GReg) : Statement (.remn d a b) := fun _ h => of_op h (opOf_formT ..) (by decide) (by decide)
theorem bpermi (d : GReg) (i : BitVec 16) : Statement (.bpermi d i) :=
  fun _ h => of_op h (opOf_formI ..) (by decide) (by decide)
theorem bext (d a : GReg) (p l : BitVec 6) : Statement (.bext d a p l) :=
  fun _ h => of_op h (opOf_formI ..) (by decide) (by decide)
theorem bins (d a : GReg) (p l : BitVec 6) : Statement (.bins d a p l) :=
  fun _ h => of_op h (opOf_formI ..) (by decide) (by decide)
theorem bperm (d a b : GReg) : Statement (.bperm d a b) := fun _ h => of_op h (opOf_formI ..) (by decide) (by decide)
theorem bsrinit (a : GReg) : Statement (.bsrinit a) := fun _ h => of_op h (opOf_formT ..) (by decide) (by decide)
theorem bsget (d : GReg) (n : BitVec 6) : Statement (.bsget d n) := fun _ h => of_op h (opOf_formT ..) (by decide) (by decide)
theorem bspeek (d : GReg) (n : BitVec 6) : Statement (.bspeek d n) := fun _ h => of_op h (opOf_formT ..) (by decide) (by decide)
theorem bsskip (n : BitVec 6) : Statement (.bsskip n) := fun _ h => of_op h (opOf_formT ..) (by decide) (by decide)
theorem bsgetg (d : GReg) (k : BitVec 5) : Statement (.bsgetg d k) := fun _ h => of_op h (opOf_formT ..) (by decide) (by decide)
theorem bswinit (a : GReg) : Statement (.bswinit a) := fun _ h => of_op h (opOf_formT ..) (by decide) (by decide)
theorem bsemit (a : GReg) (n : BitVec 6) : Statement (.bsemit a n) := fun _ h => of_op h (opOf_formT ..) (by decide) (by decide)
theorem bsflush  : Statement (.bsflush) := fun _ h => of_op h (opOf_formT ..) (by decide) (by decide)
theorem fadd (d a b : GReg) : Statement (.fadd d a b) := fun _ h => of_op h (opOf_formQ ..) (by decide) (by decide)
theorem fsub (d a b : GReg) : Statement (.fsub d a b) := fun _ h => of_op h (opOf_formQ ..) (by decide) (by decide)
theorem fmul (d a b : GReg) : Statement (.fmul d a b) := fun _ h => of_op h (opOf_formQ ..) (by decide) (by decide)
theorem ffma (d a b c : GReg) : Statement (.ffma d a b c) := fun _ h => of_op h (opOf_formQ ..) (by decide) (by decide)
theorem fmin (d a b : GReg) : Statement (.fmin d a b) := fun _ h => of_op h (opOf_formQ ..) (by decide) (by decide)
theorem fmax (d a b : GReg) : Statement (.fmax d a b) := fun _ h => of_op h (opOf_formQ ..) (by decide) (by decide)
theorem fcmpEq (d a b : GReg) : Statement (.fcmpEq d a b) := fun _ h => of_op h (opOf_formQ ..) (by decide) (by decide)
theorem fcmpLt (d a b : GReg) : Statement (.fcmpLt d a b) := fun _ h => of_op h (opOf_formQ ..) (by decide) (by decide)
theorem fcmpLe (d a b : GReg) : Statement (.fcmpLe d a b) := fun _ h => of_op h (opOf_formQ ..) (by decide) (by decide)
theorem fcmpUn (d a b : GReg) : Statement (.fcmpUn d a b) := fun _ h => of_op h (opOf_formQ ..) (by decide) (by decide)
theorem fcvt (k : FcvtKind) (d a : GReg) : Statement (.fcvt k d a) := fun _ h => of_op h (opOf_formQ ..) (by decide) (by decide)
theorem bCond (c : BCond) (a b : GReg) (o : BitVec 13) : Statement (.bCond c a b o) :=
  fun _ h => of_op h (opOf_formB ..) (by decide) (by decide)
theorem jl (o : BitVec 26) : Statement (.jl o) := fun _ h => of_op h (opOf_formJ ..) (by decide) (by decide)
theorem jlr (d a : GReg) (i : BitVec 16) : Statement (.jlr d a i) := fun _ h => of_op h (opOf_formI ..) (by decide) (by decide)
theorem rpt (n k sd sa sb : BitVec 4) : Statement (.rpt n k sd sa sb) :=
  fun _ h => of_op h (opOf_formP ..) (by decide) (by decide)
theorem ld (s : LdSize) (d a : GReg) (o : BitVec 11) : Statement (.ld s d a o) :=
  fun _ h => of_op h (opOf_formM ..) (by decide) (by decide)
theorem ldAcq (s : LdSize) (d a : GReg) (o : BitVec 11) : Statement (.ldAcq s d a o) :=
  fun _ h => of_op h (opOf_formM ..) (by decide) (by decide)
theorem ldnt (s : LdSize) (d a : GReg) (o : BitVec 11) : Statement (.ldnt s d a o) :=
  fun _ h => of_op h (opOf_formM ..) (by decide) (by decide)
theorem st (s : StSize) (d a : GReg) (o : BitVec 11) : Statement (.st s d a o) :=
  fun _ h => of_op h (opOf_formM ..) (by decide) (by decide)
theorem stRel (s : StSize) (d a : GReg) (o : BitVec 11) : Statement (.stRel s d a o) :=
  fun _ h => of_op h (opOf_formM ..) (by decide) (by decide)
theorem stnt (s : StSize) (d a : GReg) (o : BitVec 11) : Statement (.stnt s d a o) :=
  fun _ h => of_op h (opOf_formM ..) (by decide) (by decide)
theorem amoAdd (o : AmoOrder) (s : AmoSize) (d a b : GReg) : Statement (.amoAdd o s d a b) :=
  fun _ h => of_op h (opOf_formT ..) (by decide) (by decide)
theorem amoAnd (o : AmoOrder) (s : AmoSize) (d a b : GReg) : Statement (.amoAnd o s d a b) :=
  fun _ h => of_op h (opOf_formT ..) (by decide) (by decide)
theorem amoOr (o : AmoOrder) (s : AmoSize) (d a b : GReg) : Statement (.amoOr o s d a b) :=
  fun _ h => of_op h (opOf_formT ..) (by decide) (by decide)
theorem amoXor (o : AmoOrder) (s : AmoSize) (d a b : GReg) : Statement (.amoXor o s d a b) :=
  fun _ h => of_op h (opOf_formT ..) (by decide) (by decide)
theorem amoMin (o : AmoOrder) (s : AmoSize) (d a b : GReg) : Statement (.amoMin o s d a b) :=
  fun _ h => of_op h (opOf_formT ..) (by decide) (by decide)
theorem amoMax (o : AmoOrder) (s : AmoSize) (d a b : GReg) : Statement (.amoMax o s d a b) :=
  fun _ h => of_op h (opOf_formT ..) (by decide) (by decide)
theorem amoMinn (o : AmoOrder) (s : AmoSize) (d a b : GReg) : Statement (.amoMinn o s d a b) :=
  fun _ h => of_op h (opOf_formT ..) (by decide) (by decide)
theorem amoMaxn (o : AmoOrder) (s : AmoSize) (d a b : GReg) : Statement (.amoMaxn o s d a b) :=
  fun _ h => of_op h (opOf_formT ..) (by decide) (by decide)
theorem amoSwap (o : AmoOrder) (s : AmoSize) (d a b : GReg) : Statement (.amoSwap o s d a b) :=
  fun _ h => of_op h (opOf_formT ..) (by decide) (by decide)
theorem amoCas (o : AmoOrder) (s : AmoSize) (d a b : GReg) : Statement (.amoCas o s d a b) :=
  fun _ h => of_op h (opOf_formT ..) (by decide) (by decide)
theorem amoFadd (o : AmoOrder) (d a b : GReg) : Statement (.amoFadd o d a b) :=
  fun _ h => of_op h (opOf_formT ..) (by decide) (by decide)
theorem redAdd (s : AmoSize) (a b : GReg) : Statement (.redAdd s a b) :=
  fun _ h => of_op h (opOf_formT ..) (by decide) (by decide)
theorem redAnd (s : AmoSize) (a b : GReg) : Statement (.redAnd s a b) :=
  fun _ h => of_op h (opOf_formT ..) (by decide) (by decide)
theorem redOr (s : AmoSize) (a b : GReg) : Statement (.redOr s a b) :=
  fun _ h => of_op h (opOf_formT ..) (by decide) (by decide)
theorem redXor (s : AmoSize) (a b : GReg) : Statement (.redXor s a b) :=
  fun _ h => of_op h (opOf_formT ..) (by decide) (by decide)
theorem redMin (s : AmoSize) (a b : GReg) : Statement (.redMin s a b) :=
  fun _ h => of_op h (opOf_formT ..) (by decide) (by decide)
theorem redMax (s : AmoSize) (a b : GReg) : Statement (.redMax s a b) :=
  fun _ h => of_op h (opOf_formT ..) (by decide) (by decide)
theorem redFadd (a b : GReg) : Statement (.redFadd a b) := fun _ h => of_op h (opOf_formT ..) (by decide) (by decide)
theorem memred (o : MemredOp) (a b : GReg) : Statement (.memred o a b) :=
  fun _ h => of_op h (opOf_formQ ..) (by decide) (by decide)
theorem memcas (d a b : GReg) : Statement (.memcas d a b) := fun _ h => of_op h (opOf_formQ ..) (by decide) (by decide)
theorem memsax (a b c : GReg) : Statement (.memsax a b c) := fun _ h => of_op h (opOf_formQ ..) (by decide) (by decide)
theorem cinit (a b c : GReg) : Statement (.cinit a b c) := fun _ h => of_op h (opOf_formQ ..) (by decide) (by decide)
theorem cdec (d a b : GReg) : Statement (.cdec d a b) := fun _ h => of_op h (opOf_formQ ..) (by decide) (by decide)
theorem cinc (a b : GReg) : Statement (.cinc a b) := fun _ h => of_op h (opOf_formQ ..) (by decide) (by decide)
theorem cread (d a : GReg) : Statement (.cread d a) := fun _ h => of_op h (opOf_formQ ..) (by decide) (by decide)
theorem clocal (d a : GReg) : Statement (.clocal d a) := fun _ h => of_op h (opOf_formQ ..) (by decide) (by decide)
theorem fence (s : Scope) : Statement (.fence s) := fun _ h => of_op h (opOf_formT ..) (by decide) (by decide)
theorem fenceLx  : Statement (.fenceLx) := fun _ h => of_op h (opOf_formT ..) (by decide) (by decide)
theorem drain  : Statement (.drain) := fun _ h => of_op h (opOf_formT ..) (by decide) (by decide)
theorem l1inv (a b : GReg) : Statement (.l1inv a b) := fun _ h => of_op h (opOf_formT ..) (by decide) (by decide)
theorem l1wb (a b : GReg) : Statement (.l1wb a b) := fun _ h => of_op h (opOf_formT ..) (by decide) (by decide)
theorem icinv (a b : GReg) : Statement (.icinv a b) := fun _ h => of_op h (opOf_formT ..) (by decide) (by decide)
theorem isync  : Statement (.isync) := fun _ h => of_op h (opOf_formT ..) (by decide) (by decide)
theorem pause (n : BitVec 8) : Statement (.pause n) := fun _ h => of_op h (opOf_formT ..) (by decide) (by decide)
theorem waita (a b : GReg) : Statement (.waita a b) := fun _ h => of_op h (opOf_formT ..) (by decide) (by decide)
theorem evsig (a : GReg) : Statement (.evsig a) := fun _ h => of_op h (opOf_formT ..) (by decide) (by decide)
theorem evarm (a b : GReg) : Statement (.evarm a b) := fun _ h => of_op h (opOf_formT ..) (by decide) (by decide)
theorem bar (a : GReg) : Statement (.bar a) := fun _ h => of_op h (opOf_formT ..) (by decide) (by decide)
theorem sync (l : BitVec 2) : Statement (.sync l) := fun _ h => of_op h (opOf_formT ..) (by decide) (by decide)
theorem eventWindowLoad (d : GReg) (off : BitVec 10) : Statement (.eventWindowLoad d off) := fun _ h => nomatch h
theorem eventWindowStore (off : BitVec 10) (b : GReg) : Statement (.eventWindowStore off b) := fun _ h => nomatch h
theorem send (a b : GReg) (i : IReg) : Statement (.send a b i) := fun _ h => of_op h (opOf_formT ..) (by decide) (by decide)
theorem take (d : GReg) (i : IReg) : Statement (.take d i) := fun _ h => of_op h (opOf_formT ..) (by decide) (by decide)
theorem peeki (d : GReg) (i : IReg) : Statement (.peeki d i) := fun _ h => of_op h (opOf_formT ..) (by decide) (by decide)
theorem inboxDelivery (target : Nat) (i : IReg) : Statement (.inboxDelivery target i) := fun _ h => nomatch h
theorem assume (d a : GReg) (n : BitVec 7) : Statement (.assume d a n) :=
  fun _ h => of_op h (opOf_formT ..) (by decide) (by decide)
theorem lget (d a : GReg) : Statement (.lget d a) := fun _ h => of_op h (opOf_formT ..) (by decide) (by decide)
theorem lset (d a b : GReg) : Statement (.lset d a b) := fun _ h => of_op h (opOf_formT ..) (by decide) (by decide)
theorem lprod (d a b : GReg) : Statement (.lprod d a b) := fun _ h => of_op h (opOf_formT ..) (by decide) (by decide)
theorem lunion (d a b : GReg) : Statement (.lunion d a b) := fun _ h => of_op h (opOf_formT ..) (by decide) (by decide)
theorem leq (d a b : GReg) : Statement (.leq d a b) := fun _ h => of_op h (opOf_formT ..) (by decide) (by decide)
theorem nogood (a : GReg) : Statement (.nogood a) := fun _ h => of_op h (opOf_formT ..) (by decide) (by decide)
theorem nogoode (a b : GReg) : Statement (.nogoode a b) := fun _ h => of_op h (opOf_formT ..) (by decide) (by decide)
theorem lvis (n : PReg) (a : GReg) : Statement (.lvis n a) := fun _ h => of_op h (opOf_formT ..) (by decide) (by decide)
theorem lsel (d a b : GReg) : Statement (.lsel d a b) := fun _ h => of_op h (opOf_formT ..) (by decide) (by decide)
theorem lcount (d a : GReg) : Statement (.lcount d a) := fun _ h => of_op h (opOf_formT ..) (by decide) (by decide)
theorem lenv (d a : GReg) (e : BitVec 4) (h : Bool) : Statement (.lenv d a e h) :=
  fun _ h => of_op h (opOf_formT ..) (by decide) (by decide)
theorem lfocus (a b : GReg) : Statement (.lfocus a b) := fun _ h => of_op h (opOf_formT ..) (by decide) (by decide)
theorem xcopy (o : BitVec 5) (d a b c : GReg) : Statement (.xcopy o d a b c) :=
  fun _ h => of_op h (opOf_formQ ..) (by decide) (by decide)
theorem xpub (a : GReg) : Statement (.xpub a) := fun _ h => of_op h (opOf_formQ ..) (by decide) (by decide)
theorem xstat (d : GReg) : Statement (.xstat d) := fun _ h => of_op h (opOf_formQ ..) (by decide) (by decide)
theorem mma (m : MReg) (a b : GReg) : Statement (.mma m a b) := fun _ h => of_op h (opOf_formT ..) (by decide) (by decide)
theorem mzero (m : MReg) : Statement (.mzero m) := fun _ h => of_op h (opOf_formT ..) (by decide) (by decide)
theorem mld (m : MReg) (a : GReg) : Statement (.mld m a) := fun _ h => of_op h (opOf_formT ..) (by decide) (by decide)
theorem mst (a : GReg) (m : MReg) : Statement (.mst a m) := fun _ h => of_op h (opOf_formT ..) (by decide) (by decide)
theorem mwait (m : MReg) : Statement (.mwait m) := fun _ h => of_op h (opOf_formT ..) (by decide) (by decide)
theorem mtest (d : GReg) : Statement (.mtest d) := fun _ h => of_op h (opOf_formT ..) (by decide) (by decide)
theorem launch (a b : GReg) : Statement (.launch a b) := fun _ h => of_op h (opOf_formT ..) (by decide) (by decide)
theorem exit (a : GReg) : Statement (.exit a) := fun _ h => of_op h (opOf_formT ..) (by decide) (by decide)
theorem gform (d a : GReg) : Statement (.gform d a) := fun _ h => of_op h (opOf_formT ..) (by decide) (by decide)
theorem grejoin (i : BitVec 7) : Statement (.grejoin i) := fun _ h => of_op h (opOf_formT ..) (by decide) (by decide)
theorem gleave  : Statement (.gleave) := fun _ h => of_op h (opOf_formT ..) (by decide) (by decide)
theorem gstat (d : GReg) : Statement (.gstat d) := fun _ h => of_op h (opOf_formT ..) (by decide) (by decide)
theorem followerBufferTimeout (c : Nat) : Statement (.followerBufferTimeout c) := fun _ h => nomatch h
theorem leaderRejoinTimeout (c : Nat) : Statement (.leaderRejoinTimeout c) := fun _ h => nomatch h
theorem vaddInt (t : ETy) (p : PReg) (d a b : VReg) : Statement (.vaddInt t p d a b) :=
  fun _ h => of_op h (opOf_formV ..) (by decide) (by decide)
theorem vsubInt (t : ETy) (p : PReg) (d a b : VReg) : Statement (.vsubInt t p d a b) :=
  fun _ h => of_op h (opOf_formV ..) (by decide) (by decide)
theorem vmulInt (t : ETy) (p : PReg) (d a b : VReg) : Statement (.vmulInt t p d a b) :=
  fun _ h => of_op h (opOf_formV ..) (by decide) (by decide)
theorem vminInt (t : ETy) (p : PReg) (d a b : VReg) : Statement (.vminInt t p d a b) :=
  fun _ h => of_op h (opOf_formV ..) (by decide) (by decide)
theorem vmaxInt (t : ETy) (p : PReg) (d a b : VReg) : Statement (.vmaxInt t p d a b) :=
  fun _ h => of_op h (opOf_formV ..) (by decide) (by decide)
theorem vabsInt (t : ETy) (p : PReg) (d a : VReg) : Statement (.vabsInt t p d a) :=
  fun _ h => of_op h (opOf_formV ..) (by decide) (by decide)
theorem vnegInt (t : ETy) (p : PReg) (d a : VReg) : Statement (.vnegInt t p d a) :=
  fun _ h => of_op h (opOf_formV ..) (by decide) (by decide)
theorem vand (t : ETy) (p : PReg) (d a b : VReg) : Statement (.vand t p d a b) :=
  fun _ h => of_op h (opOf_formV ..) (by decide) (by decide)
theorem vor (t : ETy) (p : PReg) (d a b : VReg) : Statement (.vor t p d a b) :=
  fun _ h => of_op h (opOf_formV ..) (by decide) (by decide)
theorem vxor (t : ETy) (p : PReg) (d a b : VReg) : Statement (.vxor t p d a b) :=
  fun _ h => of_op h (opOf_formV ..) (by decide) (by decide)
theorem vshl (t : ETy) (p : PReg) (d a b : VReg) : Statement (.vshl t p d a b) :=
  fun _ h => of_op h (opOf_formV ..) (by decide) (by decide)
theorem vshr (t : ETy) (p : PReg) (d a b : VReg) : Statement (.vshr t p d a b) :=
  fun _ h => of_op h (opOf_formV ..) (by decide) (by decide)
theorem vsra (t : ETy) (p : PReg) (d a b : VReg) : Statement (.vsra t p d a b) :=
  fun _ h => of_op h (opOf_formV ..) (by decide) (by decide)
theorem vbcast (t : ETy) (p : PReg) (d : VReg) (g : GLow) : Statement (.vbcast t p d g) :=
  fun _ h => of_op h (opOf_formV ..) (by decide) (by decide)
theorem vaddFloat (t : ETy) (p : PReg) (d a b : VReg) : Statement (.vaddFloat t p d a b) :=
  fun _ h => of_op h (opOf_formV ..) (by decide) (by decide)
theorem vsubFloat (t : ETy) (p : PReg) (d a b : VReg) : Statement (.vsubFloat t p d a b) :=
  fun _ h => of_op h (opOf_formV ..) (by decide) (by decide)
theorem vmulFloat (t : ETy) (p : PReg) (d a b : VReg) : Statement (.vmulFloat t p d a b) :=
  fun _ h => of_op h (opOf_formV ..) (by decide) (by decide)
theorem vfma (t : ETy) (p : PReg) (d a b : VReg) : Statement (.vfma t p d a b) :=
  fun _ h => of_op h (opOf_formV ..) (by decide) (by decide)
theorem vfms (t : ETy) (p : PReg) (d a b : VReg) : Statement (.vfms t p d a b) :=
  fun _ h => of_op h (opOf_formV ..) (by decide) (by decide)
theorem vminFloat (t : ETy) (p : PReg) (d a b : VReg) : Statement (.vminFloat t p d a b) :=
  fun _ h => of_op h (opOf_formV ..) (by decide) (by decide)
theorem vmaxFloat (t : ETy) (p : PReg) (d a b : VReg) : Statement (.vmaxFloat t p d a b) :=
  fun _ h => of_op h (opOf_formV ..) (by decide) (by decide)
theorem vabsFloat (t : ETy) (p : PReg) (d a : VReg) : Statement (.vabsFloat t p d a) :=
  fun _ h => of_op h (opOf_formV ..) (by decide) (by decide)
theorem vnegFloat (t : ETy) (p : PReg) (d a : VReg) : Statement (.vnegFloat t p d a) :=
  fun _ h => of_op h (opOf_formV ..) (by decide) (by decide)
theorem vcmp (c : VCond) (t : ETy) (p : PReg) (d : PReg) (a b : VReg) : Statement (.vcmp c t p d a b) :=
  fun _ h => of_op h (opOf_formV ..) (by decide) (by decide)
theorem vsel (t : ETy) (p : PReg) (d a b : VReg) : Statement (.vsel t p d a b) :=
  fun _ h => of_op h (opOf_formV ..) (by decide) (by decide)
theorem pand (d a b : PReg) : Statement (.pand d a b) := fun _ h => of_op h (opOf_formV ..) (by decide) (by decide)
theorem por (d a b : PReg) : Statement (.por d a b) := fun _ h => of_op h (opOf_formV ..) (by decide) (by decide)
theorem pxor (d a b : PReg) : Statement (.pxor d a b) := fun _ h => of_op h (opOf_formV ..) (by decide) (by decide)
theorem pnot (d a : PReg) : Statement (.pnot d a) := fun _ h => of_op h (opOf_formV ..) (by decide) (by decide)
theorem pset (d : PReg) (v : Bool) : Statement (.pset d v) := fun _ h => of_op h (opOf_formV ..) (by decide) (by decide)
theorem pcnt (g : GLow) (a : PReg) : Statement (.pcnt g a) := fun _ h => of_op h (opOf_formV ..) (by decide) (by decide)
theorem pfirst (g : GLow) (a : PReg) : Statement (.pfirst g a) := fun _ h => of_op h (opOf_formV ..) (by decide) (by decide)
theorem vred (o : VredOp) (t : ETy) (p : PReg) (d a : VReg) : Statement (.vred o t p d a) :=
  fun _ h => of_op h (opOf_formV ..) (by decide) (by decide)
theorem vtrans (t : ETy) (d a : VReg) : Statement (.vtrans t d a) := fun _ h => of_op h (opOf_formV ..) (by decide) (by decide)
theorem vrot (t : ETy) (d a : VReg) (n : BitVec 7) : Statement (.vrot t d a n) :=
  fun _ h => of_op h (opOf_formV ..) (by decide) (by decide)
theorem vshape (a : GLow) : Statement (.vshape a) := fun _ h => of_op h (opOf_formV ..) (by decide) (by decide)
theorem vld (t : ETy) (p : PReg) (d : VReg) (a s : GLow) : Statement (.vld t p d a s) :=
  fun _ h => of_op h (opOf_formV ..) (by decide) (by decide)
theorem vst (t : ETy) (p : PReg) (d : VReg) (a s : GLow) : Statement (.vst t p d a s) :=
  fun _ h => of_op h (opOf_formV ..) (by decide) (by decide)
theorem vgather (t : ETy) (p : PReg) (d : VReg) (a : GLow) (b : VReg) : Statement (.vgather t p d a b) :=
  fun _ h => of_op h (opOf_formV ..) (by decide) (by decide)
theorem vscatter (t : ETy) (p : PReg) (d : VReg) (a : GLow) (b : VReg) : Statement (.vscatter t p d a b) :=
  fun _ h => of_op h (opOf_formV ..) (by decide) (by decide)
theorem vamo (o : VamoOp) (t : ETy) (p : PReg) (d : VReg) (a : GLow) (b : VReg) : Statement (.vamo o t p d a b) :=
  fun _ h => of_op h (opOf_formV ..) (by decide) (by decide)
theorem vcvt (t s : ETy) (p : PReg) (d a : VReg) : Statement (.vcvt t s p d a) :=
  fun _ h => of_op h (opOf_formV ..) (by decide) (by decide)
theorem vquant (t s : ETy) (d a b : VReg) : Statement (.vquant t s d a b) :=
  fun _ h => of_op h (opOf_formV ..) (by decide) (by decide)
theorem vdeq (t s : ETy) (d a b : VReg) : Statement (.vdeq t s d a b) :=
  fun _ h => of_op h (opOf_formV ..) (by decide) (by decide)
theorem vexp (t : ETy) (p : PReg) (d a : VReg) : Statement (.vexp t p d a) :=
  fun _ h => of_op h (opOf_formV ..) (by decide) (by decide)
theorem vlog (t : ETy) (p : PReg) (d a : VReg) : Statement (.vlog t p d a) :=
  fun _ h => of_op h (opOf_formV ..) (by decide) (by decide)
theorem vrcp (t : ETy) (p : PReg) (d a : VReg) : Statement (.vrcp t p d a) :=
  fun _ h => of_op h (opOf_formV ..) (by decide) (by decide)
theorem vrsq (t : ETy) (p : PReg) (d a : VReg) : Statement (.vrsq t p d a) :=
  fun _ h => of_op h (opOf_formV ..) (by decide) (by decide)
theorem vsqrt (t : ETy) (p : PReg) (d a : VReg) : Statement (.vsqrt t p d a) :=
  fun _ h => of_op h (opOf_formV ..) (by decide) (by decide)
theorem vsin (t : ETy) (p : PReg) (d a : VReg) : Statement (.vsin t p d a) :=
  fun _ h => of_op h (opOf_formV ..) (by decide) (by decide)
theorem vcos (t : ETy) (p : PReg) (d a : VReg) : Statement (.vcos t p d a) :=
  fun _ h => of_op h (opOf_formV ..) (by decide) (by decide)
theorem vtanh (t : ETy) (p : PReg) (d a : VReg) : Statement (.vtanh t p d a) :=
  fun _ h => of_op h (opOf_formV ..) (by decide) (by decide)
theorem vsigm (t : ETy) (p : PReg) (d a : VReg) : Statement (.vsigm t p d a) :=
  fun _ h => of_op h (opOf_formV ..) (by decide) (by decide)
theorem vgelu (t : ETy) (p : PReg) (d a : VReg) : Statement (.vgelu t p d a) :=
  fun _ h => of_op h (opOf_formV ..) (by decide) (by decide)
theorem vlget (g : GLow) (a : VReg) : Statement (.vlget g a) := fun _ h => of_op h (opOf_formV ..) (by decide) (by decide)
theorem vlset (d a : VReg) (b : GLow) : Statement (.vlset d a b) := fun _ h => of_op h (opOf_formV ..) (by decide) (by decide)
theorem vlvis (d : PReg) (a : VReg) : Statement (.vlvis d a) := fun _ h => of_op h (opOf_formV ..) (by decide) (by decide)
theorem tileComplete (c : Nat) : Statement (.tileComplete c) := fun _ h => nomatch h
theorem storePerform (c : Nat) : Statement (.storePerform c) := fun _ h => nomatch h
theorem stntBufferPerform (c line : Nat) : Statement (.stntBufferPerform c line) := fun _ h => nomatch h
theorem l1FillReply (k line wts rts : Nat) : Statement (.l1FillReply k line wts rts) := fun _ h => nomatch h
theorem sliceFillRequest (k line pts : Nat) : Statement (.sliceFillRequest k line pts) := fun _ h => nomatch h
theorem sliceStore (c : Nat) : Statement (.sliceStore c) := fun _ h => nomatch h
theorem dirGets (line t : Nat) : Statement (.dirGets line t) := fun _ h => nomatch h
theorem dirGetx (line t : Nat) : Statement (.dirGetx line t) := fun _ h => nomatch h
theorem dirUpg (line t : Nat) : Statement (.dirUpg line t) := fun _ h => nomatch h
theorem dirPut (line t : Nat) (dirty : Bool) (head : PutHead) : Statement (.dirPut line t dirty head) := fun _ h => nomatch h
theorem dirRedJoin (line t : Nat) : Statement (.dirRedJoin line t) := fun _ h => nomatch h
theorem invalidationAck (line t maxrts inc : Nat) : Statement (.invalidationAck line t maxrts inc) := fun _ h => nomatch h
theorem agentInvalidation (line t : Nat) : Statement (.agentInvalidation line t) := fun _ h => nomatch h
theorem agentForwardedGets (line o t : Nat) : Statement (.agentForwardedGets line o t) := fun _ h => nomatch h
theorem agentForwardedGetx (line o t : Nat) : Statement (.agentForwardedGetx line o t) := fun _ h => nomatch h
theorem agentDataGrant (line t : Nat) (excl : Bool) (wts rts : Nat) : Statement (.agentDataGrant line t excl wts rts) :=
  fun _ h => nomatch h
theorem agentEviction (line t : Nat) : Statement (.agentEviction line t) := fun _ h => nomatch h
theorem writebackAck (line t : Nat) : Statement (.writebackAck line t) := fun _ h => nomatch h
theorem uPartialEvict (k line : Nat) : Statement (.uPartialEvict k line) := fun _ h => nomatch h
theorem uRecallComplete (line : Nat) : Statement (.uRecallComplete line) := fun _ h => nomatch h
theorem deadAgentTimeout (home t : Nat) : Statement (.deadAgentTimeout home t) := fun _ h => nomatch h
theorem newerIncarnation (home t : Nat) : Statement (.newerIncarnation home t) := fun _ h => nomatch h
theorem memBankExecute (c : Nat) : Statement (.memBankExecute c) := fun _ h => nomatch h
theorem counterRequest (line c : Nat) (op : CounterOp) : Statement (.counterRequest line c op) := fun _ h => nomatch h
theorem counterRecall (line k : Nat) : Statement (.counterRecall line k) := fun _ h => nomatch h
theorem allowanceReturn (line k n : Nat) : Statement (.allowanceReturn line k n) := fun _ h => nomatch h
theorem recallRoundComplete (line : Nat) : Statement (.recallRoundComplete line) := fun _ h => nomatch h
theorem counterReply (line c value : Nat) : Statement (.counterReply line c value) := fun _ h => nomatch h
theorem internRequest (ctx : Nat) (envs : List Env) : Statement (.internRequest ctx envs) := fun _ h => nomatch h
theorem fullerMissComplete (k ctx : Nat) (op : FullerOp) (x y : Label) : Statement (.fullerMissComplete k ctx op x y) :=
  fun _ h => nomatch h
theorem nogoodRequest (ctx : Nat) (envs : List Env) : Statement (.nogoodRequest ctx envs) := fun _ h => nomatch h
theorem nogoodInstall (k : Nat) : Statement (.nogoodInstall k) := fun _ h => nomatch h
theorem deferredLabelFold (ctx loc : Nat) (l : Label) : Statement (.deferredLabelFold ctx loc l) := fun _ h => nomatch h
theorem matrixOpStart (k : Nat) : Statement (.matrixOpStart k) := fun _ h => nomatch h
theorem matrixOpComplete (k : Nat) : Statement (.matrixOpComplete k) := fun _ h => nomatch h
theorem matrixTransferComplete (c : Nat) : Statement (.matrixTransferComplete c) := fun _ h => nomatch h
theorem matrixSelfTest (k : Nat) (failed : BitVec 16) : Statement (.matrixSelfTest k failed) := fun _ h => nomatch h
theorem throttleChange (k : Nat) (on : Bool) : Statement (.throttleChange k on) := fun _ h => nomatch h
theorem copyCommandStart (c : Nat) : Statement (.copyCommandStart c) := fun _ h => nomatch h
theorem copyBeat (c : Nat) : Statement (.copyBeat c) := fun _ h => nomatch h
theorem copyCommandComplete (c : Nat) : Statement (.copyCommandComplete c) := fun _ h => nomatch h
theorem waitaWake (c : Nat) : Statement (.waitaWake c) := fun _ h => nomatch h
theorem syncRelease (c : Nat) (level : BitVec 2) : Statement (.syncRelease c level) := fun _ h => nomatch h
theorem pauseEnd (c : Nat) : Statement (.pauseEnd c) := fun _ h => nomatch h
theorem watchdog (c : Nat) : Statement (.watchdog c) := fun _ h => nomatch h
theorem deadlockProbe (c : Nat) : Statement (.deadlockProbe c) := fun _ h => nomatch h
theorem pageWalkComplete (c : Nat) (va : Word) (acc : Access) : Statement (.pageWalkComplete c va acc) := fun _ h => nomatch h
theorem dispatchDecision  : Statement (.dispatchDecision) := fun _ h => nomatch h
theorem clusterStart (kernel kclus : Nat) : Statement (.clusterStart kernel kclus) := fun _ h => nomatch h
theorem kernelDone (kernel : Nat) : Statement (.kernelDone kernel) := fun _ h => nomatch h
theorem energyWindow (tower watts celsius : Nat) : Statement (.energyWindow tower watts celsius) := fun _ h => nomatch h
theorem forcedSaveTimeout (c : Nat) : Statement (.forcedSaveTimeout c) := fun _ h => nomatch h
theorem contextRestoreComplete (ctx : Nat) : Statement (.contextRestoreComplete ctx) := fun _ h => nomatch h
theorem asyncMachineCheck (c : Nat) : Statement (.asyncMachineCheck c) := fun _ h => nomatch h
theorem samplingPulse  : Statement (.samplingPulse) := fun _ h => nomatch h
theorem traceRequest (c : Nat) (payload : Word) (typ : Byte) : Statement (.traceRequest c payload typ) := fun _ h => nomatch h
theorem hostAccess (target : HostAddr) (size : Nat) (write : Option Nat) : Statement (.hostAccess target size write) :=
  fun _ h => nomatch h
theorem fabricLaunch (by' : Sender) (ctx : Nat) (queue : BitVec 4) (va : Word) : Statement (.fabricLaunch by' ctx queue va) :=
  fun _ h => nomatch h
theorem fabricTlbinv (by' : Sender) (ctx : Nat) (extent : BitVec 2) (va : Word) : Statement (.fabricTlbinv by' ctx extent va) :=
  fun _ h => nomatch h
theorem fabricReplay (by' : Sender) (ctx : Nat) : Statement (.fabricReplay by' ctx) := fun _ h => nomatch h
theorem queueConfigure (by' : Sender) (ctx : Nat) (queue : BitVec 4) (prio : BitVec 2) : Statement (.queueConfigure by' ctx queue prio) :=
  fun _ h => nomatch h
theorem queueStop (by' : Sender) (ctx : Nat) (queue : BitVec 4) : Statement (.queueStop by' ctx queue) := fun _ h => nomatch h
theorem queueRestart (by' : Sender) (ctx : Nat) (queue : BitVec 4) : Statement (.queueRestart by' ctx queue) :=
  fun _ h => nomatch h
theorem contextRecordWrite (by' : Sender) (ctx : Nat) (field : CtxField) (value : Word) : Statement (.contextRecordWrite by' ctx field value) :=
  fun _ h => nomatch h
theorem contextCreate (by' : Sender) (ctx part : Nat) (init : CtxInit) : Statement (.contextCreate by' ctx part init) :=
  fun _ h => nomatch h
theorem contextSchedule (by' : Sender) (ctx : Nat) : Statement (.contextSchedule by' ctx) := fun _ h => nomatch h
theorem contextTerminate (by' : Sender) (ctx : Nat) : Statement (.contextTerminate by' ctx) := fun _ h => nomatch h
theorem preemptRequest (by' : Sender) (ctx : Nat) : Statement (.preemptRequest by' ctx) := fun _ h => nomatch h
theorem partitionDescriptor (by' : Sender) (desc : PartDesc) : Statement (.partitionDescriptor by' desc) := fun _ h => nomatch h
theorem wayMaskWrite (by' : Sender) (part slot : Nat) (mask : BitVec 16) : Statement (.wayMaskWrite by' part slot mask) :=
  fun _ h => nomatch h
theorem blockingRequest (by' : Sender) (tower : BitVec 2) (roles : List Role) : Statement (.blockingRequest by' tower roles) :=
  fun _ h => nomatch h
theorem blockingDrainComplete (tower : BitVec 2) : Statement (.blockingDrainComplete tower) := fun _ h => nomatch h
theorem blockingFlushComplete (tower : BitVec 2) : Statement (.blockingFlushComplete tower) := fun _ h => nomatch h
theorem blockingResume (tower : BitVec 2) : Statement (.blockingResume tower) := fun _ h => nomatch h
theorem coreRestart (by' : Sender) (c : Nat) : Statement (.coreRestart by' c) := fun _ h => nomatch h
theorem freeze (by' : Sender) : Statement (.freeze by') := fun _ h => nomatch h
theorem readOut (by' : Sender) (chain : Nat) : Statement (.readOut by' chain) := fun _ h => nomatch h
theorem thaw (by' : Sender) : Statement (.thaw by') := fun _ h => nomatch h
theorem firmwareLoad (by' : Sender) (tower : BitVec 2) (img : FwImage) : Statement (.firmwareLoad by' tower img) :=
  fun _ h => nomatch h
theorem attestationRequest (by' : Sender) (port : BitVec 4) (nonce : BitVec 256) : Statement (.attestationRequest by' port nonce) :=
  fun _ h => nomatch h
theorem reset  : Statement (.reset) := fun _ h => nomatch h
theorem linkTrainingStart (port : BitVec 4) : Statement (.linkTrainingStart port) := fun _ h => nomatch h
theorem lanesLocked (port : BitVec 4) : Statement (.lanesLocked port) := fun _ h => nomatch h
theorem trainingTimeout (port : BitVec 4) (half : Bool) : Statement (.trainingTimeout port half) := fun _ h => nomatch h
theorem acceptedSetWritten (port : BitVec 4) (endpoint : Nat) (mask : BitVec 128) : Statement (.acceptedSetWritten port endpoint mask) :=
  fun _ h => nomatch h
theorem laneFailure (port : BitVec 4) : Statement (.laneFailure port) := fun _ h => nomatch h
theorem flitReceive (port : BitVec 4) (seq : BitVec 8) (crcOk : Bool) : Statement (.flitReceive port seq crcOk) :=
  fun _ h => nomatch h
theorem flitReplayLimit (port : BitVec 4) : Statement (.flitReplayLimit port) := fun _ h => nomatch h
theorem linkFence (port : BitVec 4) : Statement (.linkFence port) := fun _ h => nomatch h
theorem laneRepairTrigger (group : Nat) : Statement (.laneRepairTrigger group) := fun _ h => nomatch h
theorem laneQuiesced (group : Nat) : Statement (.laneQuiesced group) := fun _ h => nomatch h
theorem laneSwitched (group : Nat) : Statement (.laneSwitched group) := fun _ h => nomatch h
theorem laneFailNoSpare (group : Nat) : Statement (.laneFailNoSpare group) := fun _ h => nomatch h
theorem laneGroupGrant (unit : Nat) : Statement (.laneGroupGrant unit) := fun _ h => nomatch h
theorem wordNotAnInstruction (w : HWord) : Statement (.wordNotAnInstruction w) := fun _ h => nomatch h
theorem fetchFault (va : Word) : Statement (.fetchFault va) := fun _ h => nomatch h

end Sys2Proof.Laws.Assigned
end

