-- ==== Sys2Proof/Tests/Slice0.lean ====
section
/-! SUPPORT. Tests: the terms that well-formedness refuses, words written out from the tables of the encoding, single steps on small states,
and for each statement states and operands that meet its hypotheses. -/

open Sys2Proof Sys2Proof.Machine Sys2Proof.Claims

namespace Sys2Proof.Tests

set_option maxRecDepth 100000
set_option Elab.async false

/-! ### Well-formedness: one term that each check refuses -/

/-- Reserved control-register numbers and the numbers with rows of their own, fields past bit 63, A = g0, K = 0, a completion register without
an option that reads it (R59, R78, R82, R83, R98). -/
theorem test_wf_scalar :
    [Instr.mfc 1 33, .mfc 1 6, .mtc 33 1, .mtc 6 1, .mtc 8 1, .mtc 16 1, .mtc 30 1, .mtc 32 1, .bext 1 0 0 0, .bext 1 2 1 63, .bins 1 0 0 0,
      .bins 1 2 63 1, .bperm 1 0 2, .rpt 0 0 1 1 1, .xcopy 4 1 2 3 4].all (fun i => !i.wf) = true := by decide

/-- Element types outside the rows of R79. -/
theorem test_wf_types :
    [Instr.vaddInt .f32 0 0 0 0, .vabsInt .f16 0 0 0, .vbcast .e4m3 0 0 0, .vaddFloat .n8 0 0 0 0, .vfma .nq4 0 0 0 0, .vnegFloat .s32 0 0 0,
      .vcmp .eq .nq4 0 0 0 0, .vsel .nq4 0 0 0 0, .vred .add .e4m3 0 0 0, .vred .xor .f32 0 0 0, .vtrans .e2m1 0 0, .vrot .nq4 0 0 0].all
      (fun i => !i.wf) = true := by decide
theorem test_wf_types_memory :
    [Instr.vld .nq4 0 0 0 0, .vst .nq4 0 0 0 0, .vgather .e4m3 0 0 0 0, .vscatter .e5m2 0 0 0 0, .vamo .add .s16 0 0 0 0,
      .vamo .min .f32 0 0 0 0, .vcvt .nq4 .f32 0 0 0, .vcvt .f32 .nq4 0 0 0, .vquant .f32 .f32 0 0 0, .vquant .nq4 .s32 0 0 0,
      .vdeq .e4m3 .nq4 0 0 0, .vdeq .f32 .f32 0 0 0, .vexp .e4m3 0 0 0, .vgelu .s32 0 0 0].all (fun i => !i.wf) = true := by decide

/-- Steps that name a core, cluster, tower or unit that the package lacks, and a request without eight roles. -/
theorem test_wf_units :
    (!(Instr.storePerform nCores).wf && !(Instr.counterReply 0 nCores 0).wf && !(Instr.coreRestart ⟨0, .h⟩ nCores).wf &&
    !(Instr.matrixOpStart nClusters).wf && !(Instr.counterRecall 0 nClusters).wf && !(Instr.dirGets 0 nTowers).wf &&
    !(Instr.agentForwardedGets 0 nTowers 0).wf && !(Instr.deadAgentTimeout 0 nTowers).wf && !(Instr.energyWindow nTowers 0 0).wf &&
    !(Instr.blockingRequest ⟨0, .h⟩ 0 [.m]).wf && !(Instr.laneGroupGrant nUnits).wf) = true := by decide

/-! ### Words written out from the encoding (R57, R63 to R79, R83) -/

/-- Whether the word decodes to the instruction, and is what the encoder gives for it. -/
def reads (w : HWord) (i : Instr) : Bool := (decode w).toOption == some i && encode i == some w

theorem test_decode_sys :
    (reads 0x00010000 .brk && reads (0#6 ++ 0x002#10 ++ 0#5 ++ 0#5 ++ 63#6) (.trap 63) && reads (0#6 ++ 0x003#10 ++ 0#16) .eret &&
    reads (0#6 ++ 0x004#10 ++ 0#10 ++ 0b001101#6) (.guard true 5) && reads (0#6 ++ 0x005#10 ++ 0#16) .yield &&
    reads (0#6 ++ 0x006#10 ++ 0#16) .halt && reads (0#6 ++ 0x008#10 ++ 7#5 ++ 0#5 ++ 4#6) (.mfc 7 4) &&
    reads (0#6 ++ 0x009#10 ++ 0#5 ++ 7#5 ++ 4#6) (.mtc 4 7) && reads (0#6 ++ 0x00A#10 ++ 0#5 ++ 7#5 ++ 0#6) (.tlbinvPage 7) &&
    reads (0#6 ++ 0x00C#10 ++ 3#5 ++ 7#5 ++ 0#6) (.wayset 3 7) && reads (0#6 ++ 0x00E#10 ++ 0#5 ++ 7#5 ++ 9#6) (.trace 7 9) &&
    reads (0#6 ++ 0x00F#10 ++ 3#5 ++ 0#5 ++ 0#6) (.sample 3)) = true := by decide +kernel
theorem test_decode_system_registers :
    (reads (0#6 ++ 0x008#10 ++ 7#5 ++ 0#5 ++ 6#6) (.mfcFflags 7) && reads (0#6 ++ 0x009#10 ++ 0#5 ++ 7#5 ++ 6#6) (.mtcFflags 7) &&
    reads (0#6 ++ 0x009#10 ++ 0#5 ++ 7#5 ++ 8#6) (.mtcSrseed 7) && reads (0#6 ++ 0x009#10 ++ 0#5 ++ 7#5 ++ 16#6) (.mtcLspace 7) &&
    reads (0#6 ++ 0x009#10 ++ 0#5 ++ 7#5 ++ 30#6) (.mtcFbstat 7) && reads (0#6 ++ 0x009#10 ++ 0#5 ++ 7#5 ++ 32#6) (.mtcTracectl 7) &&
    reads (0#6 ++ 0x00A#10 ++ 0#5 ++ 0#5 ++ 1#6) .tlbinvContext && reads (0#6 ++ 0x00A#10 ++ 0#5 ++ 0#5 ++ 2#6) .tlbinvPartition &&
    reads (0#6 ++ 0x00B#10 ++ 0#16) .freplay && reads (0#6 ++ 0x00D#10 ++ 3#5 ++ 7#5 ++ 0#6) (.waysetQ 3 7)) = true := by decide +kernel
theorem test_decode_integer :
    (reads (1#6 ++ 3#5 ++ 4#5 ++ 5#5 ++ 0x000#11) (.add 3 4 5) && reads (1#6 ++ 3#5 ++ 4#5 ++ 5#5 ++ 0x00A#11) (.sra 3 4 5) &&
    reads (1#6 ++ 31#5 ++ 30#5 ++ 29#5 ++ 0x013#11) (.maxn 31 30 29) && reads (1#6 ++ 3#5 ++ 4#5 ++ 5#5 ++ 0x027#11) (.sel 3 7 4 5) &&
    reads (1#6 ++ 3#5 ++ 4#5 ++ 0#5 ++ 0x034#11) (.bswap 3 4) && reads (0x0B#6 ++ 3#5 ++ 4#5 ++ 5#5 ++ 4#11) (.div 3 4 5)) = true := by
  decide +kernel
theorem test_decode_immediate :
    (reads (0x02#6 ++ 1#5 ++ 2#5 ++ 0x8000#16) (.addi 1 2 0x8000) && reads (0x07#6 ++ 1#5 ++ 2#5 ++ 0xFFFF#16) (.sltni 1 2 0xFFFF) &&
    reads (0x08#6 ++ 1#5 ++ 2#5 ++ 0#8 ++ 2#2 ++ 63#6) (.srai 1 2 63) && reads (0x09#6 ++ 6#5 ++ 0#2 ++ 0#1 ++ 2#2 ++ 0x7F00#16) (.lui 6 2 0x7F00) &&
    reads (0x09#6 ++ 6#5 ++ 0#2 ++ 1#1 ++ 1#2 ++ 0x0010#16) (.luiK 6 1 0x0010) && reads (0x0A#6 ++ 6#5 ++ 0x1FFFFF#21) (.adpc 6 0x1FFFFF)) = true := by
  decide +kernel
theorem test_decode_bits :
    (reads (0x0C#6 ++ 1#5 ++ 0#5 ++ 0xC123#16) (.bpermi 1 0xC123) && reads (0x0C#6 ++ 1#5 ++ 2#5 ++ 0#2 ++ 0#2 ++ 60#6 ++ 3#6) (.bext 1 2 60 3) &&
    reads (0x0C#6 ++ 1#5 ++ 2#5 ++ 1#2 ++ 0#2 ++ 0#6 ++ 63#6) (.bins 1 2 0 63) && reads (0x0C#6 ++ 1#5 ++ 2#5 ++ 2#2 ++ 3#5 ++ 0#9) (.bperm 1 2 3) &&
    reads (0x0D#6 ++ 3#5 ++ 0#5 ++ 0#5 ++ 1#5 ++ 63#6) (.bsget 3 63) && reads (0x0D#6 ++ 0#5 ++ 4#5 ++ 0#5 ++ 9#5 ++ 7#6) (.bsemit 4 7) &&
    reads (0x0D#6 ++ 3#5 ++ 0#5 ++ 0#5 ++ 4#5 ++ 31#6) (.bsgetg 3 31)) = true := by decide +kernel
theorem test_decode_float :
    (reads (0x0E#6 ++ 3#5 ++ 4#5 ++ 5#5 ++ 0#5 ++ 1#6) (.fsub 3 4 5) && reads (0x0E#6 ++ 3#5 ++ 4#5 ++ 5#5 ++ 6#5 ++ 3#6) (.ffma 3 4 5 6) &&
    reads (0x0E#6 ++ 3#5 ++ 4#5 ++ 5#5 ++ 0#5 ++ 11#6) (.fcmpUn 3 4 5) && reads (0x0E#6 ++ 3#5 ++ 4#5 ++ 0#5 ++ 10#5 ++ 16#6) (.fcvt .f32bf16 3 4)) = true := by
  decide +kernel
theorem test_decode_control :
    (reads (0x10#6 ++ 5#3 ++ 4#5 ++ 5#5 ++ 0x1FFF#13) (.bCond .gen 4 5 0x1FFF) && reads (0x11#6 ++ 0x3FFFFFF#26) (.jl 0x3FFFFFF) &&
    reads (0x12#6 ++ 0#5 ++ 31#5 ++ 0#16) (.jlr 0 31 0) && reads (0x13#6 ++ 2#4 ++ 15#4 ++ 1#4 ++ 0#4 ++ 1#4 ++ 0#6) (.rpt 2 15 1 0 1)) = true := by
  decide +kernel
theorem test_decode_memory :
    (reads (0x14#6 ++ 3#5 ++ 4#5 ++ 4#3 ++ 1#2 ++ 0x7FF#11) (.ldAcq .s32 3 4 0x7FF) && reads (0x14#6 ++ 3#5 ++ 4#5 ++ 6#3 ++ 2#2 ++ 1#11) (.ldnt .d64 3 4 1) &&
    reads (0x15#6 ++ 3#5 ++ 4#5 ++ 3#3 ++ 1#2 ++ 0#11) (.stRel .b64 3 4 0) && reads (0x16#6 ++ 3#5 ++ 4#5 ++ 5#5 ++ 0#3 ++ 3#2 ++ 1#2 ++ 9#4) (.amoCas .ar .w64 3 4 5) &&
    reads (0x17#6 ++ 0#5 ++ 4#5 ++ 5#5 ++ 0#5 ++ 0#2 ++ 10#4) (.redFadd 4 5) && reads (0x18#6 ++ 0#5 ++ 4#5 ++ 5#5 ++ 0#5 ++ 10#4 ++ 0#2) (.memred .fadd 4 5) &&
    reads (0x18#6 ++ 0#5 ++ 4#5 ++ 5#5 ++ 6#5 ++ 0#4 ++ 2#2) (.memsax 4 5 6) && reads (0x19#6 ++ 3#5 ++ 4#5 ++ 5#5 ++ 0#5 ++ 1#6) (.cdec 3 4 5)) = true := by
  decide +kernel
theorem test_decode_order_and_waits :
    (reads (0x1A#6 ++ 0#15 ++ 5#11) (.fence .system) && reads (0x1A#6 ++ 0#5 ++ 4#5 ++ 5#5 ++ 0x19#11) (.l1wb 4 5) && reads (0x1A#6 ++ 0#15 ++ 0x1B#11) .isync &&
    reads (0x1B#6 ++ 0#15 ++ 0#3 ++ 255#8) (.pause 255) && reads (0x1B#6 ++ 0#5 ++ 4#5 ++ 5#5 ++ 1#3 ++ 0#8) (.waita 4 5) &&
    reads (0x1B#6 ++ 0#15 ++ 5#3 ++ 3#8) (.sync 3) && reads (0x1C#6 ++ 0#5 ++ 4#5 ++ 5#5 ++ 0#4 ++ 31#5 ++ 0#2) (.send 4 5 31) &&
    reads (0x1C#6 ++ 3#5 ++ 0#5 ++ 0#5 ++ 0#4 ++ 7#5 ++ 2#2) (.peeki 3 7)) = true := by decide +kernel
theorem test_decode_labels :
    (reads (0x1D#6 ++ 3#5 ++ 4#5 ++ 0#5 ++ 127#7 ++ 0#4) (.assume 3 4 127) && reads (0x1D#6 ++ 3#5 ++ 4#5 ++ 5#5 ++ 4#11) (.lunion 3 4 5) &&
    reads (0x1D#6 ++ 0#5 ++ 4#5 ++ 0#5 ++ 0#4 ++ 5#3 ++ 8#4) (.lvis 5 4) && reads (0x1D#6 ++ 3#5 ++ 4#5 ++ 0#5 ++ 0#2 ++ 1#1 ++ 15#4 ++ 11#4) (.lenv 3 4 15 true) &&
    reads (0x1D#6 ++ 0#5 ++ 4#5 ++ 5#5 ++ 12#11) (.lfocus 4 5)) = true := by decide +kernel
theorem test_decode_engines :
    (reads (0x1E#6 ++ 1#5 ++ 2#5 ++ 3#5 ++ 4#5 ++ 0#1 ++ 0x1F#5) (.xcopy 0x1F 1 2 3 4) && reads (0x1E#6 ++ 0#5 ++ 2#5 ++ 0#10 ++ 1#1 ++ 0#5) (.xpub 2) &&
    reads (0x1E#6 ++ 1#5 ++ 0#15 ++ 1#1 ++ 1#5) (.xstat 1) && reads (0x1F#6 ++ 3#5 ++ 4#5 ++ 5#5 ++ 0#11) (.mma 3 4 5) &&
    reads (0x1F#6 ++ 0#5 ++ 4#5 ++ 2#5 ++ 3#11) (.mst 4 2) && reads (0x20#6 ++ 0#5 ++ 4#5 ++ 5#5 ++ 0#11) (.launch 4 5) &&
    reads (0x20#6 ++ 0#5 ++ 4#5 ++ 0#5 ++ 1#11) (.exit 4) && reads (0x21#6 ++ 0#15 ++ 127#7 ++ 1#4) (.grejoin 127) &&
    reads (0x21#6 ++ 3#5 ++ 4#5 ++ 0#5 ++ 0#11) (.gform 3 4)) = true := by decide +kernel
theorem test_decode_tiles :
    (reads (0x28#6 ++ 1#4 ++ 2#4 ++ 3#4 ++ 4#3 ++ 5#4 ++ 12#4 ++ 0#3) (.vsra .n8 4 1 2 3) && reads (0x28#6 ++ 1#4 ++ 9#4 ++ 0#4 ++ 4#3 ++ 8#4 ++ 13#4 ++ 0#3) (.vbcast .f16 4 1 9) &&
    reads (0x29#6 ++ 1#4 ++ 2#4 ++ 3#4 ++ 0#3 ++ 11#4 ++ 3#4 ++ 0#3) (.vfma .e2m1 0 1 2 3) && reads (0x2A#6 ++ 7#4 ++ 2#4 ++ 3#4 ++ 1#3 ++ 6#4 ++ 0#4 ++ 6#3) (.vcmp .un .f32 1 7 2 3) &&
    reads (0x2A#6 ++ 1#4 ++ 2#4 ++ 3#4 ++ 0#3 ++ 0#4 ++ 4#4 ++ 0#3) (.pxor 1 2 3) && reads (0x2A#6 ++ 1#4 ++ 0#4 ++ 0#4 ++ 0#3 ++ 0#4 ++ 6#4 ++ 1#3) (.pset 1 true) &&
    reads (0x2A#6 ++ 15#4 ++ 2#4 ++ 0#4 ++ 0#3 ++ 0#4 ++ 7#4 ++ 0#3) (.pcnt 15 2)) = true := by decide +kernel
theorem test_decode_tiles_rearranged :
    (reads (0x2B#6 ++ 1#4 ++ 2#4 ++ 0#4 ++ 1#3 ++ 0#4 ++ 0#4 ++ 5#3) (.vred .xor .s32 1 1 2) && reads (0x2B#6 ++ 1#4 ++ 2#4 ++ 15#4 ++ 0#3 ++ 0#4 ++ 2#4 ++ 7#3) (.vrot .s32 1 2 127) &&
    reads (0x2C#6 ++ 1#4 ++ 2#4 ++ 3#4 ++ 0#3 ++ 6#4 ++ 1#4 ++ 0#3) (.vst .f32 0 1 2 3) && reads (0x2C#6 ++ 1#4 ++ 2#4 ++ 3#4 ++ 0#3 ++ 1#4 ++ 4#4 ++ 6#3) (.vamo .swap .n32 0 1 2 3) &&
    reads (0x2D#6 ++ 1#4 ++ 2#4 ++ 0#4 ++ 0#3 ++ 9#4 ++ 0#3 ++ 6#4) (.vcvt .e4m3 .f32 0 1 2) && reads (0x2D#6 ++ 1#4 ++ 2#4 ++ 3#4 ++ 0#3 ++ 12#4 ++ 1#3 ++ 8#4) (.vquant .nq4 .f16 1 2 3) &&
    reads (0x2E#6 ++ 1#4 ++ 2#4 ++ 0#4 ++ 7#3 ++ 7#4 ++ 9#4 ++ 0#3) (.vgelu .bf16 7 1 2) && reads (0x2F#6 ++ 1#4 ++ 2#4 ++ 15#4 ++ 0#3 ++ 0#4 ++ 1#4 ++ 0#3) (.vlset 1 2 15)) = true := by
  decide +kernel

/-- Reserved values and fields that must be zero are refused by name (R58, R59): GEN + 1 as a branch condition, a set B field of CLZ, K = 0 of RPT,
BEXT past bit 63, A field 11 of OP 0x0C, a size of LD, MINN as a RED, T of VBCAST, a predicate number of 8. -/
theorem test_decode_refuses :
    ((decode (0x10#6 ++ 6#3 ++ 4#5 ++ 5#5 ++ 0#13)).toOption.isNone && decide (decode (1#6 ++ 3#5 ++ 4#5 ++ 1#5 ++ 0x030#11) = .error .nonzeroField) &&
    (decode (0x13#6 ++ 2#4 ++ 0#4 ++ 1#4 ++ 0#4 ++ 1#4 ++ 0#6)).toOption.isNone && (decode (0x0C#6 ++ 1#5 ++ 2#5 ++ 0#2 ++ 0#2 ++ 1#6 ++ 63#6)).toOption.isNone &&
    (decode (0x0C#6 ++ 1#5 ++ 2#5 ++ 3#2 ++ 0#14)).toOption.isNone && (decode (0x14#6 ++ 3#5 ++ 4#5 ++ 7#3 ++ 0#2 ++ 0#11)).toOption.isNone &&
    (decode (0x17#6 ++ 0#5 ++ 4#5 ++ 5#5 ++ 6#11)).toOption.isNone && (decode (0x28#6 ++ 1#4 ++ 9#4 ++ 0#4 ++ 4#3 ++ 9#4 ++ 13#4 ++ 0#3)).toOption.isNone &&
    (decode (0x2A#6 ++ 8#4 ++ 2#4 ++ 3#4 ++ 0#3 ++ 0#4 ++ 4#4 ++ 0#3)).toOption.isNone && decide (decode 0xFFFFFFFF = .error .reservedOpcode)) = true := by
  decide +kernel

/-! ### Small states -/

/-- Core 0 runs at 0x1000 and nothing else is there. -/
def core0 : Core := { Core.reset with run := .running, pc := 0x1000 }
def bare : State := { State.reset with cores := [(0, core0)] }
/-- The bare state with f done to core 0. -/
def with0 (f : Core → Core) : State := bare.modCore 0 f
/-- The core with g registers set under TRUE. -/
def sets (l : List (GReg × Word)) (c : Core) : Core := l.foldl (fun c e => c.wg e.1 e.2 labelTrue) c
def regs (l : List (GReg × Word)) : State := with0 (sets l)
/-- The bytes v, n of them, at offset off of the local store of core 0. -/
def localBytes (s : State) (off v n : Nat) : State := { s with mem := writeNat s.mem (lsBase 0 + off) v n }
/-- Instruction i at s answers a next state that satisfies p. -/
def runs (i : Instr) (s : State) (p : State → Bool) : Bool := match exec i s with
  | .next t => p t
  | _ => false
/-- Each instruction gives its value in g3 under TRUE and goes on to the next word. -/
def gives (s : State) (l : List (Instr × Word)) : Bool :=
  l.all (fun e => runs e.1 s (fun t => t.me.rg 3 == e.2 && t.me.lg 3 == labelTrue && t.me.pc == 0x1004))
/-- Core 0 with a trap handler at 0x8000 in context 0. -/
def handled (s : State) : State := s.modCtx 0 (fun c => { c with tvec := 0x8000 })
/-- Instruction i at s enters the handler with this cause and EINFO. -/
def traps (i : Instr) (s : State) (k : Cause) (e : Word) : Bool :=
  runs i (handled s) (fun t => t.me.pc == 0x8000 && t.me.epc == 0x1000 && t.me.ecause.toNat % 256 == k.code && t.me.einfo == e && t.me.status == 5)

/-! ### Single steps -/

/-- Values worked by hand from R93: carries out of bit 63, counts by b[5:0], signed and unsigned order. -/
theorem test_integer :
    gives (regs [(4, 0xFFFFFFFFFFFFFFFF), (5, 2)])
      [(.add 3 4 5, 1), (.sub 3 5 4, 3), (.and 3 4 5, 2), (.or 3 4 5, 0xFFFFFFFFFFFFFFFF), (.xor 3 4 5, 0xFFFFFFFFFFFFFFFD),
        (.andn 3 4 5, 0xFFFFFFFFFFFFFFFD), (.orn 3 5 4, 2), (.sll 3 4 5, 0xFFFFFFFFFFFFFFFC), (.srl 3 4 5, 0x3FFFFFFFFFFFFFFF),
        (.sra 3 4 5, 0xFFFFFFFFFFFFFFFF), (.rol 3 5 5, 8), (.ror 3 5 5, 0x8000000000000000), (.min 3 4 5, 0xFFFFFFFFFFFFFFFF), (.max 3 4 5, 2),
        (.minn 3 4 5, 2), (.maxn 3 4 5, 0xFFFFFFFFFFFFFFFF), (.seq 3 4 4, 1), (.sne 3 4 4, 0), (.slt 3 4 5, 1), (.sltn 3 4 5, 0),
        (.sel 3 0 4 5, 0xFFFFFFFFFFFFFFFF), (.clz 3 5, 62), (.ctz 3 5, 1), (.popc 3 4, 64), (.brev 3 5, 0x4000000000000000),
        (.bswap 3 5, 0x0200000000000000)] = true := by decide +kernel
/-- A count of 64 is a count of 0, and clz and ctz of zero give 64 (R93, R94). -/
theorem test_integer_edges :
    gives (regs [(4, 0x8000000000000001), (5, 64)])
      [(.sll 3 4 5, 0x8000000000000001), (.sra 3 4 5, 0x8000000000000001), (.rol 3 4 5, 0x8000000000000001), (.clz 3 0, 64), (.ctz 3 0, 64)] = true := by
  decide +kernel
/-- R96 and the constant of R65: LUI g, 0x7F00, 2 and LUI.K of 0x0010, 1 upon it. -/
theorem test_immediate :
    gives (regs [(3, 0x7F0000000000), (4, 5)])
      [(.addi 3 4 0xFFFF, 4), (.andi 3 4 0xFFFC, 4), (.ori 3 4 0x8000, 0x8005), (.xori 3 4 0xFFFF, 0xFFFA), (.slti 3 4 0xFFFF, 0),
        (.sltni 3 4 0xFFFF, 1), (.slli 3 4 63, 0x8000000000000000), (.srli 3 4 1, 2), (.srai 3 4 2, 1), (.roli 3 4 62, 0x4000000000000001),
        (.lui 3 2 0x7F00, 0x7F0000000000), (.luiK 3 1 0x0010, 0x7F0000100000), (.adpc 3 0x1FFFFF, 0xFFC)] = true := by decide +kernel
/-- The corners of R97: −2^63 divided by −1, and division by zero. -/
theorem test_divide :
    (gives (regs [(4, 0x8000000000000000), (5, 0xFFFFFFFFFFFFFFFF)])
      [(.mul 3 4 5, 0x8000000000000000), (.mulh 3 4 5, 0), (.mulhn 3 4 5, 0x7FFFFFFFFFFFFFFF), (.div 3 4 5, 0x8000000000000000), (.rem 3 4 5, 0),
        (.divn 3 4 5, 0), (.remn 3 4 5, 0x8000000000000000)] &&
    gives (regs [(4, 0xFFFFFFFFFFFFFFF9), (5, 0), (6, 2)])
      [(.div 3 4 5, 0xFFFFFFFFFFFFFFFF), (.rem 3 4 5, 0xFFFFFFFFFFFFFFF9), (.divn 3 4 5, 0xFFFFFFFFFFFFFFFF), (.remn 3 4 5, 0xFFFFFFFFFFFFFFF9),
        (.div 3 4 6, 0xFFFFFFFFFFFFFFFD), (.rem 3 4 6, 0xFFFFFFFFFFFFFFFF)]) = true := by decide +kernel
/-- R98 and R99: the worked BPERM word 0x31499600 of R99 is decoded by the statement WordsOfTheSpec. -/
theorem test_bit_fields :
    gives (regs [(3, 0x1122334455667788), (4, 0xFEDCBA9876543210), (5, 0b10111000100000100000)])
      [(.bext 3 4 60 3, 15), (.bext 3 4 0 63, 0xFEDCBA9876543210), (.bins 3 4 56 7, 0x1022334455667788), (.bins 3 4 0 3, 0x1122334455667780),
        (.bperm 3 4 5, 0xFF543210), (.bpermi 3 0x0246, 0x88776655)] = true := by decide +kernel
theorem test_bperm_illegal :
    traps (.bperm 3 4 5) (regs [(4, 1), (5, 0x18)]) .illegal (0x10000000000#64 ||| (Instr.bperm 3 4 5).word.zeroExtend 64) = true := by decide +kernel
/-- R100 to R103 on f32: 1 + 1, 1 − 2^-25 rounded to even, the conversions' saturation, NaN and the signed zeros; flags on FFLAGS. -/
theorem test_scalar_float :
    gives (regs [(4, 0x3F800000), (5, 0x40000000), (6, 0x7FC00000), (7, 0x80000000)])
      [(.fadd 3 4 4, 0x40000000), (.fsub 3 4 5, 0xBF800000), (.fmul 3 5 5, 0x40800000), (.ffma 3 5 5 4, 0x40A00000), (.fmin 3 4 6, 0x3F800000),
        (.fmax 3 7 0, 0), (.fmin 3 7 0, 0x80000000), (.fcmpEq 3 7 0, 1), (.fcmpLt 3 4 5, 1), (.fcmpLe 3 5 4, 0), (.fcmpUn 3 4 6, 1),
        (.fcvt .f32s32 3 5, 2), (.fcvt .s32f32 3 4, 0x4E7E0000), (.fcvt .f32f16 3 4, 0x3C00), (.fcvt .bf16f32 3 4, 0)] = true := by decide +kernel
/-- The flags of R35: an inexact sum, a comparison with NaN, a conversion of NaN. -/
theorem test_float_flags :
    (runs (.fadd 3 4 5) (regs [(4, 0x3F800000), (5, 0x33000000)]) (fun t => t.me.rg 3 == 0x3F800000 && t.me.fflags == 0x1) &&
    runs (.fcmpLt 3 4 6) (regs [(4, 0x3F800000), (6, 0x7FC00000)]) (fun t => t.me.rg 3 == 0 && t.me.fflags == 0x10)) = true := by decide +kernel
/-- Streams (R111 to R114): eight bits from bit 4 of bytes 0xAB 0xCD are 0xBC; three bits more are 0b110. A Golomb code 0b011 with k = 0 is 2. -/
theorem test_streams :
    (runs (.bsrinit 4) (localBytes (regs [(4, 4)]) 0 0xCDAB 2) (fun s =>
      runs (.bsget 3 7) s (fun t => t.me.rg 3 == 0xBC && runs (.bspeek 3 2) t (fun u => u.me.rg 3 == 0b110 && runs (.bsskip 2) u (fun v =>
        runs (.bsget 3 0) v (fun w => w.me.rg 3 == 1))))) &&
    runs (.bsrinit 0) (localBytes (regs []) 0 0x60 1) (fun s => runs (.bsgetg 3 0) s (fun t => t.me.rg 3 == 2))) = true := by decide +kernel
theorem test_write_stream :
    runs (.bswinit 4) (localBytes (regs [(4, 4), (5, 0xBC)]) 0 0xA0 1) (fun s => runs (.bsemit 5 7) s (fun t =>
      (t.me.sb.map SbEntry.data == [0xAB]) && runs .bsflush t (fun u => u.me.sb.map SbEntry.data == [0xAB, 0xC0] && u.me.bwptr == 2))) = true := by
  decide +kernel
/-- Branches and links (R104 to R106): backwards and forwards, taken and not, the link, a misaligned target. -/
theorem test_branches :
    let s := regs [(4, 0xFFFFFFFFFFFFFFFF), (5, 1)]
    ([(Instr.bCond .eq 4 5 2, (0x1004 : Word)), (.bCond .ne 4 5 2, 0x1008), (.bCond .lt 4 5 0x1FFF, 0xFFC), (.bCond .ge 4 5 2, 0x1004),
      (.bCond .ltn 4 5 2, 0x1004), (.bCond .gen 4 5 2, 0x1008), (.jl 0x3FFFFFF, 0xFFC), (.jlr 3 5 3, 4)].all
        (fun e => runs e.1 s (fun t => t.me.pc == e.2))) = true := by decide +kernel
theorem test_links :
    (runs (.jl 2) bare (fun t => t.me.rg 31 == 0x1004) && runs (.jlr 4 4 4) (regs [(4, 0x2000)]) (fun t => t.me.rg 4 == 0x1004 && t.me.pc == 0x2004) &&
    traps (.jlr 3 4 2) (regs [(4, 0x2000)]) .misalign 0x2002) = true := by decide +kernel
/-- The second word of a guarded pair executes at pc + 4 and goes on behind it (R61); the last word of a frame leaves it (R83). -/
theorem test_guarded_and_framed :
    (runs (.addi 3 4 1) ((regs [(4, 1)]).modCore 0 (fun c => { c with pair := some ⟨0, 0, 0, true⟩ })) (fun t => t.me.rg 3 == 2 && t.me.pc == 0x1008) &&
    runs (.adpc 3 1) (with0 (fun c => { c with pair := some ⟨0, 0, 0, true⟩ })) (fun t => t.me.rg 3 == 0x1008) &&
    runs (.add 3 0 0) (with0 (fun c => { c with frame := some ⟨[0, 0], 2, 0, 0, 0, 1, 1⟩ })) (fun t => t.me.frame == none && t.me.pc == 0x100C)) = true := by
  decide +kernel
/-- Loads of the own local store, first byte least significant, sign and zero extension (R210). -/
theorem test_loads :
    gives (localBytes (regs [(4, 0x7F0000000008)]) 0 0x8877665544332211FFEEDDCCBBAA9988 16)
      [(.ld .d64 3 4 0, 0x8877665544332211), (.ld .s8 3 4 7, 0xFFFFFFFFFFFFFF88), (.ldAcq .n8 3 4 7, 0x88), (.ld .s16 3 4 3, 0xFFFFFFFFFFFF8877),
        (.ldnt .n16 3 4 3, 0x8877), (.ld .s32 3 4 1, 0xFFFFFFFF88776655), (.ld .n32 3 4 1, 0x88776655), (.ld .d64 3 4 0x7FF, 0xFFEEDDCCBBAA9988)] = true := by
  decide +kernel
/-- A store waits in the buffer, forwards to a load, and performs; the three forms at a window do alike (R205, R213). -/
theorem test_stores :
    ([Instr.st .b32 5 4 0, .stRel .b32 5 4 0, .stnt .b32 5 4 0].all (fun i => runs i (regs [(4, 0x7F0000000010), (5, 0x1FFFFFFFF)]) (fun t =>
      t.mem == [] && runs (.ld .n32 3 4 0) t (fun u => u.me.rg 3 == 0xFFFFFFFF) && runs (.storePerform 0) t (fun u =>
        u.me.sb == [] && readNat u.mem (lsBase 0 + 0x10) 8 == 0xFFFFFFFF)))) = true := by decide +kernel
theorem test_misaligned :
    (traps (.ld .s32 3 4 0) (regs [(4, 0x7F0000000002)]) .misalign 0x7F0000000002 && traps (.st .b16 3 4 0) (regs [(4, 0x7F0000000001)]) .misalign 0x7F0000000001 &&
    traps (.amoAdd .ar .w64 3 4 5) (regs [(4, 0x7F0000000004)]) .misalign 0x7F0000000004 && traps (.cdec 3 4 5) (regs [(4, 32)]) .misalign 32) = true := by
  decide +kernel
/-- AMOs (R235): the old word comes back, sign-extended but for MINN, MAXN and FADD, and the new one is in memory. -/
theorem test_atomics :
    let s := localBytes (regs [(3, 0xFFFFFFFF), (4, 0x7F0000000000), (5, 3)]) 0 0xFFFFFFFF 4
    let old : Word := 0xFFFFFFFFFFFFFFFF
    ([(Instr.amoAdd .relaxed .w32 3 4 5, old, 2), (.amoAnd .acq .w32 3 4 5, old, 3), (.amoOr .rel .w32 3 4 5, old, 0xFFFFFFFF),
      (.amoXor .ar .w32 3 4 5, old, 0xFFFFFFFC), (.amoMin .ar .w32 3 4 5, old, 0xFFFFFFFF), (.amoMax .ar .w32 3 4 5, old, 3),
      (.amoMinn .ar .w32 3 4 5, 0xFFFFFFFF, 3), (.amoMaxn .ar .w32 3 4 5, 0xFFFFFFFF, 0xFFFFFFFF), (.amoSwap .ar .w32 3 4 5, old, 3),
      (.amoCas .ar .w32 3 4 5, old, 3), (.amoCas .ar .w32 5 4 5, old, 0xFFFFFFFF)].all
        (fun e => runs e.1 s (fun t => (t.me.rg 3 == e.2.1 || t.me.rg 5 == e.2.1) && readNat t.mem (lsBase 0) 4 == e.2.2))) = true := by decide +kernel
theorem test_atomic_float :
    runs (.amoFadd .relaxed 3 4 5) (localBytes (regs [(4, 0x7F0000000000), (5, 0x3F800000)]) 0 0xBF800000 4)
      (fun t => t.me.rg 3 == 0xBF800000 && readNat t.mem (lsBase 0) 4 == 0) = true := by decide +kernel
/-- A RED waits in the buffer and performs there (R238). -/
theorem test_reductions :
    let s := localBytes (regs [(4, 0x7F0000000000), (5, 3)]) 0 0xFFFFFFFE 4
    ([(Instr.redAdd .w32 4 5, 1), (.redAnd .w32 4 5, 2), (.redOr .w32 4 5, 0xFFFFFFFF), (.redXor .w32 4 5, 0xFFFFFFFD), (.redMin .w32 4 5, 0xFFFFFFFE),
      (.redMax .w32 4 5, 3), (.redFadd 4 5, 0xFFFFFFFE)].all (fun e => runs e.1 s (fun t => t.mem == s.mem &&
        (runs (.storePerform 0) t (fun u => readNat u.mem (lsBase 0) 4 == e.2) || e.1 == .redFadd 4 5)))) = true := by decide +kernel
/-- Control registers (R82): CORE, SHAPE, a bad SHAPE with the mark, FFLAGS, SRSEED's zero, FOCUS by halves, privileged registers at K. -/
theorem test_control_registers :
    (gives (with0 (fun c => { c with fflags := 9 })) [(.mfc 3 0, 0), (.mfc 3 1, 0x800), (.mfc 3 4, 0x00080008), (.mfc 3 8, 0x6C8E9CF5701342B1), (.mfc 3 18, 0xFFFFFFFFFFFFFFFF),
      (.mfcFflags 3, 9)] &&
    runs (.mtc 4 4) (regs [(4, 0x00100004)]) (fun t => t.me.shape == 0x00100004) &&
    traps (.mtc 4 4) (regs [(4, 0x00100040)]) .illegal (0x10000000000#64 ||| (Instr.mtc 4 4).word.zeroExtend 64) &&
    traps (.mfc 3 24) bare .protect ((Instr.mfc 3 24).word.zeroExtend 64) && traps (.mtc 2 4) bare .protect ((Instr.mtc 2 4).word.zeroExtend 64) &&
    runs (.mtcFflags 4) (regs [(4, 31)]) (fun t => t.me.fflags == 31) && runs (.mtcSrseed 4) bare (fun t => t.me.srseed == 0x6C8E9CF5701342B1) &&
    runs (.mtc 19 4) (regs [(4, 0)]) (fun t => t.me.focus == 0xFFFFFFFFFFFFFFFF)) = true := by decide +kernel
/-- At S: TVEC, STATUS keeps its read-only bits, EPC; LSPACE of no space; FBSTAT clears; TRACECTL off. -/
theorem test_system_registers :
    let s := (regs [(4, 0x8004)]).modCore 0 (fun c => { c with status := 5 })
    (runs (.mtc 24 4) s (fun t => (t.ctx 0).tvec == 0x8004) && runs (.mtc 25 4) s (fun t => t.me.epc == 0x8004) && runs (.mtc 28 0) s (fun t => t.me.status == 1) &&
    runs (.mtcLspace 0) s (fun t => (t.ctx 0).lspace == 0) && runs (.mtcFbstat 4) (s.modCtx 0 (fun c => { c with fbstat := 0x8001 })) (fun t => (t.ctx 0).fbstat == 1) && runs (.mtcTracectl 0) s (fun t => (t.ctx 0).tracectl == 0)) = true := by decide +kernel
/-- R336 to R342: BRK, TRAP with EPC behind it, a trap at S keeps SG30, ERET to EPC at K, HALT at K and at S. -/
theorem test_traps :
    (runs .brk (handled bare) (fun t => t.me.pc == 0x8000 && t.me.epc == 0x1000 && t.me.ecause == 15 && t.me.einfo == 0) &&
    runs (.trap 7) ((handled bare).modCtx 0 (fun c => { c with ssbase := 0x100000, ssize := 0x400 }))
      (fun t => t.me.epc == 0x1004 && t.me.ecause == 16 && t.me.einfo == 7 && t.me.rg 30 == 0x100400 && t.me.status == 5) &&
    runs (.trap 7) (handled (with0 (fun c => { c with status := 1, sg := #v[5, 6] }))) (fun t => t.me.rg 30 == 5 && t.me.status == 7) &&
    runs .eret (with0 (fun c => { c with status := 5, epc := 0x2000 })) (fun t => t.me.pc == 0x2000 && t.me.status == 0) &&
    traps .halt bare .protect ((Instr.halt).word.zeroExtend 64) &&
    runs .halt (with0 (fun c => { c with status := 1 })) (fun t => t.me.run == .halted && t.me.pc == 0x1004)) = true := by decide +kernel
/-- A trap with TVEC 0 is fatal: the context is FAULTED and EPC is not written (R337). -/
theorem test_fatal_trap :
    runs .brk (bare.modCluster 0 (fun c => { c with ctx := some 1 })) (fun t => (t.ctx 1).st == .faulted && t.me.run == .halted && t.me.epc == 0 &&
      t.notes == [.contextFaulted 1]) = true := by decide +kernel

/-- A core whose SHAPE is 2 × 2, with v1 = 1, 2, 3, −4 and v2 = 5, 1, −1, 2 as s32 under p1 = positions 0, 1 and 3. -/
def tiles : State := with0 (fun c =>
  (((((c.wv 1 0xFFFFFFFC000000030000000200000001).wv 2 0x00000002FFFFFFFF0000000100000005).wp 1 0b1011).wp 2 0b0110).wv 3 0x00000009000000090000000900000009)
    |> fun c => { c with shape := 0x00020002 })
/-- The instruction enters the queue, its beats are granted, it completes, and the state then satisfies p. -/
def queued (i : Instr) (s : State) (p : State → Bool) : Bool :=
  runs i s (fun t => t.me.vq.length == 1 && t.me.pc == 0x1004 &&
    runs (.tileComplete 0) (t.modCore 0 (fun c => { c with vq := c.vq.map (fun e => { e with beats := 0 }) })) (fun u => u.me.vq == [] && p u))
/-- Each instruction, queued on tiles, leaves these s32 elements, the first lowest, in v3. -/
def tileGives (s : State) (l : List (Instr × Tile)) : Bool := l.all (fun e => queued e.1 s (fun t => t.me.rv 3 == e.2))

/-- R127: element arithmetic modulo 2^32 under p1; position 2 keeps 9. -/
theorem test_tile_integer :
    tileGives tiles
      [(.vaddInt .s32 1 3 1 2, 0xFFFFFFFE000000090000000300000006), (.vsubInt .s32 1 3 1 2, 0xFFFFFFFA0000000900000001FFFFFFFC),
        (.vmulInt .s32 1 3 1 2, 0xFFFFFFF8000000090000000200000005), (.vminInt .s32 1 3 1 2, 0xFFFFFFFC000000090000000100000001),
        (.vmaxInt .n32 1 3 1 2, 0xFFFFFFFC000000090000000200000005), (.vabsInt .s32 1 3 1, 0x00000004000000090000000200000001),
        (.vnegInt .s32 1 3 1, 0x0000000400000009FFFFFFFEFFFFFFFF)] = true := by decide +kernel
theorem test_tile_bits :
    tileGives tiles
      [(.vand .s32 1 3 1 2, 0x00000000000000090000000000000001), (.vor .s32 1 3 1 2, 0xFFFFFFFE000000090000000300000005),
        (.vxor .s32 1 3 1 2, 0xFFFFFFFE000000090000000300000004), (.vshl .s32 1 3 1 2, 0xFFFFFFF0000000090000000400000020),
        (.vshr .s32 1 3 1 2, 0x3FFFFFFF000000090000000100000000), (.vsra .s32 1 3 1 2, 0xFFFFFFFF000000090000000100000000),
        (.vsel .s32 1 3 1 2, 0xFFFFFFFCFFFFFFFF0000000200000001), (.vtrans .s32 3 1, 0xFFFFFFFC000000020000000300000001),
        (.vrot .s32 3 1 1, 0x00000001FFFFFFFC0000000300000002), (.vred .add .s32 0 3 1, 0x00000000FFFFFFFF0000000000000003)] = true := by decide +kernel
theorem test_tile_broadcast :
    queued (.vbcast .s16 0 3 4) ((regs [(4, 0x12345)]).modCore 0 (fun c => { c with shape := 0x00020002 })) (fun t => t.me.rv 3 == 0x2345234523452345) = true := by
  decide +kernel
/-- R128, R129 on f32: 1, 2, 4, −1 against 2, 2, 2, 0.5. -/
theorem test_tile_float :
    let s := with0 (fun c => { (((c.wv 1 0xBF80000040800000400000003F800000).wv 2 0x3F000000400000004000000040000000).wv 3 0x3F8000003F8000003F8000003F800000)
      with shape := 0x00020002 })
    tileGives s
      [(.vaddFloat .f32 0 3 1 2, 0xBF00000040C000004080000040400000), (.vsubFloat .f32 0 3 1 2, 0xBFC000004000000000000000BF800000),
        (.vmulFloat .f32 0 3 1 2, 0xBF000000410000004080000040000000), (.vfma .f32 0 3 1 2, 0x3F0000004110000040A0000040400000),
        (.vfms .f32 0 3 1 2, 0x3FC00000C0E00000C0400000BF800000), (.vminFloat .f32 0 3 1 2, 0xBF80000040000000400000003F800000),
        (.vmaxFloat .f32 0 3 1 2, 0x3F000000408000004000000040000000), (.vabsFloat .f32 0 3 1, 0x3F80000040800000400000003F800000),
        (.vnegFloat .f32 0 3 1, 0x3F800000C0800000C0000000BF800000)] = true := by decide +kernel
/-- Each instruction waits for its beat in the queue, and then gives its value in g3 (R124, R132). -/
def counts (s : State) (l : List (Instr × Word)) : Bool :=
  l.all (fun e => runs e.1 s (fun t => t.me.vq.length == 1 && t.me.wait == .result && t.me.pc == 0x1000 &&
    runs (.tileComplete 0) (t.modCore 0 (fun c => { c with vq := c.vq.map (fun q => { q with beats := 0 }) })) (fun u =>
      u.me.vq == [] && gives u [e])))
/-- Predicates (R130, R132): a comparison under p1, the four operations, PCNT and PFIRST among the shape's positions. -/
theorem test_predicates :
    (queued (.vcmp .lt .s32 1 3 1 2) tiles (fun t => t.me.rp 3 == 0b1001) && queued (.pand 3 1 2) tiles (fun t => t.me.rp 3 == 0b0010) &&
    queued (.por 3 1 2) tiles (fun t => t.me.rp 3 == 0b1111) && queued (.pxor 3 1 2) tiles (fun t => t.me.rp 3 == 0b1101) &&
    queued (.pnot 3 0) tiles (fun t => t.me.rp 3 == 0) && queued (.pset 3 true) tiles (fun t => t.me.rp 3 == BitVec.allOnes 256) &&
    counts tiles [(.pcnt 3 1, 3), (.pfirst 3 2, 1)] && counts (tiles.modCore 0 (fun c => c.wp 1 0x10)) [(.pcnt 3 1, 0), (.pfirst 3 1, 4)]) = true := by
  decide +kernel
theorem test_vshape :
    (runs (.vshape 4) (regs [(4, 0x00040040)]) (fun t => t.me.shape == 0x00040040) &&
    traps (.vshape 4) (regs [(4, 0x00050040)]) .illegal (0x10000000000#64 ||| (Instr.vshape 4).word.zeroExtend 64)) = true := by decide +kernel
/-- Tile memory (R135 to R138): rows 16 bytes apart; a gather of words 3, 2, 1, 0; an add of each element to its word. -/
theorem test_tile_memory :
    let s := localBytes (tiles.modCore 0 (fun c => (sets [(4, 0x7F0000000000), (5, 16)] c).wv 4 0x0000000100020003)) 0
      0x00000008000000070000000600000005000000040000000300000002_00000001 32
    (runs (.vld .s32 0 3 4 5) s (fun t => t.me.rv 3 == 0x00000006000000050000000200000001) &&
    runs (.vgather .s32 0 3 4 4) s (fun t => t.me.rv 3 == 0x00000001000000020000000300000004) &&
    runs (.vamo .add .s32 0 3 4 4) s (fun t => t.me.rv 3 == 0x00000001000000020000000300000004 && readNat t.mem (lsBase 0) 16 == 0x0000000D0000000C0000000B0000000A) &&
    queued (.vst .s32 0 1 4 5) s (fun t => readNat t.mem (lsBase 0) 24 == 0xFFFFFFFC0000000300000004000000030000000200000001) &&
    queued (.vscatter .s32 0 1 4 4) s (fun t => readNat t.mem (lsBase 0) 16 == 0x000000010000000200000003FFFFFFFC)) = true := by decide +kernel
/-- R139 to R141: 1.0 to f16 and back, and a value beyond e4m3 saturated by the conversion. -/
theorem test_tile_convert :
    let s := with0 (fun c => { (c.wv 1 0x447A00004000000000000000_3F800000) with shape := 0x00020002 })
    (queued (.vcvt .f16 .f32 0 3 1) s (fun t => t.me.rv 3 == 0x63D0400000003C00) && queued (.vcvt .e4m3 .f32 0 3 1) s (fun t => t.me.rv 3 == 0x7E400038)) = true := by
  decide +kernel
/-- R140, R141 on 64 times 6.0: the scale 1.0 (0x78) and code 7 of e2m1, and back. -/
theorem test_tile_quantise :
    let s := with0 (fun c => { (c.wv 1 (BitVec.ofNat 2048 (packElems 16 (List.replicate 64 0x4600)))) with shape := 0x00080008 })
    queued (.vquant .e2m1 .f16 3 1 4) s (fun t => t.me.rv 3 == BitVec.ofNat 2048 (packElems 4 (List.replicate 64 7)) && t.me.rv 4 == 0x78 &&
      queued (.vdeq .f16 .e2m1 5 3 4) (t.modCore 0 (fun c => { c with pc := 0x1000 })) (fun u => u.me.rv 5 == t.me.rv 1)) = true := by decide +kernel
/-- Exact cases of R142: the exponential of 0 … NaN inputs give NaN; the queue takes one beat for sixteen positions. -/
theorem test_tile_sfu :
    let s := with0 (fun c => { (c.wv 1 0x7FC000007FC000007FC000007FC00000) with shape := 0x00020002 })
    ([Instr.vexp .f32 0 3 1, .vlog .f32 0 3 1, .vrcp .f32 0 3 1, .vrsq .f32 0 3 1, .vsqrt .f32 0 3 1, .vsin .f32 0 3 1, .vcos .f32 0 3 1, .vtanh .f32 0 3 1,
      .vsigm .f32 0 3 1, .vgelu .f32 0 3 1].all (fun i => runs i s (fun t => t.me.vq.map VEntry.beats == [1]) &&
        queued i s (fun t => t.me.rv 3 == 0x7FC000007FC000007FC000007FC00000))) = true := by decide +kernel
theorem test_tile_labels :
    (gives (with0 (fun c => c.wvl 2 0xFFFF)) [(.vlget 3 2, 0xFFFF)] && runs (.vlset 3 1 4) (regs [(4, 0xFFFF)]) (fun t => t.me.lv 3 == 0xFFFF) &&
    runs (.vlvis 3 2) (with0 (fun c => c.wvl 2 0xFFFF)) (fun t => t.me.rp 3 == 0) && runs (.vlvis 3 2) bare (fun t => t.me.rp 3 == BitVec.allOnes 256)) = true := by
  decide +kernel

/-- Core 0 with three pages in the TLBs of its cluster and its layer: untracked and plain at 0x20000, tracked at 0x40000, and untracked with tags at
0x60000, each at the frame of its number, writable. -/
def pages : List TlbEntry :=
  [⟨0, 0, 0x20000, 0x10000, 0xE400000000020000⟩, ⟨0, 0, 0x40000, 0x10000, 0xE800000000040000⟩, ⟨0, 0, 0x60000, 0x10000, 0xE000000000060000⟩]
def mapped (f : Core → Core) : State := ((with0 f).modCluster 0 (fun c => { c with tlb := pages })).modLayer 0 (fun l => { l with tlb := pages })
def global (l : List (GReg × Word)) : State := mapped (sets l)
def memBytes (s : State) (pa v n : Nat) : State := { s with mem := writeNat s.mem pa v n }

/-- A load through the TLB; R317: an address without a page posts it and the core is in FAULTWAIT; one past 2^48 raises PROTECT. -/
theorem test_translation :
    (gives (memBytes (global [(4, 0x20008)]) 0x20008 0x1122 2) [(.ld .d64 3 4 0, 0x1122)] && gives (memBytes (global [(4, 0x40008)]) 0x40008 0x1122 2) [(.ld .d64 3 4 0, 0x1122)] &&
    runs (.ld .d64 3 4 0) (global [(4, 0x90000)]) (fun t => t.me.run == .faultwait && (t.ctx 0).fbstat == 1 && t.me.pc == 0x1000) &&
    traps (.ld .d64 3 4 0) (global [(4, 0x1000000000000)]) .protect 0x1000000000000) = true := by decide +kernel
/-- Operations at memory (R240): MEMRED and MEMSAX wait and execute at their bank, MEMCAS completes. -/
theorem test_banks :
    let s := memBytes (global [(3, 5), (4, 0x20000), (5, 7), (6, 0x40000000), (7, 0x20040)]) 0x20000 5 8
    (runs (.memred .add 4 5) s (fun t => t.mem == s.mem && runs (.memBankExecute 0) t (fun u => readNat u.mem 0x20000 8 == 12 && u.me.sb == [])) &&
    runs (.memcas 3 4 5) s (fun t => t.me.rg 3 == 5 && readNat t.mem 0x20000 8 == 7) && runs (.memcas 6 4 5) s (fun t => t.me.rg 6 == 5 && t.mem == s.mem) &&
    runs (.memsax 7 4 6) (memBytes (global [(4, 0x20000), (6, 0x40000000), (7, 0x20040)]) 0x20000 0x3F800000 4)
      (fun t => runs (.memBankExecute 0) t (fun u => readNat u.mem 0x20040 4 == 0x3F800000))) = true := by decide +kernel
/-- A counter's life (R241 to R251): CINIT 10 with chunk 4; CDEC 3 from the reserve; CINC 1; CREAD gives the whole; CDEC of 9 fails; CLOCAL. -/
theorem test_counters :
    runs (.cinit 4 5 6) (global [(4, 0x40000), (5, 10), (6, 4), (7, 3), (8, 1), (9, 9)]) (fun s =>
      s.counter 0x40000 == some ⟨10, 4, [], [], false, 0, []⟩ &&
      runs (.cread 3 4) s (fun t => t.me.rg 3 == 10) && runs (.cdec 3 4 7) s (fun t => t.me.rg 3 == 1 && runs (.clocal 10 4) t (fun u =>
        (u.counter 0x40000).map (fun c => c.reserve + (u.me.rg 10).toNat) == some 7)) &&
      runs (.cinc 4 8) s (fun t => (t.counter 0x40000).map Counter.reserve == some 11) && runs (.cdec 3 4 0) s (fun t => t.me.rg 3 == 1)) = true := by
  decide +kernel
/-- Fences with nothing pending go on; a fence behind a buffered store waits (R215); ISYNC drops the fetched words; PAUSE 256 (R262). -/
theorem test_fences :
    ([Instr.fence .system, .fenceLx, .drain, .isync, .l1inv 0 0, .l1wb 0 0, .icinv 0 0, .yield].all (fun i => runs i bare (fun t => t.me.pc == 0x1004)) &&
    runs (.st .b8 5 4 0) (regs [(4, 0x7F0000000000)]) (fun s => runs (.fence .core) s (fun t => t.me.run == .stalled && t.me.pc == 0x1004)) &&
    runs .isync (with0 (fun c => { c with prefetch := [(0x1004, 1)] })) (fun t => t.me.prefetch == []) &&
    runs (.pause 255) bare (fun t => t.me.wait == .pause 256 && runs (.pauseEnd 0) { t with time := 256 } (fun u => u.me.wait == .granted 0))) = true := by decide +kernel
theorem test_maintenance :
    let s := (global [(4, 0x20000), (5, 64)]).modCluster 0 (fun c => { c with l1 := [(0x20000, .copy true 7 0 0), (0x20040, .copy false 0 0 0)], icache := [(0x20000, 1), (0x20040, 2)] })
    (runs (.l1wb 4 5) s (fun t => readNat t.mem 0x20000 8 == 7 && t.l1 0 0x20000 == some (.copy false 7 0 0)) &&
    runs (.l1inv 4 5) s (fun t => t.l1 0 0x20000 == none && t.l1 0 0x20040 == some (.copy false 0 0 0)) &&
    runs (.icinv 4 5) s (fun t => t.me.pc == 0x1004)) = true := by decide +kernel
/-- Events (R257, R258): an EVSIG that meets the target wakes; BAR by the only member advances the phase; the window's entries. -/
theorem test_events :
    (runs (.evarm 4 5) (regs [(4, 31), (5, 2)]) (fun s => runs (.evsig 4) s (fun t => runs (.evsig 4) t (fun u => (u.cluster 0).line 31 == ⟨2, 0, 1⟩ &&
      runs (.eventWindowLoad 3 0xF8) u (fun v => v.me.rg 3 == 1) && runs (.eventWindowLoad 3 0x1F8) u (fun v => v.me.rg 3 == 0x100020000)))) &&
    traps (.evsig 4) (regs [(4, 32)]) .illegal (0x10000000000#64 ||| (Instr.evsig 4).word.zeroExtend 64) &&
    runs (.eventWindowStore 0x280 4) (regs [(4, 1)]) (fun s => runs (.bar 0) s (fun t => (t.cluster 0).bar 0 == ⟨1, 0, 1⟩ &&
      runs (.ld .d64 3 6 0) (t.modCore 0 (sets [(6, 0x7F0100000200)])) (fun u => u.me.rg 3 == 1))) &&
    runs (.eventWindowLoad 3 0x300) bare (fun t => t.me.rg 3 == 1 && runs (.eventWindowLoad 3 0x380) t (fun u => u.me.rg 3 == 0x8000000000000000) &&
      runs (.eventWindowStore 0x300 0) t (fun u => (u.cluster 0).mutex 0 == ⟨none, []⟩))) = true := by decide +kernel
/-- WAITA (R263) goes on where the word is there, else sleeps until a store makes it so; SYNC of a lone core (R268). -/
theorem test_waits :
    (runs (.waita 4 5) (regs [(4, 0x7F0000000000)]) (fun t => t.me.pc == 0x1004) &&
    runs (.waita 4 5) (regs [(4, 0x7F0000000000), (5, 7)]) (fun t => t.me.run == .sleeping &&
      runs (.waitaWake 0) (localBytes t 0 7 1) (fun u => u.me.wait == .granted 0) && runs (.waitaWake 0) t (fun u => u.me.wait == t.me.wait) &&
      runs (.watchdog 0) { handled t with time := 2 ^ 20 } (fun u => u.me.ecause == 14 && u.me.pc == 0x8000))) = true := by decide +kernel
/-- A kernel 5 of two cores on cluster 0, KCLUS 0, in a context 1 of partition 2. -/
def kernel0 : Kernel := { Kernel.reset with ctx := 1, st := .running, record := [0x10000, 0, 0, 2, 0, 0, 0, 0], places := [(0, 0)], started := [0] }
def inKernel (s : State) : State :=
  let s := s.modCluster 0 (fun c => { c with ctx := some 1, kernel := some 5 })
  { s with
    cores := s.cores.put 1 core0
    kernels := [(5, kernel0)]
    ctxs := [(1, { Context.reset with st := .running, part := 2, queues := [(3, ⟨1, [], 0, false⟩)] })]
    parts := [(2, { Partition.reset with desc := { PartDesc.empty with id := 2, clusters := [0, 1] } })] }
theorem test_messages :
    let s := inKernel (regs [(4, 1), (5, 9), (6, 2)])
    (runs (.send 4 5 31) s (fun t => t.inboxOf 1 31 == ⟨true, 9, 0, some 0⟩ && t.me.pc == 0x1004 &&
      runs (.send 4 5 31) t (fun u => u.me.run == .stalled && u.me.wait == .send 1 &&
        runs (.take 3 31) { u with cur := 1 } (fun v => v.me.rg 3 == 9 && v.inboxOf 1 31 == ⟨true, 9, 0, some 0⟩ && (v.core 0).wait == .granted 0) &&
        runs (.inboxDelivery 1 31) (u.modCore 1 (fun c => c.wi 31 InboxReg.reset)) (fun v => v.inboxOf 1 31 == ⟨true, 9, 0, some 0⟩)) &&
      runs (.peeki 3 31) { t with cur := 1 } (fun u => u.me.rg 3 == 9 && (u.inboxOf 1 31).present)) &&
    runs (.take 3 0) s (fun t => t.me.run == .sleeping && t.me.wait == .inbox 0) &&
    runs (.send 6 5 0) (s.modCtx 1 (fun c => { c with tvec := 0x8000 })) (fun t => t.me.ecause == 0x105)) = true := by decide +kernel
/-- SYNC of two members (R268): the first is GATED, the second goes on and releases both. -/
theorem test_sync :
    runs (.sync 0) (inKernel bare) (fun t => t.me.run == .gated && t.me.wait == .sync 0 && runs (.sync 0) { t with cur := 1 } (fun u =>
      u.me.ssc == 1 && u.me.pc == 0x1004 && runs (.syncRelease 0 0) u (fun v => (v.core 0).ssc == 1 && (v.core 0).wait == .granted 0))) = true := by decide +kernel
/-- A SEND to a core that waits for its sender in another inbox (R276): both raise DEADLOCK after 4,096 cycles. -/
theorem test_deadlock :
    let s := (inKernel (regs [(4, 1), (5, 9)])).modCtx 1 (fun c => { c with tvec := 0x8000 })
    runs (.deadlockProbe 0) { (s.modCore 0 (fun c => { c with run := .stalled, wait := .send 1 })).modCore 1 (fun c =>
        { (c.wi 3 ⟨false, 0, 0, some 0⟩) with run := .sleeping, wait := .inbox 3 }) with sends := [⟨0, 1, 4, 9, 0⟩], time := 4096 }
      (fun t => t.me.ecause == 13 && (t.core 1).ecause == 13 && t.sends == []) = true := by decide +kernel
/-- Labels (R167 to R195) without a space: LGET, LEQ, LPROD with FALSE, LSET of an ID, LVIS, LSEL, LFOCUS, and the traps of NOGOOD and NOGOODE. -/
theorem test_labels :
    let s := with0 (fun c => (((c.wg 4 7 0xFFFF).wg 5 9 0).wg 6 0xFFFF 0))
    (runs (.lget 3 4) s (fun t => t.me.rg 3 == 0xFFFF && t.me.lg 3 == 0) && runs (.leq 3 4 5) s (fun t => t.me.rg 3 == 0) &&
    runs (.lprod 3 4 5) s (fun t => t.me.rg 3 == 7 && t.me.lg 3 == 0xFFFF) && runs (.lset 3 5 6) s (fun t => t.me.rg 3 == 9 && t.me.lg 3 == 0xFFFF) &&
    runs (.lunion 3 4 5) s (fun t => t.me.lg 3 == 0) && runs (.lvis 1 4) s (fun t => t.me.rp 1 == 0) && runs (.lsel 3 4 5) s (fun t => t.me.rg 3 == 9) &&
    runs (.lfocus 5 6) s (fun t => t.me.focus == 0x000000000000FFFF0000000000000009) && runs (.lcount 3 5) s (fun t => t.me.rg 3 == 1) &&
    runs (.lcount 3 4) s (fun t => t.me.rg 3 == 0) && runs (.lenv 3 5 0 false) s (fun t => t.me.rg 3 == 0) && runs (.nogood 4) s (fun t => t.me.pc == 0x1004) &&
    traps (.nogood 5) s .illegal (0x10000000000#64 ||| (Instr.nogood 5).word.zeroExtend 64) &&
    traps (.nogoode 0 0) s .illegal (0x10000000000#64 ||| (Instr.nogoode 0 0).word.zeroExtend 64)) = true := by decide +kernel
/-- A label space at 0x200000, translated by one leaf of 512 MiB, with ID 1 the label of assumption 0 and ID 2 that of assumptions 0 and 1 (R170). -/
def spaced (l : List (GReg × Word)) : State :=
  let leaf : List TlbEntry := [⟨0, 0, 0, 2 ^ 29, 0xE000000000000000⟩]
  let s := ((regs l).modCtx 0 (fun c => { c with lspace := 0x200001 })).modCluster 0 (fun c => { c with ctx := some 0, tlb := leaf })
  let s := memBytes (memBytes (memBytes (s.modLayer 0 (fun k => { k with tlb := leaf })) 0x200004 3 4) 0x210008 1 8) 0x210010 0x101 8
  memBytes (memBytes s 0x400000 1 16) 0x400040 3 16
theorem test_assume :
    runs (.assume 3 4 0) (spaced [(4, 7)]) (fun s => s.me.lg 3 == 1 && s.me.rg 3 == 7 && runs (.assume 6 3 1) s (fun t => t.me.lg 6 == 2 &&
      runs (.lenv 5 6 0 false) t (fun u => u.me.rg 5 == 3) && runs (.lprod 5 6 3) t (fun u => u.me.lg 5 == 2) && runs (.lunion 5 6 3) t (fun u => u.me.lg 5 == 1) &&
      runs (.lunion 5 3 4) t (fun u => u.me.lg 5 == 0) && runs (.lcount 5 6) t (fun u => u.me.rg 5 == 1 && u.me.lg 5 == 0))) = true := by decide +kernel
/-- NOGOOD of assumption 0 (R182, R184): recorded, and installed before the core goes on; its labels are then visible nowhere. -/
theorem test_nogood :
    runs (.assume 3 4 0) (spaced [(4, 7)]) (fun s => runs (.lvis 1 3) s (fun t => t.me.rp 1 == BitVec.allOnes 256) &&
      runs (.nogood 3) s (fun t => t.me.pc == 0x1008 && readNat t.mem 0x20000C 4 == 1 && (t.cluster 0).filter == [1] && runs (.lvis 1 3) t (fun u => u.me.rp 1 == 0))) = true := by
  decide +kernel
/-- Environments in canonical order, an antichain (R168, R174). -/
theorem test_antichain :
    (minimise [0b110] [0b011, 0b001, 0b110, 0b111, 0b100] == [0b001, 0b100] && minimise [] [2, 1, 3, 2] == [1, 2] && addNogood [0b11] 0b01 == [0b01]) = true := by
  decide +kernel

/-- XCOPY of eight bytes between places of the own local store, with a completion word (R278 to R284). -/
theorem test_copy :
    let s := localBytes (regs [(1, 0x7F0000000100), (2, 0x7F0000000000), (3, 8), (4, 0x500000200)]) 0 0x1122334455667788 8
    runs (.xcopy 1 1 2 3 4) s (fun t => t.me.cq.length == 1 && t.me.pc == 0x1004 && runs (.xstat 5) t (fun u => u.me.rg 5 == 1) &&
      runs (.copyCommandStart 0) t (fun u => runs (.xstat 5) u (fun v => v.me.rg 5 == 0x800000001) && runs (.copyBeat 0) u (fun v =>
        readNat v.mem (lsBase 0 + 0x100) 8 == 0x1122334455667788 && runs (.copyCommandComplete 0) v (fun w => w.me.cq == [] && readNat w.mem (lsBase 0 + 0x200) 4 == 5)))) = true := by
  decide +kernel
theorem test_copy_checks :
    (traps (.xcopy 0 1 2 3 0) (regs [(3, 0x8000000000000008)]) .illegal (0x10000000000#64 ||| (Instr.xcopy 0 1 2 3 0).word.zeroExtend 64) &&
    traps (.xcopy 8 1 2 3 0) (regs [(3, 8)]) .protect ((Instr.xcopy 8 1 2 3 0).word.zeroExtend 64) &&
    traps (.xpub 4) (regs [(4, 0x100)]) .illegal (0x10000000000#64 ||| (Instr.xpub 4).word.zeroExtend 64) &&
    traps (.xcopy 0 1 2 3 0) (with0 (fun c => { c with cfail := some ⟨3, 0, 5, none⟩ })) .misalign (0x10000000005)) = true := by decide +kernel

/-- Matrix (R156 to R165): MZERO; an MLD of a constant row; MWAIT waits for a queued command; MMA of formats that a narrow unit lacks. -/
theorem test_matrix_issue :
    (runs (.mzero 3) bare (fun t => t.me.mq.length == 1 && t.me.pc == 0x1004 && runs (.mwait 3) t (fun u => u.me.run == .stalled) && runs (.mwait 2) t (fun u => u.me.pc == 0x1008) &&
      runs (.matrixOpStart 0) t (fun u => (u.cluster 0).mrun == some 0 && runs (.matrixOpComplete 0) u (fun v => v.me.mq == [] && (v.cluster 0).mrun == none))) &&
    runs (.mma 1 4 5) (regs [(4, 0x7F0000000000), (5, 0x7F0000002000)]) (fun t => (t.me.mq.map MEntry.locB == [lsBase 0 + 0x2000]) && t.me.pc == 0x1004) &&
    traps (.mma 1 4 5) (regs [(4, 0x7F0000000020), (5, 0x7F0000002000)]) .misalign 0x7F0000000020 &&
    runs (.mtest 3) (bare.modCluster 0 (fun c => { c with offline := true })) (fun t => t.me.rg 3 == 0xFFFFFFFF)) = true := by decide +kernel
/-- R42 on one element: four chunks of sixteen ones times ones add up to 64. -/
theorem test_matrix_element :
    tileElem (.fin (Ex.ofInt 1)) (.fin (Ex.ofInt 1)) 0 (List.replicate 64 (.fin (Ex.ofInt 1))) (List.replicate 64 (.fin (Ex.ofInt 1))) = 0x42800000#32 := by decide +kernel
/-- The beats of R123's table: three cores of weights 12, 4 and 1, each with four-beat instructions. -/
theorem test_lane_grants :
    let e (b : Nat) : VEntry := ⟨.vaddInt .s32 0 1 2 3, 1, 1, 0, 0, 0, 0, 0, b⟩
    let core (w : Word) : Core := { Core.reset with run := .running, vshare := w, vq := List.replicate 12 (e 4) }
    let s : State := { State.reset with cores := [(0, core 12), (1, core 4), (2, core 1)] }
    runs (.laneGroupGrant 0) s (fun t => ((t.core 0).va, (t.core 1).va, (t.core 2).va) == (-3, -1, 4)) = true := by decide +kernel

/-- Groups (R309 to R315): the second GFORM of two forms the group; GSTAT; GREJOIN of an attached follower; GLEAVE. -/
theorem test_groups :
    let s := inKernel (regs [(4, 3)])
    let s := s.modCore 1 (fun c => sets [(4, 3)] c)
    (runs (.gform 3 4) s (fun t => t.me.run == .gated && runs (.gform 3 4) { t with cur := 1 } (fun u => (u.core 0).group.st == .attached && u.me.group.st == .attached &&
      u.me.rg 3 == 0x0000000300030103 && runs (.gstat 5) u (fun v => v.me.rg 5 == 0x0000000300030103) && runs (.grejoin 0) u (fun v => v.me.pc == 0x1008) &&
      runs .gleave u (fun v => v.me.group.st == .none))) && runs (.gstat 5) s (fun t => t.me.rg 5 == 0) &&
    runs (.gform 3 4) ((inKernel (regs [(4, 2)])).modCtx 1 (fun c => { c with tvec := 0x8000 })) (fun t => t.me.ecause == 0x101)) = true := by decide +kernel
/-- LAUNCH (R303): the record is submitted to its queue, READY; a queue above 15; EXIT retires and KERNEL_DONE counts (R305, R297). -/
theorem test_kernels :
    let s := (inKernel (regs [(4, 3), (5, 0x60000), (6, 16)])).modCluster 0 (fun c => { c with tlb := [⟨2, 1, 0x60000, 0x10000, 0xE000000000060000⟩] })
    let s := memBytes s 0x60000 (0x10000 + 2 ^ 192 * 1) 32
    (runs (.launch 4 5) s (fun t => t.me.pc == 0x1004 && (t.kernel (s.nextId + 1)).st == .ready && ((t.ctx 1).queues.find? 3).map (fun q => q.entries.length) == some 1) &&
    runs (.launch 6 5) (s.modCtx 1 (fun c => { c with tvec := 0x8000 })) (fun t => t.me.ecause == 0x101) &&
    runs (.exit 0) s (fun t => t.me.run == .retired && t.me.focus == BitVec.allOnes 128 && runs (.exit 0) { t with cur := 1 } (fun u => (u.kernel 5).st == .succeeded &&
      runs (.kernelDone 5) (u.modKernel 5 (fun k => { k with queue := 3 })) (fun v => (v.kernel 5).st == .done && ((v.ctx 1).queues.find? 3).map LQueue.doneCnt == some 1)))) = true := by
  decide +kernel
/-- SAMPLE, TRACE, WAYSET.Q and WAYSET (R358 to R360, R378, R383). -/
theorem test_trace_and_ways :
    (runs (.sample 3) bare (fun t => t.me.wait == .sample 4096 && runs .samplingPulse { t with time := 4096 } (fun u => u.me.wait == .granted 0)) &&
    runs (.trace 4 9) bare (fun t => t.me.pc == 0x1004 && t.me.sb == []) &&
    runs (.waysetQ 3 4) (regs [(4, 5)]) (fun t => t.me.rg 3 == 0x300) && runs (.waysetQ 3 4) bare (fun t => t.me.rg 3 == 22) &&
    traps (.waysetQ 3 4) (regs [(4, 128)]) .illegal (0x10000000000#64 ||| (Instr.waysetQ 3 4).word.zeroExtend 64) &&
    traps (.wayset 3 4) bare .protect ((Instr.wayset 3 4).word.zeroExtend 64)) = true := by decide +kernel
/-- TLBINV and FREPLAY at S (R329, R330). -/
theorem test_translations :
    let s := (global [(4, 0x2FFFF)]).modCore 0 (fun c => { c with status := 1 })
    (runs (.tlbinvPage 4) s (fun t => t.me.pc == 0x1004 && (t.cluster 0).tlb.map TlbEntry.va == [0x40000, 0x60000]) && runs .tlbinvContext s (fun t => (t.cluster 0).tlb == []) &&
    runs .tlbinvPartition s (fun t => (t.layer 0).tlb == []) &&
    runs .freplay ((s.modCluster 0 (fun c => { c with ctx := some 0 })).modCore 1 (fun c => { c with run := .faultwait })) (fun t => (t.core 1).run == .running)) = true := by
  decide +kernel

/-- SHA-256 (R372, R373): the digest of "abc" of FIPS 180-4, appendix B.1; an empty signature does not verify. -/
theorem test_sha256 :
    sha256 [0x61, 0x62, 0x63] = 0xad1500f261ff10b49c7a1796a36103b02322ae5dde404141eacf018fbf1678ba ∧ rsaPssOk 7 3 [1] [] = false := by decide +kernel

/-! ### Witnesses: for each statement with hypotheses, states and operands that meet them, each clause at a boundary -/

/-- The product of the labels can be formed. -/
def formed (ls : List Label) (s : State) : Bool := match formLabel ls s with
  | .ok _ _ => true
  | _ => false
/-- An operation that goes on, with a result and a state that satisfy p. -/
def oks {α : Type} (m : M α) (s : State) (p : α → State → Bool) : Bool := match m s with
  | .ok a t => p a t
  | _ => false
theorem of_runs {i : Instr} {s t : State} (h : runs i s (fun u => decide (u = t)) = true) : exec i s = .next t := by
  unfold runs at h
  split at h
  · rename_i u hu
    rw [hu, of_decide_eq_true h]
  · cases h

/-- At the limit of R98 and with every operand its largest. -/
theorem witness_RoundTrip : (Instr.bext 31 31 63 0).wf = true ∧ (encode (.bext 31 31 63 0)).isSome = true ∧ (Instr.rpt 15 1 15 15 15).wf = true ∧
    (encode (.rpt 15 1 15 15 15)).isSome = true := by decide +kernel
theorem witness_OneMeaning : decode (0x21#6 ++ 0#15 ++ 127#7 ++ 1#4) = .ok (.grejoin 127) := by decide +kernel
/-- Each reserved group of R62 at its ends. -/
theorem witness_WordsOfTheSpec :
    ([0x0F, 0x22, 0x27, 0x30, 0x3F] : List (BitVec 6)).all (fun o => let w : HWord := o ++ 0#26
      w != 0 && opOf w == o.toNat && decide (opOf w = 0x0F ∨ (0x22 ≤ opOf w ∧ opOf w ≤ 0x27) ∨ 0x30 ≤ opOf w)) = true := by decide +kernel
/-- A product with FALSE, and one with a guard, can be formed, the destination not g0. -/
theorem witness_IntegerAlu : (31 : GReg) ≠ 0 ∧ formed [0xFFFF, 0] bare = true ∧ formed [0, 0] (with0 (fun c => { c with pair := some ⟨0, 0, 0xFFFF, true⟩ })) = true := by
  decide +kernel
/-- The corners of R97 and an ordinary division. -/
theorem witness_MultiplyDivide :
    let s := regs [(4, 0x8000000000000000), (5, 0xFFFFFFFFFFFFFFFF)]
    (s.me.rg 4).toInt = -2 ^ 63 ∧ (s.me.rg 5).toInt = -1 ∧ s.me.rg 6 = 0 ∧ formed [s.me.lg 4, s.me.lg 5] s = true := by decide +kernel
/-- p + len = 64; selectors without mode 3; a predicate at hand; the product formed. -/
theorem witness_BitFields :
    let s := regs [(5, 0b10111000100000100000)]
    (60 : BitVec 6).toNat + ((3 : BitVec 6).toNat + 1) ≤ 64 ∧ (∀ i, i < 4 → (s.me.rg 5).toNat / 2 ^ (5 * i + 3) % 4 ≠ 3) ∧ PredReady s 7 ∧
    formed [s.me.lp 7, s.me.lg 5] s = true := by
  refine ⟨by decide, by decide +kernel, ?_, by decide +kernel⟩
  show Core.predPending _ _ = false
  decide +kernel
/-- The last selector with mode 3. -/
theorem witness_BpermIllegal :
    let s := regs [(5, 0x18 <<< 15)]
    3 < 4 ∧ (s.me.rg 5).toNat / 2 ^ (5 * 3 + 3) % 4 = 3 ∧
    exec (.bperm 3 4 5) s = .next ((s.keepLoss s).trapInstr s.cur (Instr.word (.bperm 3 4 5)) .illegal (.word true)) := by
  exact ⟨by decide, by decide +kernel, of_runs (by decide +kernel)⟩
theorem witness_ScalarFp : (3 : GReg) ≠ 0 ∧ formed [0, 0, 0xFFFF] (with0 (fun c => { c with frm := 4 })) = true := by decide +kernel
/-- Both, either and neither operand NaN; a signalling one; operands that order both ways. -/
theorem witness_MinMaxCompare :
    let x := fmtF32.decode 0x7FC00000
    let y := fmtF32.decode 0x3F800000
    let z := fmtF32.decode 0x7F800001
    0x7FC00000 < 2 ^ 32 ∧ x.isNan = true ∧ y.isNan = false ∧ z.isSnan = true ∧ x.isSnan = false ∧ y.cmp (fmtF32.decode 0xFF800000) = .gt ∧
    y.cmp (fmtF32.decode 0x7F800000) = .lt ∧ (fmtF32.decode 0).cmp (fmtF32.decode 0x80000000) = .eq := by decide +kernel

theorem trueLocal_of_tags {s : State} (h : s.tags = []) (g : s.damaged = []) (n : Nat) : TrueLocal s n := fun _ _ _ => by rw [h, g]; exact ⟨rfl, rfl⟩
/-- The streams of a core just entered; 31 zeros and a one ahead, the longest code of R113. -/
theorem witness_Streams :
    let s := localBytes bare 3 0x01 1
    StreamReady s ∧ (∀ j, j < 31 → streamBit s j = false) ∧ streamBit s 31 = true ∧ 2 * 31 + 1 + (1 : BitVec 5).toNat ≤ 64 := by
  refine ⟨⟨⟨rfl, rfl, rfl, rfl⟩, trueLocal_of_tags rfl rfl _, rfl, rfl, rfl, by decide +kernel⟩, by decide +kernel, by decide +kernel, by decide⟩
/-- STRICT off with any labels, and on with TRUE ones; a branch that is taken and one that is not. -/
theorem witness_Branch :
    bare.me.lflags.getLsbD 1 = false ∧ (let s := with0 (fun c => { c with lflags := 2 }); s.me.lflags.getLsbD 1 = true ∧ s.me.lg 4 = labelTrue ∧ s.me.lg 5 = labelTrue ∧
      s.me.rg 4 = s.me.rg 5 ∧ exec (.bCond .eq 4 5 0x1000) s = .next (s.modCore s.cur (fun c => c.at (s.me.here + 4 * (0x1000 : BitVec 13).signExtend 64))) ∧
      exec (.bCond .ne 4 5 0x1000) s = .next (s.modCore s.cur (fun c => c.at (s.me.here + 4)))) := by
  exact ⟨by decide +kernel, by decide +kernel, by decide +kernel, by decide +kernel, by decide +kernel, of_runs (by decide +kernel), of_runs (by decide +kernel)⟩
/-- Targets that are aligned and not. -/
theorem witness_Jumps :
    let s := regs [(4, 0x2002)]
    formed [] s = true ∧ s.me.lflags.getLsbD 1 = false ∧ (s.me.rg 4 + (0 : BitVec 16).signExtend 64).toNat % 4 ≠ 0 ∧
    (s.me.rg 4 + (2 : BitVec 16).signExtend 64).toNat % 4 = 0 ∧ Traps (.jlr 3 4 0) s .misalign (.other (s.me.rg 4 + (0 : BitVec 16).signExtend 64) false) := by
  exact ⟨by decide +kernel, by decide +kernel, by decide +kernel, by decide +kernel, of_runs (by decide +kernel)⟩
/-- The word behind the guard has been fetched and may be guarded. -/
def guarded (f : Core → Core) : State := handled (with0 (fun c => f { c with prefetch := [(0x1004, 0x04642800)] }))
theorem witness_StrictTransfers :
    let s := guarded (fun c => ({ c with lflags := 2 }.wpl 1 0xFFFF).wg 4 0 0xFFFF)
    s.me.lflags.getLsbD 1 = true ∧ s.me.lg 4 ≠ labelTrue ∧ s.me.lp 1 ≠ labelTrue ∧ s.me.predPending 1 = false ∧ s.me.frame = none ∧
    oks (fetchNth 1) s (fun w t => w == 0x04642800 && t == s.modCore 0 (fun c => { c with prefetch := [] }) && decide (decode w = .ok (.add 3 4 5)) && !unguardable w) = true ∧
    Traps (.bCond .eq 0 4 0) s .labelBranch (.word false) ∧ Traps (.jlr 0 4 0) s .labelBranch (.word false) ∧ Traps (.guard true 1) s .labelBranch (.word false) := by
  exact ⟨by decide +kernel, by decide +kernel, by decide +kernel, by decide +kernel, by decide +kernel, by decide +kernel, of_runs (by decide +kernel), of_runs (by decide +kernel),
    of_runs (by decide +kernel)⟩
theorem witness_GuardAndFrame :
    let s := guarded id
    oks (fetchNth 1) s (fun w t => decide (decode w = .ok (.add 3 4 5)) && !unguardable w && !t.me.predPending 7 && !t.me.lflags.getLsbD 1) = true ∧
    oks ((List.range ((0 : BitVec 4).toNat + 1)).mapM (fun i => fetchNth (1 + i))) s (fun ws t => ws.all frameWord && t == s.modCore 0 (fun c => { c with prefetch := [] })) = true ∧
    runs (.guard true 7) s (fun t => t.me.pair == some ⟨Instr.word (.guard true 7), 0x04642800, 0, true⟩) = true ∧
    runs (.rpt 0 15 1 1 0) s (fun t => t.me.frame == some ⟨[0x04642800], 16, 1, 1, 0, 0, 0⟩) = true := by decide +kernel
theorem witness_TrapEntry : (handled bare).fatal 0 = false ∧ (handled (with0 (fun c => { c with status := 1 }))).fatal 0 = false := by decide +kernel
theorem witness_FatalTrap : ((handled (with0 (fun c => { c with status := 4 }))).core 0).status.getLsbD 2 = true ∧ (bare.ctx (bare.ctxOf 0)).tvec = 0 ∧
    (let s := inKernel bare; (s.ctx 1).queues.length = 1 ∧ s.coresOfCtx 1 = [0, 1, 2, 3, 4, 5, 6, 7] ∧ (s.core 1).run ≠ .retired) := by decide +kernel
theorem idle_bare : Idle bare.me := ⟨rfl, rfl, rfl, rfl, rfl, rfl⟩
theorem witness_TrapsOfTheProgram :
    let s := with0 (fun c => { c with status := 1, epc := 4 })
    s.me.frame = none ∧ s.me.atS = true ∧ s.me.epc.toNat % 4 = 0 ∧ Idle s.me ∧ exec (.trap 63) s = .next (s.takeTrap s.cur (s.me.pc + 4) .trap false false 63) ∧
    exec .halt s = .next (s.modCore s.cur (fun d => { d.past with run := .halted })) := by
  exact ⟨rfl, rfl, rfl, idle_bare, of_runs (by decide +kernel), of_runs (by decide +kernel)⟩
/-- At K, the first and the last privileged number of MFC and MTC. -/
theorem witness_PrivilegedAtK :
    bare.me.atS = false ∧ Traps (.mfc 3 24) bare .protect (.word false) ∧ Traps (.mfc 3 32) bare .protect (.word false) ∧ Traps (.mtc 2 4) bare .protect (.word false) ∧
    Traps (.mtc 31 4) bare .protect (.word false) ∧ Traps .freplay bare .protect (.word false) ∧ Traps (.mtcLspace 4) bare .protect (.word false) ∧
    Traps (.mtcFbstat 4) bare .protect (.word false) ∧ Traps (.mtcTracectl 4) bare .protect (.word false) ∧ Traps (.wayset 3 4) bare .protect (.word false) := by
  refine ⟨rfl, ?_⟩
  and_intros <;> exact of_runs (by decide +kernel)
/-- Every register number that a level may read gives its register: at K those up to 23, at S all. -/
theorem witness_ReadControl :
    let s := with0 (fun c => { c with status := 1, brptr := 5, epc := 6, ecause := 7, einfo := 8 })
    s.me.atS = true ∧ s.me.vq = [] ∧ formed [] s = true ∧
    ([(0, 0), (1, 0x800), (2, 0), (3, 0), (4, 0x80008), (5, 4), (7, 0), (9, 0), (11, 0x100000), (13, 0), (15, 1), (16, 0), (17, 0), (20, 0), (21, 5), (23, 0), (24, 0), (25, 6),
      (26, 7), (27, 8), (28, 1), (29, 8), (30, 0), (31, 0), (32, 0)] : List (BitVec 6 × Word)).all
      (fun e => runs (.mfc 3 e.1) s (fun t => t.me.rg 3 == e.2)) = true := by decide +kernel
/-- A value at the edge of each rule of R82, admitted, and one beyond it. -/
theorem witness_WriteControl :
    let r := (regs [(1, 0), (2, 15), (3, 16), (4, 7), (5, 8), (6, 0x1000000), (7, 0x4100000000), (8, 0x1FFFF), (9, 0x800000000), (10, 0x10000)]).modCore 0 (fun c => { c with status := 1 })
    let s : State := { r with parts := [(0, ⟨{ PartDesc.empty with ranges := [(0, 2 ^ 30)] }, []⟩)] }
    s.me.atS = true ∧ s.me.vq = [] ∧ (s.me.rg 1 = 0 ∧ lspaceEn (s.ctx (s.ctxOf s.cur)).lspace = false) ∧ s.tracectlOk 0 0 = true ∧ s.fbdepthOk 0 8 = true ∧
    ([(5, 2), (7, 1), (9, 4), (10, 4), (13, 0), (15, 2), (17, 4), (18, 9), (19, 9), (20, 9), (21, 8), (22, 9), (23, 8), (25, 8), (26, 4), (27, 9), (28, 1), (31, 4), (29, 5), (24, 10)] :
      List (BitVec 6 × GReg)).all (fun e => runs (.mtc e.1 e.2) s (fun t => t.me.pc == 0x1004)) = true ∧
    ([(5, 3), (5, 0), (7, 5), (9, 5), (15, 3), (17, 5), (21, 7), (23, 9), (28, 5), (31, 5)] :
      List (BitVec 6 × GReg)).all (fun e => runs (.mtc e.1 e.2) (handled s) (fun t => t.me.ecause.toNat % 256 == 1)) = true ∧
    Sets (.mtcFflags 2) s (fun c => { c with fflags := s.me.rg 2 }) ∧ Sets (.mtcSrseed 2) s (fun c => { c with srseed := s.me.rg 2 }) ∧
    exec (.mtcFbstat 2) s = .next ((s.clearFaults 0 (s.me.rg 2)).modCore s.cur Core.past) ∧ exec (.mtcTracectl 1) s = .next ((s.writeTracectl 0 (s.me.rg 1)).modCore s.cur Core.past) := by
  exact ⟨rfl, rfl, by decide +kernel, by decide +kernel, by decide +kernel, by decide +kernel, by decide +kernel, of_runs (by decide +kernel), of_runs (by decide +kernel),
    of_runs (by decide +kernel), of_runs (by decide +kernel)⟩
/-- At S with nothing pending on any core, the largest address below the windows. -/
theorem witness_Translations :
    let s := (global [(4, 0x7EFFFFFFFFFF)]).modCore 0 (fun c => { c with status := 1 })
    s.me.atS = true ∧ Idle s.me ∧ (∀ n, (s.core n).sb = [] ∧ (s.core n).nt = [] ∧ (s.core n).mq = [] ∧ s.awaitsCounter n = false) ∧ (s.me.rg 4).toNat < 2 ^ 48 ∧ inWindows (s.me.rg 4).toNat = false ∧
    runs (.tlbinvPage 4) s (fun t => t.me.pc == 0x1004) = true := by
  refine ⟨by decide +kernel, ⟨rfl, rfl, rfl, rfl, rfl, rfl⟩, fun n => ?_, by decide +kernel, by decide +kernel, by decide +kernel⟩
  cases n <;> exact ⟨rfl, rfl, rfl, rfl⟩
/-- A load at the last aligned word of a page, with a TRUE tag. -/
theorem witness_Loads :
    let s := global [(4, 0x6FFF0)]
    oks (resolve .read 0x6FFF8 8) s (fun loc s1 => loc == ⟨.untracked, 0x6FFF8, false⟩ && [false, true].all (fun nt => oks (loadFrom 0x6FFF8 loc 8 nt) s1 (fun r s2 =>
      formed (r.2 ++ [s.me.lg 4]) s2))) = true ∧ s.target 0 0x6FFF8 = .global 0x6FFF8 ∧ s.me.tileMem = false ∧
    s.me.rg 4 + (1 : BitVec 11).signExtend 64 * BitVec.ofNat 64 (LdSize.bytes .d64) = 0x6FFF8 := by decide +kernel
/-- The last eight bytes of the local store; the last byte. -/
theorem witness_LoadLocal :
    let s := regs [(4, 0x7F000001FFF8), (5, 0x123)]
    LocalAt (s.me.rg 4 + (0 : BitVec 11).signExtend 64 * BitVec.ofNat 64 (LdSize.bytes .d64)) 8 0x1FFF8 ∧ LocalAt (s.me.rg 4 + (7 : BitVec 11).signExtend 64 * BitVec.ofNat 64 1) 1 0x1FFFF ∧
    Still s.me ∧ TrueLocal s s.cur ∧ s.me.guardLabel = labelTrue ∧ s.me.lg 4 = labelTrue ∧ s.me.lg 5 = labelTrue ∧ s.me.pair = none ∧
    runs (.st .b8 5 4 7) s (fun t => runs (.ld .n8 3 4 7) t (fun u => u.me.rg 3 == 0x23)) = true ∧
    (let d : State := { s with damaged := [((lsBase 0 + 0x1FFF8) / 4, true)] }
     d.damaged.get false ((lsBase d.cur + 0x1FFF8) / 4) = true ∧ Traps (.ld .d64 3 4 0) (handled d) .machineCheck (.other 0x7F000001FFF8 false)) := by
  refine ⟨⟨by decide +kernel, by decide, by decide⟩, ⟨by decide +kernel, by decide, by decide⟩, ⟨rfl, rfl, rfl, rfl⟩, trueLocal_of_tags rfl rfl _, rfl, by decide +kernel, by decide +kernel, rfl,
    by decide +kernel, by decide +kernel, of_runs (by decide +kernel)⟩
/-- A page with tags under FALSE, a plain one under TRUE, a window, and global memory with no buffer in use; 15 entries buffered. -/
theorem witness_Stores :
    let s := mapped (fun c => { (sets [(4, 0x60008), (6, 0x20000)] c).wg 5 7 0xFFFF with sb := List.replicate 15 (byteStore 0 0 0) })
    (oks (resolve .write 0x60008 8) s (fun loc s1 => !loc.plain && oks (formLabel [s.me.lg 5, s.me.lg 4]) s1 (fun l t => l == 0xFFFF && t.me.sb.length < 16 &&
        !t.me.ntCovers 0x60008 8 && !t.me.tileMem && !t.me.mstQueued))) = true ∧
    (oks (resolve .write 0x20000 8) s (fun loc s1 => loc.plain && oks (formLabel [s.me.lg 4, s.me.lg 6]) s1 (fun l _ => l == labelTrue))) = true ∧
    runs (.st .b64 5 4 0) s (fun t => t.me.sb.length == 16 && t.me.pc == 0x1004) = true ∧
    (let s := global [(4, 0x60000), (5, 7)]; runs (.stnt .b64 5 4 0) s (fun t => t.me.nt == [⟨0x60000, [⟨0x60000, ⟨.untracked, 0x60000, false⟩, 8, 7, 0⟩]⟩]) = true) := by
  decide +kernel
/-- A store at the end of a local store, and one to host memory over a link that is up. -/
theorem witness_StorePerforms :
    let e : SbEntry := ⟨.store, 0x7F000001FFFC, ⟨.local, lsBase 0 + 0x1FFFC, false⟩, 4, 0x1122334455667788, 0xFFFF⟩
    let f : NtStore := ⟨0, ⟨.hostUncached, 0x100000000000, false⟩, 8, 9, 0⟩
    let s := { with0 (fun c => { c with sb := [e, e], nt := [⟨0x100000000000, [f]⟩] }) with links := [(0, { Link.reset with st := .up, endpoint := some 128 })], damaged := [((lsBase 0 + 0x1FFFC) / 4, true)] }
    s.Canonical ∧ (s.core 0).paused = [] ∧ (s.core 0).wait = .none ∧ e.loc.key % 4 = 0 ∧ f.loc.key % 4 = 0 ∧ linkUp s f.loc = true ∧
    runs (.storePerform 0) s (fun t => t.me.sb == [e] && readNat t.mem (lsBase 0 + 0x1FFFC) 4 == 0x55667788 && t.tagAt (lsBase 0 + 0x1FFFC) == 0xFFFF && t.damaged == []) = true ∧
    runs (.stntBufferPerform 0 0x100000000000) s (fun t => t.me.nt == [] && readNat t.mem 0x100000000000 8 == 9) = true := by
  refine ⟨⟨rfl, rfl⟩, ?_⟩
  decide +kernel
theorem witness_Misaligned :
    let s := global [(4, 0x40001)]
    (s.me.rg 4).toNat % LdSize.bytes .s16 ≠ 0 ∧ (s.me.rg 4).toNat % AmoSize.bytes .w32 ≠ 0 ∧ (s.me.rg 4).toNat % 64 ≠ 0 ∧ s.me.wait = .none ∧
    (s.me.rg 4).toNat % MemredOp.bytes .add ≠ 0 ∧ s.target s.cur (s.me.rg 4) = .global 0x40001 ∧ Traps (.ld .s16 3 4 0) s .misalign (.other 0x40001 false) ∧
    Traps (.cinit 4 5 6) s .misalign (.other 0x40001 false) ∧ Traps (.memred .add 4 5) s .misalign (.other 0x40001 false) ∧ Traps (.redFadd 4 5) s .misalign (.other 0x40001 false) ∧
    s.me.tileMem = false ∧ Traps (.ldAcq .s16 3 4 0) s .misalign (.other 0x40001 false) ∧ (s.me.rg 4).toNat % 8 ≠ 0 ∧ Traps (.memcas 3 4 5) s .misalign (.other 0x40001 false) := by
  exact ⟨by decide +kernel, by decide +kernel, by decide +kernel, rfl, by decide +kernel, by decide +kernel, of_runs (by decide +kernel), of_runs (by decide +kernel),
    of_runs (by decide +kernel), of_runs (by decide +kernel), by decide +kernel, of_runs (by decide +kernel), by decide +kernel, of_runs (by decide +kernel)⟩
theorem witness_Atomics :
    let s := regs [(4, 0x7F000001FFF8), (5, 3)]
    LocalAt (s.me.rg 4) (AmoSize.bytes .w64) 0x1FFF8 ∧ LocalAt (s.me.rg 4) 4 0x1FFF8 ∧ Still s.me ∧ TrueLocal s s.cur ∧ s.Canonical ∧ s.me.guardLabel = labelTrue ∧ s.me.wait = .none ∧
    s.me.run = .running ∧ s.me.lg 4 = labelTrue ∧ s.me.lg 5 = labelTrue ∧ s.me.lg 3 = labelTrue ∧
    runs (.amoAdd .ar .w64 3 4 5) s (fun t => readNat t.mem (lsBase 0 + 0x1FFF8) 8 == 3 && t.me.rg 3 == 0) = true := by
  refine ⟨⟨by decide +kernel, by decide, by decide⟩, ⟨by decide +kernel, by decide, by decide⟩, ⟨rfl, rfl, rfl, rfl⟩, trueLocal_of_tags rfl rfl _, ⟨rfl, rfl⟩, rfl, rfl, rfl, by decide +kernel,
    by decide +kernel, by decide +kernel, by decide +kernel⟩
/-- A RED on a plain page, a MEMRED and a MEMSAX at the last line of one; their performing at the bank. -/
theorem witness_Reductions :
    let s := global [(4, 0x2FFC0), (5, 7), (6, 0x2FF80)]
    oks (resolve .write 0x2FFC0 8) s (fun loc s1 => loc.plain && oks (farAtomic 0x2FFC0 .add loc false) s1 (fun _ t => t == s1) && formed [s.me.lg 5, s.me.lg 4] s1) = true ∧
    oks (resolveBank .write 0x2FFC0 64) s (fun loc s1 => loc.plain && oks (resolveBank .read 0x2FF80 64) s1 (fun lx s2 => lx.place == .untracked && formed [s.me.lg 5] s2)) = true ∧
    oks (resolveBank .write 0x2FFC0 8) s (fun loc s1 => loc.place == .untracked && loc.plain && s1.blocking == none && s1.me == s.me && s1.cur == s.cur && s1.mem == s.mem) = true ∧
    Idle s.me ∧ s.me.guardLabel = labelTrue ∧
    runs (.redAdd .w64 4 5) s (fun t => t.me.sb == [⟨.red .add, 0x2FFC0, ⟨.untracked, 0x2FFC0, true⟩, 8, 7, 0⟩]) = true ∧
    runs (.memred .add 4 5) s (fun t => t.me.sb == [⟨.memred .add, 0x2FFC0, ⟨.untracked, 0x2FFC0, true⟩, 8, 7, 0⟩] && (t.core 0).paused == [] &&
      runs (.memBankExecute 0) t (fun u => u.mem == writeNat s.mem 0x2FFC0 7 8)) = true ∧
    runs (.memsax 4 6 5) s (fun t => t.me.sb == [⟨.memsax ⟨.untracked, 0x2FF80, true⟩ 7, 0x2FFC0, ⟨.untracked, 0x2FFC0, true⟩, 64, 0, 0⟩]) = true ∧
    runs (.memcas 3 4 5) s (fun t => t.me.rg 3 == 0 && t.mem == writeNat s.mem 0x2FFC0 7 8) = true := by
  exact ⟨by decide +kernel, by decide +kernel, by decide +kernel, ⟨rfl, rfl, rfl, rfl, rfl, rfl⟩, rfl, by decide +kernel, by decide +kernel, by decide +kernel, by decide +kernel⟩

/-- A shape that fills a tile exactly, 15 instructions queued; a row that ends the local store; a scatter of 128 positions. -/
theorem witness_TilesEnter :
    let s := with0 (fun c => { sets [(1, 0x7F000001FFE0), (2, 0)] c with shape := 0x00080008, vq := List.replicate 15 ⟨.pset 1 true, 1, 1, 0, 0, 0, 0, 0, 1⟩ })
    let r := with0 (fun c => { sets [(1, 0x7F000001FF00), (2, 0xFFFF)] c with shape := 0x00080008, frm := 4 })
    elems s.me * bitsOf .s32 ≤ 2048 ∧ s.me.vq.length < 16 ∧ PredReady s 2 ∧ formed [s.me.lv 1, s.me.lv 2, s.me.lp 2] s = true ∧ elems s.me % 64 = 0 ∧
    ((r.me.rg 2).truncate 16 = labelFalse) ∧ r.me.mstQueued = false ∧ oks (rowChecks .s32 (r.me.rg 1) false 0) r (fun k t => k == lsBase 0 + 0x1FF00 && t == r) = true ∧
    (r.me.rg 1).toNat = 0x7F0000000000 + 0x1FF00 ∧ 0x1FF00 % (bitsOf .s32 / 8) = 0 ∧ elems r.me ≤ 128 ∧
    (exec (.vaddFloat .f32 2 3 1 2) r = .next (r.modCore r.cur (fun c => (({ c with
        vq := c.vq ++ [{ op := .vaddFloat .f32 2 3 1 2, rows := 8, cols := 8, frm := 4, seed := c.srseed, ga := 0, gb := 0, label := 0, beats := 4 }]
        srseed := seedSteps 64 c.srseed } : Core).wvl 3 0).past))) ∧
    runs (.vst .s32 0 1 1 0) r (fun t => t.me.vq.map (fun e => (e.beats, e.ga, e.gb)) == [(4, r.me.rg 1, 0)]) = true ∧
    runs (.vscatter .s32 0 1 1 2) r (fun t => t.me.vq.map (fun e => (e.beats, e.ga, e.gb)) == [(4, r.me.rg 1, 0)]) = true ∧
    runs (.vlset 3 1 2) r (fun t => t.me.vq.map (fun e => (e.beats, e.ga, e.label)) == [(1, 0, 0xFFFF)]) = true := by
  refine ⟨by decide +kernel, by decide +kernel, ?_, by decide +kernel, by decide +kernel, by decide +kernel, by decide +kernel, by decide +kernel, by decide +kernel, by decide, by decide +kernel,
    of_runs (by decide +kernel), by decide +kernel, by decide +kernel, by decide +kernel⟩
  show Core.predPending _ _ = false
  decide +kernel
/-- A valid shape and the first beyond; a predicate counted and searched, its last position set, and the core that is told; room for one more. -/
theorem witness_TilesAtIssue :
    let s := with0 (fun c => sets [(1, 0x01000001), (2, 0x01010001)] c)
    let r := with0 (fun c => { (c.wp 1 (1 <<< 63)) with shape := 0x00080008, vq := List.replicate 15 ⟨.pset 2 true, 1, 1, 0, 0, 0, 0, 0, 1⟩ })
    let h (i : Instr) : State := r.modCore 0 (fun c => { c with vq := [⟨i, 8, 8, 0, 0, 0, 0, 0, 0⟩], run := .stalled, wait := .result })
    r.me.wait = .none ∧ r.me.vq.length < 16 ∧ lowG 3 ≠ 0 ∧ formed [r.me.lp 1] r = true ∧ (h (.pcnt 3 1)).me.paused = [] ∧
    runs (.pcnt 3 1) r (fun t => t.me.vq.length == 16 && t.me.wait == .result && t.me.pc == 0x1000) = true ∧
    runs (.tileComplete 0) (h (.pcnt 3 1)) (fun t => t.me.vq == [] && t.me.wait == .granted 1) = true ∧
    runs (.tileComplete 0) (h (.pfirst 3 1)) (fun t => t.me.wait == .granted 63) = true ∧
    runs (.pfirst 3 1) (r.modCore 0 (fun c => { c with wait := .granted 63, formed := (0xFFFF, false) })) (fun t => t.me.rg 3 == 63 && t.me.lg 3 == 0xFFFF && t.me.pc == 0x1004) = true ∧
    s.me.vq = [] ∧ (s.me.rg 1).toNat = 1 + 2 ^ 16 * 256 ∧ formed [s.me.lp 1] s = true ∧ oks (visible (s.me.lv 3)) s (fun b t => b && formed [] t) = true ∧
    Sets (.vshape 1) s (fun c => { c with shape := s.me.rg 1 }) ∧ Traps (.vshape 2) s .illegal (.word true) := by
  and_intros <;> first | decide +kernel | exact of_runs (by decide +kernel)
/-- Two rows, the last element ending the local store; indexes that wrap; words that differ. -/
theorem witness_TileLocal :
    let s := with0 (fun c => { ((sets [(1, 0x7F000001FFE8), (2, 16)] c).wv 4 0x0004000200010000) with shape := 0x00020002 })
    elems s.me * bitsOf .s32 ≤ 2048 ∧ (s.me.rg 1).toNat = 0x7F0000000000 + 0x1FFE8 ∧ 0x1FFE8 % 4 = 0 ∧ s.me.vq = [] ∧ Still s.me ∧ TrueLocal s s.cur ∧ s.Canonical ∧
    s.me.guardLabel = labelTrue ∧ s.me.lg (lowG 1) = labelTrue ∧ s.me.lg (lowG 2) = labelTrue ∧ s.me.lp 0 = labelTrue ∧ s.me.lv 3 = labelTrue ∧ s.me.lv 4 = labelTrue ∧
    (s.me.rg (lowG 2)).toNat % 4 = 0 ∧
    (∀ e, e < 4 → 0 ≤ ((0x1FFE8 : Int) + (e / 2 : Nat) * (s.me.rg (lowG 2)).toInt + (e % 2 * 4 : Nat)) ∧ ((0x1FFE8 : Int) + (e / 2 : Nat) * (s.me.rg (lowG 2)).toInt + (e % 2 * 4 : Nat)) + 4 ≤ 2 ^ 17) ∧
    (let word (e : Nat) : Nat := lsBase s.cur + (0x1FFE8 + elem (s.me.rv 4) 16 e * 4) % 2 ^ 17; ∀ e, e < 4 → ∀ f, f < 4 → word e = word f → e = f) ∧
    runs (.vld .s32 0 3 1 2) s (fun t => t.me.lv 3 == 0 && t.me.pc == 0x1004) = true ∧ runs (.vgather .s32 0 3 1 4) s (fun t => t.me.lv 3 == 0 && t.me.pc == 0x1004) = true ∧
    runs (.vamo .swap .s32 0 3 1 4) s (fun t => t.me.lv 3 == 0 && t.me.pc == 0x1004) = true := by
  refine ⟨by decide +kernel, by decide +kernel, by decide, rfl, ⟨rfl, rfl, rfl, rfl⟩, trueLocal_of_tags rfl rfl _, ⟨rfl, rfl⟩, rfl, by decide +kernel, by decide +kernel, rfl, rfl, rfl, by decide +kernel,
    by decide +kernel, by decide +kernel, by decide +kernel, by decide +kernel, by decide +kernel⟩
/-- Core 0 with entry e at the head of its vector queue, elements in v1 and v2 and the first two positions of p2 set. -/
def tiled (a b : Tile) (e : VEntry) : State :=
  with0 (fun c => { ((c.wv 1 a).wv 2 b).wp 2 3 with vq := [e] })
/-- An entry of 1 × 2 elements. -/
def two (i : Instr) (ga : Word) : VEntry := ⟨i, 1, 2, 0, 0, ga, 0, 0, 0⟩
/-- What TILE_COMPLETE leaves of v3. -/
def leaves (s : State) (v : Tile) : Bool := runs (.tileComplete 0) s (fun t => t.me.rv 3 == v && t.me.vq == [])
/-- The last unit's last core alone with a lane-group instruction; heads with their beats granted: results at the ends of their ranges, a store and a scatter to the
end of the local store, a block of zeros. -/
theorem witness_TileCompletes :
    let e : VEntry := ⟨.vaddInt .s32 0 3 1 2, 8, 8, 0, 0, 0, 0, 0, 4⟩
    let s := { State.reset with cores := [(16383, { core0 with vq := [e] })] }
    4095 < nCores / 4 ∧ 16383 / 4 = 4095 ∧ (s.core 16383).vq = [e] ∧ Instr.vclass e.op = .lane ∧ (∀ m, m / 4 = 4095 → m ≠ 16383 → (s.core m).vq = []) ∧
    runs (.laneGroupGrant 4095) s (fun t => (t.core 16383).vq == [{ e with beats := 0 }]) = true ∧ e.rows * e.cols * bitsOf .s32 ≤ 2048 ∧
    runs (.tileComplete 16383) { s with cores := [(16383, { core0 with vq := [{ e with beats := 0 }] })] } (fun t => (t.core 16383).vq == []) = true ∧
    leaves (tiled 0xFFFF8000 0x0001FFFF (two (.vaddInt .s16 2 3 1 2) 0)) 0x00007FFF = true ∧ leaves (tiled 0xFFFF8000 0x0001FFFF (two (.vminInt .s16 2 3 1 2) 0)) 0xFFFF8000 = true ∧
    leaves (tiled 0xFFFF8000 0x0001000F (two (.vsra .s16 2 3 1 2) 0)) 0xFFFFFFFF = true ∧ leaves (tiled 0xFFFF8000 0 (two (.vabsInt .s16 2 3 1) 0)) 0x00018000 = true ∧
    leaves (tiled 0 0 (two (.vbcast .s16 2 3 0) 0x1ABCD)) 0xABCDABCD = true ∧ leaves (tiled 0x3F807F80 0x3F80FF80 (two (.vaddFloat .bf16 2 3 1 2) 0)) 0x40007FC0 = true ∧
    leaves (tiled 0x12345678 0 (two (.vred .add .s16 2 3 1) 0)) 0x68AC = true ∧ leaves (tiled 0x12345678 0 (two (.vrot .s16 3 1 1) 0)) 0x56781234 = true ∧
    leaves (tiled 0x3F803F80 0 (two (.vcvt .f32 .bf16 2 3 1) 0)) 0x3F8000003F800000 = true ∧
    (let i := Instr.vst .s16 2 1 0 0
     let s := tiled 0x11112222 0 (two i 0x7F000001FFFC)
     (two i 0x7F000001FFFC).ga.toNat = 0x7F0000000000 + 0x1FFFC ∧ TrueLocal s 0 ∧ s.Canonical ∧ s.me.sb = [] ∧
     runs (.tileComplete 0) s (fun t => readNat t.mem (lsBase 0 + 0x1FFFC) 4 == 0x11112222 && t.me.vq == []) = true) ∧
    runs (.tileComplete 0) (tiled 0x11112222 0xFFFF0000 (two (.vscatter .s16 2 1 0 2) 0x7F000001FFFE)) (fun t =>
      readNat t.mem (lsBase 0 + 0x1FFFE) 2 == 0x2222 && readNat t.mem (lsBase 0 + 0x1FFFC) 2 == 0x1111) = true ∧
    runs (.tileComplete 0) (tiled 0x7F803F80 0x7FC03F80 (two (.vcmp .eq .bf16 2 4 1 2) 0)) (fun t => t.me.rp 4 == 1 && t.me.fflags == 0) = true ∧
    runs (.tileComplete 0) (tiled 0 0 { (two (.vquant .e2m1 .s8 3 1 2) 0) with rows := 8, cols := 8 }) (fun t => t.me.rv 3 == 0 && t.me.vq == []) = true := by
  refine ⟨by decide, by decide, by decide +kernel, by decide +kernel, fun m h1 h2 => ?_, ?_⟩
  · have h : (if m < 16383 then Core.reset else if m = 16383 then ({ core0 with vq := [⟨.vaddInt .s32 0 3 1 2, 8, 8, 0, 0, 0, 0, 0, 4⟩] } : Core) else Core.reset).vq = [] := by
      rw [if_neg h2]
      split <;> rfl
    exact h
  · repeat' apply And.intro
    all_goals first | decide +kernel | exact trueLocal_of_tags rfl rfl _
/-- Operands that end the local store; an accumulator that ends a page; both kinds of unit. -/
theorem witness_MatrixIssue :
    let s := global [(4, 0x7F000001E000), (5, 0x7F0000000000), (6, 0x2C000)]
    (s.me.rmk 1 = none ∧ (s.cluster (clusterOf s.cur)).offline = false ∧ s.me.mq.length < 4) ∧ matAccepts (clusterOf s.cur) s.me.fmta.toNat s.me.fmtb.toNat = true ∧
    s.me.tileMem = false ∧ (s.me.rg 4).toNat = 0x7F0000000000 + 0x1E000 ∧ 0x1E000 % 64 = 0 ∧ 0x1E000 + 512 * matBits s.me.fmta.toNat ≤ 2 ^ 17 ∧ s.me.sb = [] ∧ s.me.nt = [] ∧
    formed [s.me.issueLabel 1, s.me.lg 4, s.me.lg 5] s = true ∧ formed [s.me.lm 1, s.me.lg 6] s = true ∧ (∀ e ∈ s.me.mq, e.names 1 = false) ∧
    oks (accLines .write (s.me.rg 6)) s (fun locs s1 => locs.length == 256 && s1.me == s.me && s1.cur == s.cur && locs.all (fun loc =>
      linkUp s1 loc && (loc.place != .tracked || !s1.isCounter (lineOf loc.key)))) = true ∧
    oks (accLines .read (s.me.rg 5)) s (fun locs s1 => locs.length == 256 && s1.me == s.me && locs.all (linkUp s1)) = true ∧
    runs (.mld 1 6) s (fun t => t.me.mq.map (fun e => e.locs.length) == [256]) = true ∧ runs (.mst 6 1) s (fun t => t.me.mq.map (fun e => e.locs.length) == [256]) = true ∧
    Sets (.mwait 1) s id ∧ (s.cluster (clusterOf s.cur)).mrun = none ∧ s.me.guardLabel = labelTrue := by
  and_intros <;> first | decide +kernel | exact of_runs (by decide +kernel)
/-- No core but n holds more than a reset one. -/
theorem lone {s : State} {n m : Nat} {c : Core} (h : s.cores = [(n, c)]) (e : m ≠ n) : s.core m = Core.reset := by
  have k : (if m < n then Core.reset else if m = n then c else Core.reset) = Core.reset := by
    rw [if_neg e]
    split <;> rfl
  rw [← k]
  show s.cores.get Core.reset m = _
  rw [h]
  rfl
/-- The last core's commands at the last unit, one after another. -/
def mentry (i : Instr) (locs : List Loc) : MEntry := ⟨i, 0, lsBase 16383, lsBase 16383 + 0x2000, locs, 0, 0, 0, 0, 0, 0, false, 0, 0⟩
def munit (e : MEntry) (r : Option Nat) : State :=
  { State.reset with cores := [(16383, { core0 with mq := [e] })], mem := writeNat [] (lsBase 16383) 0x1122334455667788 8 }.modCluster 2047 (fun c => { c with mrun := r })
theorem witness_MatrixUnit :
    let z := mentry (.mzero 3) []
    let a := mentry (.mma 3 4 5) []
    let l := mentry (.mld 3 4) ((List.range 256).map (fun i => ⟨.local, lsBase 16383 + 64 * i, false⟩))
    2047 < nClusters ∧ 16383 / 8 = 2047 ∧ ((munit z none).cluster 2047).mrun = none ∧ ((munit z none).cluster 2047).offline = false ∧ ((munit z none).core 16383).arrayReady = true ∧
    (∀ j, j / 8 = 2047 → j ≠ 16383 → ((munit z none).core j).mq = []) ∧
    ((munit z (some 16383)).cluster 2047).mrun = some 16383 ∧ ((munit a (some 16383)).core 16383).paused = [] ∧ ((munit a (some 16383)).core 16383).mq = [a] ∧ a.label = labelTrue ∧
    ((munit a (some 16383)).core 16383).lm 3 = labelTrue ∧ a.prior = labelTrue ∧ (∀ w ∈ a.words 16383, (munit a (some 16383)).tags.get labelTrue w = labelTrue) ∧
    lsBase 16383 % 64 = 0 ∧ l.locs.length = 256 ∧ ((List.range 16).countP (fun b => ((munit z none).cluster 2047).fenced.getLsbD b)) ≤ 4 ∧ ((munit z none).tower 3).throttle = false ∧
    runs (.matrixOpStart 2047) (munit z none) (fun t => (t.cluster 2047).mrun == some 16383) = true ∧
    runs (.matrixOpComplete 2047) (munit z (some 16383)) (fun t => (t.core 16383).mq == [] && (t.cluster 2047).mrun == none) = true ∧
    (let d := (munit z none).modCluster 2047 (fun c => { c with mops := 65536, mdue := true })
     (d.cluster 2047).mdue = true ∧ runs (.matrixSelfTest 2047 0) d (fun t => (t.cluster 2047).fenced == 0 && (t.cluster 2047).mpass == 65536 && !(t.cluster 2047).mdue) = true ∧
     runs (.matrixOpStart 2047) d (fun t => (t.cluster 2047).mrun == none) = true) ∧
    ((munit z none).cluster 2047).mtest = [] ∧ ((munit z none).cluster 2047).mdue = false ∧ (munit z none).damaged = [] := by
  refine ⟨by decide, by decide, rfl, rfl, by decide +kernel, fun j _ h => ?_, by decide +kernel, by decide +kernel, by decide +kernel, rfl, by decide +kernel, rfl, fun _ _ => rfl, by decide,
    by decide +kernel⟩
  rw [lone rfl h]
  rfl
/-- Eight bytes that end the local store, with a completion word; a push outside any space; an XPUB; a recorded failure. -/
theorem witness_CopyIssue :
    let s := handled (global [(1, 0x7F000001FFF8), (2, 0x7F0000000000), (3, 8), (4, 0x50001FFFC), (6, 0x30000), (7, 0x23FFF8)])
    (s.me.cfail = none ∧ s.me.cq.length < 8 ∧ s.me.tileMem = false) ∧ s.me.sb = [] ∧ s.me.mq = [] ∧ xcopyBad 1 (s.me.rg 3) (s.me.rg 4) = false ∧
    xcopyMisaligned 1 (xshape 1 (s.me.rg 3)) (s.me.rg 1) (s.me.rg 2) (s.me.rg 4) = none ∧ s.rangeOf s.cur (s.me.rg 2) (xshape 1 (s.me.rg 3)).srcSpan = some .window ∧
    s.rangeOf s.cur (s.me.rg 1) ((xshape 1 (s.me.rg 3)).dstSpan 1) = some .window ∧ formed [s.me.lg 1, s.me.lg 2, s.me.lg 3, s.me.lg 4] s = true ∧
    s.rangeOf s.cur (s.me.rg 6) ((xshape 4 (s.me.rg 3)).dstSpan 4) = some .global ∧ inRegion (s.ctx (s.ctxOf s.cur)).lspace (s.me.rg 6).toNat ((xshape 4 (s.me.rg 3)).dstSpan 4) = false ∧
    runs (.xcopy 1 1 2 3 4) s (fun t => t.me.cq.length == 1 && t.me.pc == 0x1004) = true ∧ runs (.xcopy 4 6 2 3 0) s (fun t => t.me.cq.length == 1 && t.me.pc == 0x1004) = true ∧
    s.me.wait = .none ∧ (s.me.rg 6).toNat % 2 ^ 16 = 0 ∧ runs (.xpub 6) s (fun t => t.me.run == .stalled && t.me.wait == .publish && t.me.cq.map CEntry.pub == [true]) = true ∧
    Sets (.xpub 6) (s.modCore 0 (fun c => { c with wait := .granted 0 })) id ∧
    (let r := s.modCore 0 (fun c => { c with cfail := some ⟨3, 1, 5, none⟩ })
     r.me.cfail = some ⟨3, 1, 5, none⟩ ∧ r.fatal r.cur = false ∧ r.me.frame = none ∧ runs (.xcopy 1 1 2 3 4) r (fun t => t.me.cfail == none && t.me.einfo == 0x10000000005) = true) := by
  and_intros <;> first | decide +kernel | exact of_runs (by decide +kernel)
/-- A row whose last beat is partial, at the end of the local store; a completion word that ends it; an XPUB. -/
theorem witness_CopyEngine :
    let e : CEntry := ⟨false, 0, 0x7F000001FFB4, 0x7F0000000000, 76, 0, 0, false, 7, true, 0, 64, false, 0, 0, 0, 0, []⟩
    let w : CEntry := { e with opts := 1, cpl := 0x50001FFFC, done := true }
    let put (e : CEntry) : State := localBytes (with0 (fun c => { c with cq := [e] })) 64 0x1122334455667788 8
    0 < nCores ∧ (∀ j, j / 8 = 0 / 8 → j ≠ 0 → ((put e).core j).cq = []) ∧ e.carry = [] ∧ (put w).blocking = none ∧ (∀ L, (put w).isU L = false) ∧
    (put w).ctxs = [] ∧ ((put e).core 0).paused = [] ∧ ((put e).core 0).cq = [e] ∧ TrueLocal (put e) 0 ∧ (put e).mem.wf ∧ (xshape 0 e.shape).cvt = false ∧ (xshape 0 e.shape).mode = 0 ∧ e.row = 0 ∧
    e.col < (xshape 0 e.shape).rb ∧ e.src.toNat = 0x7F0000000000 + 0 ∧ e.dst.toNat = 0x7F0000000000 + 0x1FFB4 ∧ 0x1FFB4 % 4 = 0 ∧ e.col % 4 = 0 ∧ (xshape 0 e.shape).rb % 4 = 0 ∧
    0x1FFB4 + (xshape 0 e.shape).rb ≤ 2 ^ 17 ∧ w.cpl.toNat % 2 ^ 17 % 4 = 0 ∧
    runs (.copyCommandStart 0) (put { e with started := false, col := 0 }) (fun t => t.me.cq.map CEntry.started == [true]) = true ∧
    runs (.copyBeat 0) (put e) (fun t => t.me.cq.map CEntry.done == [true] && readNat t.mem (lsBase 0 + 0x1FFB4 + 64) 12 == 0x1122334455667788) = true ∧
    runs (.copyCommandComplete 0) (put w) (fun t => t.me.cq == [] && readNat t.mem (lsBase 0 + 0x1FFFC) 4 == 5) = true ∧
    runs (.copyCommandComplete 0) (put { w with pub := true }) (fun t => t.me.cq == [] && t.me.wait == .granted 0) = true := by
  refine ⟨by decide, fun j _ h => ?_, rfl, rfl, fun _ => rfl, rfl, by decide +kernel, by decide +kernel, trueLocal_of_tags rfl rfl _, ?_⟩
  · rw [lone rfl h]
    rfl
  · decide +kernel
/-- A space with the labels of assumption 0 and of 0 and 1: forms, contents, nogoods; labels that can be seen and one that cannot. -/
theorem witness_LabelInstructions :
    let s := spaced [(4, 7), (8, 3)]
    let w := s.who s.cur
    oks (Machine.formed (fun w pol => assumeStep w pol 0 0)) s (fun l _ => l == 1) = true ∧ oks (Machine.formed (fun w pol => union w pol 0 0xFFFF)) s (fun l _ => l == 0) = true ∧
    oks (idValid 2) s (fun b _ => b) = true ∧ s.me.vq = [] ∧ oks (visible 2) s (fun b t => b && formed [] t) = true ∧ oks (visible 0xFFFF) s (fun b _ => !b) = true ∧
    oks (labelEnvs w 2) s (fun es _ => es == [3]) = true ∧ pcacheFind (s.cluster w.clus).pcache .count 2 labelTrue = none ∧
    pcacheFind (s.cluster w.clus).pcache (.env 0 0) 2 labelTrue = none ∧ oks (labelEnvs w 2) s (fun es t => oks (requestNogoods es) t (fun _ _ => true)) = true ∧
    oks (requestNogoods [3]) s (fun _ _ => true) = true ∧ (s.me.rg 0 ++ s.me.rg 8 : Env) ≠ 0 ∧ (s.me.rg 0 ++ s.me.rg 0 : Env) = 0 ∧
    lspaceEn (s.ctx 0).lspace = true ∧ envSort [3] ≠ [] ∧ envSort [3] ≠ [0] ∧ (envSort [3]).length ≤ 16 ∧
    oks (internAt (s.plinthOf 0) (lspaceBase (s.ctx 0).lspace) [3]) s (fun r _ => r == .id 2) = true ∧ oks (prod ⟨0, 0, 0, false⟩ .deferred 1 2) s (fun f _ => f.label == 2) = true ∧
    oks (recordNogoods (s.plinthOf 0) (lspaceBase (s.ctx 0).lspace) [3]) s (fun b _ => b) = true ∧ (s.cluster 0).ctx = some 0 ∧
    oks (recordedNogoods ⟨0, 0, 0, false⟩ (lspaceBase (s.ctx 0).lspace)) s (fun ngs _ => ngs == []) = true ∧
    oks (deferredFold (s.plinthOf 0) 0x40000 [s.tags.get labelTrue (0x40000 / 4), 1]) s (fun l _ => l == 1) = true ∧
    runs (.nogoode 8 0) s (fun t => t.me.pc == 0x1004 && (t.cluster 0).filter == [3]) = true ∧
    runs (.nogoodRequest 0 [3]) s (fun t => t.flight == [.nogoodInstall 0] && runs (.nogoodInstall 0) t (fun u => (u.cluster 0).filter == [3])) = true ∧
    runs (.internRequest 0 [3]) s (fun _ => true) = true ∧ runs (.fullerMissComplete 0 0 .prod 1 2) s (fun _ => true) = true ∧
    runs (.deferredLabelFold 0 0x40000 1) s (fun t => t.tags == [(0x10000, 1)]) = true := by
  decide +kernel
/-- A nogood that cuts, one within another, more than 16 environments. -/
theorem witness_Antichain :
    let l := (List.range 17).map (fun i => BitVec.ofNat 128 (2 ^ i))
    16 < (minimise [] l).length ∧ (minimise [1] l).length = 16 ∧ ([6, 9] : List Env).all (fun a => ([6, 9] : List Env).all (fun b => a &&& ~~~b != 0 || a == b)) = true ∧
    (0 : Env) ∉ ([6, 9] : List Env) ∧ addNogood [6, 9] 2 = [9, 2] ∧ addNogood [6, 9] 0 = [6, 9] := by decide +kernel
theorem of_oks {α : Type} [DecidableEq α] {m : M α} {s t : State} {v : α} (h : oks m s (fun a u => decide (a = v ∧ u = t)) = true) : m s = .ok v t := by
  unfold oks at h
  split at h
  · rename_i a u hu
    obtain ⟨rfl, rfl⟩ := of_decide_eq_true h
    exact hu
  · cases h
/-- Core 0 names the line 0x40000 with n in g5; the line may be a counter with an allowance in its cluster. -/
def counted (m : Option Nat) (c : Option Counter) (n : Word) : State :=
  let s := global [(4, 0x40000), (5, n), (6, 4)]
  let s := match c with
    | some c => s.setCounter 0x40000 c
    | none => s
  match m with
  | some m => s.modCluster 0 (fun c => { c with l1 := [(0x40000, .a m)] })
  | none => s
def ten : Counter := ⟨10, 4, [], [], false, 0, []⟩
/-- No counter yet; the whole reserve taken; more than it; an allowance that is just enough; the largest increment. -/
theorem witness_Counters :
    CounterAt (counted none none 10) 4 0x40000 ∧ CounterAt (counted none (some ten) 10) 4 0x40000 ∧ CounterAt (counted (some 3) (some { ten with holders := [0] }) 3) 4 0x40000 ∧
    (let s := counted none none 10
     s.me.lg 5 = labelTrue ∧ s.me.lg 6 = labelTrue ∧ s.counter 0x40000 = none ∧ (s.me.rg 6).toNat ≠ 0 ∧ oks (toBank s.cur ⟨.tracked, 0x40000, false⟩) s (fun _ t =>
       t.me.rg 5 == s.me.rg 5 && t.cur == s.cur && t.counters == s.counters && t.flight == [] && t.blocking == none) = true ∧
     runs (.cinit 4 5 6) s (fun t => t.counter 0x40000 == some ten) = true) ∧
    (let s := counted none (some ten) 10
     s.counter 0x40000 = some ten ∧ s.allowance 0 0x40000 = none ∧ ten.reserve < 2 ^ 64 ∧ ten.holders = [] ∧ runs (.cdec 3 4 5) s (fun t => t.me.rg 3 == 1) = true ∧
     oks (resolveCounter .read (s.me.rg 4)) s (fun loc t => loc.key == 0x40000 && t == s) = true) ∧
    (let s := counted none (some ten) 11
     ten.reserve < (s.me.rg 5).toNat ∧ runs (.cdec 3 4 5) s (fun t => t.me.rg 3 == 0 && t.counter 0x40000 == some ten) = true) ∧
    (let s := counted (some 3) (some { ten with holders := [0] }) 3
     s.allowance 0 0x40000 = some 3 ∧ runs (.cdec 3 4 5) s (fun t => t.me.rg 3 == 1 && t.allowance 0 0x40000 == some 0) = true ∧ runs (.clocal 3 4) s (fun t => t.me.rg 3 == 3) = true) ∧
    runs (.cinc 4 5) (counted none (some ten) 0xFFFFFFFFFFFFFFFF) (fun t => (t.counter 0x40000).map Counter.reserve == some (2 ^ 64 - 1)) = true := by
  refine ⟨⟨⟨false, of_oks (by decide +kernel)⟩, by decide, rfl, rfl, rfl, rfl, rfl, by decide +kernel, rfl, rfl, rfl, List.Pairwise.nil⟩,
    ⟨⟨false, of_oks (by decide +kernel)⟩, by decide, rfl, rfl, rfl, rfl, rfl, by decide +kernel, rfl, rfl, rfl, List.Pairwise.nil⟩,
    ⟨⟨false, of_oks (by decide +kernel)⟩, by decide, rfl, rfl, rfl, rfl, rfl, by decide +kernel, rfl, rfl, rfl, List.pairwise_singleton _ _⟩, by decide +kernel⟩
/-- The last cluster holds the allowance that is recalled and returned to a reserve almost full; a round that ends. -/
theorem witness_CounterHome :
    let q : Counter := { ten with recalling := true, queue := [⟨16383, .cread, 0, true⟩] }
    let s := (counted none (some { ten with holders := [2047] }) 3).modCluster 2047 (fun c => { c with l1 := [(0x40000, .a 3)] })
    0x40000 % 64 = 0 ∧ (counted none (some ten) 3).counter 0x40000 = some ten ∧ 2047 < nClusters ∧ 16383 < nCores ∧ Rising (s.cluster 2047).l1 ∧ ten.holders = [] ∧ ten.queue = [] ∧
    (counted none (some ten) 3).allowance (clusterOf 16383) 0x40000 = none ∧ s.allowance 2047 0x40000 = some 3 ∧ q.recalling = true ∧ q.holders = [] ∧
    runs (.counterRequest 0x40000 16383 .cread) (counted none (some ten) 3) (fun t => t.flight == [.counterReply 0x40000 16383 10]) = true ∧
    runs (.counterRecall 0x40000 2047) s (fun t => t.flight == [.allowanceReturn 0x40000 2047 3] && t.allowance 2047 0x40000 == none) = true ∧
    (let r := counted none (some { ten with holders := [2047] }) 3
     r.holdsUnits 2047 0x40000 = false ∧ s.holdsUnits 2047 0x40000 = true ∧
     runs (.allowanceReturn 0x40000 2047 (2 ^ 64 - 1)) r (fun t => t.counter 0x40000 == some { ten with reserve := 2 ^ 64 - 1 }) = true ∧
     runs (.allowanceReturn 0x40000 2047 1) s (fun t => t.counter 0x40000 == some { ten with reserve := 11, holders := [2047] }) = true) ∧
    runs (.recallRoundComplete 0x40000) (counted none (some q) 3) (fun t => t.flight == [.counterReply 0x40000 16383 10] && t.counter 0x40000 == some ten) = true ∧
    runs (.counterReply 0x40000 16383 7) (counted none (some ten) 3) (fun t => (t.core 16383).wait == .granted 7) = true := by
  refine ⟨by decide, by decide +kernel, by decide, by decide, List.pairwise_singleton _ _, ?_⟩
  decide +kernel
/-- A range that ends where the windows begin and one past it; one line, and more than either limit; PAUSE and YIELD. -/
theorem witness_Fences :
    let m (a n : Word) : State := (global [(4, a), (5, n)]).modCluster 0 (fun c => { c with
      ctx := some 0, l1 := [(0x20000, .copy true 7 0 0), (0x20040, .copy false 0 0 0)], icache := [(0x20000, 1)] })
    rangeOk 0x7EFFFFFFFFFF 1 = true ∧ rangeOk 0x7EFFFFFFFFFF 2 = false ∧ rangeOk 0xFFFFFFFFFFFFFFFF 1 = false ∧ Idle (m 0 0).me ∧ ((m 0 0).me.rg 5).toNat = 0 ∧
    ((m 0x20000 64).me.rg 5).toNat ≠ 0 ∧ rangeOk 0x20000 64 = true ∧ (((m 0 0).cluster 0).l1.map Prod.fst).Pairwise (· < ·) ∧ (m 0 0).mapped 0 0 0x20000 = some 0x20000 ∧
    ((m 0 0).cluster 0).ctx = some 0 ∧ 2 ^ 19 < ((m 0x20000 0x80001).me.rg 5).toNat ∧ Sets (.l1inv 4 5) (m 0 0) id ∧
    runs (.l1inv 4 5) (m 0x20000 0x80001) (fun t => (t.cluster 0).l1 == []) = true ∧ runs (.icinv 4 5) (m 0x20000 0x10001) (fun t => (t.cluster 0).icache == []) = true ∧
    runs (.l1wb 4 5) (m 0x20000 64) (fun t => t.l1 0 0x20000 == some (.copy false 7 0 0)) = true ∧ Traps (.icinv 4 5) (handled (m 0x7EFFFFFFFFFF 2)) .protect (.other 0x7EFFFFFFFFFF false) ∧
    bare.me.wait = .none ∧ Sets (.pause 0) (with0 (fun c => { c with wait := .pause 0 })) id ∧ bare.me.preempt.getLsbD 0 = false ∧
    (let s := handled (with0 (fun c => { c with preempt := 3 })); s.me.preempt.getLsbD 0 = true ∧ s.me.preempt.getLsbD 1 = true ∧ s.me.status.getLsbD 7 = false ∧ s.me.inTrap = false ∧
      (s.ctx (s.ctxOf s.cur)).tvec ≠ 0 ∧ runs .yield s (fun t => t.me.pc == 0x8000 && t.me.ecause == 0x8000000000000012) = true) ∧
    runs .yield ((inKernel bare).modCore 0 (fun c => { c with preempt := 1 })) (fun t => t.me.run == .saved && t.me.pc == 0x1004) = true := by
  and_intros <;> first | decide +kernel | exact of_runs (by decide +kernel)
/-- Tracing on and off; WAYSET that grows to the mask, and one with a reserved bit; slices on either side, in another tower and without memory. -/
theorem witness_TraceAndWays :
    let w (n : Word) : State := { ((regs [(4, n)]).modCore 0 (fun c => { c with status := 1 })).modCluster 0 (fun c => { c with ctx := some 1 }) with
      ctxs := [(1, { Context.reset with st := .running, part := 2 })]
      parts := [(2, ⟨{ PartDesc.empty with id := 2, ways := [(2, 0xFF00)] }, [(2, 3)]⟩)] }
    (bare.ctx (bare.ctxOf bare.cur)).tracectl.getLsbD 0 = false ∧ ((bare.modCtx 0 (fun c => { c with tracectl := 1 })).ctx 0).tracectl.getLsbD 0 = true ∧
    bare.me.sb.length < 16 ∧ bare.me.nt = [] ∧ bare.me.tileMem = false ∧ bare.me.mstQueued = false ∧ bare.me.wait = .none ∧
    runs (.sample 3) (with0 (fun c => { c with wait := .granted 9 })) (fun t => t.me.rg 3 == 9) = true ∧ (w 0x802).me.atS = true ∧ ((w 0x802).me.rg 4).toNat < 2 ^ 12 ∧
    ((w 0x802).me.rg 4).toNat / 2 ^ 7 % 2 = 0 ∧ ((w 0x802).me.rg 4).toNat / 2 ^ 8 % 16 = 8 ∧ (w 0x802).isM (2 / 4) = true ∧
    (∀ b, b < 16 → 16 - max 8 3 ≤ b → ((w 0x802).wayMask 2 2).getLsbD b = true) ∧ (w 0x802).lentWays 2 2 = 3 ∧ Idle (w 0x802).me ∧ (w 0x802).me.guardLabel = labelTrue ∧
    (((w 0x802).part 2).lent.map Prod.fst).Pairwise (· < ·) ∧ (w 0x802).touched 2 (waysLo 2 3) (waysLo 2 8) = false ∧
    (w 0x802).linesOfSlot 2 2 = [] ∧
    runs (.wayset 3 4) (w 0x802) (fun t => t.me.rg 3 == 3 && t.lentWays 2 2 == 8) = true ∧
    Traps (.wayset 3 4) (w 0x902) .illegal (.word true) ∧ Traps (.wayset 3 4) (w 0x1000) .illegal (.word true) ∧ Traps (.waysetQ 3 4) (w 0x80) .illegal (.word true) ∧
    ([(0, 22), (5, 0x300), (9, 0x11E), (127, 0x300)] : List (Word × Nat)).all (fun e => runs (.waysetQ 3 4) (regs [(4, e.1)]) (fun t => (t.me.rg 3).toNat % 2 ^ 10 == e.2 ||
      (t.me.rg 3).toNat / 2 ^ 8 % 4 == e.2 / 2 ^ 8)) = true := by
  and_intros <;> first | decide +kernel | exact of_runs (by decide +kernel)
/-- Core m of cluster 0 waits for w. -/
def waiting (m : Nat) (w : Wait) (s : State) : State := { s with cores := s.cores.put m { core0 with run := .gated, wait := w } }
def withLine (e : Fin 32) (l : EvLine) (s : State) : State := s.modCluster 0 (fun c => { c with lines := c.lines.set e l })
def withBar (b : Fin 16) (r : Barrier) (s : State) : State := s.modCluster 0 (fun c => { c with bars := c.bars.set b r })
def withMutex (x : Fin 16) (m : Mutex) (s : State) : State := s.modCluster 0 (fun c => { c with mutexes := c.mutexes.set x m })
theorem quiet_bare : Quiet bare.me := ⟨rfl, rfl, rfl⟩
/-- The last line fires and wakes its waiter; a count that is full; the last number and value and the first beyond; a barrier that completes, one that does not. -/
theorem witness_EventLines :
    Quiet bare.me ∧
    (let s := waiting 1 (.line 31) (withLine 31 ⟨2, 1, 7⟩ (regs [(4, 31), (5, 65535)]))
     (s.me.rg 4).toNat = (31 : Fin 32) ∧ (s.me.rg 5).toNat < 2 ^ 16 ∧ clusterOf 1 = 0 ∧ (s.core 1).wait = .line 31 ∧
     runs (.evsig 4) s (fun t => (t.cluster 0).line 31 == ⟨2, 0, 8⟩ && (t.core 1).wait == .granted 8) = true ∧ runs (.evarm 4 5) s (fun t => (t.cluster 0).line 31 == ⟨65535, 1, 7⟩) = true) ∧
    runs (.evsig 4) (withLine 0 ⟨0, 65535, 7⟩ bare) (fun t => (t.cluster 0).line 0 == ⟨0, 65535, 7⟩) = true ∧
    (let s := handled (regs [(4, 32), (5, 65536)])
     32 ≤ (s.me.rg 4).toNat ∧ 2 ^ 16 ≤ (s.me.rg 5).toNat ∧ (s.me.rg 6).toNat < 32 ∧ Traps (.evsig 4) s .illegal (.word true) ∧ Traps (.evarm 6 5) s .illegal (.word true) ∧
     Traps (.bar 4) s .illegal (.word true) ∧ Traps (.bar 6) s .protect (.word true)) ∧
    (let s := waiting 1 (.barrier 15) (withBar 15 ⟨3, 2, 3⟩ (regs [(4, 15)]))
     (s.me.rg 4).toNat = (15 : Fin 16) ∧ ((s.cluster 0).bar 15).members &&& 1 ≠ 0 ∧ ((s.cluster 0).bar 15).arrived &&& 1 = 0 ∧ s.me.wait = .none ∧
     runs (.bar 4) s (fun t => (t.cluster 0).bar 15 == ⟨4, 0, 3⟩ && (t.core 1).wait == .granted 4) = true) ∧
    runs (.bar 4) (waiting 1 (.line 0) (withBar 0 ⟨3, 0, 3⟩ bare)) (fun t => (t.cluster 0).bar 0 == ⟨3, 1, 3⟩ && t.me.arrival[0] == some 3) = true ∧
    Sets (.bar 4) (withBar 0 ⟨3, 1, 3⟩ bare) id := by
  exact ⟨quiet_bare, by decide +kernel, by decide +kernel, ⟨by decide +kernel, by decide +kernel, by decide +kernel, of_runs (by decide +kernel), of_runs (by decide +kernel), of_runs (by decide +kernel),
    of_runs (by decide +kernel)⟩, by decide +kernel, by decide +kernel, of_runs (by decide +kernel)⟩
/-- Every entry of the window at its last number: a line that fired and one that did not, a barrier that passed, mutexes free, held and held by the core itself; stores. -/
theorem witness_EventWindow :
    Quiet bare.me ∧ bare.me.guardLabel = labelTrue ∧ bare.me.wait = .none ∧ LoadsEvent bare (.eventWindowLoad 3 0xF8) 3 0xF8 ∧ StoresEvent bare (.eventWindowStore 0x3F8 4) 0 0x3F8 ∧
    (let s := regs [(4, 0x7F0100000000)]
     LoadsEvent s (.ld .d64 3 4 0x3F) 3 0x1F8 ∧ StoresEvent s (.stRel .b64 5 4 0x5F) 0 0x2F8) ∧
    runs (.eventWindowLoad 3 0xF8) (withLine 31 ⟨2, 1, 7⟩ bare) (fun t => t.me.rg 3 == 7 && t.me.seen[31] == 7) = true ∧
    runs (.eventWindowLoad 3 0xF8) bare (fun t => t.me.run == .gated && t.me.wait == .line 31 && t.me.pc == 0x1000) = true ∧
    runs (.ld .d64 3 4 0x3F) (withLine 31 ⟨2, 1, 7⟩ (regs [(4, 0x7F0100000000)])) (fun t => t.me.rg 3 == 0x700020001) = true ∧
    runs (.eventWindowLoad 3 0x278) (withBar 15 ⟨2, 1, 5⟩ (with0 (fun c => { c with arrival := c.arrival.set 15 (some 1) }))) (fun t => t.me.rg 3 == 2 && t.me.arrival[15] == none) = true ∧
    runs (.eventWindowLoad 3 0x278) bare (fun t => t.me.wait == .barrier 15) = true ∧
    runs (.eventWindowLoad 3 0x2F8) (withBar 15 ⟨2, 1, 5⟩ bare) (fun t => t.me.rg 3 == 0x20105) = true ∧
    runs (.eventWindowLoad 3 0x378) bare (fun t => t.me.rg 3 == 1 && (t.cluster 0).mutex 15 == ⟨some 0, []⟩) = true ∧
    runs (.eventWindowLoad 3 0x378) (withMutex 15 ⟨some 1, [2]⟩ bare) (fun t => t.me.wait == .mutex 15 && (t.cluster 0).mutex 15 == ⟨some 1, [2, 0]⟩) = true ∧
    runs (.eventWindowLoad 3 0x378) (handled (withMutex 15 ⟨some 0, []⟩ bare)) (fun t => t.me.ecause == 0x105 && t.me.pc == 0x8000) = true ∧
    runs (.eventWindowLoad 3 0x3F8) (withMutex 15 ⟨some 3, [2, 7]⟩ bare) (fun t => t.me.rg 3 == 0x8000000000000384) = true ∧
    runs (.eventWindowLoad 3 0x3F8) (with0 (fun c => { c with wait := .granted 9 })) (fun t => t.me.rg 3 == 9) = true ∧
    runs (.eventWindowStore 0x2F8 4) (withBar 15 ⟨2, 0, 5⟩ (regs [(4, 255)])) (fun t => (t.cluster 0).bar 15 == ⟨2, 0, 255⟩) = true ∧
    Traps (.eventWindowStore 0x2F8 4) (handled (regs [(4, 256)])) .protect (.word true) ∧
    runs (.eventWindowStore 0x378 4) (waiting 2 (.mutex 15) (withMutex 15 ⟨some 0, [2]⟩ bare)) (fun t => (t.cluster 0).mutex 15 == ⟨some 2, []⟩ && (t.core 2).wait == .granted 1) = true ∧
    runs (.eventWindowStore 0x378 4) (withMutex 15 ⟨some 0, []⟩ bare) (fun t => (t.cluster 0).mutex 15 == ⟨none, []⟩) = true ∧
    Traps (.eventWindowStore 0x378 4) (handled bare) .protect (.word true) ∧ Traps (.eventWindowStore 0x278 4) (handled bare) .protect (.other 0x7F0100000278 false) ∧
    Traps (.eventWindowStore 0x380 4) (handled bare) .protect (.other 0x7F0100000380 false) := by
  refine ⟨quiet_bare, rfl, rfl, ⟨by decide, .inl rfl⟩, ⟨by decide, .inl ⟨4, rfl, rfl⟩⟩, ⟨⟨by decide, .inr ⟨4, 0x3F, .inl rfl, rfl, by decide +kernel⟩⟩,
    ⟨by decide, .inr ⟨5, 4, 0x5F, .inr (.inl rfl), rfl, by decide +kernel⟩⟩⟩, ?_⟩
  and_intros <;> first | decide +kernel | exact of_runs (by decide +kernel)
/-- The last word of the local store and the first place behind it; a domain of two, whose other member has arrived and has not; a level too high. -/
theorem witness_WaitaSync :
    let s := handled (regs [(4, 0x7F000001FFFC), (5, 7), (6, 0x7F0000020000), (7, 2)])
    let k := inKernel bare
    Quiet s.me ∧ s.me.nt = [] ∧ s.me.cfail = none ∧ s.me.wait = .none ∧ (s.me.rg 4).toNat % 4 = 0 ∧ 0x7F0000000000 ≤ (s.me.rg 4).toNat ∧ (s.me.rg 4).toNat < 0x7F0000020000 ∧
    0x7F0000020000 ≤ (s.me.rg 6).toNat ∧ (s.me.rg 7).toNat % 4 ≠ 0 ∧ runs (.waita 4 5) s (fun t => t.me.run == .sleeping && t.me.wait == .waita 0x1FFFC 7) = true ∧
    runs (.waita 4 5) (localBytes s 0x1FFFC 7 4) (fun t => t.me.pc == 0x1004) = true ∧ Traps (.waita 6 5) s .protect (.other 0x7F0000020000 false) ∧
    Traps (.waita 7 5) s .misalign (.other 2 false) ∧ domLevel s.me.domain < (1 : BitVec 2).toNat ∧ Traps (.sync 1) s .illegal (.word true) ∧
    (0 : BitVec 2).toNat ≤ domLevel k.me.domain ∧ k.me.run ≠ .halted ∧ (k.ctx (k.ctxOf k.cur)).tracectl.getLsbD 7 = false ∧ k.me.arr[0] % 2 ^ 16 = sscAt k.me.ssc 0 ∧
    runs (.sync 0) k (fun t => t.me.run == .gated && t.me.wait == .sync 0 && t.me.arr[0] == 1) = true ∧
    runs (.sync 0) (k.modCore 1 (fun c => { c with arr := c.arr.set 0 1 })) (fun t => t.me.pc == 0x1004 && t.me.ssc == 1) = true ∧
    runs (.sync 0) (k.modCore 0 (fun c => { c with wait := .granted 0 })) (fun t => t.me.pc == 0x1004 && t.me.ssc == 0) = true := by
  refine ⟨quiet_bare, ?_⟩
  and_intros <;> first | decide +kernel | exact of_runs (by decide +kernel)
/-- The last inbox, free, full and with a sleeper; a rank of no core and one retired; a message with a SEND behind it. -/
theorem witness_Messages :
    let s := handled ((inKernel (regs [(4, 1), (5, 9), (6, 16)])).modCtx 1 (fun c => { c with tvec := 0x8000 }))
    let full := s.modCore 1 (fun c => c.wi 31 ⟨true, 9, 0, some 0⟩)
    let back : State := { full with sends := [⟨0, 1, 31, 8, 0⟩], cur := 1 }
    s.me.wait = .none ∧ s.sends = [] ∧ s.coreOfRank s.cur (s.me.rg 6).toNat = none ∧ s.coreOfRank s.cur (s.me.rg 4).toNat = some 1 ∧ (s.core 1).run ≠ .retired ∧ Quiet s.me ∧
    s.me.transferQueued = false ∧ formed [s.me.lg 5, s.me.lg 4] s = true ∧ (s.inboxOf 1 31).present = false ∧ (full.inboxOf 1 31).present = true ∧ (back.me.ri 31).present = true ∧
    oks (formLabel [(back.me.ri 31).tag]) (back.observe 1) (fun l _ => l == 0) = true ∧ back.sends.find? (fun p => p.target == 1 && p.inbox == 31) = some ⟨0, 1, 31, 8, 0⟩ ∧ 1 < nCores ∧
    runs (.send 4 5 31) (s.modCore 1 (fun c => { c with run := .sleeping, wait := .inbox 31 })) (fun t => t.inboxOf 1 31 == ⟨true, 9, 0, some 0⟩ && (t.core 1).wait == .granted 0) = true ∧
    runs (.send 4 5 31) full (fun t => t.me.wait == .send 1 && t.sends == [⟨0, 1, 31, 9, 0⟩]) = true ∧ Traps (.send 6 5 31) s .protect (.word true) ∧
    Traps (.send 4 5 31) (s.modCore 1 (fun c => { c with run := .retired })) .protect (.word true) ∧
    runs (.take 3 31) back (fun t => t.me.rg 3 == 9 && t.inboxOf 1 31 == ⟨true, 8, 0, some 0⟩ && (t.core 0).wait == .granted 0) = true ∧
    runs (.peeki 3 31) back (fun t => t.me.rg 3 == 9 && t.sends == back.sends) = true ∧
    runs (.inboxDelivery 1 31) { (s.modCore 0 id) with sends := [⟨0, 1, 31, 8, 0⟩] } (fun t => t.inboxOf 1 31 == ⟨true, 8, 0, some 0⟩ && t.sends == []) = true := by
  exact ⟨rfl, rfl, by decide +kernel, by decide +kernel, by decide +kernel, quiet_bare, rfl, by decide +kernel, by decide +kernel, by decide +kernel, by decide +kernel, by decide +kernel, by decide +kernel,
    by decide, by decide +kernel, by decide +kernel, of_runs (by decide +kernel), of_runs (by decide +kernel), by decide +kernel, by decide +kernel, by decide +kernel⟩
/-- The word at the end of the local store; a pause at its last cycle and one before; two members that have arrived; a mutex waited for 2^20 cycles; the deadlock. -/
theorem witness_WaitEnds :
    let w (x : Wait) (time : Nat) : State := { (handled (with0 (fun c => { c with run := .sleeping, wait := x }))) with time := time }
    let d : State := { (((inKernel bare).modCtx 1 (fun c => { c with tvec := 0x8000 })).modCore 0 (fun c => { c with run := .stalled, wait := .send 1 })).modCore 1 (fun c =>
      { (c.wi 3 ⟨false, 0, 0, some 0⟩) with run := .sleeping, wait := .inbox 3 }) with sends := [⟨0, 1, 4, 9, 0⟩], time := 4096 }
    let y := ((inKernel bare).modCore 0 (fun c => { c with run := .gated, wait := .sync 0, arr := c.arr.set 0 1 })).modCore 1 (fun c => { c with arr := c.arr.set 0 1 })
    0 < nCores ∧ ((w (.waita 0x1FFFC 7) 0).core 0).wait = .waita 0x1FFFC 7 ∧ (w (.waita 0x1FFFC 7) 0).read32 (lsBase 0 + 0x1FFFC) ≠ 7 ∧
    (localBytes (w (.waita 0x1FFFC 7) 0) 0x1FFFC 7 4).read32 (lsBase 0 + 0x1FFFC) = 7 ∧ runs (.waitaWake 0) (localBytes (w (.waita 0x1FFFC 7) 0) 0x1FFFC 7 4) (fun t => t.me.wait == .granted 0) = true ∧
    runs (.pauseEnd 0) (w (.pause 77) 77) (fun t => t.me.wait == .granted 0) = true ∧ runs (.pauseEnd 0) (w (.pause 77) 76) (fun t => t.me.wait == .pause 77) = true ∧
    (y.cluster (clusterOf 0)).kernel = some 5 ∧ (∀ x ∈ y.ctxs, x.2.tracectl.getLsbD 7 = false) ∧ 0 ∈ y.domainOf 0 0 ∧ (y.kernel 5).places.find? (fun e => e.1 == 0) = some (0, 0) ∧
    y.syncMet 0 0 = true ∧ runs (.syncRelease 0 0) y (fun t => (t.core 0).wait == .granted 0 && (t.core 0).ssc == 1) = true ∧
    (let s := withMutex 15 ⟨some 1, [2, 0]⟩ (w (.mutex 15) (2 ^ 20))
     s.fatal 0 = false ∧ s.me.wait.watched = true ∧ s.me.since + 2 ^ 20 ≤ s.time ∧ runs (.watchdog 0) s (fun t => t.me.ecause == 14 && (t.cluster 0).mutex 15 == ⟨some 1, [2]⟩) = true) ∧
    (w (.mutex 15) 1048575).me.since + 2 ^ 20 > (w (.mutex 15) 1048575).time ∧
    (d.core 0).wait = .send 1 ∧ (d.core 0).since + 4096 ≤ d.time ∧ d.sends.find? (fun q => q.sender == 0) = some ⟨0, 1, 4, 9, 0⟩ ∧ (d.core 1).wait = .inbox 3 ∧
    (d.inboxOf 1 3).sender = some 0 ∧ d.fatal 0 = false ∧ d.fatal 1 = false ∧
    runs (.deadlockProbe 0) d (fun t => t.me.ecause == 13 && (t.core 1).ecause == 13 && t.sends == []) = true := by decide +kernel
/-- Cores 0 and 1 in one kernel: neither grouped, one waiting, grouped, detached, rejoining, and a full buffer at its limit. -/
def pair (f h : Core → Core) : State := (inKernel (with0 (fun c => f (sets [(4, 3), (5, 0x10001), (6, 2)] c)))).modCore 1 (fun c => h (sets [(4, 3)] c))
def inGroup (st : GState) (c : Core) : Core := { c with group := { Group.reset with st := st, mask := 3 } }
theorem witness_Groups :
    let n := pair id id
    let w := pair id (fun c => { c with run := .gated, wait := .gform, group := { Group.reset with st := .forming, mask := 3, pc := 0x1000 } })
    let g := pair (inGroup .attached) (inGroup .attached)
    let d := pair (inGroup .attached) (inGroup .detached)
    let r := pair (inGroup .attached) (fun c => { (inGroup .rejoining c) with run := .sleeping, wait := .rejoin 127, group := { Group.reset with st := .rejoining, mask := 3, pc := 0x1000 } })
    let b : State := { (pair (inGroup .attached) (fun c => { c with group := { Group.reset with st := .attached, mask := 3, buf := List.replicate 32 ⟨0x1004, [5], .waits⟩, fullSince := some 0 } })) with time := 64 }
    n.me.group.st = .none ∧ (n.me.rg 4).toNat < 2 ^ 16 ∧ ((n.me.rg 4).truncate 16 : BitVec 16).getLsbD 0 = true ∧ n.inKernel 1 = true ∧ (n.cluster (clusterOf 1)).kernel = (n.cluster (clusterOf n.cur)).kernel ∧
    2 ^ 16 ≤ (n.me.rg 5).toNat ∧ n.inKernel 2 = false ∧ n.me.guardLabel = labelTrue ∧ (w.core 1).group.st = .forming ∧ (w.core 1).group.mask = 3 ∧ (w.core 1).group.pc = w.me.here ∧
    g.me.group.st = .attached ∧ g.me.group.mask.getLsbD 0 = true ∧ g.me.group.leads 0 = true ∧ (g.core 1).group.leads 1 = false ∧ g.me.wait = .none ∧ 1 ∈ d.members 0 ∧ (d.core 1).group.st = .detached ∧
    (r.core 1).wait = .rejoin 127 ∧ (r.core 1).group.pc = r.me.here ∧ (b.core 1).follows 1 = true ∧ 32 ≤ (b.core 1).group.words ∧ (b.core 1).group.fullSince = some 0 ∧ 0 + 64 ≤ b.time ∧
    runs (.gstat 3) n (fun t => t.me.rg 3 == 0) = true ∧ runs (.gstat 3) g (fun t => t.me.rg 3 == 0x300030007) = true ∧ runs (.gform 3 4) n (fun t => t.me.wait == .gform && t.me.pc == 0x1000) = true ∧
    runs (.gform 3 4) w (fun t => t.me.rg 3 == 0x300030007 && t.me.pc == 0x1004 && (t.core 1).group.st == .attached) = true ∧
    runs (.gform 3 5) (n.modCtx 1 (fun c => { c with tvec := 0x8000 })) (fun t => t.me.ecause == 0x101) = true ∧ runs (.grejoin 127) d (fun t => t.me.wait == .leaderRejoin 127) = true ∧
    runs (.grejoin 127) r (fun t => t.me.pc == 0x1004 && (t.core 1).group.st == .attached && (t.core 1).pc == 0x1004) = true ∧
    runs (.grejoin 127) { d with cur := 1 } (fun t => t.me.wait == .rejoin 127 && t.me.run == .sleeping) = true ∧
    runs .gleave g (fun t => t.me.group.st == .none && t.me.pc == 0x1004) = true ∧ runs (.followerBufferTimeout 1) b (fun t => (t.core 1).group.st == .detached) = true ∧
    runs (.followerBufferTimeout 1) (b.modCore 1 (fun c => { c with group := { c.group with ended := true } })) (fun t => (t.core 1).group.st == .none) = true ∧
    runs (.leaderRejoinTimeout 0) { (d.modCore 0 (fun c => { c with wait := .leaderRejoin 127 })) with time := 4096 } (fun t => t.me.wait == .granted 0) = true := by decide +kernel
/-- The kernel's context runs core 0 with the queue and the record address in g4 and g5; a record of one core stands at 0x60000. -/
def launching (q ea : Word) : State :=
  memBytes (((inKernel (regs [(4, q), (5, ea)])).modCluster 0 (fun c => { c with tlb := [⟨2, 1, 0x60000, 0x10000, 0xE000000000060000⟩] })).modCtx 1 (fun c => { c with tvec := 0x8000 }))
    0x60000 (0x10000 + 2 ^ 192) 32
/-- The last queue and the first beyond; a record; a full queue; an aged kernel and one within its deficit, on the only free cluster; a cluster's start. -/
theorem witness_Kernels :
    let s := launching 3 0x60000
    let ready (fits : Nat) : State :=
      let s : State := { (inKernel bare) with
        kernels := [(5, { kernel0 with st := .done }), (7, { Kernel.reset with ctx := 1, queue := 3, st := .ready, record := [0x10000, 0, 0, 1, 0, 0, 0, 0], entry := 6, fits := fits })]
        parts := [(2, { Partition.reset with desc := { PartDesc.empty with id := 2, clusters := [0, 1, 64] } })], ring := State.reset.ring.set 1 1 }
      s.modCtx 1 (fun c => { c with queues := [(3, ⟨1, [⟨6, [7]⟩], 0, false⟩)], deficit := c.deficit.set 1 5 })
    let placing := (inKernel bare).modKernel 5 (fun k => { k with st := .placing, started := [], places := [(0, 3), (1, 0)], record := [0x10000, 0x77, 0, 0x20000000B, 0, 0, 0, 0] })
    s.ctxOf s.cur = 1 ∧ (s.me.rg 4).toNat < 16 ∧ 16 ≤ ((launching 16 0x60000).me.rg 4).toNat ∧ (s.me.rg 5).toNat % 64 = 0 ∧ ((launching 3 0x60020).me.rg 5).toNat % 64 ≠ 0 ∧
    s.target s.cur (s.me.rg 5) = .global 0x60000 ∧ (s.ctx 1).queues.find? 15 = none ∧ (s.ctx 1).queues.find? 3 = some ⟨1, [], 0, false⟩ ∧
    oks (resolve .read (s.me.rg 5) 64) s (fun _ s1 => s1.me.sb == [] && !s1.me.tileMem && !s1.me.mstQueued && !s1.me.transferQueued && oks (loadLine (s.me.rg 5)) s1 (fun r s2 =>
      recKind r == 0 && !s2.recordBad 1 none r && !s2.queueFull 1 3)) = true ∧
    runs (.launch 4 5) s (fun t => t.me.pc == 0x1004 && (t.kernel (s.nextId + 1)).queue == 3) = true ∧ Traps (.launch 4 5) (launching 16 0x60000) .illegal (.word true) ∧
    Traps (.launch 4 5) (launching 3 0x60020) .misalign (.other 0x60020 false) ∧ Traps (.launch 4 5) (launching 15 0x60000) .protect (.word true) ∧
    runs (.launch 4 5) (s.modCtx 1 (fun c => { c with queues := [(3, ⟨1, List.replicate 64 ⟨1, [1]⟩, 0, false⟩)] })) (fun t =>
      t.me.wait == .launch ⟨3, [(List.range 8).map (fun i => s.read64 (0x60000 + 8 * i))], none, 1, 0, [], none⟩ && t.me.pc == 0x1000) = true ∧
    runs (.launch 4 5) (s.modCore 0 (fun c => { c with wait := .launch ⟨3, [[0x10000, 0, 0, 1, 0, 0, 0, 0]], none, 1, 0, [], none⟩ })) (fun t =>
      t.me.pc == 0x1004 && t.nextId == s.nextId + 2 && (t.kernel (s.nextId + 1)).queue == 3) = true ∧
    Idle s.me ∧ (∀ m, s.me.rmk m = none) ∧ s.me.group.st ≠ .forming ∧ (∀ i, (s.me.ri i).present = false) ∧
    Traps (.exit 0) (s.modCore 0 (fun c => c.wi 31 ⟨true, 0, 0, none⟩)) .protect (.word true) ∧
    0 / 64 < 1 ∧ (ready 7).decided ≤ (ready 7).time / 64 ∧ (∀ e ∈ (ready 7).kernels, e.2.st ≠ .placing) ∧ (ready 7).readyKernels = [7] ∧ (ready 7).fitsNow ((ready 7).kernel 7) = true ∧
    ((ready 7).kernel 7).places = [] ∧ (ready 7).prioOf 7 = 1 ∧ 7 ≤ ((ready 7).kernel 7).fits ∧ (ready 0).ring[1] = 1 ∧ recClusters ((ready 0).kernel 7).record ≤ (ready 0).deficit 1 1 ∧
    runs .dispatchDecision (ready 7) (fun t => (t.kernel 7).places == [(0, 64)] && (t.kernel 7).st == .placing) = true ∧
    runs .dispatchDecision (ready 0) (fun t => (t.kernel 7).st == .placing && t.deficit 1 1 == 4) = true ∧
    (placing.kernel 5).st = .placing ∧ (placing.ctx 1).st = .running ∧ (placing.kernel 5).places.find? (fun e => e.1 == 0) = some (0, 3) ∧ recLimgLen (placing.kernel 5).record = 0 ∧
    runs (.clusterStart 5 0) placing (fun t => (t.core 24).pc == 0x10000 && (t.core 24).rg 3 == 0x77 && (t.core 31).rg 1 == 7) = true ∧
    (let s := (inKernel bare).modKernel 5 (fun k => { k with st := .succeeded, queue := 3 })
     Rising s.kernels ∧ Rising (s.ctx 1).queues ∧ runs (.kernelDone 5) s (fun t => (t.kernel 5).st == .done && ((t.ctx 1).queues.find? 3).map LQueue.doneCnt == some 1) = true) ∧
    (bare.tower 3).t1 - 3 ≤ 92 ∧ runs (.energyWindow 3 100 103) (bare.modTower 3 (fun w => { w with placed := 40 })) (fun t => (t.tower 3).throttle && (t.tower 3).hot && (t.tower 3).before == 40 && (t.tower 3).placed == 0) = true ∧
    runs (.energyWindow 3 100 91) (bare.modTower 3 (fun w => { w with throttle := true })) (fun t => !(t.tower 3).throttle) = true := by
  and_intros <;> first | decide +kernel | exact of_runs (by decide +kernel) | exact List.pairwise_singleton _ _
/-- A context of partition 2, in every state; an image of a SAVED core; the least and greatest values of fields and the first beyond. -/
theorem witness_Contexts :
    let H : Sender := ⟨200, .h⟩
    let st (x : CtxState) : State := { ((inKernel bare).modCtx 1 (fun c => { c with st := x })) with
      parts := [(2, { Partition.reset with desc := { PartDesc.empty with id := 2, clusters := [0, 64], ranges := [(0, 2 ^ 30)], shadows := [(0, 4000), (1, 4000), (0, 4068), (1, 4068)] } })]
      mgmt := some 200 }
    let none' (x : CtxState) : State := { (st x) with clusters := [], kernels := [] }
    let a : CtxInit := { root := 0, lspace := 0, fbdepth := 8, tvec := 0x8000, tracectl := 0, ssbase := 0, ssize := 1024, mcbase := 0x400000, queues := [(0, 1), (15, 3)] }
    let im : ClusterImage := ⟨64, true, none, 0, Vector.replicate 32 ⟨1, 2, 3⟩, Vector.replicate 16 ⟨0, 0, 0⟩, Vector.replicate 16 ⟨none, []⟩, [⟨7, { core0 with run := .saved, recorded := .stalled, preempt := 1 }, [(5, 7)], []⟩]⟩
    let lo := { (none' .loading) with parts := [(2, { Partition.reset with desc := { PartDesc.empty with id := 2, clusters := [64] } })] }.modCtx 1 (fun c => { c with images := [im] })
    let od : State := { ((st .preempting).modCore 0 (fun c => { c with preempt := 1, preemptSince := 0 })) with time := 400000 }
    let am := (st .running).modCtx 1 (fun c => { c with tvec := 0x8000, async := [⟨some 0, 77⟩] })
    ((st .running).ctx 3).st = .free ∧ (st .running).parts.find? 2 = some ((st .running).part 2) ∧ ((st .running).ctxs.filter (fun e => e.2.st != .free && e.2.part == 2)).length < 8 ∧
    runs (.contextCreate H 3 2 a) (st .running) (fun t => (t.ctx 3).st == .loading && (t.ctx 3).queues.length == 2) = true ∧
    Refuses (.contextCreate H 3 2 { a with ssize := 1 }) (st .running) 3 ∧ Refuses (.contextCreate ⟨200, .f⟩ 3 2 a) (st .running) 1 ∧ Refuses (.contextSchedule ⟨201, .h⟩ 1) (st .swapped) 1 ∧
    Refuses (.contextSchedule H 1) ((st .swapped).modTower 0 (fun w => { w with recovery := true })) 2 ∧ Bidden (st .running) H .h ∧
    slotsFor ((st .running).part 2).desc 2 = true ∧ slotsFor ((st .running).part 2).desc 3 = false ∧ Refuses (.contextCreate H 1 2 a) (st .running) 2 ∧
    runs (.contextSchedule H 1) (none' .swapped) (fun t => (t.ctx 1).st == .loading) = true ∧ (∀ e ∈ (st .running).kernels, e.2.st ≠ .placing) ∧ runs (.contextTerminate H 1) (st .running) (fun t => (t.ctx 1).st == .free && t.me.run == .retired) = true ∧
    (st .running).fieldOk 1 .ssbase 0x10000 = true ∧ (st .running).fieldOk 1 .fbdepth 33 = false ∧ (st .running).fieldOk 1 .fbdepth 32 = true ∧
    runs (.contextRecordWrite H 1 .ssbase 0x10000) (st .running) (fun t => (t.ctx 1).ssbase == 0x10000) = true ∧ Refuses (.contextRecordWrite H 1 .fbdepth 33) (st .running) 3 ∧
    Rising (st .running).clusters ∧ runs (.preemptRequest H 1) (st .running) (fun t => (t.ctx 1).st == .preempting && t.me.preempt.getLsbD 0) = true ∧
    (none' .loading).drains 1 = false ∧ ((none' .loading).ctx 1).images = [] ∧ runs (.contextRestoreComplete 1) (none' .loading) (fun t => (t.ctx 1).st == .running) = true ∧
    (lo.ctx 1).images = [im] ∧ lo.freeList 1 = [64] ∧ isWide 64 = im.wide ∧ lo.mem.wf ∧
    runs (.contextRestoreComplete 1) lo (fun t => (t.core 519).run == .stalled && (t.core 519).pc == 0x1000 && t.mem.get 0 (lsBase 519 + 5) == 7) = true ∧
    od.overdue 0 = true ∧ (od.core 0).drained = true ∧ (od.core 0).nt = [] ∧ runs (.forcedSaveTimeout 0) od (fun t => t.me.run == .saved && t.me.pc == 0x1000) = true ∧ (st .running).overdue 0 = false ∧
    (am.cluster (clusterOf 0)).ctx = some 1 ∧ (am.ctx 1).async = [⟨some 0, 77⟩] ∧ am.atBoundary 0 = true ∧ am.fatal 0 = false ∧
    runs (.asyncMachineCheck 0) am (fun t => t.me.pc == 0x8000 && t.me.einfo == 77 && t.me.ecause == 0x8000000000000011) = true ∧
    runs (.coreRestart H 0) ((st .running).modCore 0 (fun c => { c with run := .halted })) (fun t => t.me.run == .running) = true ∧ Refuses (.coreRestart H 0) (st .running) 2 := by
  and_intros <;> first | decide +kernel | exact of_runs (by decide +kernel) | exact List.pairwise_singleton _ _
/-- The owner's and H's commands, and another's; unaligned, beyond 48 bits, and in a window; a frozen package; a write that ends its line; pulses; a full ring. -/
theorem witness_Commands :
    let H : Sender := ⟨200, .h⟩
    let F : Sender := ⟨200, .f⟩
    let own : Sender := ⟨9, .user⟩
    let s : State := { (launching 3 0x60000) with mgmt := some 200, parts := [(2, { Partition.reset with desc := { PartDesc.empty with id := 2, endpoint := 9, clusters := [0] } })] }
    let full := s.modCtx 1 (fun c => { c with queues := [(3, ⟨1, List.replicate 64 ⟨1, [1]⟩, 0, false⟩)] })
    let sick (s : State) : State := s.modTower 0 (fun w => { w with recovery := true })
    let p := s.modLayer 0 (fun l => { l with tlb := [⟨2, 1, 0x60000, 0x10000, 0xE000000000060000⟩] })
    let m : State := { bare with mgmt := some 200 }
    let fz : State := { m with frozen := true }
    let up : State := { bare with links := [(15, { Link.reset with st := .up, accepted := 0x20 })] }
    let pu : State := { (inKernel (with0 (fun c => { c with run := .sleeping, wait := .sample 4096 }))) with pulseDue := [4096], time := 4096 }
    let tr := (memBytes (inKernel bare) 0x200000 (0x10000 - 32) 4).modCtx 1 (fun c => { c with tracectl := 0x200001 })
    s.parts.find? (s.ctx 1).part = some (s.part 2) ∧ own.endpoint = (s.part 2).desc.endpoint ∧ (s.tower 0).recovery = false ∧ (s.ctx 1).st ≠ .free ∧ (s.ctx 9).st = .free ∧ (s.ctx 1).part = 2 ∧ (s.ctx 1).queues = [(3, ⟨1, [], 0, false⟩)] ∧ (s.ctx 1).queues.find? 15 = none ∧
    Refuses (.queueConfigure F 1 3 1) s 1 ∧ Refuses (.queueConfigure H 9 3 1) s 2 ∧ Refuses (.queueStop H 1 15) s 3 ∧
    runs (.queueStop H 1 3) s (fun t => ((t.ctx 1).queues.find? 3).map LQueue.stopped == some true) = true ∧
    Refuses (.fabricLaunch ⟨8, .user⟩ 1 3 0x60000) s 1 ∧ Refuses (.fabricLaunch own 1 3 0x60000) (sick s) 2 ∧ Refuses (.queueStop H 1 3) (sick s) 2 ∧ Refuses (.fabricReplay own 1) (s.modCtx 1 (fun c => { c with st := .free })) 2 ∧ exec (.fabricLaunch own 1 3 0x60020) s = .next (s.note (.refused 259)) ∧
    oks (plinthLine (p.plinthOf 1) 0x60000) p (fun r t => recKind r == 0 && !t.recordBad 1 none r && !t.queueFull 1 3) = true ∧
    runs (.fabricLaunch own 1 3 0x60000) p (fun t => (t.kernel (p.nextId + 1)).queue == 3) = true ∧
    runs (.fabricLaunch own 1 3 0x60000) (full.modLayer 0 (fun l => { l with tlb := [⟨2, 1, 0x60000, 0x10000, 0xE000000000060000⟩] })) (fun t =>
      t.undone == some (.launch 9 1 ⟨3, [(List.range 8).map (fun i => s.read64 (0x60000 + 8 * i))], none, 1, 0, [], none⟩)) = true ∧
    runs (.fabricReplay own 1) (s.modCore 1 (fun c => { c with run := .faultwait })) (fun t => (t.core 1).run == .running) = true ∧
    runs (.fabricTlbinv H 1 0 0x6FFFF) s (fun t => (t.cluster 0).tlb == []) = true ∧ runs (.fabricTlbinv H 1 0 0x70000) s (fun t => (t.cluster 0).tlb.length == 1) = true ∧
    exec (.fabricTlbinv H 1 0 0x1000000000000) s = .next (s.note (.refused 261)) ∧ Refuses (.fabricTlbinv H 1 3 0) s 3 ∧ (∀ n, (s.core n).sb = [] ∧ (s.core n).nt = [] ∧ (s.core n).mq = [] ∧ s.awaitsCounter n = false) ∧ bare.granting 0x40000 (fun _ => true) = false ∧
    exec (.freeze F) m = .next fz ∧ Refuses (.freeze ⟨201, .f⟩) m 1 ∧ fz.frozen = true ∧ fz.agenda = [] ∧ runs (.thaw F) fz (fun t => !t.frozen && (t.link 15).st == .training) = true ∧ (match step fz with
      | .next t => t == fz
      | _ => false) = true ∧ Refuses (.thaw F) m 2 ∧
    (up.link 15).st = .up ∧ (up.link 15).accepted.getLsbD 5 = true ∧ (bare.link 15).st ≠ .up ∧ Refuses (.attestationRequest H 15 0) bare 2 ∧
    0x4003F % 64 + 1 ≤ 64 ∧ bare.counter (lineOf 0x4003F) = none ∧ bare.blocking = none ∧ bare.dir (lineOf 0x4003F) = Dir.reset ∧ bare.mem.wf ∧ bare.damaged = [] ∧
    runs (.hostAccess ⟨9, 0x4003F⟩ 1 (some 0x1FF)) bare (fun t => t.mem == [(0x4003F, 0xFF)]) = true ∧
    runs (.hostAccess ⟨9, 0x40038⟩ 8 none) bare (fun t => t.notes == [.hostData 0x40038 0]) = true ∧
    bare.pulseNow = false ∧ pu.pulseNow = true ∧ pu.frozen = false ∧ Rising pu.cores ∧ runs .samplingPulse pu (fun t => t.me.wait == .granted 0 && t.pulses == 1) = true ∧
    (tr.ctx (tr.ctxOf 0)).tracectl.getLsbD 0 = true ∧ tr.read (trcBase (tr.ctx 1).tracectl) 4 + 32 ≤ trcSize (tr.ctx 1).tracectl ∧ tr.mem.wf ∧
    runs (.traceRequest 0 5 3) tr (fun t => t.read64 0x20FFE0 == 5 && t.read 0x200000 4 == 0x10000) = true ∧
    runs .reset tr (fun t => t.mem == [] && t.cores == []) = true := by
  and_intros <;> first | decide +kernel | exact of_runs (by decide +kernel) | skip
  · rintro (_ | _ | n) <;> exact ⟨rfl, rfl, rfl, rfl⟩
  · show ([0, 1] : List Nat).Pairwise (· < ·)
    decide
/-- A link in each state, beside one that is up with another set; lane groups with a spare, without, and between; the last port and the last group. -/
theorem witness_LinksAndLanes :
    let l (st : LinkState) : State := { State.reset with links := [(2, { Link.reset with st := .up, endpoint := some 128, accepted := 1 }), (15, ⟨st, true, none, 3, 255, true⟩)] }
    let g (a : LaneGroup) : State := { State.reset with lanes := [(nLanes - 1, a)] }
    ((l .down).link 15).st = .down ∧ (bare.tower 3).recovery = false ∧ (0x40 : BitVec 128) &&& ~~~0x3F ≠ 0 ∧ (0x3F : BitVec 128) &&& ~~~0x3F = 0 ∧ nLanes - 1 < nLanes ∧
    runs (.linkTrainingStart 15) (l .fenced) (fun t => t.link 15 == ⟨.training, false, none, 0, 0, false⟩) = true ∧ runs (.lanesLocked 15) (l .training) (fun t => t.link 15 == ⟨.negotiating, false, none, 3, 255, true⟩) = true ∧
    runs (.trainingTimeout 15 true) (l .training) (fun t => (t.link 15).narrow && (t.link 15).st == .negotiating) = true ∧ runs (.trainingTimeout 15 false) (l .training) (fun t => t.link 15 == ⟨.training, true, none, 3, 255, false⟩) = true ∧
    runs (.acceptedSetWritten 15 9 0x3F) (l .negotiating) (fun t => t.link 15 == ⟨.degraded, true, some 9, 0x3F, 255, false⟩) = true ∧
    runs (.acceptedSetWritten 15 128 0x3F) (l .negotiating) (fun t => (t.link 15).st == .fenced) = true ∧ runs (.acceptedSetWritten 15 128 1) (l .negotiating) (fun t => (t.link 15).st == .degraded) = true ∧
    runs (.acceptedSetWritten 15 9 0x40) (l .negotiating) (fun t => t.notes == [.badFeatures 15] && (t.link 15).st == .negotiating) = true ∧
    runs (.laneFailure 15) (l .up) (fun t => (t.link 15).st == .degraded) = true ∧ runs (.flitReceive 15 255 true) (l .degraded) (fun t => (t.link 15).rxSeq == 0) = true ∧
    runs (.flitReceive 15 254 true) (l .up) (fun t => t == l .up) = true ∧ runs (.flitReplayLimit 15) (l .up) (fun t => (t.link 15).st == .fenced) = true ∧
    runs (.laneRepairTrigger (nLanes - 1)) (g ⟨.normal, 1⟩) (fun t => t.lane (nLanes - 1) == ⟨.quiescing, 1⟩) = true ∧ runs (.laneQuiesced (nLanes - 1)) (g ⟨.quiescing, 1⟩) (fun t => t.lane (nLanes - 1) == ⟨.switching, 1⟩) = true ∧
    runs (.laneSwitched (nLanes - 1)) (g ⟨.switching, 1⟩) (fun t => t.lane (nLanes - 1) == ⟨.repaired, 0⟩) = true ∧
    runs (.laneFailNoSpare (nLanes - 1)) (g ⟨.repaired, 0⟩) (fun t => t.lane (nLanes - 1) == ⟨.narrow, 0⟩ && t.notes == [.laneNarrow (nLanes - 1)]) = true := by decide +kernel
/-- A descriptor, and one with a cluster that there is not; masks of the last slice with memory and beyond; roles at R14's limits; a Blocking in each phase. -/
theorem witness_Layers :
    let H : Sender := ⟨200, .h⟩
    let d : PartDesc := { PartDesc.empty with id := 2, clusters := [64], ranges := [(0, 2 ^ 30)], ways := [(2, 0xFC00)], shadows := [(1, 4000)] }
    let s : State := { bare with parts := [(2, ⟨d, [(2, 3)]⟩)], mgmt := some 200 }
    let turned : List Role := [.c, .m, .c, .m, .c, .m, .c, .m]
    let ph (x : LayerState) : State := { ((List.range 8).foldl (fun s l => s.modLayer (8 + l) (fun y => { y with st := x })) bare) with mgmt := some 200, blocking := some ⟨1, turned, [.m, .c, .m, .c, .m, .c, .m, .c]⟩ }
    s.descOk d = true ∧ s.descOk { d with clusters := [2048] } = false ∧ s.descOk { d with shadows := [] } = false ∧ (∀ k ∈ (s.part 2).desc.clusters, (s.cluster k).ctx = none) ∧ s.parts.find? 2 = some ⟨d, [(2, 3)]⟩ ∧ s.parts.find? 3 = none ∧
    (s.layer (123 / 4)).role = .m ∧ (s.layer (127 / 4)).role ≠ .m ∧ Rising (s.part 2).lent ∧ Refuses (.partitionDescriptor H { d with clusters := [2048] }) s 3 ∧ Refuses (.partitionDescriptor ⟨200, .f⟩ d) s 1 ∧
    Bidden s H .h ∧ Refuses (.wayMaskWrite ⟨201, .h⟩ 2 2 0) s 1 ∧ Refuses (.wayMaskWrite H 2 2 0) (s.modTower 0 (fun w => { w with recovery := true })) 2 ∧ (∀ z k, s.waysBusy 2 z k = false) ∧
    runs (.partitionDescriptor H d) { bare with mgmt := some 200 } (fun t => (t.part 2).desc == d) = true ∧ runs (.wayMaskWrite H 2 2 0xC000) s (fun t => t.wayMask 2 2 == 0xC000 && t.lentWays 2 2 == 2) = true ∧
    runs (.wayMaskWrite H 2 123 0x8000) s (fun t => t.wayMask 2 123 == 0x8000) = true ∧ Refuses (.wayMaskWrite H 2 127 0x8000) s 3 ∧ Refuses (.wayMaskWrite H 2 128 0) s 3 ∧ Refuses (.wayMaskWrite H 3 2 0) s 2 ∧
    turned.length = 8 ∧ s.blocking = none ∧ (s.tower 1).recovery = false ∧ (∀ l, l < 8 → (s.layer (8 * 1 + l)).st = .active) ∧
    runs (.blockingRequest H 1 turned) s (fun t => (t.layer 8).st == .draining && t.blocking.map Blocking.roles == some turned) = true ∧
    (let r : State := { (inKernel bare) with parts := [(2, ⟨{ d with clusters := [0] }, []⟩)], mgmt := some 200 }
     (r.ctx 1).st = .running ∧ r.affected ⟨0, turned, [.m, .c, .m, .c, .m, .c, .m, .c]⟩ 1 = true ∧ r.coresOfCtx 1 = [0, 1, 2, 3, 4, 5, 6, 7] ∧
     runs (.blockingRequest H 0 turned) r (fun t => (t.ctx 1).st == .preempting && (t.core 0).preempt == 1 && (t.core 7).preempt == 1) = true) ∧
    Refuses (.blockingRequest H 1 [.c, .c, .c, .c, .c, .c, .m, .c]) s 3 ∧ Refuses (.blockingRequest H 1 turned) (ph .active) 2 ∧
    ((ph .draining).layer 8).st = .draining ∧ (ph .draining).ctxs = [] ∧ runs (.blockingDrainComplete 1) (ph .draining) (fun t => (t.layer 15).st == .flushing) = true ∧
    (∀ L, (ph .flushing).isU L = false) ∧ (ph .flushing).flight = [] ∧ (ph .flushing).counters = [] ∧ runs (.blockingFlushComplete 1) (ph .flushing) (fun t => (t.layer 8).st == .reenumerating && (t.layer 8).role == .c) = true ∧ (ph .flushing).clusters = [] ∧ (ph .flushing).linesAt 1 (fun _ => true) = [] ∧
    (ph .reenumerating).blocking.map Blocking.tower = some 1 ∧ runs (.blockingResume 1) (ph .reenumerating) (fun t => (t.layer 15).st == .active && t.blocking == none && t.notes == [.blockingDone 1]) = true ∧
    runs (.blockingDrainComplete 1) { ((inKernel bare).modCtx 1 (fun c => { c with st := .preempting })) with blocking := (ph .draining).blocking, layers := (ph .draining).layers } (fun t => (t.layer 8).st == .draining || (t.layer 8).st == .flushing) = true := by
  and_intros <;> first | decide +kernel | exact of_runs (by decide +kernel) | exact List.pairwise_singleton _ _ | exact fun _ => rfl | exact fun _ _ => Bool.and_false _
/-- A line in directory state d, with what agents 0 and 1 hold. -/
def lineIn (d : DirState) (a b : AgentState) : State :=
  { bare with
    dirs := [(0x40000, ⟨d, [], none⟩)]
    agents := [(4 * 0x40000, { Agent.reset with st := a, wts := 3, rts := 9 }), (4 * 0x40000 + 1, { Agent.reset with st := b, wts := 3, rts := 9 })] }
/-- Each stable state with the requester inside and outside its set, transient ones, and a reduction. -/
theorem witness_Directory :
    (lineOf 0x4003F = 0x40000 ∧ ((lineIn .i .i .i).dir 0x40000).st = .i ∧ ((lineIn (.bInv [0] 1 true 2 5) .i .i).dir 0x40000).queue = [] ∧ DirState.stable (.bInv [0] 1 true 2 5) = false ∧
      (lineIn .i .i .i).incarnation 0x40000 0 = 0 ∧ (lineIn .i .i .i).heldLine 0x40000 = false ∧
      ((lineIn (.u [1] .add 8) .i .i).modCluster 0 (fun c => { c with l1 := [(0x40000, .u .add 8 [])] })).joinOp 0x40000 0 = some (.add, 8) ∧ (∀ a, a < 4 → ((lineIn .i .i .i).agent a 0x40000).st = .i)) ∧
    ([(.i, .x 0, [.dataGrant 0x40000 0 true 0 0]), (.s [0, 2], .s [0, 2], [.dataGrant 0x40000 0 false 0 0]), (.s [3], .s [3, 0], [.dataGrant 0x40000 0 false 0 0]),
      (.x 2, .bFwd 2 0 false [], [.forwardedGets 0x40000 2 0]), (.o 2 [3], .bFwd 2 0 false [3], [.forwardedGets 0x40000 2 0]), (.u [1] .add 8, .bRec [1] .add 8, [.recallComplete 0x40000]),
      (.bInv [1] 2 true 2 5, .bInv [1] 2 true 2 5, [])] : List (DirState × DirState × List Msg)).all
      (fun e => runs (.dirGets 0x4003F 0) (lineIn e.1 .i .i) (fun t => (t.dir 0x40000).st == e.2.1 && t.flight == e.2.2)) = true ∧
    ([(.s [0], .x 0, [.dataGrant 0x40000 0 true 0 0]), (.s [0, 2], .bInv [2] 0 false 0 0, [.agentInvalidation 0x40000 2]), (.s [2], .bInv [2] 0 true 0 0, [.agentInvalidation 0x40000 2]),
      (.o 0 [], .x 0, [.dataGrant 0x40000 0 true 0 0]), (.o 0 [1], .bInv [1] 0 false 0 0, [.agentInvalidation 0x40000 1]),
      (.o 2 [0, 3], .bFwd 2 0 true [3], [.forwardedGetx 0x40000 2 0, .agentInvalidation 0x40000 3])] : List (DirState × DirState × List Msg)).all
      (fun e => runs (.dirUpg 0x4003F 0) (lineIn e.1 .i .i) (fun t => (t.dir 0x40000).st == e.2.1 && t.flight == e.2.2)) = true ∧
    runs (.dirGetx 0x4003F 0) (lineIn (.s [0, 2]) .i .i) (fun t => (t.dir 0x40000).st == .bInv [2] 0 true 0 0) = true ∧
    runs (.dirPut 0x4003F 0 true ⟨7, 0⟩) (lineIn (.x 0) .mi .i) (fun t => (t.dir 0x40000).st == .i && t.mts 0x40000 == 7 && t.flight == [.writebackAck 0x40000 0]) = true ∧
    runs (.dirPut 0x4003F 0 true ⟨7, 1⟩) (lineIn (.x 0) .mi .i) (fun t => t.notes == [.staleMessage 0] && (t.dir 0x40000).st == .x 0 && t.flight == []) = true ∧
    runs (.dirPut 0x4003F 2 true ⟨7, 0⟩) (lineIn (.o 1 [2, 3]) .i .o) (fun t => (t.dir 0x40000).st == .o 1 [3] && t.mts 0x40000 == 0) = true ∧
    runs (.invalidationAck 0x4003F 0 9 0) (lineIn (.bInv [0, 3] 1 true 2 5) .i .i) (fun t => (t.dir 0x40000).st == .bInv [3] 1 true 2 9 && t.flight == []) = true ∧
    (lineIn .i .i .i).granting 0x40000 (fun _ => true) = false ∧
    runs (.invalidationAck 0x4003F 0 9 0) (lineIn (.bInv [0] 1 true 2 5) .i .i) (fun t => (t.dir 0x40000).st == .x 1 && t.flight == [.dataGrant 0x40000 1 true 2 9]) = true ∧
    runs (.invalidationAck 0x4003F 0 9 1) (lineIn (.bInv [0] 1 true 2 5) .i .i) (fun t => t.notes == [.staleMessage 0]) = true ∧
    runs (.dirRedJoin 0x4003F 0) ((lineIn (.u [1] .add 8) .i .i).modCluster 0 (fun c => { c with l1 := [(0x40000, .u .add 8 [])] })) (fun t => (t.dir 0x40000).st == .u [1, 0] .add 8) = true := by
  decide +kernel
/-- The agent's states one by one; a store in each; partials recalled; an agent that dies holding a line. -/
theorem witness_Agents :
    let sb (a : AgentState) : State := (lineIn (.x 0) a .i).modCore 0 (fun c => { c with sb := [⟨.store, 0x40008, ⟨.tracked, 0x40008, true⟩, 8, 7, 0⟩] })
    let u := (lineIn (.u [0] .add 8) .i .i).modCluster 2047 (fun c => { c with l1 := [(0x40000, .u .add 8 [⟨56, 3, 0, 0⟩])] })
    let lines : AMap Dir := [(0x40000, ⟨.x 0, [], none⟩), (0x40040, ⟨.bInv [0] 1 true 0 0, [], some 0⟩)]
    let agents : AMap Agent := [(4 * 0x40000, { Agent.reset with st := .m, dram := some (77, 0) })]
    let dead : State := memBytes { (lineIn (.x 0) .m .i) with agents := agents, dirs := lines, time := 3 * 65536 } 0x40000 5 8
    let owed : State := { (lineIn (.x 0) .im .i) with flight := [.dataGrant 0x40000 0 true 4 11] }
    0 < 4 ∧ 2047 < nClusters ∧ ((lineIn (.bFwd 1 0 false []) .is .e).dir 0x40000).queue = [] ∧ (sb .s).core 0 = { core0 with sb := [⟨.store, 0x40008, ⟨.tracked, 0x40008, true⟩, 8, 7, 0⟩] } ∧ towerOf 0 = 0 ∧
    (sb .s).counter 0x40000 = none ∧ Rising (u.cluster 2047).l1 ∧ u.partials 0x40000 = [(u.lclus 2047, .add, 8, [⟨56, 3, 0, 0⟩])] ∧ homeTower 0x40000 = 0 ∧ Rising dead.agents ∧ Rising dead.dirs ∧ dead.ctxs = [] ∧ dead.silent 0 0 = true ∧
    ({ dead with time := 3 * 65536 - 1 } : State).silent 0 0 = false ∧ ((lineIn (.x 0) .m .i).cluster 0).l1.length < 8 ∧ (lineIn (.x 0) .o .i).upgrading 0x40000 0 = false ∧
    (sb .i).slotFor 0 0x40000 = some (sb .i) ∧ (sb .i).slotFor 3 0x40000 = some (sb .i) ∧ (sb .e).isU 0x40000 = false ∧ u.slotFor 3 0x40000 = some u ∧
    runs (.sliceStore 0) (sb .i) (fun t => t.flight == [.dirGetx 0x40000 0] && (t.agent 0 0x40000).st == .im) = true ∧
    (let f : State := { (lineIn (.bFwd 0 1 true []) .im .i) with agents := [(4 * 0x40000, { Agent.reset with st := .im, held := [.forwardedGetx 0x40000 0 1] })] }
     runs (.agentDataGrant 0x40000 0 true 4 11) f (fun t => (t.dir 0x40000).st == .x 1 && (t.agent 0 0x40000).st == .i && t.flight == [.dataGrant 0x40000 1 true 4 11]) = true) ∧
    (let f : State := { (sb .m) with dirs := [(0x40000, ⟨.bFwd 0 1 true [], [], none⟩)], agents := [(4 * 0x40000, { Agent.reset with st := .m, queued := [0] })] }
     f.stampsDue 0 0x40000 = true ∧ runs (.agentForwardedGetx 0x40000 0 1) f (fun t => t == f.later .again) = true) ∧
    (let f : State := { u with dirs := [(0x40000, ⟨.bRec [0] .add 8, [.gets 0], some 0⟩)] }
     f.heldLine 0x40000 = false ∧ runs (.uRecallComplete 0x40000) f (fun t => (t.dir 0x40000).st == .x 0 && t.flight == [.dataGrant 0x40000 0 true 0 0] && t.mem == [(0x40038, 3)]) = true) ∧
    owed.granting 0x40000 (· == 0) = true ∧ ((lineIn (.x 0) .is .i).agent 0 0x40000).held = [] ∧ ((lineIn (.x 0) .is .i).agent 0 0x40000).queued = [] ∧
    runs (.agentInvalidation 0x40000 0) owed (fun t => (t.agent 0 0x40000).held == [.agentInvalidation 0x40000 0]) = true ∧
    runs (.agentForwardedGetx 0x40000 0 1) (lineIn (.bFwd 0 1 true []) .im .i) (fun t => (t.agent 0 0x40000).held == [.forwardedGetx 0x40000 0 1] && t.flight == []) = true ∧
    runs (.agentForwardedGetx 0x40000 1 0) { (lineIn (.bFwd 1 0 true []) .im .o) with flight := [.dirUpg 0x40000 1] } (fun t => (t.agent 1 0x40000).st == .im) = true ∧
    runs (.sliceStore 0) (sb .im) (fun t => (t.agent 0 0x40000).queued == [0] && t.me.sb.length == 1) = true ∧
    dead.mem.wf ∧ (dead.tower 0).incarn[0]? = some 0 ∧ (dead.tower 0).known[0] = 0 ∧
    runs (.agentInvalidation 0x40000 0) (lineIn (.bInv [0] 1 true 2 5) .s .i) (fun t => t.flight == [.invalidationAck 0x40000 0 9 0] && (t.agent 0 0x40000).st == .i) = true ∧
    runs (.agentForwardedGets 0x40000 1 0) (lineIn (.bFwd 1 0 false []) .is .e) (fun t => (t.dir 0x40000).st == .s [1, 0] && (t.agent 1 0x40000).st == .s) = true ∧
    runs (.agentForwardedGets 0x40000 1 0) (lineIn (.bFwd 1 0 false [2]) .is .m) (fun t => (t.dir 0x40000).st == .o 1 [2, 0] && (t.agent 1 0x40000).st == .o) = true ∧
    runs (.agentForwardedGetx 0x40000 1 0) (lineIn (.bFwd 1 0 true []) .im .o) (fun t => (t.dir 0x40000).st == .x 0 && (t.agent 1 0x40000).st == .i && t.flight == [.dataGrant 0x40000 0 true 3 9]) = true ∧
    runs (.agentDataGrant 0x40000 0 true 4 11) (lineIn (.x 0) .is .i) (fun t => (t.agent 0 0x40000).st == .e && (t.agent 0 0x40000).rts == 11) = true ∧
    runs (.agentDataGrant 0x40000 0 true 4 11) (lineIn (.x 0) .sm .i) (fun t => (t.agent 0 0x40000).st == .m && (t.agent 0 0x40000).wts == 3) = true ∧
    runs (.agentEviction 0x40000 0) (lineIn (.x 0) .e .i) (fun t => (t.agent 0 0x40000).st == .mi && t.flight == [.dirPut 0x40000 0 false 9 0]) = true ∧
    runs (.writebackAck 0x40000 0) (lineIn .i .mi .i) (fun t => (t.agent 0 0x40000).st == .i) = true ∧
    runs (.sliceFillRequest 511 0x40000 20) (lineIn (.x 0) .m .i) (fun t => t.flight == [.fillReply 511 0x40000 3 36]) = true ∧
    runs (.sliceFillRequest 0 0x40000 20) (lineIn .i .i .i) (fun t => t.flight == [.dirGets 0x40000 0] && (t.agent 0 0x40000).st == .is) = true ∧
    runs (.l1FillReply 0 0x40000 3 9) (lineIn (.x 0) .m .i) (fun t => t.l1 0 0x40000 == some (.v 3 9 0 0 0 0)) = true ∧
    runs (.sliceStore 0) (sb .s) (fun t => t.flight == [.dirUpg 0x40000 0] && (t.agent 0 0x40000).st == .sm) = true ∧
    runs (.sliceStore 0) (sb .e) (fun t => t.me.sb == [] && t.mem == [(0x40008, 7)] && (t.agent 0 0x40000).wts == 10) = true ∧
    runs (.uPartialEvict 2047 0x40000) u (fun t => t.l1 2047 0x40000 == none && (t.agent 3 0x40000).parts == [(u.lclus 2047, .add, 8, [⟨56, 3, 0, 0⟩])]) = true ∧
    runs (.uRecallComplete 0x40000) u (fun t => (t.dir 0x40000).st == .i && t.mem == [(0x40038, 3)]) = true ∧
    runs (.deadAgentTimeout 0 0) dead (fun t => (t.agent 0 0x40000).dram == none && readNat t.mem 0x40000 64 == 77 && (t.dir 0x40000).st == .i && (t.dir 0x40040).st == .x 1 && runs (.newerIncarnation 0 0) t (fun v =>
      v.agent 0 0x40000 == Agent.reset && (v.tower 0).known[0] == 1)) = true := by
  and_intros <;> first | decide +kernel | exact List.pairwise_singleton _ _ | skip
  show ([0x40000, 0x40040] : List Nat).Pairwise (· < ·)
  decide
theorem reset_inv : State.reset.Canonical := ⟨rfl, rfl⟩
/-- The word of R61's example stands where a step fetches; the core's own page and word. -/
def fetching (w : HWord) : State :=
  memBytes ((with0 (fun c => { sets [(4, 5), (5, 6)] c with pc := 0x20000 })).modCluster 0 (fun c => { c with tlb := [⟨0, 0, 0x20000, 0x10000, 0xF400000000020000⟩] })) 0x20000 w.toNat 4
theorem witness_StepCanonical :
    (State.reset.withFetchWord 32 0x04642800).mem.wf ∧ (match step (State.reset.withFetchWord 32 0x04642800) with
      | .next t => t.me.pc == 0x10004
      | _ => false) = true := by decide +kernel
theorem witness_NoStop :
    (encode (.trap 63)).isSome = true ∧ bare.agenda = [] ∧ bare.flight = [] ∧ bare.waiting = [] ∧ bare.cur < nCores ∧ (match step bare with
      | .next t => t.me.run == .faultwait
      | _ => false) = true := by decide +kernel
theorem witness_StepRunsDecoded :
    let s := fetching 0x04642800
    s.frozen = false ∧ s.pulseNow = false ∧ s.agenda = [] ∧ s.checkDue s.cur = false ∧ s.overdue s.cur = false ∧ s.me.run = .running ∧ s.me.wait = .none ∧ s.me.pair = none ∧ s.me.frame = none ∧
    s.noRoom s.cur 0x04642800 = [] ∧ s.ctxs = [] ∧ s.blocking = none ∧ s.badAt 0x20000 4 = false ∧ (s.cluster 0).icache = [] ∧ s.me.group.st = .none ∧ s.me.prefetch = [] ∧ s.me.pc.toNat < 0x7F0000000000 ∧ decode 0x04642800 = .ok (.add 3 4 5) ∧
    oks (fetchNth 0) s (fun w t => w == 0x04642800 && runs (.add 3 4 5) t (fun u => !(u.core u.cur).preempt.getLsbD 0 && u.me.rg 3 == 11)) = true ∧
    oks (translateMe .fetch 0x20000 false) s (fun loc t => loc.place == .untracked && (t.dir 0x20000).queue == [] && !t.inCounter loc && !t.peerBarred loc && (t.cluster 0).icache.find? loc.key == none) = true ∧
    (match step s with
      | .next t => t.me.rg 3 == 11 && t.me.pc == 0x20004
      | _ => false) = true ∧
    exec (.wordNotAnInstruction 0) (handled bare) = .next ((handled bare).trapInstr 0 0 .illZero (.other 0 false)) ∧ decode 0xFFFFFFFF = .error .reservedOpcode ∧
    exec (.fetchFault 0x7F0000000000) (handled bare) = .next (((handled bare).keepLoss (handled bare)).trapInstr 0 (Instr.word .brk) .protect (.other 0x7F0000000000 false)) ∧
    (let b : State := { s with damaged := [(0x8000, true)] }
     b.badAt 0x20000 4 = true ∧ (match fetchNth 0 b with
       | .error (.trap k i) t => k == .machineCheck && i == .other 0x20000 false && t.me.pc == 0x20000
       | _ => false) = true) ∧
    (bare.translate 0 0 (some 0) .read 0x90000).2 = .absent 3 ∧ runs (.pageWalkComplete 0 0x90000 .read) bare (fun t => t.me.run == .faultwait && (t.ctx 0).fbstat == 1) = true ∧
    (s.translate 0 0 (some 0) .read 0x20000).2 = .ok 0xF400000000020000 0x20000 := by
  and_intros <;> first | decide +kernel | exact of_runs (by decide +kernel)
/-- The largest address below the windows; a count at the mask's limit and the count there was; tracing off and on; the last line, barrier and mutex; a mask of
every core; a partition's own endpoint; a pulse that is due. -/
theorem witness_PlainCompletions :
    let s := (regs [(4, 0x7EFFFFFFFFFF), (5, 255), (6, 127)]).modCore 0 (fun c => { c with status := 1 })
    let w (n : Word) : State := { ((regs [(4, n)]).modCore 0 (fun c => { c with status := 1 })).modCluster 0 (fun c => { c with ctx := some 1 }) with
      ctxs := [(1, { Context.reset with st := .running, part := 2, tracectl := 1 })]
      parts := [(2, ⟨{ PartDesc.empty with id := 2, ways := [(2, 0xFF00)], endpoint := 9 }, [(2, 3)]⟩)] }
    let due : State := { bare with pulseDue := [0] }
    let r := withLine 31 ⟨2, 1, 7⟩ (withBar 15 ⟨2, 0, 5⟩ s)
    Idle s.me ∧ s.me.guardLabel = labelTrue ∧ s.me.atS = true ∧ s.me.wait = .none ∧ (∀ k, (s.core k).sb = [] ∧ (s.core k).nt = [] ∧ (s.core k).mq = [] ∧ s.awaitsCounter k = false) ∧
    (s.me.rg 4).toNat < 0x7F0000000000 ∧ (s.me.rg 6).toNat < 2 ^ 7 ∧ (s.ctx (s.ctxOf s.cur)).tracectl.getLsbD 0 = false ∧
    exec (.tlbinvPage 4) s = .next ((s.dropTlb (.page 0x7EFFFFFFFFFF) 0).modCore 0 Core.past) ∧ exec .tlbinvContext s = .next ((s.dropTlb .context 0).modCore 0 Core.past) ∧
    exec .tlbinvPartition s = .next ((s.dropTlb .partition 0).modCore 0 Core.past) ∧ exec .freplay s = .next ((s.replay 0).modCore 0 Core.past) ∧
    exec (.trace 4 63) s = .next (s.modCore 0 Core.past) ∧ runs (.waysetQ 3 6) s (fun t => t.me.pc == 0x1004) = true ∧
    runs (.sample 3) (s.modCore 0 (fun c => { c with wait := .granted 9 })) (fun t => t.me.rg 3 == 9) = true ∧
    runs (.eventWindowLoad 3 0x1F8) r (fun t => t.me.rg 3 == 0x700020001) = true ∧ runs (.eventWindowLoad 3 0x2F8) r (fun t => t.me.rg 3 == 0x20005) = true ∧
    runs (.eventWindowLoad 3 0x3F8) r (fun t => t.me.rg 3 == 0) = true ∧ runs (.eventWindowStore 0x2F8 5) r (fun t => (t.cluster 0).bar 15 == ⟨2, 0, 255⟩) = true ∧
    ((w 0x802).me.rg 4).toNat / 2 ^ 8 % 16 = 8 ∧ (w 0x802).isM (2 / 4) = true ∧ inMask ((w 0x802).wayMask 2 2) 8 = true ∧ (w 0x802).lentWays 2 2 = 3 ∧
    (w 0x802).touched 2 (waysLo 2 3) (waysLo 2 8) = false ∧ (w 0x802).linesOfSlot 2 2 = [] ∧
    runs (.wayset 3 4) (w 0x802) (fun t => t.me.rg 3 == 3 && t.lentWays 2 2 == 8) = true ∧ runs (.wayset 3 4) (w 0x302) (fun t => t.me.rg 3 == 3 && t.lentWays 2 2 == 3) = true ∧
    runs (.trace 4 63) (w 5) (fun t => t.me.sb.length == 1 && t.me.pc == 0x1004) = true ∧
    (w 5).parts.find? 2 = some ((w 5).part 2) ∧ ((w 5).part 2).desc.endpoint = 9 ∧ ((w 5).tower 0).recovery = false ∧ ((w 5).ctx 1).st ≠ .free ∧
    exec (.fabricReplay ⟨9, .user⟩ 1) (w 5) = .next ((w 5).replay 1) ∧ exec (.fabricTlbinv ⟨9, .user⟩ 1 0 0x7EFFFFFFFFFF) (w 5) = .next ((w 5).dropTlb (.page 0x7EFFFFFFFFFF) 1) ∧
    exec (.fabricTlbinv ⟨9, .user⟩ 1 2 0) (w 5) = .next ((w 5).dropTlb .partition 1) ∧ ((w 5).ctx ((w 5).ctxOf 0)).tracectl.getLsbD 0 = true ∧
    exec (.traceRequest 0 5 3) (w 5) = .next ((w 5).ringWrite 1 [((w 5).traceRec 0 5 3).bytes]) ∧
    due.pulseNow = true ∧ due.frozen = false ∧ runs .samplingPulse due (fun t => t.pulses == 1) = true := by
  and_intros <;> first | decide +kernel | exact of_runs (by decide +kernel) | skip
  rintro (_ | n) <;> exact ⟨rfl, rfl, rfl, rfl⟩

end Sys2Proof.Tests
end

