-- ==== Sys2Proof/Proofs/Canonical.lean ====
section
/-! PROOFS. O56: every step keeps memory and tags in their canonical form.

The proof follows the model. Memory and tags are written by AMap.set and List.filter alone (reset empties them), and both keep the canonical
form; from there each function of the model has one lemma, in the model's order: State.f_canonical for a function from states to states,
f_keeps for an operation (however it ends), f_ends for a step. A lemma unfolds its own function only and cites those of the functions it calls. -/

namespace Sys2Proof.Machine

/-! ### Canonical states -/

/-- A state given field by field is canonical when its memory and its tags are. -/
@[simp] theorem State.canonical_mk {cur cores clusters layers towers mem tags damaged dirs agents slices counters aliases parts ctxs
    kernels links lanes sends blocking ring nextId decided time pulses pulseDue lastPulse frozen notes agenda flight waiting undone mgmt
    free} :
    (State.mk cur cores clusters layers towers mem tags damaged dirs agents slices counters aliases parts ctxs kernels links lanes sends
      blocking ring nextId decided time pulses pulseDue lastPulse frozen notes agenda flight waiting undone mgmt free).Canonical ↔
      Memory.wf mem ∧ Tags.wf tags := Iff.rfl

@[simp] theorem State.canonical_fields (s : State) : Memory.wf s.mem ∧ Tags.wf s.tags ↔ s.Canonical := Iff.rfl

/-- A fold over states keeps what every step of it keeps. -/
theorem State.foldl_canonical {α : Type} {f : State → α → State} {l : List α} {s : State}
    (hf : ∀ s a, s.Canonical → (f s a).Canonical) (hs : s.Canonical) : (l.foldl f s).Canonical := foldl_keeps l f hf hs

/-! ### Operations that keep canonical states -/

/-- An operation that keeps canonical states, however it ends. -/
structure KeepsCanonical {α : Type} (m : M α) : Prop where
  keeps : Keeps State.Canonical m

namespace KeepsCanonical
variable {α β : Type} {m : M α} {s t : State}

theorem ok {a : α} (hm : KeepsCanonical m) (hs : s.Canonical) (h : m s = .ok a t) : t.Canonical := by
  have ht := hm.keeps s hs
  rwa [h] at ht

theorem error {e : Stop} (hm : KeepsCanonical m) (hs : s.Canonical) (h : m s = .error e t) : t.Canonical := by
  have ht := hm.keeps s hs
  rwa [h] at ht

@[simp] theorem pure (a : α) : KeepsCanonical (Pure.pure a : M α) := ⟨.pure a⟩
@[simp] theorem get : KeepsCanonical (MonadState.get : M State) := ⟨.get⟩
@[simp] theorem getMe : KeepsCanonical Machine.getMe := ⟨.getMe⟩
@[simp] theorem throw (e : Stop) : KeepsCanonical (MonadExcept.throw e : M α) := ⟨.throw e⟩
@[simp] theorem raise (c : Cause) (i : Info) : KeepsCanonical (Machine.raise c i : M α) := ⟨.raise c i⟩
@[simp] theorem raiseWord (c : Cause) : KeepsCanonical (Machine.raiseWord c : M α) := raise ..
@[simp] theorem raiseValue (c : Cause) : KeepsCanonical (Machine.raiseValue c : M α) := raise ..
@[simp] theorem raiseAddr (c : Cause) (n : Nat) : KeepsCanonical (Machine.raiseAddr c n : M α) := raise ..
@[simp] theorem raiseAddrValue (c : Cause) (n : Nat) : KeepsCanonical (Machine.raiseAddrValue c n : M α) := raise ..
@[simp] theorem stall : KeepsCanonical (Machine.stall : M α) := ⟨.stall⟩
@[simp] theorem holdOn (r : RunState) (w : Wait) : KeepsCanonical (Machine.holdOn r w : M α) := ⟨.holdOn r w⟩
@[simp] theorem needs (b : Bool) : KeepsCanonical (Machine.needs b) := ⟨.needs b⟩
@[simp] theorem modMe (f : Core → Core) : KeepsCanonical (Machine.modMe f) := ⟨.modMe fun _ hs => hs⟩

/-- What follows a trap is not reached. -/
@[simp] theorem raise_bind (c : Cause) (i : Info) (f : α → M β) : KeepsCanonical (Machine.raise c i >>= f) := ⟨fun _ hs => hs⟩
@[simp] theorem raiseWord_bind (c : Cause) (f : α → M β) : KeepsCanonical (Machine.raiseWord c >>= f) := ⟨fun _ hs => hs⟩
@[simp] theorem raiseValue_bind (c : Cause) (f : α → M β) : KeepsCanonical (Machine.raiseValue c >>= f) := ⟨fun _ hs => hs⟩
@[simp] theorem raiseAddr_bind (c : Cause) (n : Nat) (f : α → M β) : KeepsCanonical (Machine.raiseAddr c n >>= f) :=
  ⟨fun _ hs => hs⟩
@[simp] theorem raiseAddrValue_bind (c : Cause) (n : Nat) (f : α → M β) : KeepsCanonical (Machine.raiseAddrValue c n >>= f) :=
  ⟨fun _ hs => hs⟩
@[simp] theorem stall_bind (f : α → M β) : KeepsCanonical (Machine.stall >>= f) := ⟨fun _ hs => hs⟩
@[simp] theorem holdOn_bind (r : RunState) (w : Wait) (f : α → M β) : KeepsCanonical (Machine.holdOn r w >>= f) :=
  ⟨fun _ hs => hs⟩

@[simp] theorem bind {f : α → M β} (hm : KeepsCanonical m) (hf : ∀ a, KeepsCanonical (f a)) : KeepsCanonical (m >>= f) :=
  ⟨.bind hm.keeps fun a => (hf a).keeps⟩

/-- What follows a read of the state may use that the state read is canonical. -/
theorem get_bind {f : State → M β} (hf : ∀ s, s.Canonical → KeepsCanonical (f s)) :
    KeepsCanonical (MonadState.get >>= f) := ⟨fun s hs => (hf s hs).keeps s hs⟩

theorem ite {c : Prop} [Decidable c] {n : M α} (hm : KeepsCanonical m) (hn : KeepsCanonical n) :
    KeepsCanonical (if c then m else n) := ⟨.ite hm.keeps hn.keeps⟩

theorem dite {c : Prop} [Decidable c] {m : c → M α} {n : ¬c → M α} (hm : ∀ h, KeepsCanonical (m h))
    (hn : ∀ h, KeepsCanonical (n h)) : KeepsCanonical (if h : c then m h else n h) := by
  split
  · exact hm _
  · exact hn _

/-- A check in the middle of an operation: where it holds, `n` comes before what follows. -/
theorem check {c : Prop} [Decidable c] {n : M PUnit} {k : PUnit → M α} (hn : KeepsCanonical n) (hk : ∀ u, KeepsCanonical (k u)) :
    KeepsCanonical (if c then n >>= k else k ⟨⟩) := .ite (.bind hn hk) (hk _)

theorem modS {f : State → State} (hf : ∀ s, s.Canonical → (f s).Canonical) : KeepsCanonical (Machine.modS f) := ⟨.modS hf⟩

theorem forM {f : β → M PUnit} (hf : ∀ b, KeepsCanonical (f b)) (l : List β) : KeepsCanonical (l.forM f) :=
  ⟨.forM l fun b => (hf b).keeps⟩

theorem mapM {f : α → M β} (hf : ∀ a, KeepsCanonical (f a)) (l : List α) : KeepsCanonical (l.mapM f) := by
  rw [← List.mapM'_eq_mapM]
  induction l with
  | nil => exact pure _
  | cons a l ih => exact (hf a).bind fun _ => ih.bind fun _ => pure _

theorem whole (hm : KeepsCanonical m) : KeepsCanonical (Machine.whole m) := by
  refine ⟨fun s hs => ?_⟩
  rw [Machine.whole]
  cases hr : m s with
  | ok a t => exact hm.ok hs hr
  | error e t => exact hs

theorem orStall {f : State → Option State} (hf : ∀ s t, s.Canonical → f s = some t → t.Canonical) :
    KeepsCanonical (Machine.orStall f) := by
  refine ⟨fun s hs => ?_⟩
  rw [Machine.orStall]
  cases hr : f s with
  | some t => exact hf s t hs hr
  | none => exact hs

end KeepsCanonical

/-! ### Steps that end in canonical states -/

/-- Where a step of the machine answers a next state, that state is canonical. -/
structure EndsCanonical (r : Step) : Prop where
  canonical : ∀ t, r = .next t → t.Canonical

@[simp] theorem endsCanonical_next (t : State) : EndsCanonical (.next t) ↔ t.Canonical :=
  ⟨fun h => h.canonical t rfl, fun ht => ⟨fun _ h => by cases h; exact ht⟩⟩
@[simp] theorem endsCanonical_fault (r : Fault) : EndsCanonical (.fault r) := ⟨fun _ h => by cases h⟩
@[simp] theorem endsCanonical_refused (r : Refusal) : EndsCanonical (.refused r) := ⟨fun _ h => by cases h⟩

section
variable {s : State} (hs : s.Canonical) {m : M Unit} (hm : KeepsCanonical m)
include hs hm

theorem runI_ends (i : Instr) : EndsCanonical (runI i m s) := ⟨fun _ h => runI_canonical hm.keeps hs h⟩
theorem runEngine_ends (n : Nat) (e : Engine) : EndsCanonical (runEngine n e m s) := ⟨fun _ h => runEngine_canonical hm.keeps hs h⟩
theorem runEvent_ends : EndsCanonical (runEvent m s) := ⟨fun _ h => runEvent_canonical hm.keeps hs h⟩

omit hm in
theorem onUnits_ends (b : Bool) {f : State → State} (hf : ∀ s, s.Canonical → (f s).Canonical) :
    EndsCanonical (onUnits b f s) := by
  unfold onUnits
  split
  · exact (endsCanonical_next _).mpr (hf s hs)
  · exact endsCanonical_fault _
end

/-! ### The rules, applied along a definition -/

/-- A proposition that follows from the rules above and from the lemmas about the parts of the operation. The rules follow the shape of
the definition that the goal shows: a fold of states, a branch, a record update for a state; a bind, a branch, a loop, a change of the
state for an operation; the kind of run for a step. Each operation's own lemma unfolds its definition and cites this one. -/
theorem of_rules {p : Prop} (h : p := by
    repeat' with_reducible first
      | assumption
      | refine KeepsCanonical.get_bind fun _ _ => ?_
      | refine KeepsCanonical.bind ?_ fun _ => ?_
      | refine KeepsCanonical.ite ?_ ?_
      | refine KeepsCanonical.dite (fun _ => ?_) fun _ => ?_
      | refine KeepsCanonical.whole ?_
      | refine KeepsCanonical.modS fun _ _ => ?_
      | refine KeepsCanonical.mapM (fun _ => ?_) _
      | refine KeepsCanonical.forM (fun _ => ?_) _
      | refine runI_ends ?_ ?_ _
      | refine runEngine_ends ?_ ?_ _ _
      | refine runEvent_ends ?_ ?_
      | refine onUnits_ends ?_ _ fun _ _ => ?_
      | refine (endsCanonical_next _).2 ?_
      | refine State.plinthWrite_canonical ?_ _ _ _
      | refine State.poke_canonical ?_ _ _ _
      | refine State.machineCheck_canonical ?_ _ _ _ _ _
      | refine State.takeTrap_canonical ?_ _ _ _
      | refine State.trapInstr_canonical ?_ _ _ _ _
      | refine State.postFault_canonical ?_ _ _ _ _ _ _
      | refine State.askRecall_canonical ?_ _
      | refine State.store_canonical ?_ _ _ _ _
      | refine State.foldl_canonical (fun _ _ _ => ?_) ?_
      | simp only [State.canonical_mk, State.canonical_fields]
      | split
      | (simp [*, State.poke_canonical, State.plinthWrite_canonical, State.machineCheck_canonical, State.takeTrap_canonical,
          State.trapInstr_canonical, State.postFault_canonical, State.askRecall_canonical, State.walked_canonical,
          State.store_canonical, State.putLine_canonical, State.faultContext_canonical, State.stopCores_canonical,
          State.stopCheck_canonical, State.groupTrap_canonical, State.stampLine_canonical, State.dropLeases_canonical,
          State.foldUnder_canonical, State.unless_canonical]; done)
      | dsimp only
      | simp) : p := h

-- As the tests do: so many short proofs at once take more threads than the check's memory holds.
set_option Elab.async false

variable {s t : State}

/-! ### The parts of the state -/

@[simp] theorem State.setCluster_canonical (s : State) (k : Nat) (c : Cluster) :
    (s.setCluster k c).Canonical ↔ s.Canonical := Iff.rfl
@[simp] theorem State.observe_canonical (s : State) (n : Nat) : (s.observe n).Canonical ↔ s.Canonical := Iff.rfl

@[simp] theorem State.setDirSt_canonical (s : State) (L : Nat) (d : DirState) :
    (s.setDirSt L d).Canonical ↔ s.Canonical := Iff.rfl
@[simp] theorem State.askDir_canonical (s : State) (L : Nat) (d : DirState) : (s.askDir L d).Canonical ↔ s.Canonical := Iff.rfl
@[simp] theorem State.setL1_canonical (s : State) (k L : Nat) (e : L1Line) : (s.setL1 k L e).Canonical ↔ s.Canonical := Iff.rfl
@[simp] theorem State.dropL1_canonical (s : State) (k L : Nat) : (s.dropL1 k L).Canonical ↔ s.Canonical := Iff.rfl
@[simp] theorem State.send_canonical (s : State) (m : Msg) : (s.send m).Canonical ↔ s.Canonical := Iff.rfl
@[simp] theorem State.raiseMts_canonical (s : State) (L rts : Nat) : (s.raiseMts L rts).Canonical ↔ s.Canonical := Iff.rfl

/-! ### Traps, waits and notes -/

@[simp] theorem observeMe_keeps : KeepsCanonical observeMe := by
  unfold observeMe
  exact of_rules

@[simp] theorem orRaise_keeps (b : Bool) (c : Cause) (i : Info) : KeepsCanonical (orRaise b c i) := by
  unfold orRaise
  exact of_rules

@[simp] theorem raiseRecorded_keeps : KeepsCanonical raiseRecorded := by
  unfold raiseRecorded
  exact of_rules

@[simp] theorem advance_keeps : KeepsCanonical advance := by
  unfold advance
  exact of_rules

@[simp] theorem State.grant_canonical (s : State) (n : Nat) (v : Word) : (s.grant n v).Canonical ↔ s.Canonical := Iff.rfl

@[simp] theorem State.tellFollowers_canonical (hs : s.Canonical) (ms : List Nat) (next : Word) (taken : Bool) :
    (s.tellFollowers ms next taken).Canonical := by
  unfold State.tellFollowers
  exact of_rules

@[simp] theorem State.passed_canonical (hs : s.Canonical) (n : Nat) : (s.passed n).Canonical := by
  unfold State.passed
  exact of_rules

@[simp] theorem State.later_canonical (s : State) (on : Waits) : (s.later on).Canonical ↔ s.Canonical := Iff.rfl

/-! ### Addresses and translation -/

@[simp] theorem State.setAliases_canonical (hs : s.Canonical) (e : Word) (size : Nat) : (s.setAliases e size).Canonical := by
  unfold State.setAliases
  exact of_rules

theorem State.translate_canonical (hs : s.Canonical) (x l : Nat) (k : Option Nat) (acc : Access) (va : Nat) :
    (s.translate x l k acc va).1.Canonical := by
  have hw := State.walked_canonical hs x va
  unfold State.translate
  extract_lets +onlyGivenNames p bad use fill1
  have hf {s e} (h : State.Canonical s) : (fill1 s e).Canonical := by
    cases k <;> exact h
  split
  · exact hs
  · split
    · exact hf hs
    · extract_lets +onlyGivenNames w t
      clear_value w
      split
      · exact hw
      · exact hw
      · exact hw
      · exact hw
      · split
        · exact hw
        · split
          · exact hw
          · exact hf (State.setAliases_canonical hw _ _)

@[simp] theorem translateMe_keeps (acc : Access) (va : Nat) (fuller : Bool) : KeepsCanonical (translateMe acc va fuller) := by
  refine ⟨fun s hs => ?_⟩
  have h := State.translate_canonical hs (s.ctxOf s.cur) (layerOf s.cur) (some (clusterOf s.cur)) acc va
  unfold translateMe
  dsimp only
  rcases ht : s.translate (s.ctxOf s.cur) (layerOf s.cur) (some (clusterOf s.cur)) acc va with ⟨t, o⟩
  rw [ht] at h
  cases o <;> exact h

/-! ### Labels and the Fuller -/

@[simp] theorem spaceAt_keeps (w : Who) (write : Bool) (va : Nat) : KeepsCanonical (spaceAt w write va) := by
  refine ⟨fun s hs => ?_⟩
  have h := State.translate_canonical hs w.ctx w.layer none .read va
  unfold spaceAt
  rcases ht : s.translate w.ctx w.layer none .read va with ⟨t, o⟩
  rw [ht] at h
  cases o <;> exact h

@[simp] theorem spaceRead_keeps (w : Who) (va n : Nat) : KeepsCanonical (spaceRead w va n) := by
  unfold spaceRead
  exact of_rules

@[simp] theorem spaceWrite_keeps (w : Who) (va v n : Nat) : KeepsCanonical (spaceWrite w va v n) := by
  unfold spaceWrite
  exact of_rules

@[simp] theorem spaceOf_keeps (w : Who) : KeepsCanonical (spaceOf w) := ⟨fun _ hs => hs⟩

@[simp] theorem entryEnvs_keeps (w : Who) (base v : Nat) : KeepsCanonical (entryEnvs w base v) := by
  unfold entryEnvs
  exact of_rules

@[simp] theorem labelEnvs_keeps (w : Who) (l : Label) : KeepsCanonical (labelEnvs w l) := by
  unfold labelEnvs
  exact of_rules

@[simp] theorem liveLabel_keeps (w : Who) (l : Label) : KeepsCanonical (liveLabel w l) := by
  unfold liveLabel
  exact of_rules

@[simp] theorem findEntry_keeps (w : Who) (base : Nat) (envs : List Env) (v n : Nat) :
    KeepsCanonical (findEntry w base envs v n) := by
  induction n generalizing v with
  | zero => exact .pure _
  | succ n ih =>
    unfold findEntry
    exact of_rules

@[simp] theorem internAt_keeps (w : Who) (base : Nat) (envs : List Env) : KeepsCanonical (internAt w base envs) := by
  unfold internAt
  exact of_rules

@[simp] theorem finish_keeps (w : Who) (pol : Policy) (s : List Env) : KeepsCanonical (finish w pol s) := by
  unfold finish
  exact of_rules

@[simp] theorem pcacheAdd_keeps (w : Who) (op : FullerOp) (x y : Label) (r : Word) : KeepsCanonical (pcacheAdd w op x y r) := by
  unfold pcacheAdd
  exact of_rules

@[simp] theorem cached_keeps (w : Who) (op : FullerOp) (x y : Label) {form : M Formed} (hf : KeepsCanonical form) :
    KeepsCanonical (cached w op x y form) := by
  unfold cached
  exact of_rules

@[simp] theorem recordedNogoods_keeps (w : Who) (base : Nat) : KeepsCanonical (recordedNogoods w base) := by
  unfold recordedNogoods
  exact of_rules

@[simp] theorem filterOf_keeps (w : Who) : KeepsCanonical (filterOf w) := by
  unfold filterOf
  exact of_rules

@[simp] theorem prod_keeps (w : Who) (pol : Policy) (x y : Label) : KeepsCanonical (prod w pol x y) := by
  unfold prod
  refine .ite (.pure _) (.ite (.pure _) (.bind (liveLabel_keeps _ _) fun x => .bind (liveLabel_keeps _ _) fun y =>
    .ite (.pure _) (cached_keeps _ _ _ _ ?_)))
  exact of_rules

@[simp] theorem union_keeps (w : Who) (pol : Policy) (x y : Label) : KeepsCanonical (union w pol x y) := by
  unfold union
  refine .ite (.pure _) (.bind (liveLabel_keeps _ _) fun x => .bind (liveLabel_keeps _ _) fun y =>
    .ite (.pure _) (.ite (.pure _) (cached_keeps _ _ _ _ ?_)))
  exact of_rules

@[simp] theorem assumeStep_keeps (w : Who) (pol : Policy) (x : Label) (n : Nat) : KeepsCanonical (assumeStep w pol x n) := by
  unfold assumeStep
  refine .bind (liveLabel_keeps _ _) fun x => ?_
  extract_lets a
  split
  · exact .pure _
  · refine cached_keeps _ _ _ _ ?_
    exact of_rules

@[simp] theorem foldProd_keeps (w : Who) (pol : Policy) (a : Formed) (ls : List Label) :
    KeepsCanonical (foldProd w pol a ls) := by
  induction ls generalizing a with
  | nil => exact .pure _
  | cons l r ih =>
    unfold foldProd
    exact of_rules

@[simp] theorem forMe_keeps {f : Who → Policy → M Formed} (hf : ∀ w pol, KeepsCanonical (f w pol)) :
    KeepsCanonical (forMe f) := by
  unfold forMe
  exact of_rules

@[simp] theorem formLabel_keeps (ls : List Label) : KeepsCanonical (formLabel ls) := by
  refine forMe_keeps fun w pol => ?_
  exact of_rules

@[simp] theorem writeG_keeps (d : GReg) (v : Word) (ls : List Label) : KeepsCanonical (writeG d v ls) := by
  unfold writeG
  exact of_rules

@[simp] theorem result_keeps (d : GReg) (v : Word) (ls : List Label) : KeepsCanonical (result d v ls) := by
  unfold result
  exact of_rules

@[simp] theorem formEarly_keeps (d : GReg) (ls : List Label) : KeepsCanonical (formEarly d ls) := by
  unfold formEarly
  exact of_rules

@[simp] theorem resultFormed_keeps (d : GReg) (v : Word) (f : Formed) : KeepsCanonical (resultFormed d v f) := by
  unfold resultFormed
  exact of_rules

@[simp] theorem holdFormed_keeps {α : Type} (r : RunState) (w : Wait) (f : Formed) :
    KeepsCanonical (holdFormed r w f : M α) := by
  unfold holdFormed
  exact of_rules

@[simp] theorem resultKept_keeps (d : GReg) (v : Word) : KeepsCanonical (resultKept d v) := by
  unfold resultKept
  exact of_rules

@[simp] theorem deferredFold_keeps (w : Who) (k : Nat) (ls : List Label) : KeepsCanonical (deferredFold w k ls) := by
  refine ⟨fun s hs => ?_⟩
  have hm := foldProd_keeps w .deferred ⟨labelTrue, false⟩ ls
  unfold deferredFold
  cases hr : foldProd w .deferred ⟨labelTrue, false⟩ ls s with
  | ok f t => exact State.canonical_ite (State.machineCheck_canonical (hm.ok hs hr) _ _ _ _ _) (hm.ok hs hr)
  | error e t =>
    have ht := hm.error hs hr
    cases e with
    | trap c i => exact State.machineCheck_canonical ht _ _ _ _ _
    | absent | recalls | hold => exact ht

@[simp] theorem recordNogoods_keeps (w : Who) (base : Nat) (envs : List Env) : KeepsCanonical (recordNogoods w base envs) := by
  unfold recordNogoods
  exact of_rules

@[simp] theorem installAll_keeps (w : Who) : KeepsCanonical (installAll w) := by
  unfold installAll
  exact of_rules

@[simp] theorem visible_keeps (l : Label) : KeepsCanonical (visible l) := by
  unfold visible
  exact of_rules

/-! ### Lines, leases and agents -/

@[simp] theorem State.markBad_canonical (s : State) (L : Nat) (bad : BitVec 16) :
    (s.markBad L bad).Canonical ↔ s.Canonical := Iff.rfl

@[simp] theorem foldPart_keeps (L : Nat) (op : MemOp) (size : Nat) (p : UPart) : KeepsCanonical (foldPart L op size p) := by
  unfold foldPart
  refine .bind .get fun s => .bind (deferredFold_keeps _ _ _) fun l => .modS fun t ht => ?_
  exact ⟨(State.poke_canonical ht _ _ _).1, foldl_setTag_wf _ _ ht.2⟩

@[simp] theorem foldLine_keeps (L : Nat) : KeepsCanonical (foldLine L) := by
  unfold foldLine
  exact of_rules

@[simp] theorem recallLine_keeps (L : Nat) : KeepsCanonical (recallLine L) := by
  unfold recallLine
  refine .bind .get fun s => ?_
  have hf := foldLine_keeps L
  generalize foldLine L = m at hf ⊢
  cases (s.dir L).st with
  | u =>
    refine ⟨fun t ht => ?_⟩
    dsimp only
    cases hr : m t with
    | ok a u => exact hf.ok ht hr
    | error e u =>
      have hu := hf.error ht hr
      cases e with
      | absent => exact ht
      | trap | recalls | hold => exact hu
  | bRec => exact .stall
  | _ => exact .pure _

@[simp] theorem State.invalidate_canonical (hs : s.Canonical) (L : Nat) (ts : List Nat) : (s.invalidate L ts).1.Canonical := by
  unfold State.invalidate
  refine foldl_keeps (P := fun a : State × Nat => a.1.Canonical) ts _ ?_ hs
  exact fun _ _ h => h

@[simp] theorem awaitHome_keeps (L : Nat) : KeepsCanonical (awaitHome L) := by
  unfold awaitHome
  exact of_rules

theorem State.gets_canonical (hs : s.Canonical) (t L : Nat) : ∀ u, s.gets t L = some u → u.Canonical := by
  unfold State.gets
  exact of_rules

theorem State.getx_canonical (hs : s.Canonical) (t L : Nat) : ∀ u, s.getx t L = some u → u.Canonical := by
  unfold State.getx
  exact of_rules

theorem State.bringHome_canonical (hs : s.Canonical) (L : Nat) : ∀ u, State.bringHome s L = some u → u.Canonical := by
  unfold State.bringHome
  exact of_rules

@[simp] theorem bringHome_keeps (L : Nat) : KeepsCanonical (orStall fun s => s.bringHome L) :=
  .orStall fun _ _ hs => State.bringHome_canonical hs _ _

@[simp] theorem State.evictAgent_canonical (hs : s.Canonical) (t L : Nat) : (s.evictAgent t L).Canonical := by
  unfold State.evictAgent
  exact of_rules

@[simp] theorem State.yieldLine_canonical (hs : s.Canonical) (t L : Nat) : (s.yieldLine t L).Canonical := by
  unfold State.yieldLine
  exact of_rules

@[simp] theorem sliceRoomN_keeps (t L n : Nat) : KeepsCanonical (sliceRoomN t L n) := by
  induction n with
  | zero => exact .pure _
  | succ n ih =>
    unfold sliceRoomN
    exact of_rules

@[simp] theorem sliceRoom_keeps (t L : Nat) : KeepsCanonical (sliceRoom t L) := by
  unfold sliceRoom
  exact of_rules

theorem State.roomFor_canonical (hs : s.Canonical) (t L n : Nat) : ∀ u, s.roomFor t L n = some u → u.Canonical := by
  induction n generalizing s with
  | zero => simp [State.roomFor, hs]
  | succ n ih =>
    unfold State.roomFor
    split
    · simp [hs]
    · simp [hs]
    · split
      · simp
      · exact ih (State.yieldLine_canonical (s := { s with free := s.free + 1 }) hs _ _)

theorem State.slotFor_canonical (hs : s.Canonical) (t L : Nat) : ∀ u, s.slotFor t L = some u → u.Canonical :=
  State.roomFor_canonical hs _ _ _

@[simp] theorem State.homeTake_canonical (hs : s.Canonical) (L : Nat) (dirty next : Bool) :
    (s.homeTake L dirty next).Canonical := by
  unfold State.homeTake
  dsimp only
  split
  · exact hs
  · split
    · exact State.canonical_ite hs hs
    · split
      · exact hs
      · rename_i h
        have hu := State.slotFor_canonical hs _ _ _ h
        exact hu

@[simp] theorem State.writeBack_canonical (hs : s.Canonical) (k L : Nat) (drop : Bool) : (s.writeBack k L drop).Canonical := by
  unfold State.writeBack
  exact of_rules

@[simp] theorem State.evictL1_canonical (hs : s.Canonical) (k L : Nat) : (s.evictL1 k L).Canonical := by
  unfold State.evictL1
  split
  · dsimp only
    split
    · exact hs
    · rename_i h
      have hu := State.slotFor_canonical hs _ _ _ h
      exact hu
  · exact hs
  · exact of_rules

theorem State.roomL1_canonical (hs : s.Canonical) (k L : Nat) : ∀ u, s.roomL1 k L = some u → u.Canonical := by
  unfold State.roomL1
  exact of_rules

@[simp] theorem l1Room_keeps (k L : Nat) : KeepsCanonical (l1Room k L) :=
  .orStall fun _ _ hs => State.roomL1_canonical hs _ _ _

@[simp] theorem fillL1_keeps (k L : Nat) (e : L1Line) : KeepsCanonical (fillL1 k L e) := by
  unfold fillL1
  exact of_rules

@[simp] theorem State.learn_canonical (hs : s.Canonical) (home t : Nat) : (s.learn home t).Canonical := by
  unfold State.learn
  exact of_rules

@[simp] theorem acquire_keeps (t L : Nat) (next : Bool) {f : State → Option State}
    (hf : ∀ s t, s.Canonical → f s = some t → t.Canonical) : KeepsCanonical (acquire t L next f) := by
  have hf := KeepsCanonical.orStall hf
  unfold acquire
  exact of_rules

@[simp] theorem readable_keeps (t L : Nat) (next : Bool) : KeepsCanonical (readable t L next) :=
  acquire_keeps _ _ _ fun _ _ hs => State.gets_canonical hs _ _ _

@[simp] theorem writable_keeps (t L : Nat) : KeepsCanonical (writable t L) :=
  acquire_keeps _ _ _ fun _ _ hs => State.getx_canonical hs _ _ _

@[simp] theorem State.raisePts_canonical (hs : s.Canonical) (n p : Nat) : (s.raisePts n p).Canonical := by
  unfold State.raisePts
  exact of_rules

@[simp] theorem loadTracked_keeps (n L : Nat) : KeepsCanonical (loadTracked n L) := by
  unfold loadTracked
  exact of_rules

@[simp] theorem loadCopy_keeps (k L : Nat) : KeepsCanonical (loadCopy k L) := by
  unfold loadCopy
  exact of_rules

@[simp] theorem loadAt_keeps (n : Nat) (loc : Loc) (size : Nat) : KeepsCanonical (loadAt n loc size) := by
  unfold loadAt
  exact of_rules

@[simp] theorem stampStore_keeps (n L : Nat) : KeepsCanonical (stampStore n L) := by
  unfold stampStore
  exact of_rules

@[simp] theorem State.refreshLease_canonical (hs : s.Canonical) (n L : Nat) : (s.refreshLease n L).Canonical := by
  unfold State.refreshLease
  exact of_rules

@[simp] theorem State.storeCopy_canonical (hs : s.Canonical) (k : Nat) (loc : Loc) (size v : Nat) (tags : List (Nat × Label)) :
    (s.storeCopy k loc size v tags).Canonical := by
  unfold State.storeCopy
  exact of_rules

@[simp] theorem placeAt_keeps (n : Nat) (loc : Loc) (size v : Nat) (tags : List (Nat × Label)) :
    KeepsCanonical (placeAt n loc size v tags) := by
  unfold placeAt
  exact of_rules

@[simp] theorem oldTags_keeps (n : Nat) (loc : Loc) (size : Nat) : KeepsCanonical (oldTags n loc size) := by
  unfold oldTags
  exact of_rules

@[simp] theorem performStoreBy_keeps (w : State → Who) (n : Nat) (loc : Loc) (size v : Nat) (label : Label) :
    KeepsCanonical (performStoreBy w n loc size v label) := by
  unfold performStoreBy
  exact of_rules

@[simp] theorem performStore_keeps (n : Nat) (loc : Loc) (size v : Nat) (label : Label) :
    KeepsCanonical (performStore n loc size v label) := by
  unfold performStore
  exact of_rules

/-! ### The trace ring -/

@[simp] theorem State.ringWriteTo_canonical (hs : s.Canonical) (x : Nat) (t : Word) (slots : List Nat) :
    (s.ringWriteTo x t slots).Canonical := by
  unfold State.ringWriteTo
  exact of_rules

@[simp] theorem State.ringWrite_canonical (hs : s.Canonical) (x : Nat) (slots : List Nat) :
    (s.ringWrite x slots).Canonical := by
  unfold State.ringWrite
  exact of_rules

@[simp] theorem State.autoRec_canonical (hs : s.Canonical) (n : Nat) (payload : Word) (typ : Nat) :
    (s.autoRec n payload typ).Canonical := by
  unfold State.autoRec
  exact of_rules

/-! ### The accesses of a core -/

@[simp] theorem resolve_keeps (acc : Access) (ea : Word) (size : Nat) : KeepsCanonical (resolve acc ea size) := by
  unfold resolve
  exact of_rules

@[simp] theorem awaitOrder_keeps (loc : Loc) : KeepsCanonical (awaitOrder loc) := by
  unfold awaitOrder
  exact of_rules

@[simp] theorem linkReady_keeps (loc : Loc) : KeepsCanonical (linkReady loc) := by
  unfold linkReady
  exact of_rules

@[simp] theorem loadNt_keeps (n : Nat) (loc : Loc) (size : Nat) : KeepsCanonical (loadNt n loc size) := by
  unfold loadNt
  exact of_rules

@[simp] theorem loadFrom_keeps (ea : Word) (loc : Loc) (size : Nat) (nt : Bool) : KeepsCanonical (loadFrom ea loc size nt) := by
  unfold loadFrom
  exact of_rules

@[simp] theorem loaded_keeps (d : GReg) (ea : Word) (v : Word) (r : Got) (ls : List Label) :
    KeepsCanonical (loaded d ea v r ls) := by
  unfold loaded
  exact of_rules

@[simp] theorem plainCheck_keeps (ea : Word) (loc : Loc) (l : Label) : KeepsCanonical (plainCheck ea loc l) := by
  unfold plainCheck
  exact of_rules

@[simp] theorem pushSb_keeps (e : SbEntry) : KeepsCanonical (pushSb e) := by
  unfold pushSb
  exact of_rules

@[simp] theorem storeTo_keeps (ea : Word) (loc : Loc) (size : Nat) (data : Word) (label : Label) :
    KeepsCanonical (storeTo ea loc size data label) := by
  unfold storeTo
  exact of_rules

@[simp] theorem performNt_keeps (n : Nat) (e : NtStore) : KeepsCanonical (performNt n e) := by
  unfold performNt
  exact of_rules

@[simp] theorem performBuf_keeps (n : Nat) (b : NtBuf) : KeepsCanonical (performBuf n b) := by
  unfold performBuf
  exact of_rules

@[simp] theorem storeNt_keeps (ea : Word) (loc : Loc) (size : Nat) (data : Word) (label : Label) :
    KeepsCanonical (storeNt ea loc size data label) := by
  unfold storeNt
  exact of_rules

@[simp] theorem consumed_keeps (ea : Option Nat) (bad : Bool) : KeepsCanonical (consumed ea bad) := by
  unfold consumed
  exact of_rules

@[simp] theorem keepDamage_keeps (s : State) : KeepsCanonical (keepDamage s) := by
  unfold keepDamage
  exact of_rules

@[simp] theorem indivisible_keeps {α : Type} (n : Nat) (loc : Loc) (size : Nat) (ea : Option Nat) {f : Update α}
    (hf : ∀ v ts, KeepsCanonical (f v ts)) : KeepsCanonical (indivisible n loc size ea f) := by
  unfold indivisible
  exact of_rules

@[simp] theorem State.stampHome_canonical (s : State) (n L : Nat) : (s.stampHome n L).Canonical ↔ s.Canonical := Iff.rfl

@[simp] theorem joinPartial_keeps (n : Nat) (op : MemOp) (loc : Loc) (size : Nat) (v : Word) (label : Label) :
    KeepsCanonical (joinPartial n op loc size v label) := by
  unfold joinPartial
  exact of_rules

@[simp] theorem reduceAt_keeps (n : Nat) (op : MemOp) (loc : Loc) (size : Nat) (v : Word) (label : Label) :
    KeepsCanonical (reduceAt n op loc size v label) := by
  unfold reduceAt
  refine .bind .get fun s => ?_
  exact .bind (indivisible_keeps _ _ _ _ fun _ _ => .bind (deferredFold_keeps _ _ _) fun _ => .pure _) fun _ => .pure _

@[simp] theorem bankLine_keeps (n : Nat) (loc : Loc) : KeepsCanonical (bankLine n loc) := by
  unfold bankLine
  exact of_rules

@[simp] theorem toBank_keeps (n : Nat) (loc : Loc) : KeepsCanonical (toBank n loc) := by
  unfold toBank
  exact of_rules

@[simp] theorem atBank_keeps {α : Type} (n : Nat) (loc : Loc) (size : Nat) (ea : Option Nat) {f : Update α}
    (hf : ∀ v ts, KeepsCanonical (f v ts)) : KeepsCanonical (atBank n loc size ea f) := by
  unfold atBank
  exact of_rules

@[simp] theorem bankRed_keeps (n : Nat) (op : MemOp) (loc : Loc) (size : Nat) (v : Word) (label : Label) :
    KeepsCanonical (bankRed n op loc size v label) := by
  unfold bankRed
  refine .bind .get fun s => ?_
  exact .bind (atBank_keeps _ _ _ _ fun _ _ => .bind (deferredFold_keeps _ _ _) fun _ => .pure _) fun _ => .pure _

@[simp] theorem saxLoad_keeps (n : Nat) (x : Loc) : KeepsCanonical (saxLoad n x) := by
  unfold saxLoad
  exact of_rules

@[simp] theorem bankSax_keeps (n : Nat) (y x : Loc) (sc : BitVec 32) (label : Label) :
    KeepsCanonical (bankSax n y x sc label) := by
  unfold bankSax
  exact of_rules

@[simp] theorem performEntry_keeps (n : Nat) (e : SbEntry) : KeepsCanonical (performEntry n e) := by
  unfold performEntry
  exact of_rules

@[simp] theorem performHead_keeps (n : Nat) : KeepsCanonical (performHead n) := by
  unfold performHead
  exact of_rules

/-! ### Fetching words -/

@[simp] theorem State.fillL1i_canonical (hs : s.Canonical) (k a : Nat) (w : HWord) : (s.fillL1i k a w).Canonical := by
  unfold State.fillL1i
  exact of_rules

@[simp] theorem fetchMem_keeps (va : Word) : KeepsCanonical (fetchMem va) := by
  unfold fetchMem
  refine .check (.raiseAddr _ _) fun _ => .bind (translateMe_keeps _ _ _) fun loc => .bind .get fun s =>
    .check (.raiseAddr _ _) fun _ => ?_
  split
  · exact .pure _
  · refine .check (.raiseAddrValue _ _) fun _ => .bind (linkReady_keeps _) fun _ => .check (.raiseAddr _ _) fun _ => ?_
    refine .bind (awaitHome_keeps _) fun _ => .check (recallLine_keeps _) fun _ => .bind .get fun _ =>
      .check (.raiseAddr _ _) fun _ => ?_
    exact of_rules

@[simp] theorem fetchOwn_keeps (va : Word) : KeepsCanonical (fetchOwn va) := by
  unfold fetchOwn
  exact of_rules

@[simp] theorem fetchNth_keeps (k : Nat) : KeepsCanonical (fetchNth k) := by
  unfold fetchNth
  exact of_rules

/-! ### Control flow, guards and traps -/

@[simp] theorem needS_keeps : KeepsCanonical needS := by
  unfold needS
  exact of_rules

@[simp] theorem strictCheck_keeps (ls : List Label) : KeepsCanonical (strictCheck ls) := by
  unfold strictCheck
  exact of_rules

@[simp] theorem goTo_keeps (a : Word) : KeepsCanonical (goTo a) := by
  unfold goTo
  exact of_rules

@[simp] theorem execBCond_ends (hs : s.Canonical) (k : BCond) (a b : GReg) (o : BitVec 13) :
    EndsCanonical (execBCond k a b o s) := by
  unfold execBCond
  exact of_rules

@[simp] theorem execJl_ends (hs : s.Canonical) (o : BitVec 26) : EndsCanonical (execJl o s) := by
  unfold execJl
  exact of_rules

@[simp] theorem execJlr_ends (hs : s.Canonical) (d a : GReg) (i : BitVec 16) : EndsCanonical (execJlr d a i s) := by
  unfold execJlr
  exact of_rules

@[simp] theorem execGuard_ends (hs : s.Canonical) (v : Bool) (n : PReg) : EndsCanonical (execGuard v n s) := by
  unfold execGuard
  exact of_rules

@[simp] theorem execRpt_ends (hs : s.Canonical) (n k sd sa sb : BitVec 4) : EndsCanonical (execRpt n k sd sa sb s) := by
  unfold execRpt
  exact of_rules

@[simp] theorem execBrk_ends (hs : s.Canonical) : EndsCanonical (execBrk s) := by
  unfold execBrk
  exact of_rules

@[simp] theorem execTrap_ends (hs : s.Canonical) (i : BitVec 6) : EndsCanonical (execTrap i s) := by
  unfold execTrap
  exact of_rules

@[simp] theorem execEret_ends (hs : s.Canonical) : EndsCanonical (execEret s) := by
  unfold execEret
  exact of_rules

@[simp] theorem drainNt_keeps : KeepsCanonical drainNt := by
  unfold drainNt
  exact of_rules

@[simp] theorem haltMe_keeps : KeepsCanonical haltMe := by
  unfold haltMe
  exact of_rules

@[simp] theorem execHalt_ends (hs : s.Canonical) : EndsCanonical (execHalt s) := by
  unfold execHalt
  exact of_rules

@[simp] theorem State.haltStep_ends (hs : s.Canonical) : EndsCanonical (s.haltStep) := by
  unfold State.haltStep
  exact of_rules

@[simp] theorem execWordNotAnInstruction_ends (hs : s.Canonical) (w : HWord) :
    EndsCanonical (execWordNotAnInstruction w s) := by
  unfold execWordNotAnInstruction
  exact of_rules

@[simp] theorem execFetchFault_ends (hs : s.Canonical) (va : Word) : EndsCanonical (execFetchFault va s) := by
  unfold execFetchFault
  exact of_rules

/-! ### Events, barriers and mutexes -/

@[simp] theorem quiet_keeps : KeepsCanonical quiet := by
  unfold quiet
  exact of_rules

@[simp] theorem State.eachCore_canonical (hs : s.Canonical) (k : Nat) (p : Core → Bool) (f : Core → Core) :
    (s.eachCore k p f).Canonical := by
  unfold State.eachCore
  exact of_rules

@[simp] theorem State.fire_canonical (hs : s.Canonical) (k : Nat) (e : Fin 32) : (s.fire k e).Canonical := by
  unfold State.fire
  exact of_rules

@[simp] theorem State.lineCheck_canonical (hs : s.Canonical) (k : Nat) (e : Fin 32) : (s.lineCheck k e).Canonical := by
  unfold State.lineCheck
  exact of_rules

@[simp] theorem State.barCheck_canonical (hs : s.Canonical) (k : Nat) (b : Fin 16) : (s.barCheck k b).Canonical := by
  unfold State.barCheck
  exact of_rules

@[simp] theorem State.release_canonical (hs : s.Canonical) (k : Nat) (x : Fin 16) : (s.release k x).Canonical := by
  unfold State.release
  exact of_rules

@[simp] theorem State.retireEvents_canonical (hs : s.Canonical) (n : Nat) : (s.retireEvents n).Canonical := by
  unfold State.retireEvents
  exact of_rules

@[simp] theorem eventLoad_keeps (d : GReg) (off : Nat) (ls : List Label) : KeepsCanonical (eventLoad d off ls) := by
  unfold eventLoad
  exact of_rules

@[simp] theorem eventStore_keeps (off : Nat) (v : Word) : KeepsCanonical (eventStore off v) := by
  unfold eventStore
  exact of_rules

@[simp] theorem execEventWindowLoad_ends (hs : s.Canonical) (d : GReg) (off : BitVec 10) :
    EndsCanonical (execEventWindowLoad d off s) := by
  unfold execEventWindowLoad
  exact of_rules

@[simp] theorem execEventWindowStore_ends (hs : s.Canonical) (off : BitVec 10) (b : GReg) :
    EndsCanonical (execEventWindowStore off b s) := by
  unfold execEventWindowStore
  exact of_rules

@[simp] theorem execEvsig_ends (hs : s.Canonical) (a : GReg) : EndsCanonical (execEvsig a s) := by
  unfold execEvsig
  exact of_rules

@[simp] theorem execBar_ends (hs : s.Canonical) (a : GReg) : EndsCanonical (execBar a s) := by
  unfold execBar
  exact of_rules

@[simp] theorem execPause_ends (hs : s.Canonical) (n : BitVec 8) : EndsCanonical (execPause n s) := by
  unfold execPause
  exact of_rules

@[simp] theorem execPauseEnd_ends (hs : s.Canonical) (n : Nat) : EndsCanonical (execPauseEnd n s) := by
  unfold execPauseEnd
  exact of_rules

@[simp] theorem execWaita_ends (hs : s.Canonical) (a b : GReg) : EndsCanonical (execWaita a b s) := by
  unfold execWaita
  exact of_rules

@[simp] theorem execWaitaWake_ends (hs : s.Canonical) (n : Nat) : EndsCanonical (execWaitaWake n s) := by
  unfold execWaitaWake
  exact of_rules

@[simp] theorem State.syncDone_canonical (hs : s.Canonical) (n : Nat) (l : Fin 4) : (s.syncDone n l).Canonical := by
  unfold State.syncDone
  extract_lets s₁ s₂ s₃ t
  have h₂ : s₂.Canonical := State.autoRec_canonical (s := s₁) hs _ _ _
  have h₃ : s₃.Canonical := State.autoRec_canonical h₂ _ _ _
  have ht : t.Canonical := h₃
  clear_value s₂ s₃ t
  exact State.canonical_ite (State.canonical_ite (State.passed_canonical ht _) ht) h₂

@[simp] theorem State.syncRelease_canonical (hs : s.Canonical) (n : Nat) (l : Fin 4) : (s.syncRelease n l).Canonical := by
  unfold State.syncRelease
  exact of_rules

@[simp] theorem execSync_ends (hs : s.Canonical) (l : BitVec 2) : EndsCanonical (execSync l s) := by
  unfold execSync
  exact of_rules

@[simp] theorem execSyncRelease_ends (hs : s.Canonical) (n : Nat) (l : BitVec 2) : EndsCanonical (execSyncRelease n l s) := by
  unfold execSyncRelease
  exact of_rules

/-! ### Loads and stores -/

@[simp] theorem loadAs_keeps (z : LdSize) (d a : GReg) (o : BitVec 11) (nt : Bool) : KeepsCanonical (loadAs z d a o nt) := by
  unfold loadAs
  exact of_rules

@[simp] theorem execLd_ends (hs : s.Canonical) (z : LdSize) (d a : GReg) (o : BitVec 11) :
    EndsCanonical (execLd z d a o s) := by
  unfold execLd
  exact of_rules

@[simp] theorem execLdAcq_ends (hs : s.Canonical) (z : LdSize) (d a : GReg) (o : BitVec 11) :
    EndsCanonical (execLdAcq z d a o s) := by
  unfold execLdAcq
  exact of_rules

@[simp] theorem execLdnt_ends (hs : s.Canonical) (z : LdSize) (d a : GReg) (o : BitVec 11) :
    EndsCanonical (execLdnt z d a o s) := by
  unfold execLdnt
  exact of_rules

@[simp] theorem storeOp_ends (hs : s.Canonical) (i : Instr) (z : StSize) (d a : GReg) (o : BitVec 11) (nt : Bool) :
    EndsCanonical (storeOp i z d a o nt s) := by
  unfold storeOp
  exact of_rules

@[simp] theorem storeReady_keeps (n : Nat) : KeepsCanonical (storeReady n) := by
  unfold storeReady
  exact of_rules

@[simp] theorem execStorePerform_ends (hs : s.Canonical) (c : Nat) : EndsCanonical (execStorePerform c s) := by
  unfold execStorePerform
  exact of_rules

@[simp] theorem execStntBufferPerform_ends (hs : s.Canonical) (c line : Nat) :
    EndsCanonical (execStntBufferPerform c line s) := by
  unfold execStntBufferPerform
  exact of_rules

/-! ### Atomics and reductions -/

@[simp] theorem farAtomic_keeps (ea : Word) (op : MemOp) (loc : Loc) (returns : Bool) :
    KeepsCanonical (farAtomic ea op loc returns) := by
  unfold farAtomic
  exact of_rules

@[simp] theorem amoStep_keeps (c : Core) (op : MemOp) (size : Nat) (ea : Word) (loc : Loc) (d a b : GReg) (old : Nat)
    (tags : List (Nat × Label)) : KeepsCanonical (amoStep c op size ea loc d a b old tags) := by
  unfold amoStep
  exact of_rules

@[simp] theorem amoReady_keeps (ea : Word) (size : Nat) : KeepsCanonical (amoReady ea size) := by
  unfold amoReady
  exact of_rules

@[simp] theorem amo_ends (hs : s.Canonical) (i : Instr) (op : MemOp) (size : Nat) (d a b : GReg) :
    EndsCanonical (amo i op size d a b s) := by
  unfold amo
  exact of_rules

@[simp] theorem red_ends (hs : s.Canonical) (i : Instr) (op : MemOp) (size : Nat) (a b : GReg) :
    EndsCanonical (red i op size a b s) := by
  unfold red
  exact of_rules

@[simp] theorem resolveBank_keeps (acc : Access) (ea : Word) (size : Nat) : KeepsCanonical (resolveBank acc ea size) := by
  unfold resolveBank
  exact of_rules

@[simp] theorem execMemred_ends (hs : s.Canonical) (o : MemredOp) (a b : GReg) : EndsCanonical (execMemred o a b s) := by
  unfold execMemred
  exact of_rules

@[simp] theorem execMemcas_ends (hs : s.Canonical) (d a b : GReg) : EndsCanonical (execMemcas d a b s) := by
  unfold execMemcas
  exact of_rules

@[simp] theorem execMemsax_ends (hs : s.Canonical) (a b e : GReg) : EndsCanonical (execMemsax a b e s) := by
  unfold execMemsax
  exact of_rules

@[simp] theorem execMemBankExecute_ends (hs : s.Canonical) (c : Nat) : EndsCanonical (execMemBankExecute c s) := by
  unfold execMemBankExecute
  exact of_rules

/-! ### The split counter -/

@[simp] theorem State.setCounter_canonical (s : State) (L : Nat) (c : Counter) :
    (s.setCounter L c).Canonical ↔ s.Canonical := Iff.rfl

@[simp] theorem State.counterImage_canonical (hs : s.Canonical) (L : Nat) (c : Counter) : (s.counterImage L c).Canonical := by
  unfold State.counterImage
  exact of_rules

@[simp] theorem State.takeHome_canonical (hs : s.Canonical) (L k n : Nat) : (s.takeHome L k n).Canonical := by
  unfold State.takeHome
  exact of_rules

@[simp] theorem State.initCounter_canonical (hs : s.Canonical) (L v chunk : Nat) (l : Label) (queue : List CReq)
    (held : List (Nat × Nat)) :
    (s.initCounter L v chunk l queue held).Canonical := by
  have hw := State.plinthWrite_canonical hs L v 64
  unfold State.initCounter
  split
  · dsimp only
    split
    · exact hw
    · exact ⟨hw.1, foldl_setTag_wf _ _ hw.2⟩
  · exact State.counterImage_canonical (s := s.setCounter L _) hs _ _

@[simp] theorem State.refuseCounter_canonical (s : State) (n : Nat) : (s.refuseCounter n).Canonical ↔ s.Canonical := Iff.rfl

@[simp] theorem State.afresh_canonical (hs : s.Canonical) (L : Nat) (qs : List CReq) : (s.afresh L qs).Canonical := by
  unfold State.afresh
  exact of_rules

@[simp] theorem State.ended_canonical (hs : s.Canonical) (L : Nat) (qs : List CReq) (held : List (Nat × Nat)) :
    (s.ended L qs held).Canonical := by
  unfold State.ended
  exact of_rules

@[simp] theorem State.putAllowance_canonical (hs : s.Canonical) (k L n : Nat) : (s.putAllowance k L n).Canonical := by
  unfold State.putAllowance
  split
  · rename_i h
    have ht := State.roomL1_canonical hs _ _ _ h
    exact ht
  · exact hs

@[simp] theorem State.serve_canonical (hs : s.Canonical) (L n : Nat) : (s.serve L n).Canonical := by
  induction n generalizing s with
  | zero => exact hs
  | succ n ih =>
    have decided {s : State} (hs : s.Canonical) (c : Counter) (m : Msg) : (((s.setCounter L c).send m).serve L n).Canonical := ih hs
    unfold State.serve
    split
    · exact hs
    · next c _ =>
      refine State.canonical_ite hs ?_
      split
      · exact State.canonical_ite (State.counterImage_canonical hs _ _) hs
      · next q rest _ =>
        extract_lets k decided' s₁ round
        have hround : round.Canonical := State.foldl_canonical (fun _ _ h => by exact h) (show s₁.Canonical from hs)
        split
        · refine State.canonical_ite ?_ (State.canonical_ite (decided hs _ _) hround)
          refine decided (State.canonical_ite (State.putAllowance_canonical ?_ _ _ _) ?_) _ _
          · split <;> exact hs
          · split <;> exact hs
        · exact State.canonical_ite (decided hs _ _) hround
        · refine State.canonical_ite (State.canonical_ite (ih ?_) (ih ?_)) hround
          · exact State.ended_canonical (State.initCounter_canonical (s := s.send _) hs _ _ _ _ _ _) _ _ _
          · exact State.initCounter_canonical (s := s.send _) hs _ _ _ _ _ _

@[simp] theorem State.serveAll_canonical (hs : s.Canonical) (L : Nat) : (s.serveAll L).Canonical := by
  unfold State.serveAll
  exact of_rules

@[simp] theorem State.counterRequest_canonical (hs : s.Canonical) (L n : Nat) (op : CounterOp) (l : Label) :
    (s.counterRequest L n op l).Canonical := by
  unfold State.counterRequest
  exact of_rules

@[simp] theorem State.roundPass_canonical (hs : s.Canonical) (L : Nat) (snap : List CReq) : (s.roundPass L snap).Canonical := by
  induction snap generalizing s with
  | nil =>
    unfold State.roundPass
    split
    · exact hs
    · exact State.serveAll_canonical (s := s.setCounter L _) hs _
  | cons q r ih =>
    have decided (c : Counter) (m : Msg) : (((s.setCounter L c).send m).roundPass L r).Canonical := ih hs
    unfold State.roundPass
    split
    · exact State.afresh_canonical hs _ _
    · dsimp only
      split
      · exact State.canonical_ite (decided _ _) (decided _ _)
      · exact decided _ _
      · refine State.canonical_ite (State.serveAll_canonical (State.ended_canonical ?_ _ _ _) _) (decided _ _)
        exact State.initCounter_canonical (s := s.send _) hs _ _ _ _ _ _

@[simp] theorem State.roundComplete_canonical (hs : s.Canonical) (L : Nat) : (s.roundComplete L).Canonical := by
  unfold State.roundComplete
  exact of_rules

@[simp] theorem State.returnAllowances_canonical (hs : s.Canonical) (k : Nat) : (s.returnAllowances k).Canonical := by
  unfold State.returnAllowances
  exact of_rules

@[simp] theorem State.serveHeld_canonical (hs : s.Canonical) (k L n : Nat) : (s.serveHeld k L n).Canonical := by
  induction n generalizing s with
  | zero => exact hs
  | succ n ih =>
    unfold State.serveHeld
    exact of_rules

@[simp] theorem State.counterReply_canonical (hs : s.Canonical) (L c v : Nat) : (s.counterReply L c v).Canonical := by
  unfold State.counterReply
  exact of_rules

@[simp] theorem resolveCounter_keeps (acc : Access) (ea : Word) : KeepsCanonical (resolveCounter acc ea) := by
  unfold resolveCounter
  exact of_rules

@[simp] theorem plainValue_keeps (ea : Word) (l : Label) : KeepsCanonical (plainValue ea l) := by
  unfold plainValue
  exact of_rules

@[simp] theorem needCounter_keeps (ea : Word) (L : Nat) : KeepsCanonical (needCounter ea L) := by
  unfold needCounter
  exact of_rules

@[simp] theorem replyFor_keeps (L : Nat) : KeepsCanonical (replyFor L) := by
  unfold replyFor
  exact of_rules

@[simp] theorem awaitReply_keeps (L : Nat) {done : Word → M Unit} (hd : ∀ v, KeepsCanonical (done v)) :
    KeepsCanonical (awaitReply L done) := by
  unfold awaitReply
  exact of_rules

@[simp] theorem askHome_keeps (L : Nat) (op : CounterOp) {done : Word → M Unit} (hd : ∀ v, KeepsCanonical (done v)) :
    KeepsCanonical (askHome L op done) := by
  unfold askHome
  exact of_rules

@[simp] theorem counterResumes_keeps (a : GReg) {done : Word → M Unit} {begin : M Unit} (hd : ∀ v, KeepsCanonical (done v))
    (hb : KeepsCanonical begin) : KeepsCanonical (counterResumes a done begin) := by
  unfold counterResumes
  refine .bind .getMe fun c => ?_
  cases c.wait with
  | granted v => exact .bind observeMe_keeps fun _ => hd v
  | reply L => exact awaitReply_keeps L hd
  | noCounter => exact .raiseAddrValue _ _
  | _ => exact hb

@[simp] theorem counterReady_keeps : KeepsCanonical counterReady := by
  unfold counterReady
  exact of_rules

@[simp] theorem execCinit_ends (hs : s.Canonical) (a b e : GReg) : EndsCanonical (execCinit a b e s) := by
  unfold execCinit
  refine runI_ends hs (counterResumes_keeps _ (fun _ => advance_keeps) ?_) _
  exact of_rules

@[simp] theorem execCdec_ends (hs : s.Canonical) (d a b : GReg) : EndsCanonical (execCdec d a b s) := by
  unfold execCdec
  refine runI_ends hs (counterResumes_keeps _ (resultKept_keeps d) ?_) _
  exact of_rules

@[simp] theorem execCinc_ends (hs : s.Canonical) (a b : GReg) : EndsCanonical (execCinc a b s) := by
  unfold execCinc
  exact of_rules

@[simp] theorem execCread_ends (hs : s.Canonical) (d a : GReg) : EndsCanonical (execCread d a s) := by
  unfold execCread
  refine runI_ends hs (counterResumes_keeps _ (resultKept_keeps d) ?_) _
  exact of_rules

@[simp] theorem execClocal_ends (hs : s.Canonical) (d a : GReg) : EndsCanonical (execClocal d a s) := by
  unfold execClocal
  exact of_rules

@[simp] theorem execCounterRequest_ends (hs : s.Canonical) (line c : Nat) (op : CounterOp) :
    EndsCanonical (execCounterRequest line c op s) := by
  unfold execCounterRequest
  exact of_rules

@[simp] theorem execCounterRecall_ends (hs : s.Canonical) (line k : Nat) : EndsCanonical (execCounterRecall line k s) := by
  unfold execCounterRecall
  exact of_rules

@[simp] theorem execAllowanceReturn_ends (hs : s.Canonical) (line k n : Nat) :
    EndsCanonical (execAllowanceReturn line k n s) := by
  unfold execAllowanceReturn
  exact of_rules

@[simp] theorem execRecallRoundComplete_ends (hs : s.Canonical) (line : Nat) :
    EndsCanonical (execRecallRoundComplete line s) := by
  unfold execRecallRoundComplete
  exact of_rules

@[simp] theorem execCounterReply_ends (hs : s.Canonical) (line c value : Nat) :
    EndsCanonical (execCounterReply line c value s) := by
  unfold execCounterReply
  exact of_rules

/-! ### Label instructions -/

@[simp] theorem formed_keeps {f : Who → Policy → M Formed} (hf : ∀ w pol, KeepsCanonical (f w pol)) :
    KeepsCanonical (formed f) := by
  refine forMe_keeps fun w pol => ?_
  exact of_rules

@[simp] theorem labelled_keeps (d : GReg) (v : Word) {f : Who → Policy → M Formed} (hf : ∀ w pol, KeepsCanonical (f w pol)) :
    KeepsCanonical (labelled d v f) := by
  unfold labelled
  exact of_rules

@[simp] theorem execAssume_ends (hs : s.Canonical) (d a : GReg) (n : BitVec 7) : EndsCanonical (execAssume d a n s) := by
  unfold execAssume
  exact of_rules

@[simp] theorem execLget_ends (hs : s.Canonical) (d a : GReg) : EndsCanonical (execLget d a s) := by
  unfold execLget
  exact of_rules

@[simp] theorem idValid_keeps (l : Label) : KeepsCanonical (idValid l) := by
  unfold idValid
  exact of_rules

@[simp] theorem execLset_ends (hs : s.Canonical) (d a b : GReg) : EndsCanonical (execLset d a b s) := by
  unfold execLset
  exact of_rules

@[simp] theorem execLprod_ends (hs : s.Canonical) (d a b : GReg) : EndsCanonical (execLprod d a b s) := by
  unfold execLprod
  exact of_rules

@[simp] theorem execLunion_ends (hs : s.Canonical) (d a b : GReg) : EndsCanonical (execLunion d a b s) := by
  unfold execLunion
  exact of_rules

@[simp] theorem execLeq_ends (hs : s.Canonical) (d a b : GReg) : EndsCanonical (execLeq d a b s) := by
  unfold execLeq
  exact of_rules

@[simp] theorem requestNogoods_keeps (envs : List Env) : KeepsCanonical (requestNogoods envs) := by
  unfold requestNogoods
  exact of_rules

@[simp] theorem execNogood_ends (hs : s.Canonical) (a : GReg) : EndsCanonical (execNogood a s) := by
  unfold execNogood
  exact of_rules

@[simp] theorem execNogoode_ends (hs : s.Canonical) (a b : GReg) : EndsCanonical (execNogoode a b s) := by
  unfold execNogoode
  exact of_rules

@[simp] theorem predReady_keeps (n : PReg) : KeepsCanonical (predReady n) := by
  unfold predReady
  exact of_rules

@[simp] theorem setPred_keeps (n : PReg) (b : Bool) : KeepsCanonical (setPred n b) := by
  unfold setPred
  exact of_rules

@[simp] theorem execLvis_ends (hs : s.Canonical) (n : PReg) (a : GReg) : EndsCanonical (execLvis n a s) := by
  unfold execLvis
  exact of_rules

@[simp] theorem execLsel_ends (hs : s.Canonical) (d a b : GReg) : EndsCanonical (execLsel d a b s) := by
  unfold execLsel
  exact of_rules

@[simp] theorem readStep_keeps (w : Who) (op : FullerOp) (l : Label) (f : List Env → Word) :
    KeepsCanonical (readStep w op l f) := by
  unfold readStep
  exact of_rules

@[simp] theorem execLcount_ends (hs : s.Canonical) (d a : GReg) : EndsCanonical (execLcount d a s) := by
  unfold execLcount
  exact of_rules

@[simp] theorem execLenv_ends (hs : s.Canonical) (d a : GReg) (e : BitVec 4) (h : Bool) :
    EndsCanonical (execLenv d a e h s) := by
  unfold execLenv
  exact of_rules

@[simp] theorem execLfocus_ends (hs : s.Canonical) (a b : GReg) : EndsCanonical (execLfocus a b s) := by
  unfold execLfocus
  exact of_rules

@[simp] theorem runPlinth_ends (hs : s.Canonical) {m : M Unit} (hm : KeepsCanonical m) : EndsCanonical (runPlinth m s) := by
  unfold runPlinth
  cases hr : m s with
  | ok a t => exact (endsCanonical_next _).mpr (hm.ok hs hr)
  | error e t =>
    cases e with
    | absent => exact (endsCanonical_next _).mpr (State.postFault_canonical hs _ _ _ _ _ _)
    | trap => exact (endsCanonical_next _).mpr hs
    | recalls | hold => exact (endsCanonical_next _).mpr (State.unless_canonical hs _)

@[simp] theorem execInternRequest_ends (hs : s.Canonical) (ctx : Nat) (envs : List Env) :
    EndsCanonical (execInternRequest ctx envs s) := by
  unfold execInternRequest
  refine runPlinth_ends hs ?_
  exact of_rules

@[simp] theorem execFullerMissComplete_ends (hs : s.Canonical) (k ctx : Nat) (op : FullerOp) (x y : Label) :
    EndsCanonical (execFullerMissComplete k ctx op x y s) := by
  unfold execFullerMissComplete
  split
  · exact endsCanonical_fault _
  · split
    · exact (endsCanonical_next _).2 hs
    · refine runPlinth_ends hs ?_
      exact of_rules

@[simp] theorem execNogoodRequest_ends (hs : s.Canonical) (ctx : Nat) (envs : List Env) :
    EndsCanonical (execNogoodRequest ctx envs s) := by
  unfold execNogoodRequest
  refine runPlinth_ends hs ?_
  exact of_rules

@[simp] theorem execNogoodInstall_ends (hs : s.Canonical) (k : Nat) : EndsCanonical (execNogoodInstall k s) := by
  unfold execNogoodInstall
  split
  · refine runPlinth_ends hs ?_
    exact of_rules
  · exact endsCanonical_fault _

@[simp] theorem execDeferredLabelFold_ends (hs : s.Canonical) (ctx loc : Nat) (l : Label) :
    EndsCanonical (execDeferredLabelFold ctx loc l s) := by
  unfold execDeferredLabelFold
  refine runPlinth_ends hs (.bind .get fun _ => .bind (deferredFold_keeps _ _ _) fun t => .modS fun u hu => ?_)
  exact ⟨hu.1, AMap.wf_set hu.2 _ _⟩

/-! ### The matrix unit -/

@[simp] theorem raiseMark_keeps (m : MReg) : KeepsCanonical (raiseMark m) := by
  unfold raiseMark
  exact of_rules

@[simp] theorem matrixReady_keeps (m : MReg) : KeepsCanonical (matrixReady m) := by
  unfold matrixReady
  exact of_rules

@[simp] theorem pushM_keeps (e : MEntry) : KeepsCanonical (pushM e) := by
  unfold pushM
  exact of_rules

@[simp] theorem oneWindow_keeps (ea : Word) (n : Nat) : KeepsCanonical (oneWindow ea n) := by
  unfold oneWindow
  exact of_rules

@[simp] theorem execMma_ends (hs : s.Canonical) (m : MReg) (a b : GReg) : EndsCanonical (execMma m a b s) := by
  unfold execMma
  refine runI_ends hs (.bind (matrixReady_keeps _) fun _ => .bind .get fun s => .check (.raiseValue _) fun _ => ?_) _
  refine .check (.raiseAddr _ _) fun _ => .check (.raiseAddr _ _) fun _ => ?_
  exact of_rules

@[simp] theorem execMzero_ends (hs : s.Canonical) (m : MReg) : EndsCanonical (execMzero m s) := by
  unfold execMzero
  exact of_rules

@[simp] theorem accLines_keeps (acc : Access) (ea : Word) : KeepsCanonical (accLines acc ea) := by
  unfold accLines
  exact of_rules

@[simp] theorem transferReady_keeps (ea : Word) : KeepsCanonical (transferReady ea) := by
  unfold transferReady
  exact of_rules

@[simp] theorem execMld_ends (hs : s.Canonical) (m : MReg) (a : GReg) : EndsCanonical (execMld m a s) := by
  unfold execMld
  exact of_rules

@[simp] theorem execMst_ends (hs : s.Canonical) (a : GReg) (m : MReg) : EndsCanonical (execMst a m s) := by
  unfold execMst
  exact of_rules

@[simp] theorem execMwait_ends (hs : s.Canonical) (m : MReg) : EndsCanonical (execMwait m s) := by
  unfold execMwait
  exact of_rules

@[simp] theorem State.unitOffline_canonical (hs : s.Canonical) (k : Nat) : (s.unitOffline k).Canonical := by
  unfold State.unitOffline
  exact of_rules

@[simp] theorem State.selfTest_canonical (hs : s.Canonical) (k : Nat) (failed : BitVec 16) :
    (s.selfTest k failed).Canonical := by
  unfold State.selfTest
  extract_lets c fenced s₁ s₂
  have h₂ : s₂.Canonical := State.foldl_canonical (fun _ _ h => by exact h) hs
  exact State.canonical_ite (State.unitOffline_canonical h₂ _) h₂

@[simp] theorem execMtest_ends (hs : s.Canonical) (d : GReg) : EndsCanonical (execMtest d s) := by
  unfold execMtest
  exact of_rules

@[simp] theorem execMatrixSelfTest_ends (hs : s.Canonical) (k : Nat) (failed : BitVec 16) :
    EndsCanonical (execMatrixSelfTest k failed s) := by
  unfold execMatrixSelfTest
  exact of_rules

@[simp] theorem execThrottleChange_ends (hs : s.Canonical) (k : Nat) (on : Bool) :
    EndsCanonical (execThrottleChange k on s) := by
  unfold execThrottleChange
  exact of_rules

@[simp] theorem execMatrixOpStart_ends (hs : s.Canonical) (k : Nat) : EndsCanonical (execMatrixOpStart k s) := by
  unfold execMatrixOpStart
  exact of_rules

@[simp] theorem queuedFold_keeps (n : Nat) (ovm : Bool) (start : Label) (ls : List Label) :
    KeepsCanonical (queuedFold n ovm start ls) := by
  refine ⟨fun s hs => ?_⟩
  have hm := foldProd_keeps (s.who n) (.issue ovm) ⟨start, false⟩ ls
  unfold queuedFold
  cases hr : foldProd (s.who n) (.issue ovm) ⟨start, false⟩ ls s with
  | ok f t =>
    have ht := hm.ok hs hr
    exact State.canonical_ite ht ht
  | error e t =>
    have ht := hm.error hs hr
    cases e <;> exact ht

@[simp] theorem matrixFold_keeps (n : Nat) (e : MEntry) (ls : List Label) : KeepsCanonical (matrixFold n e ls) := by
  unfold matrixFold
  exact of_rules

@[simp] theorem markFault_keeps (n : Nat) (m : MReg) (e : MEntry) (c : Cause) (count : Nat) (addr : Option Nat) :
    KeepsCanonical (markFault n m e c count addr) := by
  unfold markFault
  exact of_rules

@[simp] theorem popM_keeps (n : Nat) : KeepsCanonical (popM n) := by
  unfold popM
  exact of_rules

@[simp] theorem finishMma_keeps (n : Nat) (m : MReg) (e : MEntry) : KeepsCanonical (finishMma n m e) := by
  unfold finishMma
  exact of_rules

@[simp] theorem execMatrixOpComplete_ends (hs : s.Canonical) (k : Nat) : EndsCanonical (execMatrixOpComplete k s) := by
  unfold execMatrixOpComplete
  exact of_rules

@[simp] theorem finishMld_keeps (n : Nat) (m : MReg) (e : MEntry) : KeepsCanonical (finishMld n m e) := by
  unfold finishMld
  exact of_rules

@[simp] theorem storeLine_keeps (n : Nat) (loc : Loc) (v : Nat) (l : Label) : KeepsCanonical (storeLine n loc v l) := by
  unfold storeLine
  exact of_rules

@[simp] theorem execMatrixTransferComplete_ends (hs : s.Canonical) (n : Nat) :
    EndsCanonical (execMatrixTransferComplete n s) := by
  unfold execMatrixTransferComplete
  exact of_rules

/-! ### Fences and cache maintenance -/

@[simp] theorem performed_keeps : KeepsCanonical performed := by
  unfold performed
  exact of_rules

@[simp] theorem execFence_ends (hs : s.Canonical) (z : Scope) : EndsCanonical (execFence z s) := by
  unfold execFence
  exact of_rules

@[simp] theorem execFenceLx_ends (hs : s.Canonical) : EndsCanonical (execFenceLx s) := by
  unfold execFenceLx
  exact of_rules

@[simp] theorem execDrain_ends (hs : s.Canonical) : EndsCanonical (execDrain s) := by
  unfold execDrain
  exact of_rules

@[simp] theorem l1Range_keeps (inv : Bool) (k : Nat) (lines : List Nat) : KeepsCanonical (l1Range inv k lines) := by
  unfold l1Range
  exact of_rules

@[simp] theorem maintain_ends (hs : s.Canonical) (i : Instr) (inv : Bool) (a b : GReg) :
    EndsCanonical (maintain i inv a b s) := by
  unfold maintain
  exact of_rules

@[simp] theorem execL1inv_ends (hs : s.Canonical) (a b : GReg) : EndsCanonical (execL1inv a b s) := by
  unfold execL1inv
  exact of_rules

@[simp] theorem execL1wb_ends (hs : s.Canonical) (a b : GReg) : EndsCanonical (execL1wb a b s) := by
  unfold execL1wb
  exact of_rules

@[simp] theorem State.icRange_canonical (hs : s.Canonical) (x l lo n : Nat) : (s.icRange x l lo n).Canonical := by
  unfold State.icRange
  exact of_rules

@[simp] theorem execIcinv_ends (hs : s.Canonical) (a b : GReg) : EndsCanonical (execIcinv a b s) := by
  unfold execIcinv
  exact of_rules

@[simp] theorem execIsync_ends (hs : s.Canonical) : EndsCanonical (execIsync s) := by
  unfold execIsync
  exact of_rules

/-! ### Inboxes and watchdogs -/

@[simp] theorem State.writeInbox_canonical (hs : s.Canonical) (n i : Nat) (d : Word) (t : Label) (from' : Nat) :
    (s.writeInbox n i d t from').Canonical := by
  unfold State.writeInbox
  exact of_rules

@[simp] theorem State.deliver_canonical (hs : s.Canonical) (n i : Nat) : (s.deliver n i).Canonical := by
  unfold State.deliver
  exact of_rules

@[simp] theorem execSend_ends (hs : s.Canonical) (a b : GReg) (i : IReg) : EndsCanonical (execSend a b i s) := by
  unfold execSend
  exact of_rules

@[simp] theorem execTake_ends (hs : s.Canonical) (d : GReg) (i : IReg) : EndsCanonical (execTake d i s) := by
  unfold execTake
  exact of_rules

@[simp] theorem execPeeki_ends (hs : s.Canonical) (d : GReg) (i : IReg) : EndsCanonical (execPeeki d i s) := by
  unfold execPeeki
  exact of_rules

@[simp] theorem execInboxDelivery_ends (hs : s.Canonical) (n : Nat) (i : IReg) : EndsCanonical (execInboxDelivery n i s) := by
  unfold execInboxDelivery
  exact of_rules

@[simp] theorem State.trapWaiting_canonical (hs : s.Canonical) (n : Nat) (cause : Cause) :
    (s.trapWaiting n cause).Canonical := by
  unfold State.trapWaiting
  exact of_rules

@[simp] theorem execDeadlockProbe_ends (hs : s.Canonical) (c : Nat) : EndsCanonical (execDeadlockProbe c s) := by
  unfold execDeadlockProbe
  exact of_rules

@[simp] theorem execWatchdog_ends (hs : s.Canonical) (c : Nat) : EndsCanonical (execWatchdog c s) := by
  unfold execWatchdog
  exact of_rules

/-! ### The copy engine -/

@[simp] theorem execXcopy_ends (hs : s.Canonical) (o : BitVec 5) (d a b g : GReg) : EndsCanonical (execXcopy o d a b g s) := by
  unfold execXcopy
  refine runI_ends hs (.bind raiseRecorded_keeps fun _ => .bind .get fun s => ?_) _
  extract_lets c gd ga gb gc x src dst scratch queue ranges shared plain hasDst hasSrc aligned onChip
  have hscratch r base len : KeepsCanonical (scratch r base len) := by
    cases r with
    | none => exact .pure _
    | some r =>
      cases r with
      | scratch off => dsimp only [scratch]; split <;> simp
      | _ => exact .pure _
  have hqueue u : KeepsCanonical (queue u) :=
    .bind (.needs _) fun _ => .bind (formLabel_keeps _) fun _ => .check (.raiseWord _) fun _ => .bind (.modMe _) fun _ => advance_keeps
  have hranges u : KeepsCanonical (ranges u) :=
    .bind (hscratch _ _ _) fun _ => .bind (hscratch _ _ _) fun _ => .check (.raiseAddr _ _) hqueue
  have hshared u : KeepsCanonical (shared u) := .check (.raiseAddr _ _) hranges
  have hplain u : KeepsCanonical (plain u) := .check (.raiseAddr _ _) hshared
  have hhasDst u : KeepsCanonical (hasDst u) := .check (.raiseAddr _ _) hplain
  have hhasSrc u : KeepsCanonical (hasSrc u) := .check (.raiseAddr _ _) hhasDst
  have haligned u : KeepsCanonical (aligned u) := by
    dsimp only [aligned]
    split
    · exact .bind (.raiseAddr _ _) hhasSrc
    · exact hhasSrc ()
  have honChip u : KeepsCanonical (onChip u) := .check (.raiseWord _) haligned
  exact .check (.raiseValue _) honChip

@[simp] theorem execXpub_ends (hs : s.Canonical) (a : GReg) : EndsCanonical (execXpub a s) := by
  unfold execXpub
  exact of_rules

@[simp] theorem execXstat_ends (hs : s.Canonical) (d : GReg) : EndsCanonical (execXstat d s) := by
  unfold execXstat
  exact of_rules

@[simp] theorem engineLoc_keeps (n : Nat) (acc : Access) (va : Word) : KeepsCanonical (engineLoc n acc va) := by
  unfold engineLoc
  refine .get_bind fun s hs => ?_
  split
  · exact .pure _
  · exact .pure _
  · refine .bind (.modS fun _ _ => State.translate_canonical hs _ _ _ _ _) fun _ => ?_
    exact of_rules
  · exact .raiseWord _

@[simp] theorem engineMay_keeps (loc : Loc) : KeepsCanonical (engineMay loc) := by
  unfold engineMay
  exact of_rules

@[simp] theorem engineHome_keeps (loc : Loc) (dirty : Bool) : KeepsCanonical (engineHome loc dirty) := by
  unfold engineHome
  exact of_rules

@[simp] theorem engineRead_keeps (n : Nat) (loc : Loc) (size : Nat) : KeepsCanonical (engineRead n loc size) := by
  unfold engineRead
  exact of_rules

@[simp] theorem engineData_keeps (n : Nat) (loc : Loc) (size : Nat) : KeepsCanonical (engineData n loc size) := by
  unfold engineData
  exact of_rules

@[simp] theorem engineWrite_keeps (n : Nat) (loc : Loc) (size v : Nat) (tags : List (Nat × Label)) :
    KeepsCanonical (engineWrite n loc size v tags) := by
  unfold engineWrite
  exact of_rules

@[simp] theorem engineBytes_keeps (n : Nat) (va : Word) (len : Nat) : KeepsCanonical (engineBytes n va len) := by
  unfold engineBytes
  exact of_rules

@[simp] theorem copyFold_keeps (n : Nat) (e : CEntry) (ls : List Label) : KeepsCanonical (copyFold n e ls) := by
  unfold copyFold
  exact of_rules

@[simp] theorem fillShadow_keeps (n : Nat) (vis hid : Loc) : KeepsCanonical (fillShadow n vis hid) := by
  unfold fillShadow
  exact of_rules

@[simp] theorem copyDest_keeps (n : Nat) (e : CEntry) (va : Word) : KeepsCanonical (copyDest n e va) := by
  unfold copyDest
  exact of_rules

@[simp] theorem copyWrite_keeps (n : Nat) (e : CEntry) (va : Word) (bytes : List XByte) :
    KeepsCanonical (copyWrite n e va bytes) := by
  unfold copyWrite
  exact of_rules

@[simp] theorem relabel_keeps (n : Nat) (region : Nat) (t : Label) : KeepsCanonical (relabel n region t) := by
  unfold relabel
  exact of_rules

@[simp] theorem copyPlanes_keeps (n : Nat) (e : CEntry) (b i : Nat) (el : List XByte) :
    KeepsCanonical (copyPlanes n e b i el) := by
  unfold copyPlanes
  exact of_rules

@[simp] theorem copyBeat_keeps (n : Nat) (e : CEntry) : KeepsCanonical (copyBeat n e) := by
  unfold copyBeat
  exact of_rules

@[simp] theorem setHead_keeps (n : Nat) (e : CEntry) : KeepsCanonical (setHead n e) := by
  unfold setHead
  exact of_rules

@[simp] theorem runCopy_ends (n : Nat) {m : CEntry → M Unit} {s : State} (hs : s.Canonical) (hm : ∀ e, KeepsCanonical (m e)) :
    EndsCanonical (runCopy n m s) := by
  unfold runCopy
  split
  · cases (s.core n).cq with
    | nil => exact (endsCanonical_next _).mpr hs
    | cons e r =>
      refine runEngine_ends hs ⟨fun s hs => ?_⟩ _ _
      by_cases hp : (s.core n).paused.contains .copy
      · rw [if_pos hp]
        exact hs
      · rw [if_neg hp]
        cases hr : m e s with
        | ok a t => exact (hm e).ok hs hr
        | error x t =>
          have ht := (hm e).error hs hr
          cases x <;> exact ht
  · exact endsCanonical_fault _

@[simp] theorem execCopyBeat_ends (hs : s.Canonical) (n : Nat) : EndsCanonical (execCopyBeat n s) := by
  unfold execCopyBeat
  refine runCopy_ends _ hs fun e => ?_
  exact of_rules

@[simp] theorem execCopyCommandStart_ends (hs : s.Canonical) (n : Nat) : EndsCanonical (execCopyCommandStart n s) := by
  unfold execCopyCommandStart
  refine runCopy_ends _ hs fun e => ?_
  exact of_rules

@[simp] theorem State.stampFrame_canonical (hs : s.Canonical) (f : Nat) : (s.stampFrame f).Canonical := by
  unfold State.stampFrame
  exact of_rules

@[simp] theorem publish_keeps (x : Nat) (h : Shadow) : KeepsCanonical (publish x h) := by
  have redirected (s : State) (hs : s.Canonical) :
      (((s.coresOfCtx x).foldl (fun s n => s.modCore n (Core.redirect h)) s).stampFrame h.hidden).Canonical :=
    State.stampFrame_canonical (State.foldl_canonical (fun _ _ h => by exact h) hs) _
  unfold publish
  refine .bind .get fun s => ?_
  split
  · exact .stall
  · exact .raiseWord _
  · split
    · refine .bind (recallLine_keeps _) fun _ => .bind (.modS fun s hs => ?_) fun _ => .bind (.forM (fun c => ?_) _) fun _ =>
        .modS redirected
      · exact State.plinthWrite_canonical hs _ _ _
      · exact of_rules
    · exact .pure _
  · exact .pure _

@[simp] theorem State.complete_canonical (hs : s.Canonical) (n : Nat) (e : CEntry) : (s.complete n e).Canonical := by
  unfold State.complete
  exact of_rules

@[simp] theorem execCopyCommandComplete_ends (hs : s.Canonical) (n : Nat) : EndsCanonical (execCopyCommandComplete n s) := by
  unfold execCopyCommandComplete
  refine runCopy_ends _ hs fun e => ?_
  exact of_rules

/-! ### Groups of cores -/

@[simp] theorem State.failForming_canonical (hs : s.Canonical) (ms : List Nat) (cause : Cause) :
    (s.failForming ms cause).Canonical := by
  unfold State.failForming
  exact of_rules

@[simp] theorem State.finishGform_canonical (hs : s.Canonical) (m : Nat) : (s.finishGform m).Canonical := by
  unfold State.finishGform
  exact of_rules

@[simp] theorem execGform_ends (hs : s.Canonical) (d a : GReg) : EndsCanonical (execGform d a s) := by
  unfold execGform
  refine runI_ends hs (.bind .get fun s => .check (.raiseValue _) fun _ => .check (.raiseValue _) fun _ => ?_) _
  refine .check (.raiseValue _) fun _ => .bind (.modS fun _ h => State.foldl_canonical (fun _ _ h => ?_) h) fun _ => ?_
  · exact State.canonical_ite (State.failForming_canonical h _ _) h
  · exact of_rules

@[simp] theorem State.reattach_canonical (hs : s.Canonical) (n id : Nat) (pc : Word) : (s.reattach n id pc).Canonical := by
  unfold State.reattach
  exact of_rules

@[simp] theorem execGrejoin_ends (hs : s.Canonical) (i : BitVec 7) : EndsCanonical (execGrejoin i s) := by
  unfold execGrejoin
  exact of_rules

@[simp] theorem State.leaveGroup_canonical (hs : s.Canonical) (n : Nat) : (s.leaveGroup n).Canonical := by
  unfold State.leaveGroup
  exact of_rules

@[simp] theorem execGleave_ends (hs : s.Canonical) : EndsCanonical (execGleave s) := by
  unfold execGleave
  exact of_rules

@[simp] theorem execGstat_ends (hs : s.Canonical) (d : GReg) : EndsCanonical (execGstat d s) := by
  unfold execGstat
  exact of_rules

@[simp] theorem execFollowerBufferTimeout_ends (hs : s.Canonical) (n : Nat) :
    EndsCanonical (execFollowerBufferTimeout n s) := by
  unfold execFollowerBufferTimeout
  exact of_rules

@[simp] theorem execLeaderRejoinTimeout_ends (hs : s.Canonical) (n : Nat) : EndsCanonical (execLeaderRejoinTimeout n s) := by
  unfold execLeaderRejoinTimeout
  exact of_rules

/-! ### Kernels and the dispatcher -/

@[simp] theorem State.updateQueues_canonical (hs : s.Canonical) (x : Nat) : (s.updateQueues x).Canonical := by
  unfold State.updateQueues
  exact of_rules

@[simp] theorem State.submit_canonical (hs : s.Canonical) (x : Nat) (c : Captured) (slot : Nat) :
    (s.submit x c slot).Canonical := by
  unfold State.submit
  refine State.updateQueues_canonical ((State.modCtx_canonical _ _ _).2 ?_) _
  dsimp only
  split
  · exact State.foldl_canonical (fun _ _ h => by exact h) hs
  · exact State.foldl_canonical (fun _ _ h => by exact h) hs

@[simp] theorem inGlobal_keeps (ea : Word) (n : Nat) : KeepsCanonical (inGlobal ea n) := by
  unfold inGlobal
  exact of_rules

@[simp] theorem launchLoad_keeps (ea : Word) (size : Nat) : KeepsCanonical (launchLoad ea size) := by
  unfold launchLoad
  exact of_rules

@[simp] theorem loadLine_keeps (ea : Word) : KeepsCanonical (loadLine ea) := by
  unfold loadLine
  exact of_rules

@[simp] theorem patchWords_keeps (ea n : Nat) {load : Nat → M (Nat × Label)} {fold : List Label → M Label}
    (hl : ∀ a, KeepsCanonical (load a)) (hf : ∀ ls, KeepsCanonical (fold ls)) : KeepsCanonical (patchWords ea n load fold) := by
  unfold patchWords
  exact of_rules

@[simp] theorem loadPatch_keeps (ea : Word) (n : Nat) : KeepsCanonical (loadPatch ea n) := by
  unfold loadPatch
  refine .bind (inGlobal_keeps _ _) fun _ => patchWords_keeps _ _ (fun a => ?_) formLabel_keeps
  exact of_rules

@[simp] theorem storePatch_keeps (slot : Nat) (words : List (Nat × Label)) : KeepsCanonical (storePatch slot words) := by
  unfold storePatch
  exact of_rules

@[simp] theorem capture_keeps (q : Nat) (ea : Word) : KeepsCanonical (capture q ea) := by
  unfold capture
  exact of_rules

@[simp] theorem stallAs_keeps {α : Type} (w : Wait) {m : M α} (hm : KeepsCanonical m) : KeepsCanonical (stallAs w m) := by
  refine ⟨fun s hs => ?_⟩
  unfold stallAs
  cases hr : m s with
  | ok a t => exact hm.ok hs hr
  | error e t =>
    have ht := hm.error hs hr
    cases e with
    | hold => exact hs
    | recalls L => exact State.askRecall_canonical hs L
    | trap | absent => exact ht

@[simp] theorem enqueue_keeps (c : Captured) : KeepsCanonical (enqueue c) := by
  unfold enqueue
  exact of_rules

@[simp] theorem launchBegins_keeps (q : Nat) (ea : Word) : KeepsCanonical (launchBegins q ea) := by
  unfold launchBegins
  exact of_rules

@[simp] theorem execLaunch_ends (hs : s.Canonical) (a b : GReg) : EndsCanonical (execLaunch a b s) := by
  unfold execLaunch
  exact of_rules

@[simp] theorem State.give_canonical (s : State) (id q k : Nat) : (s.give id q k).Canonical ↔ s.Canonical := Iff.rfl

@[simp] theorem State.place_canonical (hs : s.Canonical) (id : Nat) : (s.place id).Canonical := by
  unfold State.place
  extract_lets k ks order s₁ s₂
  have h₂ : s₂.Canonical := State.foldl_canonical (fun _ _ h => by exact h) hs
  exact State.updateQueues_canonical (s := { s₂ with free := s₂.free + 1 }) h₂ _

@[simp] theorem State.fillCold_canonical (hs : s.Canonical) : s.fillCold.Canonical := by
  unfold State.fillCold
  exact of_rules

@[simp] theorem State.setDeficit_canonical (s : State) (x : Nat) (p : Fin 4) (v : Nat) :
    (s.setDeficit x p v).Canonical ↔ s.Canonical := Iff.rfl

@[simp] theorem State.deal_canonical (hs : s.Canonical) (p : Fin 4) (ready fit : List Nat) (n : Nat) :
    (s.deal p ready fit n).Canonical := by
  induction n generalizing s with
  | zero => exact hs
  | succ n ih =>
    unfold State.deal
    exact of_rules

@[simp] theorem State.decide_canonical (hs : s.Canonical) : s.decide.Canonical := by
  unfold State.decide
  extract_lets s₁ ready fit after p s₂
  have h₁ : s₁.Canonical := State.fillCold_canonical hs
  have h₂ : s₂.Canonical := 
    State.foldl_canonical (fun _ _ h => State.canonical_ite h ((State.setDeficit_canonical _ _ _ _).2 h)) h₁
  have hafter {s : State} (hs : s.Canonical) : (after s).Canonical := hs
  clear_value s₂ p after
  split
  · exact hafter (State.place_canonical h₁ _)
  · cases fit with
    | nil => exact hafter h₁
    | cons k ks => exact hafter (State.deal_canonical h₂ _ _ _ _)

@[simp] theorem execDispatchDecision_ends (hs : s.Canonical) : EndsCanonical (execDispatchDecision s) := by
  unfold execDispatchDecision
  exact of_rules

@[simp] theorem execEnergyWindow_ends (hs : s.Canonical) (t watts celsius : Nat) :
    EndsCanonical (execEnergyWindow t watts celsius s) := by
  unfold execEnergyWindow
  exact of_rules

@[simp] theorem State.zero_canonical (hs : s.Canonical) (k n : Nat) : (s.zero k n).Canonical :=
  ⟨AMap.wf_filter _ hs.1, AMap.wf_filter _ hs.2⟩

@[simp] theorem readImage_keeps (cl : Nat) (r : List Word) : KeepsCanonical (readImage cl r) := by
  unfold readImage
  exact of_rules

@[simp] theorem State.startCores_canonical (hs : s.Canonical) (id q cl : Nat) (inherited : Bool) (image : List (Nat × Label)) :
    (s.startCores id q cl inherited image).Canonical := by
  unfold State.startCores
  exact of_rules

@[simp] theorem State.abandon_canonical (s : State) (n : Nat) : (s.abandon n).Canonical ↔ s.Canonical := Iff.rfl
@[simp] theorem State.releaseCluster_canonical (s : State) (cl : Nat) : (s.releaseCluster cl).Canonical ↔ s.Canonical := Iff.rfl

/-- A cluster left by its kernel: its cores abandoned, itself free. -/
theorem State.vacate_canonical (hs : s.Canonical) (cl : Nat) :
    (((coresOf cl).foldl State.abandon s).releaseCluster cl).Canonical :=
  (State.releaseCluster_canonical _ _).2 (State.foldl_canonical (fun _ _ h => (State.abandon_canonical _ _).2 h) hs)

@[simp] theorem State.faultKernel_canonical (hs : s.Canonical) (id : Nat) : (s.faultKernel id).Canonical := by
  unfold State.faultKernel
  refine State.fillCold_canonical (State.stopCheck_canonical ((State.modCtx_canonical _ _ _).2 ?_) _)
  exact (State.modKernel_canonical _ _ _).2 (State.foldl_canonical (fun _ c h => State.vacate_canonical h c) hs)

@[simp] theorem execClusterStart_ends (hs : s.Canonical) (id q : Nat) : EndsCanonical (execClusterStart id q s) := by
  unfold execClusterStart
  extract_lets k
  split
  · exact (endsCanonical_next _).2 hs
  · split
    · exact (endsCanonical_next _).2 hs
    · extract_lets inherited w act
      have hact : KeepsCanonical act := by
        dsimp only [act]
        exact of_rules
      cases hr : act s with
      | ok a t => exact (endsCanonical_next _).2 (hact.ok hs hr)
      | error e t =>
        cases e with
        | absent => exact (endsCanonical_next _).2 (State.postFault_canonical hs _ _ _ _ _ _)
        | trap => exact (endsCanonical_next _).2 (State.faultKernel_canonical hs _)
        | recalls | hold => exact (endsCanonical_next _).2 (State.unless_canonical hs _)

@[simp] theorem State.clusterDone_canonical (hs : s.Canonical) (id cl : Nat) (tag : BitVec 32) :
    (s.clusterDone id cl tag).Canonical := by
  unfold State.clusterDone
  exact of_rules

@[simp] theorem State.retire_canonical (hs : s.Canonical) (n : Nat) (tag : BitVec 32) : (s.retire n tag).Canonical := by
  unfold State.retire
  extract_lets cl k s₁ s₂ s₃ s₄ s₅ s₆
  have h₁ : s₁.Canonical := (State.modCore_canonical _ _ _).2 (State.leaveGroup_canonical hs _)
  have h₂ : s₂.Canonical := State.retireEvents_canonical h₁ _
  have h₃ : s₃.Canonical := by
    refine State.foldl_canonical (fun _ _ h => ?_) h₂
    exact State.canonical_ite (State.failForming_canonical h _ _) h
  clear_value s₃
  have h₄ : s₄.Canonical := h₃
  have h₅ : s₅.Canonical := State.foldl_canonical (fun _ _ h => State.syncRelease_canonical h _ _) h₄
  have h₆ : s₆.Canonical := State.stopCheck_canonical h₅ _
  clear_value s₆
  cases k with
  | none => exact h₆
  | some id => exact State.canonical_ite (State.clusterDone_canonical h₆ _ _ _) h₆

@[simp] theorem execExit_ends (hs : s.Canonical) (a : GReg) : EndsCanonical (execExit a s) := by
  unfold execExit
  exact of_rules

@[simp] theorem execKernelDone_ends (hs : s.Canonical) (id : Nat) : EndsCanonical (execKernelDone id s) := by
  unfold execKernelDone
  exact of_rules

/-! ### Page walks, TLB flushes and replays -/

@[simp] theorem State.clearAliases_canonical (s : State) (p : Nat) : (s.clearAliases p).Canonical ↔ s.Canonical := Iff.rfl

@[simp] theorem State.dropTlb_canonical (hs : s.Canonical) (e : Extent) (x : Nat) : (s.dropTlb e x).Canonical := by
  unfold State.dropTlb
  exact of_rules

@[simp] theorem dropEntries_keeps (e : Extent) (x : Nat) : KeepsCanonical (dropEntries e x) := by
  unfold dropEntries
  exact of_rules

@[simp] theorem tlbinv_keeps (e : Extent) : KeepsCanonical (tlbinv e) := by
  unfold tlbinv
  exact of_rules

@[simp] theorem execTlbinvPage_ends (hs : s.Canonical) (a : GReg) : EndsCanonical (execTlbinvPage a s) := by
  unfold execTlbinvPage
  exact of_rules

@[simp] theorem execTlbinvContext_ends (hs : s.Canonical) : EndsCanonical (execTlbinvContext s) := by
  unfold execTlbinvContext
  exact of_rules

@[simp] theorem execTlbinvPartition_ends (hs : s.Canonical) : EndsCanonical (execTlbinvPartition s) := by
  unfold execTlbinvPartition
  exact of_rules

@[simp] theorem State.emptyBuffer_canonical (hs : s.Canonical) (x l : Nat) : (s.emptyBuffer x l).Canonical := by
  unfold State.emptyBuffer
  exact of_rules

@[simp] theorem State.retryAll_canonical (hs : s.Canonical) (x : Nat) : (s.retryAll x).Canonical := by
  unfold State.retryAll
  exact of_rules

@[simp] theorem State.replay_canonical (hs : s.Canonical) (x : Nat) : (s.replay x).Canonical :=
  State.retryAll_canonical (State.foldl_canonical (fun _ _ h => State.canonical_ite (State.emptyBuffer_canonical h _ _) h) hs) _

@[simp] theorem execFreplay_ends (hs : s.Canonical) : EndsCanonical (execFreplay s) := by
  unfold execFreplay
  exact of_rules

@[simp] theorem execPageWalkComplete_ends (hs : s.Canonical) (c : Nat) (va : Word) (acc : Access) :
    EndsCanonical (execPageWalkComplete c va acc s) := by
  unfold execPageWalkComplete
  refine onUnits_ends hs _ fun s hs => ?_
  extract_lets a active
  refine State.canonical_ite hs ?_
  have ht := State.translate_canonical hs (s.ctxOf c) (layerOf c) (some (clusterOf c)) acc a
  rcases hr : s.translate (s.ctxOf c) (layerOf c) (some (clusterOf c)) acc a with ⟨t, o⟩
  rw [hr] at ht
  cases o with
  | ok leaf pa => exact ht
  | held => exact hs
  | absent level => exact State.postFault_canonical hs _ _ _ _ _ _
  | trap cause e => exact State.trapInstr_canonical hs _ _ _ _

/-! ### Bit streams -/

@[simp] theorem Reads.sound_keeps (r : Reads) : KeepsCanonical (Reads.sound r) := by
  unfold Reads.sound
  exact of_rules

@[simp] theorem lsByte_keeps (a : Nat) (r : Reads) : KeepsCanonical (lsByte a r) := by
  unfold lsByte
  exact of_rules

@[simp] theorem lsBytes_keeps (a v : Nat) (r : Reads) (n : Nat) : KeepsCanonical (lsBytes a v r n) := by
  induction n generalizing a v r with
  | zero => exact .pure _
  | succ n ih =>
    unfold lsBytes
    exact of_rules

@[simp] theorem streamBits_keeps (b : Rd) (n : Nat) (r : Reads) : KeepsCanonical (streamBits b n r) := by
  unfold streamBits
  exact of_rules

@[simp] theorem refill_keeps (b : Rd) (r : Reads) (n : Nat) : KeepsCanonical (refill b r n) := by
  induction n generalizing b r with
  | zero => exact .pure _
  | succ n ih =>
    unfold refill
    exact of_rules

@[simp] theorem consume_keeps (b : Rd) (n : Nat) (r : Reads) : KeepsCanonical (consume b n r) := by
  unfold consume
  exact of_rules

@[simp] theorem streamLabel_keeps (l : Label) (ls : List Label) : KeepsCanonical (streamLabel l ls) := by
  unfold streamLabel
  exact of_rules

@[simp] theorem leadingZeros_keeps (b : Rd) (i : Nat) (r : Reads) (n : Nat) : KeepsCanonical (leadingZeros b i r n) := by
  induction n generalizing i r with
  | zero => exact .pure _
  | succ n ih =>
    unfold leadingZeros
    exact of_rules

@[simp] theorem readLabel_keeps (l : Label) (r : Reads) : KeepsCanonical (readLabel l r) := by
  unfold readLabel
  exact of_rules

@[simp] theorem leaveRead_keeps (b : Rd) (l : Label) (r : Reads) : KeepsCanonical (leaveRead b l r) := by
  unfold leaveRead
  exact of_rules

@[simp] theorem streamReady_keeps : KeepsCanonical streamReady := by
  unfold streamReady
  exact of_rules

@[simp] theorem execBsrinit_ends (hs : s.Canonical) (a : GReg) : EndsCanonical (execBsrinit a s) := by
  unfold execBsrinit
  exact of_rules

@[simp] theorem execBsget_ends (hs : s.Canonical) (d : GReg) (n : BitVec 6) : EndsCanonical (execBsget d n s) := by
  unfold execBsget
  exact of_rules

@[simp] theorem execBspeek_ends (hs : s.Canonical) (d : GReg) (n : BitVec 6) : EndsCanonical (execBspeek d n s) := by
  unfold execBspeek
  exact of_rules

@[simp] theorem execBsskip_ends (hs : s.Canonical) (n : BitVec 6) : EndsCanonical (execBsskip n s) := by
  unfold execBsskip
  exact of_rules

@[simp] theorem execBsgetg_ends (hs : s.Canonical) (d : GReg) (k : BitVec 5) : EndsCanonical (execBsgetg d k s) := by
  unfold execBsgetg
  exact of_rules

@[simp] theorem storeByte_keeps (a x : Nat) (l : Label) : KeepsCanonical (storeByte a x l) := ⟨fun _ hs => hs⟩

@[simp] theorem storeBytes_keeps (a v rest : Nat) (l : Label) (n : Nat) : KeepsCanonical (storeBytes a v rest l n) := by
  induction n generalizing a with
  | zero => exact .pure _
  | succ n ih =>
    unfold storeBytes
    exact of_rules

@[simp] theorem guarded_keeps (l : Label) : KeepsCanonical (guarded l) := by
  unfold guarded
  exact of_rules

@[simp] theorem execBswinit_ends (hs : s.Canonical) (a : GReg) : EndsCanonical (execBswinit a s) := by
  unfold execBswinit
  exact of_rules

@[simp] theorem execBsemit_ends (hs : s.Canonical) (a : GReg) (n : BitVec 6) : EndsCanonical (execBsemit a n s) := by
  unfold execBsemit
  exact of_rules

@[simp] theorem execBsflush_ends (hs : s.Canonical) : EndsCanonical (execBsflush s) := by
  unfold execBsflush
  exact of_rules

/-! ### Control registers -/

@[simp] theorem execMfc_ends (hs : s.Canonical) (d : GReg) (r : BitVec 6) : EndsCanonical (execMfc d r s) := by
  unfold execMfc
  exact of_rules

@[simp] theorem execMfcFflags_ends (hs : s.Canonical) (d : GReg) : EndsCanonical (execMfcFflags d s) := by
  unfold execMfcFflags
  exact of_rules

@[simp] theorem State.freshBuffers_canonical (hs : s.Canonical) (x : Nat) : (s.freshBuffers x).Canonical := by
  unfold State.freshBuffers
  exact of_rules

@[simp] theorem State.setFbdepth_canonical (hs : s.Canonical) (x : Nat) (w : Word) : (s.setFbdepth x w).Canonical := by
  unfold State.setFbdepth
  exact of_rules

@[simp] theorem execMtc_ends (hs : s.Canonical) (r : BitVec 6) (a : GReg) : EndsCanonical (execMtc r a s) := by
  unfold execMtc
  exact of_rules

@[simp] theorem execMtcFflags_ends (hs : s.Canonical) (a : GReg) : EndsCanonical (execMtcFflags a s) := by
  unfold execMtcFflags
  exact of_rules

@[simp] theorem execMtcSrseed_ends (hs : s.Canonical) (a : GReg) : EndsCanonical (execMtcSrseed a s) := by
  unfold execMtcSrseed
  exact of_rules

@[simp] theorem execMtcLspace_ends (hs : s.Canonical) (a : GReg) : EndsCanonical (execMtcLspace a s) := by
  unfold execMtcLspace
  exact of_rules

@[simp] theorem State.clearFaults_canonical (hs : s.Canonical) (x : Nat) (w : Word) : (s.clearFaults x w).Canonical := by
  unfold State.clearFaults
  exact of_rules

@[simp] theorem execMtcFbstat_ends (hs : s.Canonical) (a : GReg) : EndsCanonical (execMtcFbstat a s) := by
  unfold execMtcFbstat
  exact of_rules

@[simp] theorem State.writeTracectl_canonical (hs : s.Canonical) (x : Nat) (w : Word) : (s.writeTracectl x w).Canonical := by
  unfold State.writeTracectl
  exact of_rules

@[simp] theorem execMtcTracectl_ends (hs : s.Canonical) (a : GReg) : EndsCanonical (execMtcTracectl a s) := by
  unfold execMtcTracectl
  exact of_rules

/-! ### Contexts: saves, restores and commands -/

@[simp] theorem asH_canonical (by' : Sender) {f : State → State} {s : State} (hs : s.Canonical)
    (hf : ∀ s, s.Canonical → (f s).Canonical) :
    (asH by' f s).Canonical := by
  unfold asH
  split
  · exact hs
  · exact hf s hs

@[simp] theorem attempt_keeps {m : M Unit} (hm : KeepsCanonical m) : KeepsCanonical (attempt m) := by
  refine ⟨fun s hs => ?_⟩
  unfold attempt
  cases hr : m s with
  | ok a t => exact hm.ok hs hr
  | error e t => exact State.unless_canonical hs e

@[simp] theorem State.keepRanges_canonical (hs : s.Canonical) (n : Nat) (ranges : List (Nat × Nat)) :
    (s.keepRanges n ranges).Canonical := ⟨AMap.wf_filter _ hs.1, AMap.wf_filter _ hs.2⟩

@[simp] theorem State.disband_canonical (hs : s.Canonical) (n : Nat) : (s.disband n).Canonical := by
  unfold State.disband
  exact of_rules

@[simp] theorem State.emptyAll_canonical (hs : s.Canonical) (x : Nat) : (s.emptyAll x).Canonical := by
  unfold State.emptyAll
  exact of_rules

@[simp] theorem State.swapCheck_canonical (hs : s.Canonical) (x : Nat) : (s.swapCheck x).Canonical := by
  unfold State.swapCheck
  refine State.canonical_ite ?_ hs
  extract_lets s₁ images reset s₂ s₃
  have h₁ : s₁.Canonical := State.foldl_canonical (fun _ _ h => State.returnAllowances_canonical h _) hs
  have h₂ : s₂.Canonical := by
    refine State.foldl_canonical (fun _ _ h => (State.releaseCluster_canonical _ _).2 ?_) h₁
    exact State.foldl_canonical (fun _ _ h => (State.modCore_canonical _ _ _).2 h) h
  have h₃ : s₃.Canonical := h₂
  exact State.fillCold_canonical ((State.modCtx_canonical _ _ _).2 (State.emptyAll_canonical h₃ _))

@[simp] theorem State.saveCore_canonical (hs : s.Canonical) (n : Nat) (map : Option LiveMap) (f : Core → Core) :
    (s.saveCore n map f).Canonical := by
  unfold State.saveCore
  refine State.swapCheck_canonical (State.stopCheck_canonical ((State.modCore_canonical _ _ _).2 ?_) _) _
  have hr := State.returnAllowances_canonical hs (clusterOf n)
  cases map with
  | none => exact hr
  | some m => 
    refine (State.modCore_canonical _ _ _).2 (State.keepRanges_canonical ?_ _ _)
    exact hr

@[simp] theorem saveFull_keeps (n : Nat) : KeepsCanonical (saveFull n) := by
  unfold saveFull
  exact of_rules

@[simp] theorem saveWaiting_keeps (n : Nat) : KeepsCanonical (saveWaiting n) := by
  unfold saveWaiting
  exact of_rules

@[simp] theorem execYield_ends (hs : s.Canonical) : EndsCanonical (execYield s) := by
  unfold execYield
  exact of_rules

@[simp] theorem execForcedSaveTimeout_ends (hs : s.Canonical) (n : Nat) : EndsCanonical (execForcedSaveTimeout n s) := by
  unfold execForcedSaveTimeout
  exact of_rules

@[simp] theorem preempt_keeps (x : Nat) : KeepsCanonical (preempt x) := by
  unfold preempt
  exact of_rules

@[simp] theorem execPreemptRequest_ends (hs : s.Canonical) (by' : Sender) (x : Nat) :
    EndsCanonical (execPreemptRequest by' x s) := by
  unfold execPreemptRequest
  exact of_rules

@[simp] theorem State.putImage_canonical (hs : s.Canonical) (x : Nat) (mv : Nat → Nat) (pts : Nat) (e : ClusterImage × Nat) :
    (s.putImage x mv pts e).Canonical := by
  unfold State.putImage
  extract_lets i k s₁ s₂
  have h₁ : s₁.Canonical := (State.modCluster_canonical _ _ _).2 (State.returnAllowances_canonical hs _)
  have h₂ : s₂.Canonical := by
    refine State.foldl_canonical (fun s d h => (State.setCore_canonical _ _ _).2 ?_) h₁
    have hz := State.zero_canonical h (lsBase (8 * k + d.slot)) (2 ^ 17)
    exact ⟨AMap.wf_foldl d.mem (fun e => (_ + e.1, e.2)) hz.1, AMap.wf_foldl d.tags (fun e => (_ + e.1, e.2)) hz.2⟩
  clear_value s₂
  split <;> exact h₂

@[simp] theorem execContextRestoreComplete_ends (hs : s.Canonical) (x : Nat) :
    EndsCanonical (execContextRestoreComplete x s) := by
  unfold execContextRestoreComplete
  extract_lets c free
  split
  · exact (endsCanonical_next _).2 hs
  · split
    · refine runPlinth_ends hs (.bind (.modS fun s hs => ?_) fun _ => .bind .get fun _ => .bind (installAll_keeps _) fun _ =>
        .modS fun s hs => ?_)
      · exact State.foldl_canonical (fun _ _ h => State.putImage_canonical h _ _ _ _) hs
      · exact State.stopCheck_canonical (State.updateQueues_canonical ((State.modCtx_canonical _ _ _).2 hs) _) _
    · exact (endsCanonical_next _).2 hs

@[simp] theorem execAsyncMachineCheck_ends (hs : s.Canonical) (n : Nat) : EndsCanonical (execAsyncMachineCheck n s) := by
  unfold execAsyncMachineCheck
  exact of_rules

@[simp] theorem State.writeField_canonical (hs : s.Canonical) (x : Nat) (f : CtxField) (v : Word) :
    (s.writeField x f v).Canonical := by
  unfold State.writeField
  exact of_rules

@[simp] theorem execContextRecordWrite_ends (hs : s.Canonical) (by' : Sender) (x : Nat) (f : CtxField) (v : Word) :
    EndsCanonical (execContextRecordWrite by' x f v s) := by
  unfold execContextRecordWrite
  exact of_rules

@[simp] theorem execContextCreate_ends (hs : s.Canonical) (by' : Sender) (x p : Nat) (i : CtxInit) :
    EndsCanonical (execContextCreate by' x p i s) := by
  unfold execContextCreate
  refine (endsCanonical_next _).2 (asH_canonical _ hs fun s hs => ?_)
  extract_lets others reset t₀ w fields t₁ t₂ t₃
  have h₁ : t₁.Canonical := State.foldl_canonical (fun _ _ h => State.writeField_canonical h _ _ _) (show t₀.Canonical from hs)
  have h₂ : t₂.Canonical := State.canonical_ite (State.freshBuffers_canonical h₁ _) h₁
  have h₃ : t₃.Canonical := State.canonical_ite h₂ (State.plinthWrite_canonical h₂ _ _ _)
  exact State.canonical_ite hs (State.canonical_ite h₃ hs)

@[simp] theorem execContextSchedule_ends (hs : s.Canonical) (by' : Sender) (x : Nat) :
    EndsCanonical (execContextSchedule by' x s) :=
  (endsCanonical_next _).2 (asH_canonical _ hs fun _ hs => State.canonical_ite hs hs)

@[simp] theorem State.terminate_canonical (hs : s.Canonical) (x : Nat) : (s.terminate x).Canonical := by
  unfold State.terminate
  extract_lets ks stopped s₁ s₂ cls s₃
  have h₂ : s₂.Canonical :=
    State.foldl_canonical (fun _ _ h => State.canonical_ite (State.faultKernel_canonical h _) h) (show s₁.Canonical from hs)
  have h₃ : s₃.Canonical := State.foldl_canonical (fun _ k h => State.vacate_canonical h k) h₂
  exact State.fillCold_canonical ((State.modCtx_canonical _ _ _).2 h₃)

@[simp] theorem State.returnResources_canonical (s : State) (x : Nat) : (s.returnResources x).Canonical ↔ s.Canonical := Iff.rfl

@[simp] theorem execContextTerminate_ends (hs : s.Canonical) (by' : Sender) (x : Nat) :
    EndsCanonical (execContextTerminate by' x s) :=
  (endsCanonical_next _).2 (asH_canonical _ hs fun _ hs =>
    State.canonical_ite hs ((State.returnResources_canonical _ _).2 (State.terminate_canonical hs _)))

/-! ### The coherence protocol -/

@[simp] theorem execL1FillReply_ends (hs : s.Canonical) (k line wts rts : Nat) :
    EndsCanonical (execL1FillReply k line wts rts s) := by
  unfold execL1FillReply
  refine onUnits_ends hs _ fun s hs => ?_
  extract_lets L a free
  refine State.canonical_ite ?_ hs
  split
  · next h => exact (State.setL1_canonical _ _ _ _).2 (State.roomL1_canonical hs _ _ _ h)
  · exact hs

@[simp] theorem execSliceFillRequest_ends (hs : s.Canonical) (k line pts : Nat) :
    EndsCanonical (execSliceFillRequest k line pts s) := by
  unfold execSliceFillRequest
  refine onUnits_ends hs _ fun s hs => ?_
  extract_lets L t a rts
  refine State.canonical_ite hs (State.canonical_ite ?_ hs)
  split
  · next h => exact (State.send_canonical _ _).2 ((State.setAgent_canonical _ _ _ _).2 (State.slotFor_canonical hs _ _ _ h))
  · exact hs

@[simp] theorem execSliceStore_ends (hs : s.Canonical) (c : Nat) : EndsCanonical (execSliceStore c s) := by
  have hstore : KeepsCanonical (do
      storeReady c
      performHead c) := .bind (storeReady_keeps _) fun _ => performHead_keeps _
  unfold execSliceStore
  split
  · split
    · exact (endsCanonical_next _).2 hs
    · split
      · extract_lets L t a wait
        have hwait (st : AgentState) : (wait st).Canonical := hs
        split
        · exact runEngine_ends hs hstore _ _
        · exact runEngine_ends hs hstore _ _
        · exact (endsCanonical_next _).2 ((State.send_canonical _ _).2 (hwait _))
        · exact (endsCanonical_next _).2 (State.canonical_ite (hwait _) ((State.send_canonical _ _).2 (hwait _)))
        · refine (endsCanonical_next _).2 ?_
          split
          · next h => exact (State.send_canonical _ _).2 ((State.setAgent_canonical _ _ _ _).2 (State.slotFor_canonical hs _ _ _ h))
          · exact hs
        · exact (endsCanonical_next _).2 (hwait _)
      · exact (endsCanonical_next _).2 hs
  · exact endsCanonical_fault _

@[simp] theorem State.dirWait_canonical (s : State) (L : Nat) (q : DirReq) : (s.dirWait L q).Canonical ↔ s.Canonical := Iff.rfl
@[simp] theorem State.dirBack_canonical (s : State) (L : Nat) (q : DirReq) : (s.dirBack L q).Canonical ↔ s.Canonical := Iff.rfl

@[simp] theorem State.moveDir_canonical (s : State) (L : Nat) (d : DirState) :
    (s.moveDir L d).Canonical ↔ s.Canonical := Iff.rfl

@[simp] theorem State.sendInvalidations_canonical (hs : s.Canonical) (L : Nat) (ts : List Nat) :
    (s.sendInvalidations L ts).Canonical := by
  unfold State.sendInvalidations
  exact of_rules

@[simp] theorem State.dirGets_canonical (hs : s.Canonical) (L t : Nat) : (s.dirGets L t).Canonical := by
  unfold State.dirGets
  exact of_rules

@[simp] theorem State.dirWrite_canonical (hs : s.Canonical) (L t : Nat) (upg : Bool) : (s.dirWrite L t upg).Canonical := by
  unfold State.dirWrite
  exact of_rules

@[simp] theorem State.dirJoin_canonical (hs : s.Canonical) (L t : Nat) : (s.dirJoin L t).Canonical := by
  unfold State.dirJoin
  split
  · exact hs
  · split
    · exact State.canonical_ite hs (State.askRecall_canonical ((State.dirBack_canonical _ _ _).2 hs) _)
    · split
      · next h => exact (State.setDirSt_canonical _ _ _).2 (State.bringHome_canonical hs _ _ h)
      · exact (State.dirBack_canonical _ _ _).2 hs

@[simp] theorem State.dirServe_canonical (hs : s.Canonical) (L : Nat) (q : DirReq) : (s.dirServe L q).Canonical := by
  cases q with
  | gets t => exact State.dirGets_canonical hs L t
  | getx t => exact State.dirWrite_canonical hs L t false
  | upg t => exact State.dirWrite_canonical hs L t true
  | red t => exact State.dirJoin_canonical hs L t

@[simp] theorem State.dirNext_canonical (hs : s.Canonical) (L n : Nat) : (s.dirNext L n).Canonical := by
  induction n generalizing s with
  | zero => exact hs
  | succ n ih =>
    unfold State.dirNext
    exact of_rules

@[simp] theorem State.dirResume_canonical (hs : s.Canonical) (L : Nat) : (s.dirResume L).Canonical := by
  unfold State.dirResume
  exact of_rules

@[simp] theorem State.dirRequest_canonical (hs : s.Canonical) (L : Nat) (q : DirReq) : (s.dirRequest L q).Canonical := by
  unfold State.dirRequest
  exact of_rules

@[simp] theorem execDirGets_ends (hs : s.Canonical) (line t : Nat) : EndsCanonical (execDirGets line t s) := by
  unfold execDirGets
  exact of_rules

@[simp] theorem execDirGetx_ends (hs : s.Canonical) (line t : Nat) : EndsCanonical (execDirGetx line t s) := by
  unfold execDirGetx
  exact of_rules

@[simp] theorem execDirUpg_ends (hs : s.Canonical) (line t : Nat) : EndsCanonical (execDirUpg line t s) := by
  unfold execDirUpg
  exact of_rules

@[simp] theorem execDirRedJoin_ends (hs : s.Canonical) (line t : Nat) : EndsCanonical (execDirRedJoin line t s) := by
  unfold execDirRedJoin
  exact of_rules

@[simp] theorem State.dramTakes_canonical (s : State) (L t : Nat) : (s.dramTakes L t).Canonical ↔ s.Canonical := Iff.rfl

@[simp] theorem execDirPut_ends (hs : s.Canonical) (line t : Nat) (dirty : Bool) (head : PutHead) :
    EndsCanonical (execDirPut line t dirty head s) := by
  unfold execDirPut
  exact of_rules

@[simp] theorem execInvalidationAck_ends (hs : s.Canonical) (line t maxrts inc : Nat) :
    EndsCanonical (execInvalidationAck line t maxrts inc s) := by
  unfold execInvalidationAck
  exact of_rules

@[simp] theorem State.hold_canonical (s : State) (t L : Nat) (m : Msg) : (s.hold t L m).Canonical ↔ s.Canonical := Iff.rfl

@[simp] theorem State.serveInvalidation_canonical (hs : s.Canonical) (L t : Nat) : (s.serveInvalidation L t).Canonical := by
  unfold State.serveInvalidation
  exact of_rules

@[simp] theorem State.serveGets_canonical (hs : s.Canonical) (L o t : Nat) : (s.serveGets L o t).Canonical := by
  unfold State.serveGets
  exact of_rules

@[simp] theorem State.serveGetx_canonical (hs : s.Canonical) (L o t : Nat) : (s.serveGetx L o t).Canonical := by
  have hl := State.learn_canonical hs (homeTower L) o
  unfold State.serveGetx
  extract_lets s₁ a set give
  have hgive {u : State} (hu : u.Canonical) : (give u).Canonical := by
    refine State.canonical_ite (State.dirResume_canonical ((State.send_canonical _ _).2 ?_) _) hu
    exact (State.setDirSt_canonical _ _ _).2 ((State.setAgent_canonical _ _ _ _).2 hu)
  clear_value give
  refine State.canonical_ite hl (State.canonical_ite hl ?_)
  split
  · exact hgive hl
  · exact hgive hl
  · exact hgive hl
  · exact hgive ((State.raiseMts_canonical _ _ _).2 ((State.dramTakes_canonical _ _ _).2 hl))
  · exact hl

@[simp] theorem execAgentInvalidation_ends (hs : s.Canonical) (line t : Nat) :
    EndsCanonical (execAgentInvalidation line t s) := by
  unfold execAgentInvalidation
  exact of_rules

@[simp] theorem execAgentForwardedGets_ends (hs : s.Canonical) (line o t : Nat) :
    EndsCanonical (execAgentForwardedGets line o t s) := by
  unfold execAgentForwardedGets
  exact of_rules

@[simp] theorem execAgentForwardedGetx_ends (hs : s.Canonical) (line o t : Nat) :
    EndsCanonical (execAgentForwardedGetx line o t s) := by
  unfold execAgentForwardedGetx
  exact of_rules

@[simp] theorem State.stampQueued_canonical (hs : s.Canonical) (t L : Nat) : (s.stampQueued t L).Canonical := by
  unfold State.stampQueued
  refine State.canonical_ite (State.foldl_canonical (fun s c hs => ?_) hs) hs
  extract_lets gone
  have hgone {u : State} (hu : u.Canonical) : (gone u).Canonical := hu
  clear_value gone
  split
  · refine State.canonical_ite ?_ (hgone hs)
    split
    · next h => exact hgone ((performHead_keeps c).ok hs h)
    · exact hs
  · exact hgone hs

@[simp] theorem State.serveMsg_canonical (hs : s.Canonical) (m : Msg) : (s.serveMsg m).Canonical := by
  unfold State.serveMsg
  exact of_rules

@[simp] theorem State.serveMessages_canonical (hs : s.Canonical) (t L : Nat) : (s.serveMessages t L).Canonical := by
  unfold State.serveMessages
  exact of_rules

@[simp] theorem execAgentDataGrant_ends (hs : s.Canonical) (line t : Nat) (excl : Bool) (wts rts : Nat) :
    EndsCanonical (execAgentDataGrant line t excl wts rts s) := by
  unfold execAgentDataGrant
  refine onUnits_ends hs _ fun s hs => ?_
  have hl := State.learn_canonical hs (homeTower (lineOf line)) t
  extract_lets L s₁ a own s₂
  have hown (w : Nat) : (own w).Canonical := hl
  have h₂ : s₂.Canonical := by
    dsimp only [s₂]
    split
    · exact hl
    · exact State.canonical_ite (hown _) hl
    · exact State.canonical_ite (hown _) hl
    · exact State.canonical_ite (hown _) hl
    · exact hl
  exact State.dirResume_canonical (State.serveMessages_canonical (State.stampQueued_canonical h₂ _ _) _ _) _

@[simp] theorem execAgentEviction_ends (hs : s.Canonical) (line t : Nat) : EndsCanonical (execAgentEviction line t s) := by
  unfold execAgentEviction
  exact of_rules

@[simp] theorem execWritebackAck_ends (hs : s.Canonical) (line t : Nat) : EndsCanonical (execWritebackAck line t s) := by
  unfold execWritebackAck
  refine onUnits_ends hs _ fun s hs => ?_
  extract_lets L fs s₁
  have h₁ : s₁.Canonical := State.canonical_ite hs
    (State.foldl_canonical (s := { s with flight := _ }) (fun _ _ h => State.serveMsg_canonical h _) hs)
  exact State.canonical_ite (State.dirResume_canonical ((State.setAgent_canonical _ _ _ _).2 h₁) _) hs

@[simp] theorem execUPartialEvict_ends (hs : s.Canonical) (k line : Nat) : EndsCanonical (execUPartialEvict k line s) := by
  unfold execUPartialEvict
  exact of_rules

@[simp] theorem execURecallComplete_ends (hs : s.Canonical) (line : Nat) : EndsCanonical (execURecallComplete line s) := by
  unfold execURecallComplete
  extract_lets L
  split
  · exact runPlinth_ends hs (.bind (foldLine_keeps _) fun _ => .modS fun _ h => State.dirResume_canonical h _)
  · exact (endsCanonical_next _).2 hs

@[simp] theorem State.partitionCheck_canonical (hs : s.Canonical) (kind origin : Nat) (about lines : List Nat) :
    (s.partitionCheck kind origin about lines).Canonical := by
  unfold State.partitionCheck
  exact of_rules

@[simp] theorem State.scrubDir_canonical (hs : s.Canonical) (L t : Nat) : (s.scrubDir L t).Canonical := by
  unfold State.scrubDir
  exact of_rules

@[simp] theorem State.spend_canonical (hs : s.Canonical) (L t : Nat) : (s.spend L t).Canonical := by
  unfold State.spend
  split
  · exact hs
  · extract_lets gone s₁ left s₂
    have h₁ : s₁.Canonical := by
      refine State.foldl_canonical (fun s k h => ?_) hs
      split <;> exact h
    have h₂ : s₂.Canonical := h₁
    exact State.canonical_ite h₂ (State.serveAll_canonical h₂ _)

@[simp] theorem execDeadAgentTimeout_ends (hs : s.Canonical) (home t : Nat) :
    EndsCanonical (execDeadAgentTimeout home t s) := by
  unfold execDeadAgentTimeout
  refine onUnits_ends hs _ fun s hs => State.canonical_ite hs ?_
  extract_lets held dirty s₁ s₂ s₃ s₄ dirs s₅ cts s₆ s₇
  have h₁ : s₁.Canonical := State.foldl_canonical (fun _ _ h => State.putLine_canonical h _ _ _) hs
  have h₂ : s₂.Canonical := State.foldl_canonical (fun _ _ h => (State.setAgent_canonical _ _ _ _).2 h) h₁
  have h₄ : s₄.Canonical := h₂
  have h₅ : s₅.Canonical :=
    State.foldl_canonical (fun _ _ h => State.scrubDir_canonical ((State.setDir_canonical _ _ _).2 h) _ _) h₄
  have h₆ : s₆.Canonical := State.foldl_canonical (fun _ _ h => State.spend_canonical h _ _) h₅
  exact State.partitionCheck_canonical (State.partitionCheck_canonical h₆ _ _ _ _) _ _ _ _

@[simp] theorem execNewerIncarnation_ends (hs : s.Canonical) (home t : Nat) :
    EndsCanonical (execNewerIncarnation home t s) := by
  unfold execNewerIncarnation
  exact of_rules

/-! ### Layers and partitions -/

@[simp] theorem flushLine_keeps (L : Nat) : KeepsCanonical (flushLine L) := by
  unfold flushLine
  exact of_rules

@[simp] theorem State.setWays_canonical (hs : s.Canonical) (p z n : Nat) : (s.setWays p z n).Canonical := by
  unfold State.setWays
  exact of_rules

@[simp] theorem execWayset_ends (hs : s.Canonical) (d a : GReg) : EndsCanonical (execWayset d a s) := by
  unfold execWayset
  refine runI_ends hs (.bind needS_keeps fun _ => .bind .get fun s => .check (.raiseValue _) fun _ => ?_) _
  refine .check (.raiseValue _) fun _ => .check (.raiseValue _) fun _ => .bind performed_keeps fun _ => ?_
  exact of_rules

@[simp] theorem execWaysetQ_ends (hs : s.Canonical) (d a : GReg) : EndsCanonical (execWaysetQ d a s) := by
  unfold execWaysetQ
  exact of_rules

@[simp] theorem State.setMask_canonical (hs : s.Canonical) (p z : Nat) (mask : BitVec 16) : (s.setMask p z mask).Canonical := by
  unfold State.setMask
  exact of_rules

@[simp] theorem execWayMaskWrite_ends (hs : s.Canonical) (by' : Sender) (p z : Nat) (mask : BitVec 16) :
    EndsCanonical (execWayMaskWrite by' p z mask s) :=
  (endsCanonical_next _).2 (asH_canonical _ hs fun _ h =>
    State.canonical_ite h (State.canonical_ite h (State.canonical_ite h (State.setMask_canonical h _ _ _))))

@[simp] theorem execPartitionDescriptor_ends (hs : s.Canonical) (by' : Sender) (d : PartDesc) :
    EndsCanonical (execPartitionDescriptor by' d s) := by
  refine (endsCanonical_next _).2 (asH_canonical _ hs fun s h => ?_)
  refine State.canonical_ite h (State.canonical_ite h (State.canonical_ite h ((State.modPart_canonical _ _ _).2 ?_)))
  exact State.foldl_canonical (fun _ _ h => State.setWays_canonical h _ _ _) h

@[simp] theorem State.setLayers_canonical (hs : s.Canonical) (t : Nat) (f : Nat → Layer → Layer) :
    (s.setLayers t f).Canonical := by
  unfold State.setLayers
  exact of_rules

@[simp] theorem execBlockingRequest_ends (hs : s.Canonical) (by' : Sender) (tower : BitVec 2) (roles : List Role) :
    EndsCanonical (execBlockingRequest by' tower roles s) := by
  unfold execBlockingRequest
  exact of_rules

@[simp] theorem execBlockingDrainComplete_ends (hs : s.Canonical) (tower : BitVec 2) :
    EndsCanonical (execBlockingDrainComplete tower s) := by
  unfold execBlockingDrainComplete
  exact of_rules

@[simp] theorem State.flushCluster_canonical (hs : s.Canonical) (k : Nat) : (s.flushCluster k).Canonical := by
  unfold State.flushCluster
  exact of_rules

@[simp] theorem State.flushClusters_canonical (hs : s.Canonical) (b : Blocking) : (s.flushClusters b).Canonical := by
  unfold State.flushClusters
  exact of_rules

@[simp] theorem State.switchLayer_canonical (hs : s.Canonical) (l : Nat) (new : Role) : (s.switchLayer l new).Canonical := by
  unfold State.switchLayer
  exact of_rules

theorem State.flushed_canonical (hs : s.Canonical) (b : Blocking) (t : Nat) (f : Nat → Layer → Layer) :
    ({ s.flushClusters b with blocking := some b }.setLayers t f).Canonical := by
  refine State.setLayers_canonical ?_ _ _
  exact State.flushClusters_canonical hs _

@[simp] theorem execBlockingFlushComplete_ends (hs : s.Canonical) (tower : BitVec 2) :
    EndsCanonical (execBlockingFlushComplete tower s) := by
  unfold execBlockingFlushComplete
  extract_lets t
  split
  · split
    · refine runPlinth_ends hs (.bind (.modS fun _ h => by exact h) fun _ => .bind (.forM (fun _ => recallLine_keeps _) _) fun _ =>
        .bind (.forM (fun _ => flushLine_keeps _) _) fun _ => .bind (.needs _) fun _ => .modS fun s hs => ?_)
      refine State.setLayers_canonical ?_ _ _
      refine (State.modTower_canonical _ _ _).2 ?_
      dsimp only
      refine State.foldl_canonical (fun _ _ h => ?_) (State.flushed_canonical hs _ _ _)
      exact State.switchLayer_canonical h _ _
    · exact (endsCanonical_next _).2 hs
  · exact (endsCanonical_next _).2 hs

@[simp] theorem State.resumeHomes_canonical (hs : s.Canonical) (t : Nat) : (s.resumeHomes t).Canonical := by
  unfold State.resumeHomes
  exact of_rules

@[simp] theorem execBlockingResume_ends (hs : s.Canonical) (tower : BitVec 2) : EndsCanonical (execBlockingResume tower s) := by
  unfold execBlockingResume
  exact of_rules

@[simp] theorem State.setLane_canonical (s : State) (g : Nat) (l : LaneGroup) :
    (s.setLane g l).Canonical ↔ s.Canonical := Iff.rfl

@[simp] theorem execLaneRepairTrigger_ends (hs : s.Canonical) (g : Nat) : EndsCanonical (execLaneRepairTrigger g s) := by
  unfold execLaneRepairTrigger
  exact of_rules

@[simp] theorem execLaneQuiesced_ends (hs : s.Canonical) (g : Nat) : EndsCanonical (execLaneQuiesced g s) := by
  unfold execLaneQuiesced
  exact of_rules

@[simp] theorem execLaneSwitched_ends (hs : s.Canonical) (g : Nat) : EndsCanonical (execLaneSwitched g s) := by
  unfold execLaneSwitched
  exact of_rules

@[simp] theorem execLaneFailNoSpare_ends (hs : s.Canonical) (g : Nat) : EndsCanonical (execLaneFailNoSpare g s) := by
  unfold execLaneFailNoSpare
  exact of_rules

/-! ### Trace records and Cast -/

@[simp] theorem execTrace_ends (hs : s.Canonical) (a : GReg) (i : BitVec 6) : EndsCanonical (execTrace a i s) := by
  unfold execTrace
  exact of_rules

@[simp] theorem execTraceRequest_ends (hs : s.Canonical) (c : Nat) (payload : Word) (typ : Byte) :
    EndsCanonical (execTraceRequest c payload typ s) := by
  unfold execTraceRequest
  exact of_rules

@[simp] theorem execSample_ends (hs : s.Canonical) (d : GReg) : EndsCanonical (execSample d s) := by
  unfold execSample
  exact of_rules

@[simp] theorem State.pulse_canonical (hs : s.Canonical) : s.pulse.Canonical := by
  unfold State.pulse
  exact of_rules

@[simp] theorem execSamplingPulse_ends (hs : s.Canonical) : EndsCanonical (execSamplingPulse s) := by
  unfold execSamplingPulse
  exact of_rules

@[simp] theorem asF_canonical (by' : Sender) {f : State → State} {s : State} (hs : s.Canonical)
    (hf : ∀ s, s.Canonical → (f s).Canonical) :
    (asF by' f s).Canonical := by
  unfold asF
  split
  · exact hs
  · exact hf s hs

@[simp] theorem execFreeze_ends (hs : s.Canonical) (by' : Sender) : EndsCanonical (execFreeze by' s) := by
  unfold execFreeze
  exact of_rules

@[simp] theorem State.readOutLine_canonical (hs : s.Canonical) (pa : Nat) : (s.readOutLine pa).Canonical := by
  unfold State.readOutLine
  exact of_rules

@[simp] theorem execReadOut_ends (hs : s.Canonical) (by' : Sender) (chain : Nat) :
    EndsCanonical (execReadOut by' chain s) :=
  (endsCanonical_next _).2 (asF_canonical _ hs fun _ h => State.canonical_ite h h)

@[simp] theorem execThaw_ends (hs : s.Canonical) (by' : Sender) : EndsCanonical (execThaw by' s) :=
  (endsCanonical_next _).2 (asF_canonical _ hs fun s h => State.canonical_ite
    (State.foldl_canonical (s := { s with frozen := false }) (fun _ _ h => (State.modLink_canonical _ _ _).2 h) h) h)

/-! ### Links, the host and the management endpoint -/

@[simp] theorem takeHomeLine_keeps (L : Nat) : KeepsCanonical (takeHomeLine L) := by
  unfold takeHomeLine
  exact of_rules

theorem hostTags_wf {t : Tags} (ht : Tags.wf t) (k n : Nat) : Tags.wf (hostTags t k n) := by
  refine foldl_keeps (P := fun t => Tags.wf t) _ _ (fun t w h => ?_) ht
  split
  · exact AMap.wf_set h _ _
  · exact h

@[simp] theorem State.homeWrite_canonical (hs : s.Canonical) (k v n : Nat) : (s.homeWrite k v n).Canonical := by
  have hd := State.dropLeases_canonical (State.poke_canonical hs k v n) k n
  unfold State.homeWrite
  refine State.stampLine_canonical ?_ _
  exact ⟨hd.1, hostTags_wf hd.2 _ _⟩

@[simp] theorem runOutside_ends (e : Nat) {s : State} (hs : s.Canonical) {m : M Unit} (hm : KeepsCanonical m) :
    EndsCanonical (runOutside e m s) := by
  unfold runOutside
  cases hr : m s with
  | ok a t => exact (endsCanonical_next _).mpr (hm.ok hs hr)
  | error e t =>
    cases e with
    | absent => exact (endsCanonical_next _).mpr (State.postFault_canonical hs _ _ _ _ _ _)
    | trap => exact (endsCanonical_next _).mpr hs
    | recalls | hold => exact (endsCanonical_next _).mpr (State.unless_canonical hs _)

@[simp] theorem execHostAccess_ends (hs : s.Canonical) (target : HostAddr) (size : Nat) (write : Option Nat) :
    EndsCanonical (execHostAccess target size write s) := by
  unfold execHostAccess
  extract_lets pa lines
  split
  · exact endsCanonical_fault _
  · split
    · refine (endsCanonical_next _).2 ?_
      split
      · exact State.partitionCheck_canonical ((State.note_canonical _ _).2 hs) _ _ _ _
      · exact hs
    · refine runOutside_ends _ hs (.bind (.forM takeHomeLine_keeps _) fun _ => ?_)
      split
      · exact .modS fun _ h => State.homeWrite_canonical h _ _ _
      · exact .modS fun _ h => (State.note_canonical _ _).2 h

@[simp] theorem State.outsideWrite_canonical (hs : s.Canonical) (pa size v : Nat) : (s.outsideWrite pa size v).Canonical := by
  unfold State.outsideWrite
  exact of_rules

@[simp] theorem plinthLoc_keeps (w : Who) (acc : Access) (va : Nat) : KeepsCanonical (plinthLoc w acc va) := by
  unfold plinthLoc
  refine .check (.raiseAddr _ _) fun _ => .get_bind fun s hs => ?_
  have ht := State.translate_canonical hs w.ctx w.layer none acc va
  generalize s.translate w.ctx w.layer none acc va = r at ht ⊢
  obtain ⟨t, o⟩ := r
  cases o with
  | ok leaf pa => exact .bind (.modS fun _ _ => ht) fun _ => .check (.raiseAddr _ _) fun _ => .pure _
  | held => exact .stall
  | absent level => exact .throw _
  | trap c e => exact .raise _ _

@[simp] theorem plinthWord_keeps (w : Who) (va : Nat) : KeepsCanonical (plinthWord w va) := by
  unfold plinthWord
  exact of_rules

@[simp] theorem plinthLine_keeps (w : Who) (va : Nat) : KeepsCanonical (plinthLine w va) := by
  unfold plinthLine
  exact of_rules

@[simp] theorem plinthStore_keeps (w : Who) (va : Nat) (v : Nat × Label) : KeepsCanonical (plinthStore w va v) := by
  have tagged (loc : Loc) (s : State) (hs : s.Canonical) :
      (if loc.plain then s.homeWrite loc.key v.1 4
        else { s.homeWrite loc.key v.1 4 with tags := (s.homeWrite loc.key v.1 4).tags.set labelTrue (loc.key / 4) v.2 }).Canonical := by
    have hw := State.homeWrite_canonical hs loc.key v.1 4
    exact State.canonical_ite hw ⟨hw.1, AMap.wf_set hw.2 _ _⟩
  unfold plinthStore
  refine .bind (plinthLoc_keeps _ _ _) fun loc => ?_
  refine .bind .get fun s => .check (.raiseAddr _ _) fun _ => .check (.raiseAddr _ _) fun _ => .bind .get fun s => .ite ?_ (.ite ?_ ?_)
  · exact .modS fun _ h => State.partitionCheck_canonical ((State.note_canonical _ _).2 h) _ _ _ _
  · exact .bind (takeHomeLine_keeps _) fun _ => .modS (tagged loc)
  · exact .bind (linkReady_keeps _) fun _ => .ite (.modS fun _ h => State.poke_canonical h _ _ _) (.raiseAddr _ _)

@[simp] theorem fabricCapture_keeps (x q va : Nat) : KeepsCanonical (fabricCapture x q va) := by
  unfold fabricCapture
  refine .bind .get fun s => ?_
  refine .check (.raiseAddr _ _) fun _ => .bind .get fun _ => .check (.raiseValue _) fun _ => .bind (plinthLine_keeps _ _) fun r => ?_
  refine .ite (.bind .get fun _ => .check (.raiseValue _) fun _ => .pure _) (.bind ?_ fun patch => .check (.raiseValue _) fun _ => ?_)
  · exact patchWords_keeps _ _ (plinthWord_keeps _) fun _ => .bind (foldProd_keeps _ _ _ _) fun _ => .pure _
  · exact .bind (.mapM (fun _ => plinthLine_keeps _ _) _) fun _ => .bind .get fun _ => .check (.raiseValue _) fun _ => .pure _

@[simp] theorem fabricEnqueue_keeps (x : Nat) (c : Captured) : KeepsCanonical (fabricEnqueue x c) := by
  unfold fabricEnqueue
  exact of_rules

@[simp] theorem fabricGo_ends (hs : s.Canonical) (e x : Nat) (c : Captured) : EndsCanonical (fabricGo e x c s) := by
  unfold fabricGo
  cases hr : fabricEnqueue x c s with
  | ok o t =>
    have ht := (fabricEnqueue_keeps x c).ok hs hr
    cases o <;> exact (endsCanonical_next _).2 ht
  | error stop t =>
    cases stop with
    | absent => exact (endsCanonical_next _).2 (State.postFault_canonical hs _ _ _ _ _ _)
    | trap => exact (endsCanonical_next _).2 hs
    | recalls | hold => exact (endsCanonical_next _).2 (State.unless_canonical hs _)

@[simp] theorem execFabricLaunch_ends (hs : s.Canonical) (by' : Sender) (x : Nat) (q : BitVec 4) (va : Word) :
    EndsCanonical (execFabricLaunch by' x q va s) := by
  unfold execFabricLaunch
  split
  · exact (endsCanonical_next _).2 hs
  · split
    · exact (endsCanonical_next _).2 hs
    · cases hr : fabricCapture x q.toNat va.toNat s with
      | ok c t => exact fabricGo_ends ((fabricCapture_keeps _ _ _).ok hs hr) _ _ _
      | error stop t =>
        cases stop with
        | trap => exact (endsCanonical_next _).2 hs
        | absent | recalls | hold => exact runOutside_ends _ hs (.throw _)

@[simp] theorem execFabricTlbinv_ends (hs : s.Canonical) (by' : Sender) (x : Nat) (e : BitVec 2) (va : Word) :
    EndsCanonical (execFabricTlbinv by' x e va s) := by
  unfold execFabricTlbinv
  exact of_rules

@[simp] theorem execFabricReplay_ends (hs : s.Canonical) (by' : Sender) (x : Nat) :
    EndsCanonical (execFabricReplay by' x s) := by
  unfold execFabricReplay
  exact of_rules

@[simp] theorem onQueue_canonical (hs : s.Canonical) (by' : Sender) (x : Nat) (f : Context → Option Context) :
    (onQueue by' x f s).Canonical := by
  refine asH_canonical _ hs fun s hs => State.canonical_ite hs ?_
  split
  · exact State.updateQueues_canonical ((State.modCtx_canonical _ _ _).2 hs) _
  · exact hs

@[simp] theorem execQueueConfigure_ends (hs : s.Canonical) (by' : Sender) (x : Nat) (q : BitVec 4) (prio : BitVec 2) :
    EndsCanonical (execQueueConfigure by' x q prio s) := by
  unfold execQueueConfigure
  exact of_rules

@[simp] theorem execQueueStop_ends (hs : s.Canonical) (by' : Sender) (x : Nat) (q : BitVec 4) :
    EndsCanonical (execQueueStop by' x q s) := by
  unfold execQueueStop
  exact of_rules

@[simp] theorem execQueueRestart_ends (hs : s.Canonical) (by' : Sender) (x : Nat) (q : BitVec 4) :
    EndsCanonical (execQueueRestart by' x q s) := by
  unfold execQueueRestart
  exact of_rules

@[simp] theorem execCoreRestart_ends (hs : s.Canonical) (by' : Sender) (n : Nat) :
    EndsCanonical (execCoreRestart by' n s) :=
  onUnits_ends hs _ fun _ hs => asH_canonical _ hs fun _ hs => State.canonical_ite hs hs

@[simp] theorem State.recover_canonical (s : State) (t : Nat) : (s.recover t).Canonical ↔ s.Canonical := Iff.rfl

@[simp] theorem execFirmwareLoad_ends (hs : s.Canonical) (by' : Sender) (tower : BitVec 2) (img : FwImage) :
    EndsCanonical (execFirmwareLoad by' tower img s) := by
  unfold execFirmwareLoad
  exact of_rules

@[simp] theorem execAttestationRequest_ends (hs : s.Canonical) (_by : Sender) (port : BitVec 4) (nonce : BitVec 256) :
    EndsCanonical (execAttestationRequest _by port nonce s) := by
  unfold execAttestationRequest
  exact of_rules

@[simp] theorem execLinkTrainingStart_ends (hs : s.Canonical) (port : BitVec 4) :
    EndsCanonical (execLinkTrainingStart port s) := by
  unfold execLinkTrainingStart
  exact of_rules

@[simp] theorem execLanesLocked_ends (hs : s.Canonical) (port : BitVec 4) : EndsCanonical (execLanesLocked port s) := by
  unfold execLanesLocked
  exact of_rules

@[simp] theorem execTrainingTimeout_ends (hs : s.Canonical) (port : BitVec 4) (half : Bool) :
    EndsCanonical (execTrainingTimeout port half s) := by
  unfold execTrainingTimeout
  exact of_rules

@[simp] theorem execAcceptedSetWritten_ends (hs : s.Canonical) (port : BitVec 4) (endpoint : Nat) (mask : BitVec 128) :
    EndsCanonical (execAcceptedSetWritten port endpoint mask s) := by
  unfold execAcceptedSetWritten
  exact of_rules

@[simp] theorem execLaneFailure_ends (hs : s.Canonical) (port : BitVec 4) : EndsCanonical (execLaneFailure port s) := by
  unfold execLaneFailure
  exact of_rules

@[simp] theorem execFlitReceive_ends (hs : s.Canonical) (port : BitVec 4) (seq : BitVec 8) (crcOk : Bool) :
    EndsCanonical (execFlitReceive port seq crcOk s) := by
  unfold execFlitReceive
  exact of_rules

@[simp] theorem State.fenceLink_canonical (hs : s.Canonical) (p : Nat) : (s.fenceLink p).Canonical := by
  unfold State.fenceLink
  exact of_rules

@[simp] theorem execFlitReplayLimit_ends (hs : s.Canonical) (port : BitVec 4) : EndsCanonical (execFlitReplayLimit port s) := by
  unfold execFlitReplayLimit
  exact of_rules

@[simp] theorem execLinkFence_ends (hs : s.Canonical) (port : BitVec 4) : EndsCanonical (execLinkFence port s) := by
  unfold execLinkFence
  exact of_rules

theorem execReset_ends (s : State) : EndsCanonical (execReset s) := (endsCanonical_next _).2 ⟨rfl, rfl⟩

/-! ### Integer instructions -/

@[simp] theorem alu_ends (hs : s.Canonical) (i : Instr) (d a b : GReg) (f : Word → Word → Word) :
    EndsCanonical (alu i d a b f s) := by
  unfold alu
  exact of_rules

@[simp] theorem alu1_ends (hs : s.Canonical) (i : Instr) (d a : GReg) (f : Word → Word) : EndsCanonical (alu1 i d a f s) := by
  unfold alu1
  exact of_rules

@[simp] theorem execSel_ends (hs : s.Canonical) (d : GReg) (n : PReg) (a b : GReg) : EndsCanonical (execSel d n a b s) := by
  unfold execSel
  exact of_rules

@[simp] theorem execLui_ends (hs : s.Canonical) (d : GReg) (k : BitVec 2) (i : BitVec 16) :
    EndsCanonical (execLui d k i s) := by
  unfold execLui
  exact of_rules

@[simp] theorem execAdpc_ends (hs : s.Canonical) (d : GReg) (o : BitVec 21) : EndsCanonical (execAdpc d o s) := by
  unfold execAdpc
  exact of_rules

@[simp] theorem execBext_ends (hs : s.Canonical) (d a : GReg) (p l : BitVec 6) : EndsCanonical (execBext d a p l s) := by
  unfold execBext
  exact of_rules

@[simp] theorem execBins_ends (hs : s.Canonical) (d a : GReg) (p l : BitVec 6) : EndsCanonical (execBins d a p l s) := by
  unfold execBins
  exact of_rules

@[simp] theorem execBperm_ends (hs : s.Canonical) (d a b : GReg) : EndsCanonical (execBperm d a b s) := by
  unfold execBperm
  exact of_rules

/-! ### Scalar floating point -/

@[simp] theorem fpResult_keeps (d : GReg) (r : Nat × Flags) (rounds : Bool) (ls : List Label) :
    KeepsCanonical (fpResult d r rounds ls) := by
  unfold fpResult
  exact of_rules

@[simp] theorem fp2_ends (hs : s.Canonical) (i : Instr) (d a b : GReg) (rounds : Bool) (f : RMode → Nat → Nat → Nat × Flags) :
    EndsCanonical (fp2 i d a b rounds f s) := by
  unfold fp2
  exact of_rules

@[simp] theorem execFfma_ends (hs : s.Canonical) (d a b e : GReg) : EndsCanonical (execFfma d a b e s) := by
  unfold execFfma
  exact of_rules

@[simp] theorem execFcvt_ends (hs : s.Canonical) (k : FcvtKind) (d a : GReg) : EndsCanonical (execFcvt k d a s) := by
  unfold execFcvt
  exact of_rules

/-! ### What tile instructions compute -/

@[simp] theorem widthOk_keeps (bits : Nat) : KeepsCanonical (widthOk bits) := by
  unfold widthOk
  exact of_rules

@[simp] theorem keptLabel_keeps (keep : Option (PReg × VReg)) (ls : List Label) : KeepsCanonical (keptLabel keep ls) := by
  unfold keptLabel
  exact of_rules

@[simp] theorem enterQueue_keeps (i : Instr) (q : TileIssue) (put : Core → Label → Core) :
    KeepsCanonical (enterQueue i q put) := by
  unfold enterQueue
  exact of_rules

/-! ### Tile instructions on registers -/

@[simp] theorem tile2_ends (hs : s.Canonical) (i : Instr) (t : ETy) (p : PReg) (d a b : VReg) (rounds : Bool) :
    EndsCanonical (tile2 i t p d a b rounds s) := by
  unfold tile2
  exact of_rules

@[simp] theorem tile1_ends (hs : s.Canonical) (i : Instr) (t : ETy) (p : PReg) (d a : VReg) :
    EndsCanonical (tile1 i t p d a s) := by
  unfold tile1
  exact of_rules

@[simp] theorem tile3_ends (hs : s.Canonical) (i : Instr) (t : ETy) (p : PReg) (d a b : VReg) :
    EndsCanonical (tile3 i t p d a b s) := by
  unfold tile3
  exact of_rules

@[simp] theorem execVbcast_ends (hs : s.Canonical) (t : ETy) (p : PReg) (d : VReg) (g : GLow) :
    EndsCanonical (execVbcast t p d g s) := by
  unfold execVbcast
  exact of_rules

@[simp] theorem execVcmp_ends (hs : s.Canonical) (k : VCond) (t : ETy) (p d : PReg) (a b : VReg) :
    EndsCanonical (execVcmp k t p d a b s) := by
  unfold execVcmp
  exact of_rules

@[simp] theorem execVsel_ends (hs : s.Canonical) (t : ETy) (p : PReg) (d a b : VReg) :
    EndsCanonical (execVsel t p d a b s) := by
  unfold execVsel
  exact of_rules

@[simp] theorem predOp_ends (hs : s.Canonical) (i : Instr) (d : PReg) (f : Core → List Label) :
    EndsCanonical (predOp i d f s) := by
  unfold predOp
  exact of_rules

@[simp] theorem predCount_keeps (i : Instr) (g : GLow) (a : PReg) : KeepsCanonical (predCount i g a) := by
  unfold predCount
  exact of_rules

@[simp] theorem execPcnt_ends (hs : s.Canonical) (g : GLow) (a : PReg) : EndsCanonical (execPcnt g a s) := by
  unfold execPcnt
  exact of_rules

@[simp] theorem execPfirst_ends (hs : s.Canonical) (g : GLow) (a : PReg) : EndsCanonical (execPfirst g a s) := by
  unfold execPfirst
  exact of_rules

@[simp] theorem execVred_ends (hs : s.Canonical) (o : VredOp) (t : ETy) (p : PReg) (d a : VReg) :
    EndsCanonical (execVred o t p d a s) := by
  unfold execVred
  exact of_rules

@[simp] theorem execVtrans_ends (hs : s.Canonical) (t : ETy) (d a : VReg) : EndsCanonical (execVtrans t d a s) := by
  unfold execVtrans
  exact of_rules

@[simp] theorem execVrot_ends (hs : s.Canonical) (t : ETy) (d a : VReg) (n : BitVec 7) :
    EndsCanonical (execVrot t d a n s) := by
  unfold execVrot
  exact of_rules

@[simp] theorem execVshape_ends (hs : s.Canonical) (a : GLow) : EndsCanonical (execVshape a s) := by
  unfold execVshape
  exact of_rules

@[simp] theorem execVcvt_ends (hs : s.Canonical) (t z : ETy) (p : PReg) (d a : VReg) :
    EndsCanonical (execVcvt t z p d a s) := by
  unfold execVcvt
  exact of_rules

@[simp] theorem blocksOk_keeps : KeepsCanonical blocksOk := by
  unfold blocksOk
  exact of_rules

@[simp] theorem execVquant_ends (hs : s.Canonical) (t z : ETy) (d a b : VReg) : EndsCanonical (execVquant t z d a b s) := by
  unfold execVquant
  exact of_rules

@[simp] theorem execVdeq_ends (hs : s.Canonical) (t z : ETy) (d a b : VReg) : EndsCanonical (execVdeq t z d a b s) := by
  unfold execVdeq
  exact of_rules

@[simp] theorem sfuOp_ends (hs : s.Canonical) (i : Instr) (t : ETy) (p : PReg) (d a : VReg) :
    EndsCanonical (sfuOp i t p d a s) := by
  unfold sfuOp
  exact of_rules

@[simp] theorem execVlget_ends (hs : s.Canonical) (g : GLow) (a : VReg) : EndsCanonical (execVlget g a s) := by
  unfold execVlget
  exact of_rules

@[simp] theorem execVlset_ends (hs : s.Canonical) (d a : VReg) (b : GLow) : EndsCanonical (execVlset d a b s) := by
  unfold execVlset
  exact of_rules

@[simp] theorem execVlvis_ends (hs : s.Canonical) (d : PReg) (a : VReg) : EndsCanonical (execVlvis d a s) := by
  unfold execVlvis
  exact of_rules

/-! ### Tile instructions on memory -/

@[simp] theorem tileWindow_keeps (ea : Word) : KeepsCanonical (tileWindow ea) := by
  unfold tileWindow
  exact of_rules

@[simp] theorem rowChecks_keeps (t : ETy) (ea : Word) (named : Bool) (stride : Word) :
    KeepsCanonical (rowChecks t ea named stride) := by
  unfold rowChecks
  exact of_rules

@[simp] theorem indexChecks_keeps (t : ETy) (ea : Word) : KeepsCanonical (indexChecks t ea) := by
  unfold indexChecks
  exact of_rules

@[simp] theorem tileStore_keeps (n : Nat) (l : List WordPut) (label : Label) : KeepsCanonical (tileStore n l label) := by
  unfold tileStore
  exact of_rules

@[simp] theorem tileSound_keeps (ea : Word) (key : Nat) (words : List Nat) : KeepsCanonical (tileSound ea key words) := by
  unfold tileSound
  exact of_rules

@[simp] theorem loadReady_keeps : KeepsCanonical loadReady := by
  unfold loadReady
  exact of_rules

@[simp] theorem tileLoad_keeps (t : ETy) (p : PReg) (d : VReg) (ea : Word) (key : Nat) (nibs : List Int) (ls : List Label) :
    KeepsCanonical (tileLoad t p d ea key nibs ls) := by
  unfold tileLoad
  exact of_rules

@[simp] theorem execVld_ends (hs : s.Canonical) (t : ETy) (p : PReg) (d : VReg) (a z : GLow) :
    EndsCanonical (execVld t p d a z s) := by
  unfold execVld
  exact of_rules

@[simp] theorem execVgather_ends (hs : s.Canonical) (t : ETy) (p : PReg) (d : VReg) (a : GLow) (b : VReg) :
    EndsCanonical (execVgather t p d a b s) := by
  unfold execVgather
  exact of_rules

@[simp] theorem execVamo_ends (hs : s.Canonical) (o : VamoOp) (t : ETy) (p : PReg) (d : VReg) (a : GLow) (b : VReg) :
    EndsCanonical (execVamo o t p d a b s) := by
  unfold execVamo
  exact of_rules

@[simp] theorem execVst_ends (hs : s.Canonical) (t : ETy) (p : PReg) (d : VReg) (a z : GLow) :
    EndsCanonical (execVst t p d a z s) := by
  unfold execVst
  exact of_rules

@[simp] theorem execVscatter_ends (hs : s.Canonical) (t : ETy) (p : PReg) (d : VReg) (a : GLow) (b : VReg) :
    EndsCanonical (execVscatter t p d a b s) := by
  unfold execVscatter
  exact of_rules

@[simp] theorem completeTile_keeps (n : Nat) : KeepsCanonical (completeTile n) := by
  unfold completeTile
  exact of_rules

@[simp] theorem execTileComplete_ends (hs : s.Canonical) (c : Nat) : EndsCanonical (execTileComplete c s) := by
  unfold execTileComplete
  exact of_rules

@[simp] theorem State.unitCycle_canonical (hs : s.Canonical) (u : Nat) : (s.unitCycle u).Canonical := by
  unfold State.unitCycle
  exact of_rules

@[simp] theorem execLaneGroupGrant_ends (hs : s.Canonical) (unit : Nat) : EndsCanonical (execLaneGroupGrant unit s) := by
  unfold execLaneGroupGrant
  exact of_rules

/-! ### Every instruction -/

theorem exec_ends (hs : s.Canonical) (i : Instr) : EndsCanonical (exec i s) := by
  unfold exec
  cases i with
  | brk => exact execBrk_ends hs ..
  | trap => exact execTrap_ends hs ..
  | eret => exact execEret_ends hs ..
  | guard => exact execGuard_ends hs ..
  | yield => exact execYield_ends hs ..
  | halt => exact execHalt_ends hs ..
  | mfc => exact execMfc_ends hs ..
  | mfcFflags => exact execMfcFflags_ends hs ..
  | mtc => exact execMtc_ends hs ..
  | mtcFflags => exact execMtcFflags_ends hs ..
  | mtcSrseed => exact execMtcSrseed_ends hs ..
  | mtcLspace => exact execMtcLspace_ends hs ..
  | mtcFbstat => exact execMtcFbstat_ends hs ..
  | mtcTracectl => exact execMtcTracectl_ends hs ..
  | tlbinvPage => exact execTlbinvPage_ends hs ..
  | tlbinvContext => exact execTlbinvContext_ends hs ..
  | tlbinvPartition => exact execTlbinvPartition_ends hs ..
  | freplay => exact execFreplay_ends hs ..
  | wayset => exact execWayset_ends hs ..
  | waysetQ => exact execWaysetQ_ends hs ..
  | trace => exact execTrace_ends hs ..
  | sample => exact execSample_ends hs ..
  | add | sub | and | or | xor | andn | orn | sll | srl | sra | rol | ror | min | max | minn | maxn | seq | sne | slt | sltn |
    mul | mulh | mulhn | div | divn | rem | remn => exact alu_ends hs ..
  | sel => exact execSel_ends hs ..
  | clz | ctz | popc | brev | bswap | addi | andi | ori | xori | slti | sltni | slli | srli | srai | roli | luiK | bpermi =>
    exact alu1_ends hs ..
  | lui => exact execLui_ends hs ..
  | adpc => exact execAdpc_ends hs ..
  | bext => exact execBext_ends hs ..
  | bins => exact execBins_ends hs ..
  | bperm => exact execBperm_ends hs ..
  | bsrinit => exact execBsrinit_ends hs ..
  | bsget => exact execBsget_ends hs ..
  | bspeek => exact execBspeek_ends hs ..
  | bsskip => exact execBsskip_ends hs ..
  | bsgetg => exact execBsgetg_ends hs ..
  | bswinit => exact execBswinit_ends hs ..
  | bsemit => exact execBsemit_ends hs ..
  | bsflush => exact execBsflush_ends hs ..
  | fadd | fsub | fmul | fmin | fmax | fcmpEq | fcmpLt | fcmpLe | fcmpUn => exact fp2_ends hs ..
  | ffma => exact execFfma_ends hs ..
  | fcvt => exact execFcvt_ends hs ..
  | bCond => exact execBCond_ends hs ..
  | jl => exact execJl_ends hs ..
  | jlr => exact execJlr_ends hs ..
  | rpt => exact execRpt_ends hs ..
  | ld => exact execLd_ends hs ..
  | ldAcq => exact execLdAcq_ends hs ..
  | ldnt => exact execLdnt_ends hs ..
  | st | stRel | stnt => exact storeOp_ends hs ..
  | amoAdd | amoAnd | amoOr | amoXor | amoMin | amoMax | amoMinn | amoMaxn | amoSwap | amoCas | amoFadd =>
    exact amo_ends hs ..
  | redAdd | redAnd | redOr | redXor | redMin | redMax | redFadd => exact red_ends hs ..
  | memred => exact execMemred_ends hs ..
  | memcas => exact execMemcas_ends hs ..
  | memsax => exact execMemsax_ends hs ..
  | cinit => exact execCinit_ends hs ..
  | cdec => exact execCdec_ends hs ..
  | cinc => exact execCinc_ends hs ..
  | cread => exact execCread_ends hs ..
  | clocal => exact execClocal_ends hs ..
  | fence => exact execFence_ends hs ..
  | fenceLx => exact execFenceLx_ends hs ..
  | drain => exact execDrain_ends hs ..
  | l1inv => exact execL1inv_ends hs ..
  | l1wb => exact execL1wb_ends hs ..
  | icinv => exact execIcinv_ends hs ..
  | isync => exact execIsync_ends hs ..
  | pause => exact execPause_ends hs ..
  | waita => exact execWaita_ends hs ..
  | evsig => exact execEvsig_ends hs ..
  | evarm =>
    dsimp only [execEvarm]
    exact of_rules
  | bar => exact execBar_ends hs ..
  | sync => exact execSync_ends hs ..
  | eventWindowLoad => exact execEventWindowLoad_ends hs ..
  | eventWindowStore => exact execEventWindowStore_ends hs ..
  | send => exact execSend_ends hs ..
  | take => exact execTake_ends hs ..
  | peeki => exact execPeeki_ends hs ..
  | inboxDelivery => exact execInboxDelivery_ends hs ..
  | assume => exact execAssume_ends hs ..
  | lget => exact execLget_ends hs ..
  | lset => exact execLset_ends hs ..
  | lprod => exact execLprod_ends hs ..
  | lunion => exact execLunion_ends hs ..
  | leq => exact execLeq_ends hs ..
  | nogood => exact execNogood_ends hs ..
  | nogoode => exact execNogoode_ends hs ..
  | lvis => exact execLvis_ends hs ..
  | lsel => exact execLsel_ends hs ..
  | lcount => exact execLcount_ends hs ..
  | lenv => exact execLenv_ends hs ..
  | lfocus => exact execLfocus_ends hs ..
  | xcopy => exact execXcopy_ends hs ..
  | xpub => exact execXpub_ends hs ..
  | xstat => exact execXstat_ends hs ..
  | mma => exact execMma_ends hs ..
  | mzero => exact execMzero_ends hs ..
  | mld => exact execMld_ends hs ..
  | mst => exact execMst_ends hs ..
  | mwait => exact execMwait_ends hs ..
  | mtest => exact execMtest_ends hs ..
  | launch => exact execLaunch_ends hs ..
  | exit => exact execExit_ends hs ..
  | gform => exact execGform_ends hs ..
  | grejoin => exact execGrejoin_ends hs ..
  | gleave => exact execGleave_ends hs ..
  | gstat => exact execGstat_ends hs ..
  | followerBufferTimeout => exact execFollowerBufferTimeout_ends hs ..
  | leaderRejoinTimeout => exact execLeaderRejoinTimeout_ends hs ..
  | vaddInt | vsubInt | vmulInt | vminInt | vmaxInt | vand | vor | vxor | vshl | vshr | vsra | vaddFloat | vsubFloat |
    vmulFloat | vminFloat | vmaxFloat => exact tile2_ends hs ..
  | vabsInt | vnegInt | vabsFloat | vnegFloat => exact tile1_ends hs ..
  | vbcast => exact execVbcast_ends hs ..
  | vfma | vfms => exact tile3_ends hs ..
  | vcmp => exact execVcmp_ends hs ..
  | vsel => exact execVsel_ends hs ..
  | pand | por | pxor | pnot | pset => exact predOp_ends hs ..
  | pcnt => exact execPcnt_ends hs ..
  | pfirst => exact execPfirst_ends hs ..
  | vred => exact execVred_ends hs ..
  | vtrans => exact execVtrans_ends hs ..
  | vrot => exact execVrot_ends hs ..
  | vshape => exact execVshape_ends hs ..
  | vld => exact execVld_ends hs ..
  | vst => exact execVst_ends hs ..
  | vgather => exact execVgather_ends hs ..
  | vscatter => exact execVscatter_ends hs ..
  | vamo => exact execVamo_ends hs ..
  | vcvt => exact execVcvt_ends hs ..
  | vquant => exact execVquant_ends hs ..
  | vdeq => exact execVdeq_ends hs ..
  | vexp | vlog | vrcp | vrsq | vsqrt | vsin | vcos | vtanh | vsigm | vgelu => exact sfuOp_ends hs ..
  | vlget => exact execVlget_ends hs ..
  | vlset => exact execVlset_ends hs ..
  | vlvis => exact execVlvis_ends hs ..
  | tileComplete => exact execTileComplete_ends hs ..
  | storePerform => exact execStorePerform_ends hs ..
  | stntBufferPerform => exact execStntBufferPerform_ends hs ..
  | l1FillReply => exact execL1FillReply_ends hs ..
  | sliceFillRequest => exact execSliceFillRequest_ends hs ..
  | sliceStore => exact execSliceStore_ends hs ..
  | dirGets => exact execDirGets_ends hs ..
  | dirGetx => exact execDirGetx_ends hs ..
  | dirUpg => exact execDirUpg_ends hs ..
  | dirPut => exact execDirPut_ends hs ..
  | dirRedJoin => exact execDirRedJoin_ends hs ..
  | invalidationAck => exact execInvalidationAck_ends hs ..
  | agentInvalidation => exact execAgentInvalidation_ends hs ..
  | agentForwardedGets => exact execAgentForwardedGets_ends hs ..
  | agentForwardedGetx => exact execAgentForwardedGetx_ends hs ..
  | agentDataGrant => exact execAgentDataGrant_ends hs ..
  | agentEviction => exact execAgentEviction_ends hs ..
  | writebackAck => exact execWritebackAck_ends hs ..
  | uPartialEvict => exact execUPartialEvict_ends hs ..
  | uRecallComplete => exact execURecallComplete_ends hs ..
  | deadAgentTimeout => exact execDeadAgentTimeout_ends hs ..
  | newerIncarnation => exact execNewerIncarnation_ends hs ..
  | memBankExecute => exact execMemBankExecute_ends hs ..
  | counterRequest => exact execCounterRequest_ends hs ..
  | counterRecall => exact execCounterRecall_ends hs ..
  | allowanceReturn => exact execAllowanceReturn_ends hs ..
  | recallRoundComplete => exact execRecallRoundComplete_ends hs ..
  | counterReply => exact execCounterReply_ends hs ..
  | internRequest => exact execInternRequest_ends hs ..
  | fullerMissComplete => exact execFullerMissComplete_ends hs ..
  | nogoodRequest => exact execNogoodRequest_ends hs ..
  | nogoodInstall => exact execNogoodInstall_ends hs ..
  | deferredLabelFold => exact execDeferredLabelFold_ends hs ..
  | matrixOpStart => exact execMatrixOpStart_ends hs ..
  | matrixOpComplete => exact execMatrixOpComplete_ends hs ..
  | matrixTransferComplete => exact execMatrixTransferComplete_ends hs ..
  | matrixSelfTest => exact execMatrixSelfTest_ends hs ..
  | throttleChange => exact execThrottleChange_ends hs ..
  | copyCommandStart => exact execCopyCommandStart_ends hs ..
  | copyBeat => exact execCopyBeat_ends hs ..
  | copyCommandComplete => exact execCopyCommandComplete_ends hs ..
  | waitaWake => exact execWaitaWake_ends hs ..
  | syncRelease => exact execSyncRelease_ends hs ..
  | pauseEnd => exact execPauseEnd_ends hs ..
  | watchdog => exact execWatchdog_ends hs ..
  | deadlockProbe => exact execDeadlockProbe_ends hs ..
  | pageWalkComplete => exact execPageWalkComplete_ends hs ..
  | dispatchDecision => exact execDispatchDecision_ends hs ..
  | clusterStart => exact execClusterStart_ends hs ..
  | kernelDone => exact execKernelDone_ends hs ..
  | energyWindow => exact execEnergyWindow_ends hs ..
  | forcedSaveTimeout => exact execForcedSaveTimeout_ends hs ..
  | contextRestoreComplete => exact execContextRestoreComplete_ends hs ..
  | asyncMachineCheck => exact execAsyncMachineCheck_ends hs ..
  | samplingPulse => exact execSamplingPulse_ends hs ..
  | traceRequest => exact execTraceRequest_ends hs ..
  | hostAccess => exact execHostAccess_ends hs ..
  | fabricLaunch => exact execFabricLaunch_ends hs ..
  | fabricTlbinv => exact execFabricTlbinv_ends hs ..
  | fabricReplay => exact execFabricReplay_ends hs ..
  | queueConfigure => exact execQueueConfigure_ends hs ..
  | queueStop => exact execQueueStop_ends hs ..
  | queueRestart => exact execQueueRestart_ends hs ..
  | contextRecordWrite => exact execContextRecordWrite_ends hs ..
  | contextCreate => exact execContextCreate_ends hs ..
  | contextSchedule => exact execContextSchedule_ends hs ..
  | contextTerminate => exact execContextTerminate_ends hs ..
  | preemptRequest => exact execPreemptRequest_ends hs ..
  | partitionDescriptor => exact execPartitionDescriptor_ends hs ..
  | wayMaskWrite => exact execWayMaskWrite_ends hs ..
  | blockingRequest => exact execBlockingRequest_ends hs ..
  | blockingDrainComplete => exact execBlockingDrainComplete_ends hs ..
  | blockingFlushComplete => exact execBlockingFlushComplete_ends hs ..
  | blockingResume => exact execBlockingResume_ends hs ..
  | coreRestart => exact execCoreRestart_ends hs ..
  | freeze => exact execFreeze_ends hs ..
  | readOut => exact execReadOut_ends hs ..
  | thaw => exact execThaw_ends hs ..
  | firmwareLoad => exact execFirmwareLoad_ends hs ..
  | attestationRequest => exact execAttestationRequest_ends hs ..
  | reset => exact execReset_ends ..
  | linkTrainingStart => exact execLinkTrainingStart_ends hs ..
  | lanesLocked => exact execLanesLocked_ends hs ..
  | trainingTimeout => exact execTrainingTimeout_ends hs ..
  | acceptedSetWritten => exact execAcceptedSetWritten_ends hs ..
  | laneFailure => exact execLaneFailure_ends hs ..
  | flitReceive => exact execFlitReceive_ends hs ..
  | flitReplayLimit => exact execFlitReplayLimit_ends hs ..
  | linkFence => exact execLinkFence_ends hs ..
  | laneRepairTrigger => exact execLaneRepairTrigger_ends hs ..
  | laneQuiesced => exact execLaneQuiesced_ends hs ..
  | laneSwitched => exact execLaneSwitched_ends hs ..
  | laneFailNoSpare => exact execLaneFailNoSpare_ends hs ..
  | laneGroupGrant => exact execLaneGroupGrant_ends hs ..
  | wordNotAnInstruction => exact execWordNotAnInstruction_ends hs ..
  | fetchFault => exact execFetchFault_ends hs ..

/-! ### How the machine goes on -/

@[simp] theorem State.forward_canonical (hs : s.Canonical) (ms : List Nat) (e : FwdEntry) : (s.forward ms e).Canonical := by
  unfold State.forward
  exact of_rules

@[simp] theorem groupAfter_canonical (s : State) (ht : t.Canonical) (n : Nat) (i : Instr) (w : HWord) :
    (groupAfter s t n i w).Canonical := by
  unfold groupAfter
  exact of_rules

@[simp] theorem State.holdLeader_canonical (hs : s.Canonical) (ms : List Nat) : (s.holdLeader ms).Canonical := by
  unfold State.holdLeader
  exact of_rules

@[simp] theorem State.run_ends (s : State) (ht : t.Canonical) (i : Instr) (w : HWord) : EndsCanonical (s.run t i w) := by
  unfold State.run
  cases hr : exec i t with
  | next u =>
    have hu := groupAfter_canonical s ((exec_ends ht i).canonical u hr) s.cur i w
    dsimp only
    cases hv : saveWaiting s.cur (groupAfter s u s.cur i w) with
    | ok a v => exact (endsCanonical_next _).2 ((saveWaiting_keeps _).ok hu hv)
    | error stop v => exact (endsCanonical_next _).2 (State.unless_canonical hu _)
  | fault r => exact endsCanonical_fault r
  | refused r => exact endsCanonical_refused r

@[simp] theorem State.runWord_ends (s : State) (ht : t.Canonical) (w : HWord) : EndsCanonical (s.runWord t w) := by
  unfold State.runWord
  cases decode w with
  | ok i => exact State.run_ends s ht i w
  | error e => exact execWordNotAnInstruction_ends ht w

@[simp] theorem State.noWord_ends (hs : s.Canonical) (ht : t.Canonical) (stop : Stop) : EndsCanonical (s.noWord t stop) := by
  unfold State.noWord
  cases stop with
  | hold => exact (endsCanonical_next _).2 ht
  | recalls L => exact (endsCanonical_next _).2 (State.askRecall_canonical hs L)
  | absent => exact (endsCanonical_next _).2 (State.postFault_canonical hs _ _ _ _ _ _)
  | trap => exact ⟨fun _ h => endStep_canonical hs ht h⟩

@[simp] theorem State.issue_ends (hs : s.Canonical) : EndsCanonical s.issue := by
  unfold State.issue
  extract_lets c
  split
  · exact State.haltStep_ends hs
  · split
    · split
      · exact State.run_ends s hs _ _
      · exact (endsCanonical_next _).2 hs
    · split
      · split
        · exact State.runWord_ends s hs _
        · exact (endsCanonical_next _).2 (groupAfter_canonical s ((State.modCore_canonical _ _ _).2 hs) _ _ _)
      · split
        · exact State.runWord_ends s hs _
        · cases hr : fetchNth 0 s with
          | ok w t =>
            have ht := (fetchNth_keeps 0).ok hs hr
            dsimp only
            split
            · exact State.runWord_ends s ht _
            · exact (endsCanonical_next _).2 (State.holdLeader_canonical hs _)
          | error stop t => exact State.noWord_ends hs ((fetchNth_keeps 0).error hs hr) _

@[simp] theorem State.receive_ends (hs : s.Canonical) (m : Msg) : EndsCanonical (s.receive m) := by
  unfold State.receive
  exact of_rules

@[simp] theorem keepUndone_ends {r : Step} (hr : EndsCanonical r) (k : Nat) (w : Task) (since : Nat) :
    EndsCanonical (keepUndone k w since r) := by
  unfold keepUndone
  cases r with
  | next t =>
    have ht := (endsCanonical_next _).1 hr
    dsimp only
    cases t.undone with
    | none => exact hr
    | some on => exact (endsCanonical_next _).2 (State.canonical_ite ht ht)
  | fault r => exact hr
  | refused r => exact hr

@[simp] theorem State.arrive_ends (hs : s.Canonical) (k : Nat) : EndsCanonical (s.arrive k) := by
  unfold State.arrive
  split
  · exact (endsCanonical_next _).2 hs
  · exact keepUndone_ends (State.receive_ends (s := { s with flight := s.flight.eraseIdx k }) hs _) _ _ _

@[simp] theorem State.event_ends (hs : s.Canonical) (i : Instr) : EndsCanonical (s.event i) := by
  unfold State.event
  split
  · exact (endsCanonical_next _).2 hs
  · exact keepUndone_ends (exec_ends hs i) _ _ _

@[simp] theorem State.retryStep_ends (ht : t.Canonical) (on : Waits) (w : Task) : EndsCanonical (t.retryStep on w) := by
  unfold State.retryStep
  split
  · exact fabricGo_ends ht _ _ _
  · exact exec_ends ht _
  · exact State.receive_ends ht _

@[simp] theorem State.retry_ends (hs : s.Canonical) (k : Nat) : EndsCanonical (s.retry k) := by
  unfold State.retry
  split
  · exact (endsCanonical_next _).2 hs
  · extract_lets t behind
    have ht : t.Canonical := hs
    split
    · exact (endsCanonical_next _).2 hs
    · split
      · exact (endsCanonical_next _).2 (State.canonical_ite ht hs)
      · exact keepUndone_ends (State.retryStep_ends ht _ _) _ _ _

/-- Each engine's beat ends in a canonical state. -/
theorem State.engines_end (hs : s.Canonical) (n : Nat) : ∀ f ∈ s.engines n, EndsCanonical (f ()) := by
  unfold State.engines
  extract_lets c k u go on
  have hon {b : Bool} {f : Unit → Step} (hf : EndsCanonical (f ())) : ∀ g ∈ on b f, EndsCanonical (g ()) := by
    intro g hg
    dsimp only [on] at hg
    split at hg
    · rwa [List.mem_singleton.1 hg]
    · cases hg
  clear_value on
  have hcopy (e : CEntry) : EndsCanonical (if !e.started then execCopyCommandStart n s else if e.done then execCopyCommandComplete n s
      else execCopyBeat ((s.nextBeat k).getD n) s) := by
    split
    · exact execCopyCommandStart_ends hs _
    · split
      · exact execCopyCommandComplete_ends hs _
      · exact execCopyBeat_ends hs _
  simp only [List.forall_mem_append]
  refine ⟨⟨⟨⟨⟨⟨hon (execStorePerform_ends hs n), hon ?_⟩, hon ?_⟩, hon (execMatrixOpComplete_ends hs k)⟩, hon ?_⟩, ?_⟩, ?_⟩
  · split
    · exact execTileComplete_ends hs n
    · exact execLaneGroupGrant_ends hs _
  · exact execMatrixSelfTest_ends (s := { s with free := s.free + 1 }) hs _ _
  · split
    · exact execMatrixTransferComplete_ends hs n
    · exact execMatrixOpStart_ends hs k
  · cases c.cq with
    | nil => exact List.forall_mem_nil _
    | cons e r => exact hon (hcopy e)
  · cases c.nt with
    | nil => exact List.forall_mem_nil _
    | cons b r => exact hon (execStntBufferPerform_ends hs _ _)

theorem State.firstOf_ends (hs : s.Canonical) {fs : List (Unit → Step)} (hfs : ∀ f ∈ fs, EndsCanonical (f ())) :
    EndsCanonical (s.firstOf fs) := by
  induction fs with
  | nil => exact (endsCanonical_next _).2 hs
  | cons f fs ih =>
    have hf := hfs f (List.mem_cons_self ..)
    unfold State.firstOf
    cases hr : f () with
    | next t =>
      rw [hr] at hf
      dsimp only
      split
      · exact ih fun g hg => hfs g (List.mem_cons_of_mem _ hg)
      · exact hf
    | fault r => exact endsCanonical_fault r
    | refused r => exact endsCanonical_refused r

@[simp] theorem State.turn_ends (hs : s.Canonical) : EndsCanonical s.turn := by
  unfold State.turn
  extract_lets n save issue
  have hsave : EndsCanonical (save ()) := by
    dsimp only [save]
    cases hr : saveWaiting n s with
    | ok a t => exact (endsCanonical_next _).2 ((saveWaiting_keeps _).ok hs hr)
    | error e t => exact (endsCanonical_next _).2 hs
  have hissue : EndsCanonical (issue ()) := by
    dsimp only [issue]
    split
    · exact State.issue_ends hs
    · exact (endsCanonical_next _).2 hs
  clear_value save issue
  split
  · exact execAsyncMachineCheck_ends hs _
  · split
    · exact execForcedSaveTimeout_ends hs _
    · split
      · exact State.issue_ends hs
      · refine State.firstOf_ends hs ?_
        simp only [List.forall_mem_append, List.forall_mem_cons, List.forall_mem_map]
        exact ⟨⟨⟨⟨State.arrive_ends hs 0, List.forall_mem_nil _⟩, fun k _ => State.retry_ends hs k⟩, State.engines_end hs n⟩,
          hsave, hissue, List.forall_mem_nil _⟩

@[simp] theorem State.evict_canonical (hs : s.Canonical) (e : Evict) : (s.evict e).Canonical := by
  unfold State.evict
  exact of_rules

@[simp] theorem State.prefetch_canonical (hs : s.Canonical) (n : Nat) (va : Word) : (s.prefetch n va).Canonical := by
  unfold State.prefetch
  refine State.canonical_ite hs ?_
  cases hr : fetchMem va { s with cur := n } with
  | ok w t =>
    have ht := (fetchMem_keeps va).ok (s := { s with cur := n }) hs hr
    exact ht
  | error stop t => exact State.unless_canonical hs _

@[simp] theorem State.pass_canonical (hs : s.Canonical) (n : Nat) (rest : List Move) : (s.pass n rest).Canonical := by
  unfold State.pass
  exact of_rules

@[simp] theorem State.damage_canonical (hs : s.Canonical) (w : Nat) : (s.damage w).Canonical := by
  unfold State.damage
  exact of_rules

@[simp] theorem State.damageL1_canonical (hs : s.Canonical) (k line i : Nat) : (s.damageL1 k line i).Canonical := by
  unfold State.damageL1
  exact of_rules

@[simp] theorem State.move_ends (hs : s.Canonical) (m : Move) (rest : List Move) : EndsCanonical (s.move m rest) := by
  unfold State.move
  exact of_rules

@[simp] theorem settle_ends {r : Step} (hr : EndsCanonical r) : EndsCanonical (settle r) := by
  unfold settle
  cases r with
  | next t =>
    have ht := (endsCanonical_next _).1 hr
    exact (endsCanonical_next _).2 (State.canonical_ite (State.foldl_canonical (fun _ _ h => State.swapCheck_canonical h _) ht) ht)
  | fault r => exact hr
  | refused r => exact hr

@[simp] theorem State.next_ends (hs : s.Canonical) : EndsCanonical s.next := by
  unfold State.next
  split
  · split
    · exact State.move_ends hs _ _
    · exact (endsCanonical_next _).2 hs
  · refine settle_ends ?_
    split
    · exact execSamplingPulse_ends hs
    · split
      · exact State.move_ends hs _ _
      · exact State.turn_ends hs

/-! ### The obligation -/

/-- Settles O56. Memory and tags are written only through the operations of the parts of the state, each of which keeps the canonical
form; every instruction, event and internal step is made of these, and a step of the machine is one of them. -/
theorem stepCanonical : Obligations.StepCanonical := by
  unfold Obligations.StepCanonical
  exact fun s t hs h => (State.next_ends hs).canonical t h

end Sys2Proof.Machine
end

section
/-! PROOFS. O57: the machine right after reset.

Reset lists nothing, so every part of the state reads as its own reset value: one rule per part. Only the g registers need more than that:
reading one looks for a banked register, which a core at K does not have (R81). -/

namespace Sys2Proof.Machine

/-! ### The parts of the state after reset -/

@[simp] theorem State.core_reset (n : Nat) : State.reset.core n = Core.reset := AMap.get_nil _ n
@[simp] theorem State.cluster_reset (k : Nat) : State.reset.cluster k = Cluster.reset := AMap.get_nil _ k
@[simp] theorem State.layer_reset (l : Nat) : State.reset.layer l = Layer.reset l := AMap.get_nil _ l
@[simp] theorem State.tower_reset (t : Nat) : State.reset.tower t = Tower.reset := AMap.get_nil _ t
@[simp] theorem State.ctx_reset (x : Nat) : State.reset.ctx x = Context.reset := AMap.get_nil _ x
@[simp] theorem State.link_reset (p : Nat) : State.reset.link p = Link.reset := AMap.get_nil _ p
@[simp] theorem State.dir_reset (L : Nat) : State.reset.dir L = Dir.reset := AMap.get_nil _ L
@[simp] theorem State.counter_reset (L : Nat) : State.reset.counter L = none := rfl

/-- Nothing is listed in memory, and nothing in the tags. -/
theorem State.canonical_reset : State.reset.Canonical := by
  obtain ⟨hmem, htags⟩ := reset_canonical
  unfold State.Canonical
  rw [hmem, htags]
  exact ⟨rfl, rfl⟩

@[simp] theorem State.mem_get_reset (a : Nat) : State.reset.mem.get 0 a = 0 := AMap.get_nil _ a
@[simp] theorem State.tags_get_reset (w : Nat) : State.reset.tags.get labelTrue w = labelTrue := AMap.get_nil _ w

/-! ### The units after reset -/

@[simp] theorem Cluster.line_reset (e : Fin 32) : Cluster.reset.line e = ⟨0, 0, 0⟩ := by
  simp [Cluster.line, Cluster.reset]

/-- Entry h of the slice table names slice h modulo 16. -/
@[simp] theorem Tower.sht_reset : Tower.reset.sht = (List.range 64).map (· % 16) := rfl

/-! ### The registers of a core after reset -/

/-- A core at K has no banked registers. -/
@[simp] theorem bankOf_reset (r : GReg) : bankOf Core.reset r = none := by
  have hK : Core.reset.atS = false := rfl
  simp [bankOf, hK]

@[simp] theorem Core.rg_reset (r : GReg) : Core.reset.rg r = 0 := by
  have hg : Core.reset.g = Vector.replicate 32 0 := rfl
  simp [Core.rg, hg]

@[simp] theorem Core.lg_reset (r : GReg) : Core.reset.lg r = labelTrue := by
  have hgl : Core.reset.gl = Vector.replicate 32 labelTrue := rfl
  simp [Core.lg, hgl]

/-! ### The obligation -/

/-- Settles O57. Every part of the state reads as its reset value; the g registers are those that the core at K reads. -/
theorem resetState : Obligations.ResetState := by
  unfold Obligations.ResetState
  refine ⟨State.canonical_reset, State.mem_get_reset, State.tags_get_reset, rfl, rfl, rfl, rfl, ?contexts, ?links, ?lines, ?layers, ?towers,
    ?clusters, ?cores⟩
  case contexts =>
    intro x
    rw [State.ctx_reset]
    exact ⟨rfl, rfl, rfl, rfl, rfl⟩
  case links =>
    intro p
    rw [State.link_reset]
    rfl
  case lines => exact fun L => ⟨State.dir_reset L, State.counter_reset L⟩
  case layers =>
    intro l
    rw [State.layer_reset]
    exact ⟨rfl, rfl⟩
  case towers =>
    intro t
    rw [State.tower_reset]
    exact ⟨Tower.sht_reset, rfl, rfl⟩
  case clusters =>
    intro k
    rw [State.cluster_reset]
    exact ⟨rfl, rfl, Cluster.line_reset⟩
  case cores =>
    intro n
    rw [State.core_reset]
    have hg (r : GReg) : Core.reset.rg r = 0 ∧ Core.reset.lg r = labelTrue := ⟨Core.rg_reset r, Core.lg_reset r⟩
    exact ⟨rfl, hg, rfl, rfl, rfl, rfl, rfl, rfl, rfl, rfl, rfl, rfl, rfl, rfl, rfl, rfl, rfl, rfl, rfl, rfl, rfl, rfl, rfl⟩

end Sys2Proof.Machine
end

section
/-! PROOFS. O20: MTC of the control registers.

Most registers are fields of the core: `Core.mtc` is one check and one update for each, and `mtc_core` carries any such rule over to the
instruction. The others are registers of the context. FBDEPTH, FBSTAT and TRACECTL need a plinth's write to memory; it leaves the current
core the current one, so that the core that issued the MTC is the one that goes on. -/

open Sys2Proof.Claims

namespace Sys2Proof.Machine

/-! ### What a plinth's write leaves unchanged: the core that acts -/

/-- A fold over states keeps the current core where every step of it does. -/
theorem State.foldl_cur {α : Type} {f : State → α → State} (hf : ∀ s a, (f s a).cur = s.cur) (l : List α) (s : State) :
    (l.foldl f s).cur = s.cur :=
  foldl_keeps (P := fun t => t.cur = s.cur) l f (fun t a ht => (hf t a).trans ht) rfl

@[simp] theorem State.askRecall_cur (s : State) (L : Nat) : (s.askRecall L).cur = s.cur := by
  unfold State.askRecall
  split <;> rfl

@[simp] theorem State.foldUnder_cur (s : State) (k n : Nat) : (s.foldUnder k n).cur = s.cur := by
  unfold State.foldUnder
  extract_lets L hit mem t₁ t₂ t₃
  have h₂ : t₂.cur = s.cur := State.foldl_cur (fun s e => by split <;> rfl) _ t₁
  have h₃ : t₃.cur = t₂.cur := State.foldl_cur (fun s t => by dsimp only; split <;> rfl) _ t₂
  split
  · rfl
  · rw [State.askRecall_cur, h₃, h₂]

@[simp] theorem State.wakeLocal_cur (s : State) (k : Nat) : (s.wakeLocal k).cur = s.cur := by
  unfold State.wakeLocal
  split
  · rfl
  · split <;> rfl

@[simp] theorem State.poke_cur (s : State) (k v n : Nat) : (s.poke k v n).cur = s.cur := State.wakeLocal_cur _ k

@[simp] theorem State.dropLeases_cur (s : State) (k n : Nat) : (s.dropLeases k n).cur = s.cur := by
  unfold State.dropLeases
  dsimp only
  split <;> rfl

@[simp] theorem State.stampLine_cur (s : State) (L : Nat) : (s.stampLine L).cur = s.cur := by
  unfold State.stampLine
  split
  · exact State.foldl_cur (fun s t => by dsimp only; split <;> rfl) _ (s.raiseMts L (s.homeStamp L))
  · rfl

@[simp] theorem State.plinthWrite_cur (s : State) (k v n : Nat) : (s.plinthWrite k v n).cur = s.cur :=
  calc (s.plinthWrite k v n).cur
    _ = ((((s.foldUnder k n).poke k v n).dropLeases k n).stampLine (lineOf k)).cur := rfl
    _ = s.cur := by simp

/-! ### The writes of the context's registers that reach memory -/

@[simp] theorem State.clearFaults_cur (s : State) (x : Nat) (w : Word) : (s.clearFaults x w).cur = s.cur := by
  refine State.foldl_cur (fun s l => ?_) _ s
  split
  · rw [State.modCtx_cur, State.plinthWrite_cur]
  · rfl

@[simp] theorem State.freshBuffers_cur (s : State) (x : Nat) : (s.freshBuffers x).cur = s.cur :=
  State.foldl_cur (fun s _ => s.plinthWrite_cur _ _ _) _ s

@[simp] theorem State.setFbdepth_cur (s : State) (x : Nat) (w : Word) : (s.setFbdepth x w).cur = s.cur := by
  unfold State.setFbdepth
  dsimp only
  split
  · rfl
  · rw [State.freshBuffers_cur, State.modCtx_cur]

@[simp] theorem State.writeTracectl_cur (s : State) (x : Nat) (w : Word) : (s.writeTracectl x w).cur = s.cur := by
  unfold State.writeTracectl
  dsimp only
  split
  · rw [State.plinthWrite_cur, State.modCtx_cur]
  · rfl

/-! ### The Fullers of a context take a nogood set -/

/-- An update of each cluster of a list that does nothing the second time. -/
theorem State.foldl_modCluster_cluster {f : Cluster → Cluster} (hf : ∀ c, f (f c) = f c) (l : List Nat) (s : State) (k : Nat) :
    (l.foldl (fun s j => s.modCluster j f) s).cluster k = if k ∈ l then f (s.cluster k) else s.cluster k := by
  induction l generalizing s with
  | nil => rfl
  | cons j l ih =>
    rw [List.foldl_cons, ih]
    by_cases hj : k = j
    · simp [hj, hf]
    · simp [hj, State.modCluster_cluster_ne s f hj]

/-- An update of clusters changes nothing but the clusters. -/
theorem State.foldl_modCluster_frame (f : Cluster → Cluster) (l : List Nat) (s : State) :
    let t := l.foldl (fun s j => s.modCluster j f) s
    t.cur = s.cur ∧ t.cores = s.cores ∧ t.ctxs = s.ctxs :=
  foldl_keeps (P := fun t : State => t.cur = s.cur ∧ t.cores = s.cores ∧ t.ctxs = s.ctxs) l (fun s j => s.modCluster j f)
    (fun _ _ ht => ht) ⟨rfl, rfl, rfl⟩

/-- With no label space active, every Fuller of the context takes the empty set and drops its products, and nothing but the clusters
changes (R173). -/
theorem installAll_inactive {w : Who} {s : State} (h : lspaceEn (s.ctx w.ctx).lspace = false) :
    ∃ t, installAll w s = .ok () t ∧ (∀ k ∈ s.clustersOfCtx w.ctx, t.cluster k = (s.cluster k).install []) ∧
      t.cur = s.cur ∧ t.cores = s.cores ∧ t.ctxs = s.ctxs := by
  have hspace : spaceOf w s = .ok none s := by simp [spaceOf, h]
  refine ⟨(s.clustersOfCtx w.ctx).foldl (fun s k => s.modCluster k (fun c => c.install [])) s, ?runs, fun k hk => ?installed,
    State.foldl_modCluster_frame _ _ s⟩
  case runs => simp [installAll, M.run_bind, hspace]
  case installed =>
    rw [State.foldl_modCluster_cluster (f := fun c => c.install []) (fun _ => rfl), if_pos hk]

/-! ### MTC of a register of the core -/

/-- At S the check for level S passes. -/
theorem needS_atS {s : State} (h : s.me.atS = true) : needS s = .ok () s := by
  simp [needS, orRaise, M.run_bind, h]

theorem mtcNeedsS_iff (n : Nat) : mtcNeedsS n = true ↔ n = 2 ∨ n = 5 ∨ n = 15 ∨ n = 16 ∨ 24 ≤ n := by
  simp [mtcNeedsS, or_assoc]

/-- The registers that an MTC without an instruction of its own writes into the core (R82); TVEC and FBDEPTH are the context's. -/
def coreRegisters : List Nat := [2, 4, 5, 7, 9, 10, 11, 12, 13, 14, 15, 17, 18, 19, 20, 21, 22, 23, 25, 26, 27, 28, 31]

theorem coreRegisters_writable :
    ∀ n ∈ coreRegisters, n ≤ 32 ∧ mtcReadOnly n = false ∧ n ≠ 16 ∧ n ≠ 24 ∧ n ≠ 29 := by decide

/-- MTC of a register of the core, at a level that may write it, does what `Core.mtc` says of the register (R343). -/
theorem exec_mtc_core {s : State} {ra : GReg} {r : BitVec 6} (hr : r.toNat ∈ coreRegisters)
    (hS : mtcNeedsS r.toNat = true → s.me.atS = true) :
    exec (.mtc r ra) s = match s.me.mtc r.toNat (s.me.rg ra) with
      | .ok c => .next (s.modCore s.cur (fun _ => c.past))
      | .error mark => .next ((s.keepLoss s).trapInstr s.cur (Instr.mtc r ra).word .illegal (.word mark)) := by
  obtain ⟨hmax, hro, -, h24, h29⟩ := coreRegisters_writable _ hr
  have hmax : ¬ 32 < r.toNat := Nat.not_lt.2 hmax
  have h24 : r ≠ 24#6 := fun h => h24 (congrArg BitVec.toNat h)
  have h29 : r ≠ 29#6 := fun h => h29 (congrArg BitVec.toNat h)
  have hlevel (k : PUnit → M Unit) : (if mtcNeedsS r.toNat = true then needS >>= k else k ⟨⟩) s = k ⟨⟩ s := by
    split
    next h => exact M.bind_ok s s (needS_atS (hS h))
    next => rfl
  show execMtc r ra s = _
  unfold execMtc
  cases hm : s.me.mtc r.toNat (s.me.rg ra) with
  | ok c => exact runI_ok (by simp [hmax, hro, h24, h29, hlevel, hm, M.run_bind])
  | error mark =>
    refine runI_trap ?_
    cases mark with
    | true => simp [hmax, hro, h24, h29, hlevel, hm, M.run_bind]
    | false => simp [hmax, hro, h24, h29, hlevel, hm, M.run_bind]

/-- Where `Core.mtc` checks b and updates by f, MTC makes the update where the check holds, and raises ILLEGAL where it does not. -/
theorem mtc_core {s : State} {ra : GReg} {r : BitVec 6} {n : Nat} {ok : Prop} {b mark : Bool} {f : Core → Core}
    (hn : n ∈ coreRegisters) (hrule : s.me.mtc n (s.me.rg ra) = if b = true then .ok (f s.me) else .error mark) (hb : b = true ↔ ok)
    (hr : r.toNat = n) (hS : n = 2 ∨ n = 5 ∨ n = 15 ∨ 24 ≤ n → s.me.atS = true) :
    (ok → Sets (.mtc r ra) s f) ∧ (¬ok → Traps (.mtc r ra) s .illegal (.word mark)) := by
  subst hr
  have hlevel (h : mtcNeedsS r.toNat = true) : s.me.atS = true := by
    obtain ⟨-, -, h16, -, -⟩ := coreRegisters_writable _ hn
    rw [mtcNeedsS_iff] at h
    exact hS (by simpa only [h16, false_or] using h)
  have hexec := exec_mtc_core (ra := ra) hn hlevel
  rw [hrule] at hexec
  constructor
  · intro hok
    rw [if_pos (hb.2 hok)] at hexec
    exact hexec
  · intro hok
    rw [if_neg (mt hb.1 hok)] at hexec
    exact hexec

/-- A register whose rule admits every value. -/
theorem mtc_core_any {s : State} {ra : GReg} {r : BitVec 6} {n : Nat} {f : Core → Core} (hn : n ∈ coreRegisters)
    (hrule : s.me.mtc n (s.me.rg ra) = .ok (f s.me)) (hr : r.toNat = n) (hS : n = 2 ∨ n = 5 ∨ n = 15 ∨ 24 ≤ n → s.me.atS = true) :
    (True → Sets (.mtc r ra) s f) ∧ (¬True → Traps (.mtc r ra) s .illegal (.word false)) :=
  mtc_core (b := true) hn hrule (by simp) hr hS

/-- DOMAIN refuses reserved bits and sizes that do not fit; the bits of KCLUS stay (R266). -/
theorem Core.mtc_domain (c : Core) (w : Word) :
    c.mtc 2 w = if (decide (w.toNat < 2 ^ 44) && domainOk w) = true then
      .ok { c with domain := (c.domain &&& ~~~0x1FFFFFFFF#64) ||| (w &&& 0x1FFFFFFFF#64) } else .error true := by
  have hrule : c.mtc 2 w = if (decide (2 ^ 44 ≤ w.toNat) || !domainOk w) = true then .error true else
      .ok { c with domain := overlay c.domain w 0x1FFFFFFFF } := rfl
  have hbad : (decide (2 ^ 44 ≤ w.toNat) || !domainOk w) = !(decide (w.toNat < 2 ^ 44) && domainOk w) := by
    rw [Bool.not_and, ← decide_not, decide_eq_decide.2 Nat.not_lt]
  rw [hrule, hbad]
  cases decide (w.toNat < 2 ^ 44) && domainOk w <;> rfl

/-- VSHARE and MWEIGHT hold a number from 1 to 15. -/
theorem count15_iff (v : Nat) : (decide (0 < v) && decide (v < 16)) = true ↔ 1 ≤ v ∧ v ≤ 15 := by
  rw [Bool.and_eq_true, decide_eq_true_iff, decide_eq_true_iff, Nat.lt_succ_iff, Nat.succ_le_iff]

theorem below8_iff (v : Nat) : decide (v < 8) = true ↔ v ≤ 7 := decide_eq_true_iff.trans Nat.lt_succ_iff

/-! ### The registers with an instruction of their own, and those of the context -/

section
variable {s : State} {ra : GReg}

theorem mtcFflags_sets (hw : (s.me.rg ra).toNat < 32) (hvq : s.me.vq = []) :
    Sets (.mtcFflags ra) s (fun c => { c with fflags := s.me.rg ra }) := by
  have hdone : s.me.flagsPending = false := by simp [Core.flagsPending, hvq]
  have hrun : execMtcFflags ra s = .next (s.modCore s.cur (fun c => { c with fflags := c.rg ra }.past)) :=
    runI_ok (by simp [M.run_bind, Nat.not_le.2 hw, hdone])
  exact hrun

theorem mtcSrseed_sets (s : State) (ra : GReg) :
    Sets (.mtcSrseed ra) s (fun c => { c with srseed := if s.me.rg ra = 0 then 0x6C8E9CF5701342B1 else s.me.rg ra }) := by
  have hrun : execMtcSrseed ra s =
      .next (s.modCore s.cur (fun c => { c with srseed := if c.rg ra = 0 then seedReset else c.rg ra }.past)) :=
    runI_ok (by simp [M.run_bind])
  exact hrun

/-- A core with nothing queued or buffered has no label product in flight. -/
theorem Core.labelsInFlight_idle {c : Core} (h : Idle c) : c.labelsInFlight = false := by
  obtain ⟨hsb, hnt, hvq, hmq, hcq, -⟩ := h
  simp [Core.labelsInFlight, hsb, hnt, hvq, hmq, hcq]

/-- LSPACE set to zero where no space was active: no region is read or retired, and every Fuller of the context takes the empty set
(R173). -/
theorem exec_mtcLspace_zero (hS : s.me.atS = true) (hw : s.me.rg ra = 0) (hidle : Idle s.me)
    (hoff : lspaceEn (s.ctx (s.ctxOf s.cur)).lspace = false) :
    ∃ t, exec (.mtcLspace ra) s = .next t ∧ (t.ctx (s.ctxOf s.cur)).lspace = 0 ∧
      (∀ k ∈ s.clustersOfCtx (s.ctxOf s.cur), (t.cluster k).filter = [] ∧ (t.cluster k).pcache = []) ∧ t.me = s.me.past := by
  have hzero : lspaceEn 0#64 = false := rfl
  have hinactive : lspaceEn ((s.modCtx (s.ctxOf s.cur) (fun c => { c with lspace := 0#64 })).ctx (s.ctxOf s.cur)).lspace = false := by
    rw [State.modCtx_ctx]
    exact hzero
  obtain ⟨t, hinstall, hclusters, hcur, hcores, hctxs⟩ := installAll_inactive (w := s.who s.cur) hinactive
  refine ⟨t.modCore t.cur Core.past, ?runs, ?lspace, fun k hk => ?fullers, ?core⟩
  case runs => exact runI_ok (by simp [M.run_bind, needS_atS hS, Core.labelsInFlight_idle hidle, hw, hzero, hoff, hinstall])
  case lspace =>
    rw [State.modCore_ctx_other, State.ctx, hctxs, ← State.ctx, State.modCtx_ctx]
    rfl
  case fullers =>
    rw [State.modCore_cluster_other, hclusters k hk]
    exact ⟨rfl, rfl⟩
  case core =>
    have hme : t.me = s.me := by
      rw [State.me, State.core, hcores, hcur]
      rfl
    rw [State.modCore_me, hme]

theorem exec_mtcFbstat (hS : s.me.atS = true) :
    exec (.mtcFbstat ra) s = .next ((s.clearFaults (s.ctxOf s.cur) (s.me.rg ra)).modCore s.cur Core.past) :=
  runI_ok (by simp [M.run_bind, needS_atS hS])

theorem exec_mtcTracectl (hS : s.me.atS = true) (hok : s.tracectlOk (s.ctxOf s.cur) (s.me.rg ra) = true) :
    exec (.mtcTracectl ra) s = .next ((s.writeTracectl (s.ctxOf s.cur) (s.me.rg ra)).modCore s.cur Core.past) :=
  runI_ok (by simp [M.run_bind, needS_atS hS, hok])

theorem exec_mtc_tvec (hS : s.me.atS = true) (hmax : (s.me.rg ra).toNat < 2 ^ 48) (halign : (s.me.rg ra).toNat % 4 = 0) :
    exec (.mtc 24 ra) s = .next ((s.modCtx (s.ctxOf s.cur) (fun c => { c with tvec := s.me.rg ra })).modCore s.cur Core.past) := by
  have hpriv : mtcNeedsS 24 = true := rfl
  simp only [Nat.reducePow] at hmax
  exact runI_ok (by simp [M.run_bind, needS_atS hS, hpriv, mtcReadOnly, hmax, halign])

theorem exec_mtc_fbdepth (hS : s.me.atS = true) (hok : s.fbdepthOk (s.ctxOf s.cur) (s.me.rg ra) = true) :
    exec (.mtc 29 ra) s = .next ((s.setFbdepth (s.ctxOf s.cur) (s.me.rg ra)).modCore s.cur Core.past) := by
  have hpriv : mtcNeedsS 29 = true := rfl
  exact runI_ok (by simp [M.run_bind, needS_atS hS, hpriv, mtcReadOnly, hok])

end

/-! ### The obligation -/

/-- Settles O20. A register of the core follows from its rule in `Core.mtc`; the others have a lemma each. -/
theorem writeControl : Obligations.WriteControl := by
  unfold Obligations.WriteControl
  refine ⟨fun s ra r => ?core, fun s ra => ?others⟩
  case core =>
    extract_lets w v sets
    refine ⟨?domain, ?shape, ?vshare, ?frm, ?fmta, ?fmtb, ?scla, ?sclb, ?supa, ?supb, ?mweight, ?lflags, ?focusLow, ?focusHigh, ?brbuf,
      ?bwbuf, ?brptr, ?bwptr, ?ecause, ?epc, ?einfo, ?status, ?preempt⟩
    case domain => exact mtc_core (by decide) (Core.mtc_domain _ w) (by rw [Bool.and_eq_true, decide_eq_true_iff])
    case shape => exact mtc_core (by decide) rfl Iff.rfl
    case vshare => exact mtc_core (by decide) rfl (count15_iff v)
    case frm => exact mtc_core (by decide) rfl (decide_eq_true_iff.trans Nat.lt_succ_iff)
    case fmta => exact mtc_core (by decide) rfl (below8_iff v)
    case fmtb => exact mtc_core (by decide) rfl (below8_iff v)
    case scla => exact mtc_core (by decide) rfl Iff.rfl
    case sclb => exact mtc_core (by decide) rfl Iff.rfl
    case supa => exact mtc_core (by decide) rfl Iff.rfl
    case supb => exact mtc_core (by decide) rfl Iff.rfl
    case mweight => exact mtc_core (by decide) rfl (count15_iff v)
    case lflags => exact mtc_core (by decide) rfl (below8_iff v)
    case focusLow => exact mtc_core_any (by decide) rfl
    case focusHigh => exact mtc_core_any (by decide) rfl
    case brbuf => exact mtc_core_any (by decide) rfl
    case bwbuf => exact mtc_core_any (by decide) rfl
    case brptr => exact mtc_core (by decide) rfl (by
      rw [Bool.and_eq_true, Bool.and_eq_true, decide_eq_true_iff, decide_eq_true_iff, beq_iff_eq, and_assoc]
      rfl)
    case bwptr => exact mtc_core (by decide) rfl (by rw [Bool.and_eq_true, decide_eq_true_iff, beq_iff_eq])
    case ecause => exact mtc_core (by decide) rfl beq_iff_eq
    case epc => exact mtc_core (by decide) rfl decide_eq_true_iff
    case einfo => exact mtc_core_any (by decide) rfl
    case status => exact mtc_core (by decide) rfl beq_iff_eq
    case preempt => exact mtc_core (by decide) rfl (below8_iff v)
  case others =>
    exact ⟨mtcFflags_sets, mtcSrseed_sets s ra, fun hS => ⟨exec_mtcLspace_zero hS, exec_mtcFbstat hS, exec_mtcTracectl hS,
      exec_mtc_tvec hS, exec_mtc_fbdepth hS⟩⟩

end Sys2Proof.Machine
end

section
/-! PROOFS. O1, O2 and O3: words and instructions.

A word is the word of a form exactly where each field of the word holds what the form puts there (`formT_eq_iff` and its like), and a field
that is itself made of parts splits in the same way (`append_eq_iff`). Encoding an instruction and decoding its word therefore speak of the
same equations between fields: O1 reads them off the encoder and gives them to the decoder, O2 the other way round. -/

namespace Sys2Proof

-- As the tests do: so many short proofs at once take more threads than the check's memory holds.
set_option Elab.async false

/-! ### Words and their fields (R57) -/

/-- A part of a part of a word is a part of the word. -/
@[simp] theorem extractLsb'_extractLsb' {n : Nat} (x : BitVec n) {i j k l : Nat} (h : i + k ≤ l) :
    (x.extractLsb' j l).extractLsb' i k = x.extractLsb' (j + i) k := by
  ext b hb
  simp [show i + b < l by omega, Nat.add_assoc]

/-- Bit i of a word, as a part of it. -/
theorem ofBool_getElem {n i : Nat} {x : BitVec n} (h : i < n) : BitVec.ofBool x[i] = x.extractLsb' i 1 := by
  ext j hj
  obtain rfl : j = 0 := by omega
  simp [h]

/-- A bit that a part of one bit gives. -/
theorem getLsbD_of_part {n i : Nat} {x : BitVec n} {v : Bool} (h : BitVec.ofBool v = x.extractLsb' i 1) : x.getLsbD i = v := by
  rw [BitVec.getLsbD_eq_extractLsb', ← h]
  cases v <;> rfl

theorem getLsbD_eq_iff {n i : Nat} {x : BitVec n} {v : Bool} : x.getLsbD i = v ↔ BitVec.ofBool v = x.extractLsb' i 1 := by
  refine ⟨?_, getLsbD_of_part⟩
  rintro rfl
  rw [BitVec.getLsbD_eq_extractLsb']
  generalize x.extractLsb' i 1 = b
  revert b; decide

theorem three_eq_iff {k : BitVec 2} : 3#2 = k ↔ k ≠ 0#2 ∧ k ≠ 1#2 ∧ k ≠ 2#2 := by
  revert k; decide

theorem eight_cases (n : BitVec 3) : n = 0 ∨ n = 1 ∨ n = 2 ∨ n = 3 ∨ n = 4 ∨ n = 5 ∨ n = 6 ∨ n = 7 := by
  revert n; decide

-- simp finds the rule by the append alone: the widths in the type of a goal are numerals, which do not show the sum.
theorem append_eq_iff {n m : Nat} {x : BitVec n} {y : BitVec m} {w : BitVec (n + m)} :
    @Eq (no_index (BitVec (n + m))) (@HAppend.hAppend _ _ (no_index (BitVec (n + m))) _ x y) w ↔
      x = w.extractLsb' m n ∧ y = w.extractLsb' 0 m :=
  ⟨by rintro rfl; exact ⟨BitVec.extractLsb'_append_eq_left.symm, BitVec.extractLsb'_append_eq_right.symm⟩,
    by rintro ⟨rfl, rfl⟩; exact BitVec.extractLsb'_append_extractLsb'⟩

theorem eq_opcode_iff {op : BitVec 6} {w : HWord} : op = w.extractLsb' 26 6 ↔ op.toNat = opOf w := BitVec.toNat_inj.symm

section
variable {op : BitVec 6} {w : HWord}

theorem formT_eq_iff {d a b : BitVec 5} {f : BitVec 11} :
    formT op d a b f = w ↔ op.toNat = opOf w ∧ d = fD w ∧ a = fA w ∧ b = fB w ∧ f = fF11 w := by
  simp [formT, append_eq_iff, eq_opcode_iff, fD, fA, fB, fF11, and_assoc]

theorem formI_eq_iff {d a : BitVec 5} {i : BitVec 16} :
    formI op d a i = w ↔ op.toNat = opOf w ∧ d = fD w ∧ a = fA w ∧ i = fImm16 w := by
  simp [formI, append_eq_iff, eq_opcode_iff, fD, fA, fImm16, and_assoc]

theorem formL_eq_iff {d : BitVec 5} {i : BitVec 21} :
    formL op d i = w ↔ op.toNat = opOf w ∧ d = fD w ∧ i = w.extractLsb' 0 21 := by
  simp [formL, append_eq_iff, eq_opcode_iff, fD, and_assoc]

theorem formJ_eq_iff {o : BitVec 26} : formJ op o = w ↔ op.toNat = opOf w ∧ o = w.extractLsb' 0 26 := by
  simp [formJ, append_eq_iff, eq_opcode_iff]

theorem formB_eq_iff {c : BitVec 3} {a b : BitVec 5} {o : BitVec 13} :
    formB op c a b o = w ↔
      op.toNat = opOf w ∧ c = w.extractLsb' 23 3 ∧ a = w.extractLsb' 18 5 ∧ b = w.extractLsb' 13 5 ∧ o = w.extractLsb' 0 13 := by
  simp [formB, append_eq_iff, eq_opcode_iff, and_assoc]

theorem formM_eq_iff {d a : BitVec 5} {z : BitVec 3} {r : BitVec 2} {o : BitVec 11} :
    formM op d a z r o = w ↔
      op.toNat = opOf w ∧ d = fD w ∧ a = fA w ∧ z = w.extractLsb' 13 3 ∧ r = w.extractLsb' 11 2 ∧ o = fF11 w := by
  simp [formM, append_eq_iff, eq_opcode_iff, fD, fA, fF11, and_assoc]

theorem formQ_eq_iff {d a b c : BitVec 5} {f : BitVec 6} :
    formQ op d a b c f = w ↔ op.toNat = opOf w ∧ d = fD w ∧ a = fA w ∧ b = fB w ∧ c = fC w ∧ f = fF6 w := by
  simp [formQ, append_eq_iff, eq_opcode_iff, fD, fA, fB, fC, fF6, and_assoc]

theorem formV_eq_iff {d a b : BitVec 4} {p : BitVec 3} {t : BitVec 4} {f : BitVec 7} :
    formV op d a b p t f = w ↔
      op.toNat = opOf w ∧ d = vD w ∧ a = vA w ∧ b = vB w ∧ p = vP w ∧ t = vTc w ∧ f = w.extractLsb' 0 7 := by
  simp [formV, append_eq_iff, eq_opcode_iff, vD, vA, vB, vP, vTc, and_assoc]

theorem formS_eq_iff {f : BitVec 10} {d a : BitVec 5} {i : BitVec 6} :
    formS f d a i = w ↔
      0 = opOf w ∧ f = w.extractLsb' 16 10 ∧ d = w.extractLsb' 11 5 ∧ a = w.extractLsb' 6 5 ∧ i = w.extractLsb' 0 6 := by
  have hop : 0#6 = w.extractLsb' 26 6 ↔ 0 = opOf w := eq_opcode_iff
  simp [formS, append_eq_iff, hop, and_assoc]

theorem formP_eq_iff {n k sd sa sb : BitVec 4} :
    formP op n k sd sa sb = w ↔ op.toNat = opOf w ∧ n = w.extractLsb' 22 4 ∧ k = w.extractLsb' 18 4 ∧ sd = w.extractLsb' 14 4 ∧
      sa = w.extractLsb' 10 4 ∧ sb = w.extractLsb' 6 4 ∧ 0 = fF6 w := by
  simp [formP, append_eq_iff, eq_opcode_iff, fF6, and_assoc]

/-! ### Fields made of parts (R63 to R79) -/

/-- GUARD: two zero bits, invert, the predicate. -/
theorem guardField_eq_iff {i : BitVec 6} {z : BitVec 2} {v : BitVec 1} {n : BitVec 3} :
    z ++ v ++ n = i ↔ z = i.extractLsb' 4 2 ∧ v = i.extractLsb' 3 1 ∧ n = i.extractLsb' 0 3 := by
  simp [append_eq_iff, and_assoc]

/-- LUI: two zero bits, the K bit, the half-word's place, the half-word. -/
theorem luiField_eq_iff {z : BitVec 2} {b : BitVec 1} {k : BitVec 2} {i : BitVec 16} :
    z ++ b ++ k ++ i = w.extractLsb' 0 21 ↔
      z = w.extractLsb' 19 2 ∧ b = w.extractLsb' 18 1 ∧ k = w.extractLsb' 16 2 ∧ i = fImm16 w := by
  simp [append_eq_iff, fImm16, and_assoc]

/-- Immediate shifts: eight zero bits, the kind, the count. -/
theorem shiftField_eq_iff {z : BitVec 8} {k : BitVec 2} {s : BitVec 6} :
    z ++ k ++ s = fImm16 w ↔ z = w.extractLsb' 8 8 ∧ k = w.extractLsb' 6 2 ∧ s = fF6 w := by
  simp [append_eq_iff, fImm16, fF6, and_assoc]

/-- BEXT and BINS: the kind, two zero bits, the position, the length. -/
theorem bextField_eq_iff {k z : BitVec 2} {p l : BitVec 6} :
    k ++ z ++ p ++ l = fImm16 w ↔ k = w.extractLsb' 14 2 ∧ z = w.extractLsb' 12 2 ∧ p = w.extractLsb' 6 6 ∧ l = fF6 w := by
  simp [append_eq_iff, fImm16, fF6, and_assoc]

/-- BPERM: the kind, a register, nine zero bits. -/
theorem bpermField_eq_iff {k : BitVec 2} {b : BitVec 5} {z : BitVec 9} :
    k ++ b ++ z = fImm16 w ↔ k = w.extractLsb' 14 2 ∧ b = w.extractLsb' 9 5 ∧ z = w.extractLsb' 0 9 := by
  simp [append_eq_iff, fImm16, and_assoc]

/-- Bit streams: the function, a count. -/
theorem streamField_eq_iff {f : BitVec 5} {n : BitVec 6} : f ++ n = fF11 w ↔ f = fC w ∧ n = fF6 w := by
  simp [append_eq_iff, fF11, fC, fF6]

/-- BSGETG: the function, a zero bit, the order. -/
theorem bsgetgField_eq_iff {f : BitVec 5} {z : BitVec 1} {k : BitVec 5} :
    f ++ z ++ k = fF11 w ↔ f = fC w ∧ z = w.extractLsb' 5 1 ∧ k = w.extractLsb' 0 5 := by
  simp [append_eq_iff, fF11, fC, and_assoc]

/-- AMO: three zero bits, the order, the size, the operation. -/
theorem amoField_eq_iff {z : BitVec 3} {o s : BitVec 2} {f : BitVec 4} :
    z ++ o ++ s ++ f = fF11 w ↔
      z = w.extractLsb' 8 3 ∧ o = w.extractLsb' 6 2 ∧ s = w.extractLsb' 4 2 ∧ f = w.extractLsb' 0 4 := by
  simp [append_eq_iff, fF11, and_assoc]

/-- RED: five zero bits, the size, the operation. -/
theorem redField_eq_iff {z : BitVec 5} {s : BitVec 2} {f : BitVec 4} :
    z ++ s ++ f = fF11 w ↔ z = w.extractLsb' 6 5 ∧ s = w.extractLsb' 4 2 ∧ f = w.extractLsb' 0 4 := by
  simp [append_eq_iff, fF11, and_assoc]

/-- Operations at memory: the operation of MEMRED, the function. -/
theorem memField_eq_iff {o : BitVec 4} {f : BitVec 2} : o ++ f = fF6 w ↔ o = w.extractLsb' 2 4 ∧ f = w.extractLsb' 0 2 := by
  simp [append_eq_iff, fF6]

/-- Waits: the function, a count. -/
theorem waitField_eq_iff {f : BitVec 3} {n : BitVec 8} : f ++ n = fF11 w ↔ f = w.extractLsb' 8 3 ∧ n = w.extractLsb' 0 8 := by
  simp [append_eq_iff, fF11]

/-- SYNC: the function, six zero bits, the level. -/
theorem syncField_eq_iff {f : BitVec 3} {z : BitVec 6} {l : BitVec 2} :
    f ++ z ++ l = fF11 w ↔ f = w.extractLsb' 8 3 ∧ z = w.extractLsb' 2 6 ∧ l = w.extractLsb' 0 2 := by
  simp [append_eq_iff, fF11, and_assoc]

/-- Messages: four zero bits, the inbox register, the function. -/
theorem msgField_eq_iff {z : BitVec 4} {i : BitVec 5} {f : BitVec 2} :
    z ++ i ++ f = fF11 w ↔ z = w.extractLsb' 7 4 ∧ i = w.extractLsb' 2 5 ∧ f = w.extractLsb' 0 2 := by
  simp [append_eq_iff, fF11, and_assoc]

/-- Labels and groups: an operand of seven bits, the function. -/
theorem labelField_eq_iff {h : BitVec 7} {f : BitVec 4} : h ++ f = fF11 w ↔ h = w.extractLsb' 4 7 ∧ f = w.extractLsb' 0 4 := by
  simp [append_eq_iff, fF11]

/-- LENV: two zero bits, the half, the environment. -/
theorem lenvField_eq_iff {i : BitVec 7} {z : BitVec 2} {h : BitVec 1} {e : BitVec 4} :
    z ++ h ++ e = i ↔ z = i.extractLsb' 5 2 ∧ h = i.extractLsb' 4 1 ∧ e = i.extractLsb' 0 4 := by
  simp [append_eq_iff, and_assoc]

/-- XCOPY: a zero bit, the options. -/
theorem copyField_eq_iff {z : BitVec 1} {o : BitVec 5} : z ++ o = fF6 w ↔ z = w.extractLsb' 5 1 ∧ o = w.extractLsb' 0 5 := by
  simp [append_eq_iff, fF6]

/-- The V form: the function, a small operand. -/
theorem vField_eq_iff {f : BitVec 4} {l : BitVec 3} : f ++ l = w.extractLsb' 0 7 ↔ f = w.extractLsb' 3 4 ∧ l = vLow w := by
  simp [append_eq_iff, vLow]

/-- PSET: two zero bits, the value. -/
theorem psetField_eq_iff {z : BitVec 2} {v : BitVec 1} : z ++ v = vLow w ↔ z = w.extractLsb' 1 2 ∧ v = w.extractLsb' 0 1 := by
  simp [append_eq_iff, vLow]

/-- Conversions: the function, the type of the source. -/
theorem cvtField_eq_iff {f : BitVec 3} {s : BitVec 4} :
    f ++ s = w.extractLsb' 0 7 ↔ f = w.extractLsb' 4 3 ∧ s = w.extractLsb' 0 4 := by
  simp [append_eq_iff]

end

/-! ### Codes of the enumerated fields -/

section
variable {c₂ : BitVec 2} {c₃ : BitVec 3} {c₄ : BitVec 4} {c₅ : BitVec 5}

theorem LdSize.ofCode_eq_some {s : LdSize} : LdSize.ofCode c₃.toNat = some s ↔ s.code = c₃ := by
  revert c₃; cases s <;> decide
theorem StSize.ofCode_eq_some {s : StSize} : StSize.ofCode c₃.toNat = some s ↔ s.code = c₃ := by
  revert c₃; cases s <;> decide
theorem AmoSize.ofCode_eq_some {s : AmoSize} : AmoSize.ofCode c₂.toNat = some s ↔ s.code = c₂ := by
  revert c₂; cases s <;> decide
theorem MemredOp.ofCode_eq_some {o : MemredOp} : MemredOp.ofCode c₄.toNat = some o ↔ o.code = c₄ := by
  revert c₄; cases o <;> decide
theorem FcvtKind.ofCode_eq_some {k : FcvtKind} : FcvtKind.ofCode c₅.toNat = some k ↔ k.code = c₅ := by
  revert c₅; cases k <;> decide
theorem BCond.ofCode_eq_some {k : BCond} : BCond.ofCode c₃.toNat = some k ↔ k.code = c₃ := by
  revert c₃; cases k <;> decide
theorem VCond.ofCode_eq_some {k : VCond} : VCond.ofCode c₃.toNat = some k ↔ k.code = c₃ := by
  revert c₃; cases k <;> decide
theorem VredOp.ofCode_eq_some {o : VredOp} : VredOp.ofCode c₃.toNat = some o ↔ o.code = c₃ := by
  revert c₃; cases o <;> decide
theorem VamoOp.ofCode_eq_some {o : VamoOp} : VamoOp.ofCode c₃.toNat = some o ↔ o.code = c₃ := by
  revert c₃; cases o <;> decide
theorem ETy.ofCode_eq_some {t : ETy} : ETy.ofCode c₄.toNat = some t ↔ t.code = c₄ := by
  revert c₄; cases t <;> decide

theorem AmoOrder.code_ofCode : (AmoOrder.ofCode c₂.toNat).code = c₂ := by
  revert c₂; decide
end

theorem AmoOrder.ofCode_code (o : AmoOrder) : AmoOrder.ofCode o.code.toNat = o := by
  cases o <;> rfl

theorem withCode_ok {α : Type} {c : Option α} {x : α} (h : c = some x) (k : α → Except DecodeError Instr) : withCode c k = k x := by
  rw [h]
  rfl

theorem wfOnly_ok {i : Instr} (h : i.wf = true) : wfOnly i = .ok i := if_pos h

theorem withAcc_ok {f : BitVec 5} {m : MReg} (h : (0 : BitVec 3) ++ m = f) (k : MReg → Except DecodeError Instr) : withAcc f k = k m := by
  obtain ⟨hz, rfl⟩ := append_eq_iff.1 h
  rw [withAcc, ← hz]
  rfl

/-- A V-form field names a predicate where its top bit is zero. -/
theorem isPred_iff {f : BitVec 4} : f.getLsbD 3 = false ↔ 0 = f.extractLsb' 3 1 := by
  revert f; decide

theorem withPred_ok {f : BitVec 4} {p : PReg} (h : (0 : BitVec 1) ++ p = f) (k : PReg → Except DecodeError Instr) : withPred f k = k p := by
  obtain ⟨hz, rfl⟩ := append_eq_iff.1 h
  rw [withPred, isPred_iff.2 hz]
  rfl

/-! ### The decoder by major opcode (R62) -/

theorem ne_zero_of_opcode {w : HWord} {n : Nat} (h : n = opOf w) (hn : n ≠ 0 := by decide) : w ≠ 0 := ne_zero_of_opOf (h ▸ hn)

section
variable {w : HWord}

theorem decode_sys (h : 0 = opOf w) (hw : w ≠ 0) : decode w = decodeSys w := by
  rw [decode, if_neg hw, ← h]; rfl
theorem decode_alu (h : 0x01 = opOf w) : decode w = decodeAlu w := by
  rw [decode, if_neg (ne_zero_of_opcode h), ← h]; rfl
theorem decode_shiftImm (h : 0x08 = opOf w) : decode w = decodeShiftImm w := by
  rw [decode, if_neg (ne_zero_of_opcode h), ← h]; rfl
theorem decode_mulDiv (h : 0x0b = opOf w) : decode w = decodeMulDiv w := by
  rw [decode, if_neg (ne_zero_of_opcode h), ← h]; rfl
theorem decode_bits (h : 0x0c = opOf w) : decode w = decodeBits w := by
  rw [decode, if_neg (ne_zero_of_opcode h), ← h]; rfl
theorem decode_stream (h : 0x0d = opOf w) : decode w = decodeStream w := by
  rw [decode, if_neg (ne_zero_of_opcode h), ← h]; rfl
theorem decode_fp (h : 0x0e = opOf w) : decode w = decodeFp w := by
  rw [decode, if_neg (ne_zero_of_opcode h), ← h]; rfl
theorem decode_ld (h : 0x14 = opOf w) : decode w = decodeLd w := by
  rw [decode, if_neg (ne_zero_of_opcode h), ← h]; rfl
theorem decode_st (h : 0x15 = opOf w) : decode w = decodeSt w := by
  rw [decode, if_neg (ne_zero_of_opcode h), ← h]; rfl
theorem decode_amo (h : 0x16 = opOf w) : decode w = decodeAmo w := by
  rw [decode, if_neg (ne_zero_of_opcode h), ← h]; rfl
theorem decode_red (h : 0x17 = opOf w) : decode w = decodeRed w := by
  rw [decode, if_neg (ne_zero_of_opcode h), ← h]; rfl
theorem decode_mem (h : 0x18 = opOf w) : decode w = decodeMem w := by
  rw [decode, if_neg (ne_zero_of_opcode h), ← h]; rfl
theorem decode_counter (h : 0x19 = opOf w) : decode w = decodeCounter w := by
  rw [decode, if_neg (ne_zero_of_opcode h), ← h]; rfl
theorem decode_fence (h : 0x1a = opOf w) : decode w = decodeFence w := by
  rw [decode, if_neg (ne_zero_of_opcode h), ← h]; rfl
theorem decode_wait (h : 0x1b = opOf w) : decode w = decodeWait w := by
  rw [decode, if_neg (ne_zero_of_opcode h), ← h]; rfl
theorem decode_msg (h : 0x1c = opOf w) : decode w = decodeMsg w := by
  rw [decode, if_neg (ne_zero_of_opcode h), ← h]; rfl
theorem decode_label (h : 0x1d = opOf w) : decode w = decodeLabel w := by
  rw [decode, if_neg (ne_zero_of_opcode h), ← h]; rfl
theorem decode_copy (h : 0x1e = opOf w) : decode w = decodeCopy w := by
  rw [decode, if_neg (ne_zero_of_opcode h), ← h]; rfl
theorem decode_matrix (h : 0x1f = opOf w) : decode w = decodeMatrix w := by
  rw [decode, if_neg (ne_zero_of_opcode h), ← h]; rfl
theorem decode_kernel (h : 0x20 = opOf w) : decode w = decodeKernel w := by
  rw [decode, if_neg (ne_zero_of_opcode h), ← h]; rfl
theorem decode_group (h : 0x21 = opOf w) : decode w = decodeGroup w := by
  rw [decode, if_neg (ne_zero_of_opcode h), ← h]; rfl
theorem decode_tileInt (h : 0x28 = opOf w) : decode w = decodeTileInt w := by
  rw [decode, if_neg (ne_zero_of_opcode h), ← h]; rfl
theorem decode_tileFloat (h : 0x29 = opOf w) : decode w = decodeTileFloat w := by
  rw [decode, if_neg (ne_zero_of_opcode h), ← h]; rfl
theorem decode_tilePred (h : 0x2a = opOf w) : decode w = decodeTilePred w := by
  rw [decode, if_neg (ne_zero_of_opcode h), ← h]; rfl
theorem decode_tileRed (h : 0x2b = opOf w) : decode w = decodeTileRed w := by
  rw [decode, if_neg (ne_zero_of_opcode h), ← h]; rfl
theorem decode_tileMem (h : 0x2c = opOf w) : decode w = decodeTileMem w := by
  rw [decode, if_neg (ne_zero_of_opcode h), ← h]; rfl
theorem decode_tileCvt (h : 0x2d = opOf w) : decode w = decodeTileCvt w := by
  rw [decode, if_neg (ne_zero_of_opcode h), ← h]; rfl
theorem decode_sfu (h : 0x2e = opOf w) : decode w = decodeSfu w := by
  rw [decode, if_neg (ne_zero_of_opcode h), ← h]; rfl
theorem decode_tileLabel (h : 0x2f = opOf w) : decode w = decodeTileLabel w := by
  rw [decode, if_neg (ne_zero_of_opcode h), ← h]; rfl

theorem decode_lui (h : 0x09 = opOf w) (hz : 0 = w.extractLsb' 19 2) : decode w =
    .ok (if w.getLsbD 18 then .luiK (fD w) (w.extractLsb' 16 2) (fImm16 w) else .lui (fD w) (w.extractLsb' 16 2) (fImm16 w)) := by
  rw [decode, if_neg (ne_zero_of_opcode h), ← h, ← hz]; rfl
theorem decode_bCond (h : 0x10 = opOf w) {c : BCond} (hc : c.code = w.extractLsb' 23 3) :
    decode w = .ok (.bCond c (w.extractLsb' 18 5) (w.extractLsb' 13 5) (w.extractLsb' 0 13)) := by
  rw [decode, if_neg (ne_zero_of_opcode h), ← h]; exact withCode_ok (BCond.ofCode_eq_some.2 hc) _
theorem decode_rpt (h : 0x13 = opOf w) (hz : 0 = fF6 w) : decode w =
    wfOnly (.rpt (w.extractLsb' 22 4) (w.extractLsb' 18 4) (w.extractLsb' 14 4) (w.extractLsb' 10 4) (w.extractLsb' 6 4)) := by
  rw [decode, if_neg (ne_zero_of_opcode h), ← h, ← hz]; rfl
end

/-! ### The field rules that a decoded instruction keeps (R59, R98) -/

theorem wf_mfc {d : GReg} {c : BitVec 6} : (Instr.mfc d c).wf = true ↔ c.toNat ≤ 32 ∧ c ≠ 6#6 := by
  change (decide (c.toNat ≤ 32) && c.toNat != 6) = true ↔ _
  simp [← BitVec.toNat_inj]
theorem wf_mtc {c : BitVec 6} {a : GReg} :
    (Instr.mtc c a).wf = true ↔ c.toNat ≤ 32 ∧ c ≠ 6#6 ∧ c ≠ 8#6 ∧ c ≠ 16#6 ∧ c ≠ 30#6 ∧ c ≠ 32#6 := by
  change (decide (c.toNat ≤ 32) && c.toNat != 6 && c.toNat != 8 && c.toNat != 16 && c.toNat != 30 && c.toNat != 32) = true ↔ _
  simp [← BitVec.toNat_inj, and_assoc]
theorem ne_zero_of_wf_bext {d a : GReg} {p l : BitVec 6} (h : (Instr.bext d a p l).wf = true) : a ≠ 0#5 :=
  bne_iff_ne.1 (Bool.and_eq_true_iff.1 h).1
theorem ne_zero_of_wf_bins {d a : GReg} {p l : BitVec 6} (h : (Instr.bins d a p l).wf = true) : a ≠ 0#5 :=
  bne_iff_ne.1 (Bool.and_eq_true_iff.1 h).1
theorem wf_bperm {d a b : GReg} : (Instr.bperm d a b).wf = true ↔ a ≠ 0#5 := bne_iff_ne

/-! ### The word of an instruction decodes to it -/

/-- SYS (R63). -/
theorem decode_formS {w : HWord} {f : BitVec 10} (d a i) (h : formS f d a i = w) (hf : f ≠ 0) : decode w = decodeSys w :=
  decode_sys (formS_eq_iff.1 h).1 (h ▸ formS_ne_zero hf d a i)

theorem decode_encode {i : Instr} {w : HWord} (hwf : i.wf = true) (h : encode i = some w) : decode w = .ok i := by
  cases i with
  | brk | eret | yield | halt | freplay | tlbinvContext | tlbinvPartition =>
    have h := Option.some.inj h
    obtain ⟨-, hf, hd, ha, hi⟩ := formS_eq_iff.1 h
    rw [decode_formS _ _ _ h (by decide), decodeSys, ← hf, ← hd, ← ha, ← hi]; rfl
  | trap =>
    have h := Option.some.inj h
    obtain ⟨-, hf, hd, ha, rfl⟩ := formS_eq_iff.1 h
    rw [decode_formS _ _ _ h (by decide), decodeSys, ← hf, ← hd, ← ha]; rfl
  | trace =>
    have h := Option.some.inj h
    obtain ⟨-, hf, hd, rfl, rfl⟩ := formS_eq_iff.1 h
    rw [decode_formS _ _ _ h (by decide), decodeSys, ← hf, ← hd]; rfl
  | sample | mfcFflags =>
    have h := Option.some.inj h
    obtain ⟨-, hf, rfl, ha, hi⟩ := formS_eq_iff.1 h
    rw [decode_formS _ _ _ h (by decide), decodeSys, ← hf, ← ha, ← hi]; rfl
  | wayset | waysetQ =>
    have h := Option.some.inj h
    obtain ⟨-, hf, rfl, rfl, hi⟩ := formS_eq_iff.1 h
    rw [decode_formS _ _ _ h (by decide), decodeSys, ← hf, ← hi]; rfl
  | tlbinvPage | mtcFflags | mtcSrseed | mtcLspace | mtcFbstat | mtcTracectl =>
    have h := Option.some.inj h
    obtain ⟨-, hf, hd, rfl, hi⟩ := formS_eq_iff.1 h
    rw [decode_formS _ _ _ h (by decide), decodeSys, ← hf, ← hd, ← hi]; rfl
  | guard v n =>
    have h := Option.some.inj h
    obtain ⟨-, hf, hd, ha, hi⟩ := formS_eq_iff.1 h
    obtain ⟨hz, hv, rfl⟩ := guardField_eq_iff.1 hi
    rw [decode_formS _ _ _ h (by decide), decodeSys, ← hf, ← hd, ← ha, ← hz, getLsbD_of_part hv]; rfl
  | mfc d c =>
    have h := Option.some.inj h
    obtain ⟨-, hf, rfl, ha, hc⟩ := formS_eq_iff.1 h
    obtain ⟨hmax, hne⟩ := wf_mfc.1 hwf
    rw [decode_formS _ _ _ h (by decide), decodeSys, ← hf, ← ha, ← hc]
    change (if c.toNat ≤ 32 then zeroed true (if c == 6 then _ else _) else _) = _
    simp [hmax, hne, zeroed]
  | mtc c a =>
    have h := Option.some.inj h
    obtain ⟨-, hf, hd, rfl, hc⟩ := formS_eq_iff.1 h
    obtain ⟨hmax, hne⟩ := wf_mtc.1 hwf
    rw [decode_formS _ _ _ h (by decide), decodeSys, ← hf, ← hd, ← hc]
    change (if c.toNat ≤ 32 then zeroed true (if c == 6 then _ else _) else _) = _
    simp [hmax, hne, zeroed]
  | add | sub | and | or | xor | andn | orn | sll | srl | sra | rol | ror | min | max | minn | maxn | seq | sne | slt | sltn =>
    obtain ⟨hop, rfl, rfl, rfl, hf⟩ := formT_eq_iff.1 (Option.some.inj h)
    rw [decode_alu hop, decodeAlu, ← hf]; rfl
  | clz | ctz | popc | brev | bswap =>
    obtain ⟨hop, rfl, rfl, hb, hf⟩ := formT_eq_iff.1 (Option.some.inj h)
    rw [decode_alu hop, decodeAlu, ← hb, ← hf]; rfl
  | sel d n a b =>
    obtain ⟨hop, rfl, rfl, rfl, hf⟩ := formT_eq_iff.1 (Option.some.inj h)
    rw [decode_alu hop, decodeAlu, ← hf]
    rcases eight_cases n with rfl | rfl | rfl | rfl | rfl | rfl | rfl | rfl <;> rfl
  | addi | andi | ori | xori | slti | sltni =>
    obtain ⟨hop, rfl, rfl, rfl⟩ := formI_eq_iff.1 (Option.some.inj h)
    rw [decode, if_neg (ne_zero_of_opcode hop), ← hop]; rfl
  | slli | srli | srai | roli =>
    obtain ⟨hop, rfl, rfl, hi⟩ := formI_eq_iff.1 (Option.some.inj h)
    obtain ⟨hz, hk, rfl⟩ := shiftField_eq_iff.1 hi
    rw [decode_shiftImm hop, decodeShiftImm, ← hz, ← hk]; rfl
  | lui d k i =>
    have h : formL 0x09 d ((0 : BitVec 2) ++ BitVec.ofBool false ++ k ++ i) = w := Option.some.inj h
    obtain ⟨hop, rfl, hi⟩ := formL_eq_iff.1 h
    obtain ⟨hz, hk, rfl, rfl⟩ := luiField_eq_iff.1 hi
    rw [decode_lui hop hz, getLsbD_of_part hk]; rfl
  | luiK d k i =>
    have h : formL 0x09 d ((0 : BitVec 2) ++ BitVec.ofBool true ++ k ++ i) = w := Option.some.inj h
    obtain ⟨hop, rfl, hi⟩ := formL_eq_iff.1 h
    obtain ⟨hz, hk, rfl, rfl⟩ := luiField_eq_iff.1 hi
    rw [decode_lui hop hz, getLsbD_of_part hk]; rfl
  | adpc =>
    obtain ⟨hop, rfl, rfl⟩ := formL_eq_iff.1 (Option.some.inj h)
    rw [decode, if_neg (ne_zero_of_opcode hop), ← hop]; rfl
  | mul | mulh | mulhn | div | divn | rem | remn =>
    obtain ⟨hop, rfl, rfl, rfl, hf⟩ := formT_eq_iff.1 (Option.some.inj h)
    rw [decode_mulDiv hop, decodeMulDiv, ← hf]; rfl
  | bpermi =>
    obtain ⟨hop, rfl, ha, rfl⟩ := formI_eq_iff.1 (Option.some.inj h)
    rw [decode_bits hop, decodeBits, ← ha]; rfl
  | bext d a p l =>
    have h : formI 0x0C d a ((0 : BitVec 2) ++ (0 : BitVec 2) ++ p ++ l) = w := Option.some.inj h
    obtain ⟨hop, rfl, rfl, hi⟩ := formI_eq_iff.1 h
    obtain ⟨hk, hz, rfl, rfl⟩ := bextField_eq_iff.1 hi
    have ha := ne_zero_of_wf_bext hwf
    rw [decode_bits hop, decodeBits, ← hk, ← hz]
    simp [ha, wfOnly_ok hwf]
  | bins d a p l =>
    have h : formI 0x0C d a ((1 : BitVec 2) ++ (0 : BitVec 2) ++ p ++ l) = w := Option.some.inj h
    obtain ⟨hop, rfl, rfl, hi⟩ := formI_eq_iff.1 h
    obtain ⟨hk, hz, rfl, rfl⟩ := bextField_eq_iff.1 hi
    have ha := ne_zero_of_wf_bins hwf
    rw [decode_bits hop, decodeBits, ← hk, ← hz]
    simp [ha, wfOnly_ok hwf]
  | bperm =>
    obtain ⟨hop, rfl, rfl, hi⟩ := formI_eq_iff.1 (Option.some.inj h)
    obtain ⟨hk, rfl, hz⟩ := bpermField_eq_iff.1 hi
    have ha := wf_bperm.1 hwf
    rw [decode_bits hop, decodeBits, ← hk, ← hz]
    simp [ha, zeroed]
  | bsrinit | bswinit =>
    obtain ⟨hop, hd, rfl, hb, hi⟩ := formT_eq_iff.1 (Option.some.inj h)
    obtain ⟨hf, hn⟩ := streamField_eq_iff.1 hi
    rw [decode_stream hop, decodeStream, ← hd, ← hb, ← hf, ← hn]; rfl
  | bsget | bspeek =>
    obtain ⟨hop, rfl, ha, hb, hi⟩ := formT_eq_iff.1 (Option.some.inj h)
    obtain ⟨hf, rfl⟩ := streamField_eq_iff.1 hi
    rw [decode_stream hop, decodeStream, ← ha, ← hb, ← hf]; rfl
  | bsskip =>
    obtain ⟨hop, hd, ha, hb, hi⟩ := formT_eq_iff.1 (Option.some.inj h)
    obtain ⟨hf, rfl⟩ := streamField_eq_iff.1 hi
    rw [decode_stream hop, decodeStream, ← hd, ← ha, ← hb, ← hf]; rfl
  | bsgetg =>
    obtain ⟨hop, rfl, ha, hb, hi⟩ := formT_eq_iff.1 (Option.some.inj h)
    obtain ⟨hf, hz, rfl⟩ := bsgetgField_eq_iff.1 hi
    rw [decode_stream hop, decodeStream, ← ha, ← hb, ← hf]
    simp [zeroed, fF6, ← hz]
  | bsemit =>
    obtain ⟨hop, hd, rfl, hb, hi⟩ := formT_eq_iff.1 (Option.some.inj h)
    obtain ⟨hf, rfl⟩ := streamField_eq_iff.1 hi
    rw [decode_stream hop, decodeStream, ← hd, ← hb, ← hf]; rfl
  | bsflush =>
    obtain ⟨hop, hd, ha, hb, hi⟩ := formT_eq_iff.1 (Option.some.inj h)
    obtain ⟨hf, hn⟩ := streamField_eq_iff.1 hi
    rw [decode_stream hop, decodeStream, ← hd, ← ha, ← hb, ← hf, ← hn]; rfl
  | fadd | fsub | fmul | fmin | fmax | fcmpEq | fcmpLt | fcmpLe | fcmpUn =>
    obtain ⟨hop, rfl, rfl, rfl, hc, hf⟩ := formQ_eq_iff.1 (Option.some.inj h)
    rw [decode_fp hop, decodeFp, ← hc, ← hf]; rfl
  | ffma =>
    obtain ⟨hop, rfl, rfl, rfl, rfl, hf⟩ := formQ_eq_iff.1 (Option.some.inj h)
    rw [decode_fp hop, decodeFp, ← hf]; rfl
  | fcvt =>
    obtain ⟨hop, rfl, rfl, hb, hk, hf⟩ := formQ_eq_iff.1 (Option.some.inj h)
    rw [decode_fp hop, decodeFp, ← hb, ← hf]
    exact withCode_ok (FcvtKind.ofCode_eq_some.2 hk) _
  | bCond =>
    obtain ⟨hop, hc, rfl, rfl, rfl⟩ := formB_eq_iff.1 (Option.some.inj h)
    exact decode_bCond hop hc
  | jl =>
    obtain ⟨hop, rfl⟩ := formJ_eq_iff.1 (Option.some.inj h)
    rw [decode, if_neg (ne_zero_of_opcode hop), ← hop]; rfl
  | jlr =>
    obtain ⟨hop, rfl, rfl, rfl⟩ := formI_eq_iff.1 (Option.some.inj h)
    rw [decode, if_neg (ne_zero_of_opcode hop), ← hop]; rfl
  | rpt =>
    obtain ⟨hop, rfl, rfl, rfl, rfl, rfl, hz⟩ := formP_eq_iff.1 (Option.some.inj h)
    rw [decode_rpt hop hz, wfOnly_ok hwf]
  | ld | ldAcq | ldnt =>
    obtain ⟨hop, rfl, rfl, hs, hr, rfl⟩ := formM_eq_iff.1 (Option.some.inj h)
    rw [decode_ld hop, decodeLd, withCode_ok (LdSize.ofCode_eq_some.2 hs), ← hr]; rfl
  | st | stRel | stnt =>
    obtain ⟨hop, rfl, rfl, hs, hr, rfl⟩ := formM_eq_iff.1 (Option.some.inj h)
    rw [decode_st hop, decodeSt, withCode_ok (StSize.ofCode_eq_some.2 hs), ← hr]; rfl
  | amoAdd | amoAnd | amoOr | amoXor | amoMin | amoMax | amoMinn | amoMaxn | amoSwap | amoCas =>
    obtain ⟨hop, rfl, rfl, rfl, hi⟩ := formT_eq_iff.1 (Option.some.inj h)
    obtain ⟨hz, ho, hs, hf⟩ := amoField_eq_iff.1 hi
    rw [decode_amo hop, decodeAmo, withCode_ok (AmoSize.ofCode_eq_some.2 hs), ← hz, ← ho, ← hf, AmoOrder.ofCode_code]; rfl
  | amoFadd =>
    obtain ⟨hop, rfl, rfl, rfl, hi⟩ := formT_eq_iff.1 (Option.some.inj h)
    obtain ⟨hz, ho, hs, hf⟩ := amoField_eq_iff.1 hi
    rw [decode_amo hop, decodeAmo, ← hs, ← hz, ← ho, ← hf, AmoOrder.ofCode_code]; rfl
  | redAdd | redAnd | redOr | redXor | redMin | redMax =>
    obtain ⟨hop, hd, rfl, rfl, hi⟩ := formT_eq_iff.1 (Option.some.inj h)
    obtain ⟨hz, hs, hf⟩ := redField_eq_iff.1 hi
    rw [decode_red hop, decodeRed, withCode_ok (AmoSize.ofCode_eq_some.2 hs), ← hd, ← hz, ← hf]; rfl
  | redFadd =>
    obtain ⟨hop, hd, rfl, rfl, hi⟩ := formT_eq_iff.1 (Option.some.inj h)
    obtain ⟨hz, hs, hf⟩ := redField_eq_iff.1 hi
    rw [decode_red hop, decodeRed, ← hd, ← hz, ← hs, ← hf]; rfl
  | memred =>
    obtain ⟨hop, hd, rfl, rfl, hc, hi⟩ := formQ_eq_iff.1 (Option.some.inj h)
    obtain ⟨ho, hf⟩ := memField_eq_iff.1 hi
    rw [decode_mem hop, decodeMem, withCode_ok (MemredOp.ofCode_eq_some.2 ho), ← hd, ← hc, ← hf]; rfl
  | memcas =>
    obtain ⟨hop, rfl, rfl, rfl, hc, hi⟩ := formQ_eq_iff.1 (Option.some.inj h)
    obtain ⟨ho, hf⟩ := memField_eq_iff.1 (show (0 : BitVec 4) ++ (1 : BitVec 2) = fF6 w from hi)
    rw [decode_mem hop, decodeMem, ← ho, ← hc, ← hf]; rfl
  | memsax =>
    obtain ⟨hop, hd, rfl, rfl, rfl, hi⟩ := formQ_eq_iff.1 (Option.some.inj h)
    obtain ⟨ho, hf⟩ := memField_eq_iff.1 (show (0 : BitVec 4) ++ (2 : BitVec 2) = fF6 w from hi)
    rw [decode_mem hop, decodeMem, ← ho, ← hd, ← hf]; rfl
  | cinit =>
    obtain ⟨hop, hd, rfl, rfl, rfl, hf⟩ := formQ_eq_iff.1 (Option.some.inj h)
    rw [decode_counter hop, decodeCounter, ← hd, ← hf]; rfl
  | cdec =>
    obtain ⟨hop, rfl, rfl, rfl, hc, hf⟩ := formQ_eq_iff.1 (Option.some.inj h)
    rw [decode_counter hop, decodeCounter, ← hc, ← hf]; rfl
  | cinc =>
    obtain ⟨hop, hd, rfl, rfl, hc, hf⟩ := formQ_eq_iff.1 (Option.some.inj h)
    rw [decode_counter hop, decodeCounter, ← hd, ← hc, ← hf]; rfl
  | cread | clocal =>
    obtain ⟨hop, rfl, rfl, hb, hc, hf⟩ := formQ_eq_iff.1 (Option.some.inj h)
    rw [decode_counter hop, decodeCounter, ← hb, ← hc, ← hf]; rfl
  | fence s =>
    obtain ⟨hop, hd, ha, hb, hf⟩ := formT_eq_iff.1 (Option.some.inj h)
    rw [decode_fence hop, decodeFence, ← hd, ← ha, ← hb, ← hf]
    cases s <;> rfl
  | fenceLx | drain | isync =>
    obtain ⟨hop, hd, ha, hb, hf⟩ := formT_eq_iff.1 (Option.some.inj h)
    rw [decode_fence hop, decodeFence, ← hd, ← ha, ← hb, ← hf]; rfl
  | l1inv | l1wb | icinv =>
    obtain ⟨hop, hd, rfl, rfl, hf⟩ := formT_eq_iff.1 (Option.some.inj h)
    rw [decode_fence hop, decodeFence, ← hd, ← hf]; rfl
  | pause =>
    obtain ⟨hop, hd, ha, hb, hi⟩ := formT_eq_iff.1 (Option.some.inj h)
    obtain ⟨hf, rfl⟩ := waitField_eq_iff.1 hi
    rw [decode_wait hop, decodeWait, ← hd, ← ha, ← hb, ← hf]; rfl
  | waita | evarm =>
    obtain ⟨hop, hd, rfl, rfl, hi⟩ := formT_eq_iff.1 (Option.some.inj h)
    obtain ⟨hf, hn⟩ := waitField_eq_iff.1 hi
    rw [decode_wait hop, decodeWait, ← hd, ← hn, ← hf]; rfl
  | evsig | bar =>
    obtain ⟨hop, hd, rfl, hb, hi⟩ := formT_eq_iff.1 (Option.some.inj h)
    obtain ⟨hf, hn⟩ := waitField_eq_iff.1 hi
    rw [decode_wait hop, decodeWait, ← hd, ← hb, ← hn, ← hf]; rfl
  | sync =>
    obtain ⟨hop, hd, ha, hb, hi⟩ := formT_eq_iff.1 (Option.some.inj h)
    obtain ⟨hf, hz, rfl⟩ := syncField_eq_iff.1 hi
    rw [decode_wait hop, decodeWait, ← hd, ← ha, ← hb, ← hf]
    simp [zeroed, ← hz]
  | send =>
    obtain ⟨hop, hd, rfl, rfl, hi⟩ := formT_eq_iff.1 (Option.some.inj h)
    obtain ⟨hz, rfl, hf⟩ := msgField_eq_iff.1 hi
    rw [decode_msg hop, decodeMsg, ← hd, ← hz, ← hf]; rfl
  | take | peeki =>
    obtain ⟨hop, rfl, ha, hb, hi⟩ := formT_eq_iff.1 (Option.some.inj h)
    obtain ⟨hz, rfl, hf⟩ := msgField_eq_iff.1 hi
    rw [decode_msg hop, decodeMsg, ← ha, ← hb, ← hz, ← hf]; rfl
  | assume =>
    obtain ⟨hop, rfl, rfl, hb, hi⟩ := formT_eq_iff.1 (Option.some.inj h)
    obtain ⟨rfl, hf⟩ := labelField_eq_iff.1 hi
    rw [decode_label hop, decodeLabel, ← hb, ← hf]; rfl
  | lget | lcount =>
    obtain ⟨hop, rfl, rfl, hb, hi⟩ := formT_eq_iff.1 (Option.some.inj h)
    obtain ⟨hh, hf⟩ := labelField_eq_iff.1 hi
    rw [decode_label hop, decodeLabel, ← hb, ← hh, ← hf]; rfl
  | lset | lprod | lunion | leq | lsel =>
    obtain ⟨hop, rfl, rfl, rfl, hi⟩ := formT_eq_iff.1 (Option.some.inj h)
    obtain ⟨hh, hf⟩ := labelField_eq_iff.1 hi
    rw [decode_label hop, decodeLabel, ← hh, ← hf]; rfl
  | nogood =>
    obtain ⟨hop, hd, rfl, hb, hi⟩ := formT_eq_iff.1 (Option.some.inj h)
    obtain ⟨hh, hf⟩ := labelField_eq_iff.1 hi
    rw [decode_label hop, decodeLabel, ← hd, ← hb, ← hh, ← hf]; rfl
  | nogoode | lfocus =>
    obtain ⟨hop, hd, rfl, rfl, hi⟩ := formT_eq_iff.1 (Option.some.inj h)
    obtain ⟨hh, hf⟩ := labelField_eq_iff.1 hi
    rw [decode_label hop, decodeLabel, ← hd, ← hh, ← hf]; rfl
  | lvis =>
    obtain ⟨hop, hd, rfl, hb, hi⟩ := formT_eq_iff.1 (Option.some.inj h)
    obtain ⟨hh, hf⟩ := labelField_eq_iff.1 hi
    obtain ⟨hz, rfl⟩ := append_eq_iff.1 hh
    rw [decode_label hop, decodeLabel, ← hd, ← hb, ← hf, ← hz]; rfl
  | lenv =>
    obtain ⟨hop, rfl, rfl, hb, hi⟩ := formT_eq_iff.1 (Option.some.inj h)
    obtain ⟨hh, hf⟩ := labelField_eq_iff.1 hi
    obtain ⟨hz, hv, rfl⟩ := lenvField_eq_iff.1 hh
    rw [decode_label hop, decodeLabel, ← hb, ← hf, ← hz, getLsbD_of_part hv]; rfl
  | xcopy =>
    obtain ⟨hop, rfl, rfl, rfl, rfl, hi⟩ := formQ_eq_iff.1 (Option.some.inj h)
    obtain ⟨hz, rfl⟩ := copyField_eq_iff.1 hi
    rw [decode_copy hop, decodeCopy, getLsbD_of_part (v := false) hz]; exact wfOnly_ok hwf
  | xpub =>
    obtain ⟨hop, hd, rfl, hb, hc, hi⟩ := formQ_eq_iff.1 (Option.some.inj h)
    obtain ⟨hz, ho⟩ := copyField_eq_iff.1 (show (1 : BitVec 1) ++ (0 : BitVec 5) = fF6 w from hi)
    rw [decode_copy hop, decodeCopy, getLsbD_of_part (v := true) hz, ← ho, ← hd, ← hb, ← hc]; rfl
  | xstat =>
    obtain ⟨hop, rfl, ha, hb, hc, hi⟩ := formQ_eq_iff.1 (Option.some.inj h)
    obtain ⟨hz, ho⟩ := copyField_eq_iff.1 (show (1 : BitVec 1) ++ (1 : BitVec 5) = fF6 w from hi)
    rw [decode_copy hop, decodeCopy, getLsbD_of_part (v := true) hz, ← ho, ← ha, ← hb, ← hc]; rfl
  | mma =>
    obtain ⟨hop, hm, rfl, rfl, hf⟩ := formT_eq_iff.1 (Option.some.inj h)
    rw [decode_matrix hop, decodeMatrix, ← hf]; exact withAcc_ok hm _
  | mzero | mwait =>
    obtain ⟨hop, hm, ha, hb, hf⟩ := formT_eq_iff.1 (Option.some.inj h)
    rw [decode_matrix hop, decodeMatrix, ← ha, ← hb, ← hf]; exact withAcc_ok hm _
  | mld =>
    obtain ⟨hop, hm, rfl, hb, hf⟩ := formT_eq_iff.1 (Option.some.inj h)
    rw [decode_matrix hop, decodeMatrix, ← hb, ← hf]; exact withAcc_ok hm _
  | mst =>
    obtain ⟨hop, hd, rfl, hm, hf⟩ := formT_eq_iff.1 (Option.some.inj h)
    rw [decode_matrix hop, decodeMatrix, ← hd, ← hf]; exact withAcc_ok hm _
  | mtest =>
    obtain ⟨hop, rfl, ha, hb, hf⟩ := formT_eq_iff.1 (Option.some.inj h)
    rw [decode_matrix hop, decodeMatrix, ← ha, ← hb, ← hf]; rfl
  | launch =>
    obtain ⟨hop, hd, rfl, rfl, hf⟩ := formT_eq_iff.1 (Option.some.inj h)
    rw [decode_kernel hop, decodeKernel, ← hd, ← hf]; rfl
  | exit =>
    obtain ⟨hop, hd, rfl, hb, hf⟩ := formT_eq_iff.1 (Option.some.inj h)
    rw [decode_kernel hop, decodeKernel, ← hd, ← hb, ← hf]; rfl
  | gform =>
    obtain ⟨hop, rfl, rfl, hb, hi⟩ := formT_eq_iff.1 (Option.some.inj h)
    obtain ⟨hh, hf⟩ := labelField_eq_iff.1 hi
    rw [decode_group hop, decodeGroup, ← hb, ← hh, ← hf]; rfl
  | grejoin =>
    obtain ⟨hop, hd, ha, hb, hi⟩ := formT_eq_iff.1 (Option.some.inj h)
    obtain ⟨rfl, hf⟩ := labelField_eq_iff.1 hi
    rw [decode_group hop, decodeGroup, ← hd, ← ha, ← hb, ← hf]; rfl
  | gleave =>
    obtain ⟨hop, hd, ha, hb, hi⟩ := formT_eq_iff.1 (Option.some.inj h)
    obtain ⟨hh, hf⟩ := labelField_eq_iff.1 hi
    rw [decode_group hop, decodeGroup, ← hd, ← ha, ← hb, ← hh, ← hf]; rfl
  | gstat =>
    obtain ⟨hop, rfl, ha, hb, hi⟩ := formT_eq_iff.1 (Option.some.inj h)
    obtain ⟨hh, hf⟩ := labelField_eq_iff.1 hi
    rw [decode_group hop, decodeGroup, ← ha, ← hb, ← hh, ← hf]; rfl
  | vaddInt | vsubInt | vmulInt | vminInt | vmaxInt | vand | vor | vxor | vshl | vshr | vsra =>
    obtain ⟨hop, rfl, rfl, rfl, rfl, ht, hi⟩ := formV_eq_iff.1 (Option.some.inj h)
    obtain ⟨hf, hl⟩ := vField_eq_iff.1 hi
    rw [decode_tileInt hop, decodeTileInt, withCode_ok (ETy.ofCode_eq_some.2 ht), vF, ← hl, ← hf]; exact wfOnly_ok hwf
  | vabsInt | vnegInt | vbcast =>
    obtain ⟨hop, rfl, rfl, hb, rfl, ht, hi⟩ := formV_eq_iff.1 (Option.some.inj h)
    obtain ⟨hf, hl⟩ := vField_eq_iff.1 hi
    rw [decode_tileInt hop, decodeTileInt, withCode_ok (ETy.ofCode_eq_some.2 ht), vF, ← hb, ← hl, ← hf]; exact wfOnly_ok hwf
  | vaddFloat | vsubFloat | vmulFloat | vfma | vfms | vminFloat | vmaxFloat =>
    obtain ⟨hop, rfl, rfl, rfl, rfl, ht, hi⟩ := formV_eq_iff.1 (Option.some.inj h)
    obtain ⟨hf, hl⟩ := vField_eq_iff.1 hi
    rw [decode_tileFloat hop, decodeTileFloat, withCode_ok (ETy.ofCode_eq_some.2 ht), vF, ← hl, ← hf]; exact wfOnly_ok hwf
  | vabsFloat | vnegFloat =>
    obtain ⟨hop, rfl, rfl, hb, rfl, ht, hi⟩ := formV_eq_iff.1 (Option.some.inj h)
    obtain ⟨hf, hl⟩ := vField_eq_iff.1 hi
    rw [decode_tileFloat hop, decodeTileFloat, withCode_ok (ETy.ofCode_eq_some.2 ht), vF, ← hb, ← hl, ← hf]; exact wfOnly_ok hwf
  | vcmp =>
    obtain ⟨hop, hd, rfl, rfl, rfl, ht, hi⟩ := formV_eq_iff.1 (Option.some.inj h)
    obtain ⟨hf, hl⟩ := vField_eq_iff.1 hi
    rw [decode_tilePred hop, decodeTilePred, withCode_ok (VCond.ofCode_eq_some.2 hl), withCode_ok (ETy.ofCode_eq_some.2 ht), vF, ← hf]
    exact (withPred_ok hd _).trans (wfOnly_ok hwf)
  | vsel =>
    obtain ⟨hop, rfl, rfl, rfl, rfl, ht, hi⟩ := formV_eq_iff.1 (Option.some.inj h)
    obtain ⟨hf, hl⟩ := vField_eq_iff.1 hi
    rw [decode_tilePred hop, decodeTilePred, withCode_ok (ETy.ofCode_eq_some.2 ht), vF, ← hl, ← hf]; exact wfOnly_ok hwf
  | pand | por | pxor =>
    obtain ⟨hop, hd, ha, hb, hp, ht, hi⟩ := formV_eq_iff.1 (Option.some.inj h)
    obtain ⟨hf, hl⟩ := vField_eq_iff.1 hi
    rw [decode_tilePred hop, decodeTilePred, vF, ← hp, ← ht, ← hl, ← hf]
    exact (withPred_ok hd _).trans ((withPred_ok ha _).trans (withPred_ok hb _))
  | pnot =>
    obtain ⟨hop, hd, ha, hb, hp, ht, hi⟩ := formV_eq_iff.1 (Option.some.inj h)
    obtain ⟨hf, hl⟩ := vField_eq_iff.1 hi
    rw [decode_tilePred hop, decodeTilePred, vF, ← hb, ← hp, ← ht, ← hl, ← hf]
    exact (withPred_ok hd _).trans (withPred_ok ha _)
  | pset d v =>
    obtain ⟨hop, hd, ha, hb, hp, ht, hi⟩ := formV_eq_iff.1 (Option.some.inj h)
    obtain ⟨hf, hl⟩ := vField_eq_iff.1 hi
    obtain ⟨hz, hv⟩ := psetField_eq_iff.1 hl
    rw [decode_tilePred hop, decodeTilePred, vF, ← ha, ← hb, ← hp, ← ht, ← hl, ← hf, getLsbD_of_part hv]
    refine (withPred_ok hd _).trans ?_
    cases v <;> rfl
  | pcnt | pfirst =>
    obtain ⟨hop, rfl, ha, hb, hp, ht, hi⟩ := formV_eq_iff.1 (Option.some.inj h)
    obtain ⟨hf, hl⟩ := vField_eq_iff.1 hi
    rw [decode_tilePred hop, decodeTilePred, vF, ← hb, ← hp, ← ht, ← hl, ← hf]
    exact withPred_ok ha _
  | vred =>
    obtain ⟨hop, rfl, rfl, hb, rfl, ht, hi⟩ := formV_eq_iff.1 (Option.some.inj h)
    obtain ⟨hf, ho⟩ := vField_eq_iff.1 hi
    rw [decode_tileRed hop, decodeTileRed, withCode_ok (VredOp.ofCode_eq_some.2 ho), withCode_ok (ETy.ofCode_eq_some.2 ht), vF, ← hb, ← hf]
    exact wfOnly_ok hwf
  | vtrans =>
    obtain ⟨hop, rfl, rfl, hb, hp, ht, hi⟩ := formV_eq_iff.1 (Option.some.inj h)
    obtain ⟨hf, hl⟩ := vField_eq_iff.1 hi
    rw [decode_tileRed hop, decodeTileRed, withCode_ok (ETy.ofCode_eq_some.2 ht), vF, ← hb, ← hp, ← hl, ← hf]
    exact wfOnly_ok hwf
  | vrot =>
    obtain ⟨hop, rfl, rfl, hb, hp, ht, hi⟩ := formV_eq_iff.1 (Option.some.inj h)
    obtain ⟨hf, hl⟩ := vField_eq_iff.1 hi
    obtain rfl := append_eq_iff.2 ⟨hb.symm, hl.symm⟩
    rw [decode_tileRed hop, decodeTileRed, vF, ← hp, ← hf]
    exact (withCode_ok (ETy.ofCode_eq_some.2 ht) _).trans (wfOnly_ok hwf)
  | vshape =>
    obtain ⟨hop, hd, rfl, hb, hp, ht, hi⟩ := formV_eq_iff.1 (Option.some.inj h)
    obtain ⟨hf, hl⟩ := vField_eq_iff.1 hi
    rw [decode_tileRed hop, decodeTileRed, vF, ← hd, ← hb, ← hp, ← ht, ← hl, ← hf]; rfl
  | vld | vst | vgather | vscatter =>
    obtain ⟨hop, rfl, rfl, rfl, rfl, ht, hi⟩ := formV_eq_iff.1 (Option.some.inj h)
    obtain ⟨hf, hl⟩ := vField_eq_iff.1 hi
    rw [decode_tileMem hop, decodeTileMem, withCode_ok (ETy.ofCode_eq_some.2 ht), vF, ← hl, ← hf]; exact wfOnly_ok hwf
  | vamo =>
    obtain ⟨hop, rfl, rfl, rfl, rfl, ht, hi⟩ := formV_eq_iff.1 (Option.some.inj h)
    obtain ⟨hf, ho⟩ := vField_eq_iff.1 hi
    rw [decode_tileMem hop, decodeTileMem, withCode_ok (ETy.ofCode_eq_some.2 ht), withCode_ok (VamoOp.ofCode_eq_some.2 ho), vF, ← hf]
    exact wfOnly_ok hwf
  | vcvt =>
    obtain ⟨hop, rfl, rfl, hb, rfl, ht, hi⟩ := formV_eq_iff.1 (Option.some.inj h)
    obtain ⟨hf, hs⟩ := cvtField_eq_iff.1 hi
    rw [decode_tileCvt hop, decodeTileCvt, withCode_ok (ETy.ofCode_eq_some.2 ht), withCode_ok (ETy.ofCode_eq_some.2 hs), ← hb, ← hf]
    exact wfOnly_ok hwf
  | vquant | vdeq =>
    obtain ⟨hop, rfl, rfl, rfl, hp, ht, hi⟩ := formV_eq_iff.1 (Option.some.inj h)
    obtain ⟨hf, hs⟩ := cvtField_eq_iff.1 hi
    rw [decode_tileCvt hop, decodeTileCvt, withCode_ok (ETy.ofCode_eq_some.2 ht), withCode_ok (ETy.ofCode_eq_some.2 hs), ← hp, ← hf]
    exact wfOnly_ok hwf
  | vexp | vlog | vrcp | vrsq | vsqrt | vsin | vcos | vtanh | vsigm | vgelu =>
    obtain ⟨hop, rfl, rfl, hb, rfl, ht, hi⟩ := formV_eq_iff.1 (Option.some.inj h)
    obtain ⟨hf, hl⟩ := vField_eq_iff.1 hi
    rw [decode_sfu hop, decodeSfu, withCode_ok (ETy.ofCode_eq_some.2 ht), vF, ← hb, ← hl, ← hf]; exact wfOnly_ok hwf
  | vlget =>
    obtain ⟨hop, rfl, rfl, hb, hp, ht, hi⟩ := formV_eq_iff.1 (Option.some.inj h)
    obtain ⟨hf, hl⟩ := vField_eq_iff.1 hi
    rw [decode_tileLabel hop, decodeTileLabel, vF, ← hb, ← hp, ← ht, ← hl, ← hf]; rfl
  | vlset =>
    obtain ⟨hop, rfl, rfl, rfl, hp, ht, hi⟩ := formV_eq_iff.1 (Option.some.inj h)
    obtain ⟨hf, hl⟩ := vField_eq_iff.1 hi
    rw [decode_tileLabel hop, decodeTileLabel, vF, ← hp, ← ht, ← hl, ← hf]; rfl
  | vlvis =>
    obtain ⟨hop, hd, rfl, hb, hp, ht, hi⟩ := formV_eq_iff.1 (Option.some.inj h)
    obtain ⟨hf, hl⟩ := vField_eq_iff.1 hi
    rw [decode_tileLabel hop, decodeTileLabel, vF, withPred_ok hd, ← hb, ← hp, ← ht, ← hl, ← hf]; rfl
  | _ => cases h

/-! ### What decodes is the word of the instruction it gives -/

/-- Instruction i is well-formed and w is its word. -/
def Instr.IsWord (i : Instr) (w : HWord) : Prop := i.wf = true ∧ encode i = some w

/-- What a decoder answers at w is, where it is an instruction, one whose word is w. -/
def Sound (w : HWord) (r : Except DecodeError Instr) : Prop := ∀ i, r = .ok i → i.IsWord w

section
variable {w : HWord} {i j : Instr} {r q : Except DecodeError Instr} {p : Prop} [Decidable p]

theorem isWord_of_encode {w' : HWord} (hwf : i.wf = true) (he : encode i = some w') (h : w' = w) : i.IsWord w := ⟨hwf, h ▸ he⟩

theorem isWord_ite (h : p → i.IsWord w) (h' : ¬p → j.IsWord w) : (if p then i else j).IsWord w := by
  split
  · exact h ‹p›
  · exact h' ‹¬p›

theorem sound_ok (h : i.IsWord w) : Sound w (.ok i) := by
  rintro _ ⟨⟩
  exact h

theorem sound_error (e : DecodeError) : Sound w (.error e) := by
  intro _ h
  cases h

theorem sound_ite (h : p → Sound w r) (h' : ¬p → Sound w q) : Sound w (if p then r else q) := by
  split
  · exact h ‹p›
  · exact h' ‹¬p›

theorem sound_zeroed {z : Bool} (h : z = true → i.IsWord w) : Sound w (zeroed z i) :=
  sound_ite (fun hz => sound_ok (h hz)) fun _ => sound_error _

theorem sound_wfOnly {w' : HWord} (he : encode i = some w') (h : w' = w) : Sound w (wfOnly i) :=
  sound_ite (fun hwf => sound_ok (isWord_of_encode hwf he h)) fun _ => sound_error _

theorem sound_withCode {α : Type} {c : Option α} {k : α → Except DecodeError Instr} (h : ∀ x, c = some x → Sound w (k x)) :
    Sound w (withCode c k) := by
  cases c with
  | none => exact sound_error _
  | some x => exact h x rfl

theorem sound_withAcc {f : BitVec 5} {k : MReg → Except DecodeError Instr} (h : f.extractLsb' 2 3 = 0#3 → Sound w (k (f.extractLsb' 0 2))) :
    Sound w (withAcc f k) :=
  sound_ite (fun hz => h (eq_of_beq hz)) fun _ => sound_error _

theorem sound_withPred {f : BitVec 4} {k : PReg → Except DecodeError Instr}
    (h : f.extractLsb' 3 1 = 0#1 → Sound w (k (f.extractLsb' 0 3))) :
    Sound w (withPred f k) :=
  sound_ite (fun _ => sound_error _) fun hz => h (isPred_iff.1 (Bool.eq_false_iff.2 hz)).symm
end

/-- The rules above, in the order of the decoder: they leave the equations between the fields of the word and those of the instruction's
form, and these are what the decoder has tested. -/
theorem of_decoder_rules {p : Prop} (h : p := by
  (repeat' with_reducible first
    | exact sound_error _
    | refine sound_ite (fun _ => ?_) fun _ => ?_
    | refine sound_withCode fun _ _ => ?_
    | refine sound_withAcc fun _ => ?_
    | refine sound_withPred fun _ => ?_
    | refine sound_zeroed fun _ => ?_
    | refine isWord_ite (fun _ => ?_) fun _ => ?_
    | refine sound_ok ?_
    | split
    | refine sound_wfOnly (by with_unfolding_all rfl) ?_
    | refine isWord_of_encode (wf_mfc.2 ?_) (by with_unfolding_all rfl) ?_
    | refine isWord_of_encode (wf_mtc.2 ?_) (by with_unfolding_all rfl) ?_
    | refine isWord_of_encode (wf_bperm.2 ?_) (by with_unfolding_all rfl) ?_
    | refine isWord_of_encode (by with_unfolding_all rfl) (by with_unfolding_all rfl) ?_)
  all_goals simp only [formT_eq_iff, formI_eq_iff, formL_eq_iff, formJ_eq_iff, formB_eq_iff, formM_eq_iff, formQ_eq_iff,
     formV_eq_iff, formS_eq_iff, formP_eq_iff, append_eq_iff, ne_eq, -BitVec.reduceAppend]
  all_goals simp_all [BitVec.toNat_eq_nat, fF11, fF6, fC, fImm16, vF, vLow, ofBool_getElem, LdSize.ofCode_eq_some,
     StSize.ofCode_eq_some, AmoSize.ofCode_eq_some, MemredOp.ofCode_eq_some, FcvtKind.ofCode_eq_some, BCond.ofCode_eq_some,
     VCond.ofCode_eq_some, VredOp.ofCode_eq_some, VamoOp.ofCode_eq_some, ETy.ofCode_eq_some,
     AmoOrder.code_ofCode, AmoSize.code, Scope.code, three_eq_iff, -BitVec.extractLsb'_toNat]) : p := h

section
variable {w : HWord}

/-- BEXT and BINS: the kind and the two zero bits under it. -/
theorem bitsKind_eq_iff {k : BitVec 2} : k ++ 0#2 = w.extractLsb' 12 4 ↔ k = w.extractLsb' 14 2 ∧ 0#2 = w.extractLsb' 12 2 := by
  simp [append_eq_iff]

/-- LUI: the two zero bits and the K bit under them. -/
theorem luiKind_eq_iff {b : BitVec 1} : 0#2 ++ b = w.extractLsb' 18 3 ↔ 0#2 = w.extractLsb' 19 2 ∧ b = w.extractLsb' 18 1 := by
  simp [append_eq_iff]

theorem decodeSys_sound (hop : opOf w = 0x00) : Sound w (decodeSys w) := by
  unfold decodeSys
  dsimp only
  exact of_decoder_rules

theorem decodeAlu_sound (hop : opOf w = 0x01) : Sound w (decodeAlu w) := by
  unfold decodeAlu
  dsimp only
  exact of_decoder_rules

theorem decodeShiftImm_sound (hop : opOf w = 0x08) : Sound w (decodeShiftImm w) := by
  unfold decodeShiftImm
  dsimp only
  exact of_decoder_rules

theorem decodeMulDiv_sound (hop : opOf w = 0x0b) : Sound w (decodeMulDiv w) := by
  unfold decodeMulDiv
  dsimp only
  exact of_decoder_rules

theorem decodeBits_sound (hop : opOf w = 0x0c) : Sound w (decodeBits w) := by
  unfold decodeBits
  dsimp only
  have hbext : 0#4 = w.extractLsb' 12 4 ↔ 0#2 = w.extractLsb' 14 2 ∧ 0#2 = w.extractLsb' 12 2 := bitsKind_eq_iff (k := 0)
  have hbins : 4#4 = w.extractLsb' 12 4 ↔ 1#2 = w.extractLsb' 14 2 ∧ 0#2 = w.extractLsb' 12 2 := bitsKind_eq_iff (k := 1)
  exact of_decoder_rules

theorem decodeStream_sound (hop : opOf w = 0x0d) : Sound w (decodeStream w) := by
  unfold decodeStream
  dsimp only
  exact of_decoder_rules

theorem decodeFp_sound (hop : opOf w = 0x0e) : Sound w (decodeFp w) := by
  unfold decodeFp
  dsimp only
  exact of_decoder_rules

theorem decodeLd_sound (hop : opOf w = 0x14) : Sound w (decodeLd w) := by
  unfold decodeLd
  dsimp only
  exact of_decoder_rules

theorem decodeSt_sound (hop : opOf w = 0x15) : Sound w (decodeSt w) := by
  unfold decodeSt
  dsimp only
  exact of_decoder_rules

theorem decodeAmo_sound (hop : opOf w = 0x16) : Sound w (decodeAmo w) := by
  unfold decodeAmo
  dsimp only
  exact of_decoder_rules

theorem decodeRed_sound (hop : opOf w = 0x17) : Sound w (decodeRed w) := by
  unfold decodeRed
  dsimp only
  exact of_decoder_rules

theorem decodeMem_sound (hop : opOf w = 0x18) : Sound w (decodeMem w) := by
  unfold decodeMem
  dsimp only
  have hcas : 1#6 = fF6 w ↔ 0#4 = w.extractLsb' 2 4 ∧ 1#2 = w.extractLsb' 0 2 := memField_eq_iff (o := 0) (f := 1)
  have hsax : 2#6 = fF6 w ↔ 0#4 = w.extractLsb' 2 4 ∧ 2#2 = w.extractLsb' 0 2 := memField_eq_iff (o := 0) (f := 2)
  exact of_decoder_rules

theorem decodeCounter_sound (hop : opOf w = 0x19) : Sound w (decodeCounter w) := by
  unfold decodeCounter
  dsimp only
  exact of_decoder_rules

theorem decodeFence_sound (hop : opOf w = 0x1a) : Sound w (decodeFence w) := by
  unfold decodeFence
  dsimp only
  exact of_decoder_rules

theorem decodeWait_sound (hop : opOf w = 0x1b) : Sound w (decodeWait w) := by
  unfold decodeWait
  dsimp only
  exact of_decoder_rules

theorem decodeMsg_sound (hop : opOf w = 0x1c) : Sound w (decodeMsg w) := by
  unfold decodeMsg
  dsimp only
  exact of_decoder_rules

theorem decodeLabel_sound (hop : opOf w = 0x1d) : Sound w (decodeLabel w) := by
  unfold decodeLabel
  dsimp only
  exact of_decoder_rules

theorem decodeCopy_sound (hop : opOf w = 0x1e) : Sound w (decodeCopy w) := by
  unfold decodeCopy
  dsimp only
  have hset : w.getLsbD 5 = true ↔ 1#1 = w.extractLsb' 5 1 := getLsbD_eq_iff
  have hclear : w.getLsbD 5 = false ↔ 0#1 = w.extractLsb' 5 1 := getLsbD_eq_iff
  have hpub : 32#6 = fF6 w ↔ 1#1 = w.extractLsb' 5 1 ∧ 0#5 = w.extractLsb' 0 5 := copyField_eq_iff (z := 1) (o := 0)
  have hstat : 33#6 = fF6 w ↔ 1#1 = w.extractLsb' 5 1 ∧ 1#5 = w.extractLsb' 0 5 := copyField_eq_iff (z := 1) (o := 1)
  exact of_decoder_rules

theorem decodeMatrix_sound (hop : opOf w = 0x1f) : Sound w (decodeMatrix w) := by
  unfold decodeMatrix
  dsimp only
  exact of_decoder_rules

theorem decodeKernel_sound (hop : opOf w = 0x20) : Sound w (decodeKernel w) := by
  unfold decodeKernel
  dsimp only
  exact of_decoder_rules

theorem decodeGroup_sound (hop : opOf w = 0x21) : Sound w (decodeGroup w) := by
  unfold decodeGroup
  dsimp only
  exact of_decoder_rules

theorem decodeTileInt_sound (hop : opOf w = 0x28) : Sound w (decodeTileInt w) := by
  unfold decodeTileInt
  dsimp only
  exact of_decoder_rules

theorem decodeTileFloat_sound (hop : opOf w = 0x29) : Sound w (decodeTileFloat w) := by
  unfold decodeTileFloat
  dsimp only
  exact of_decoder_rules

theorem decodeTilePred_sound (hop : opOf w = 0x2a) : Sound w (decodeTilePred w) := by
  unfold decodeTilePred
  dsimp only
  exact of_decoder_rules

theorem decodeTileRed_sound (hop : opOf w = 0x2b) : Sound w (decodeTileRed w) := by
  unfold decodeTileRed
  dsimp only
  have hb : (vB w ++ vLow w).extractLsb' 3 4 = vB w := BitVec.extractLsb'_append_eq_left
  have hl : (vB w ++ vLow w).extractLsb' 0 3 = vLow w := BitVec.extractLsb'_append_eq_right
  exact of_decoder_rules

theorem decodeTileMem_sound (hop : opOf w = 0x2c) : Sound w (decodeTileMem w) := by
  unfold decodeTileMem
  dsimp only
  exact of_decoder_rules

theorem decodeTileCvt_sound (hop : opOf w = 0x2d) : Sound w (decodeTileCvt w) := by
  unfold decodeTileCvt
  dsimp only
  exact of_decoder_rules

theorem decodeSfu_sound (hop : opOf w = 0x2e) : Sound w (decodeSfu w) := by
  unfold decodeSfu
  dsimp only
  exact of_decoder_rules

theorem decodeTileLabel_sound (hop : opOf w = 0x2f) : Sound w (decodeTileLabel w) := by
  unfold decodeTileLabel
  dsimp only
  exact of_decoder_rules

theorem decode_sound : Sound w (decode w) := by
  unfold decode
  refine sound_ite (fun _ => sound_error _) fun _ => ?_
  split
  · exact decodeSys_sound ‹_›
  · exact decodeAlu_sound ‹_›
  · exact of_decoder_rules
  · exact of_decoder_rules
  · exact of_decoder_rules
  · exact of_decoder_rules
  · exact of_decoder_rules
  · exact of_decoder_rules
  · exact decodeShiftImm_sound ‹_›
  · have hlui : 0#3 = w.extractLsb' 18 3 ↔ 0#2 = w.extractLsb' 19 2 ∧ 0#1 = w.extractLsb' 18 1 := luiKind_eq_iff (b := 0)
    have hluiK : 1#3 = w.extractLsb' 18 3 ↔ 0#2 = w.extractLsb' 19 2 ∧ 1#1 = w.extractLsb' 18 1 := luiKind_eq_iff (b := 1)
    have hset : w.getLsbD 18 = true ↔ 1#1 = w.extractLsb' 18 1 := getLsbD_eq_iff
    have hclear : w.getLsbD 18 = false ↔ 0#1 = w.extractLsb' 18 1 := getLsbD_eq_iff
    exact of_decoder_rules
  · exact of_decoder_rules
  · exact decodeMulDiv_sound ‹_›
  · exact decodeBits_sound ‹_›
  · exact decodeStream_sound ‹_›
  · exact decodeFp_sound ‹_›
  · exact of_decoder_rules
  · exact of_decoder_rules
  · exact of_decoder_rules
  · exact of_decoder_rules
  · exact decodeLd_sound ‹_›
  · exact decodeSt_sound ‹_›
  · exact decodeAmo_sound ‹_›
  · exact decodeRed_sound ‹_›
  · exact decodeMem_sound ‹_›
  · exact decodeCounter_sound ‹_›
  · exact decodeFence_sound ‹_›
  · exact decodeWait_sound ‹_›
  · exact decodeMsg_sound ‹_›
  · exact decodeLabel_sound ‹_›
  · exact decodeCopy_sound ‹_›
  · exact decodeMatrix_sound ‹_›
  · exact decodeKernel_sound ‹_›
  · exact decodeGroup_sound ‹_›
  · exact decodeTileInt_sound ‹_›
  · exact decodeTileFloat_sound ‹_›
  · exact decodeTilePred_sound ‹_›
  · exact decodeTileRed_sound ‹_›
  · exact decodeTileMem_sound ‹_›
  · exact decodeTileCvt_sound ‹_›
  · exact decodeSfu_sound ‹_›
  · exact decodeTileLabel_sound ‹_›
  · exact sound_error _

end

theorem decode_reservedOpcode {w : HWord} (hw : w ≠ 0) (hop : opOf w = 0x0F ∨ (0x22 ≤ opOf w ∧ opOf w ≤ 0x27) ∨ 0x30 ≤ opOf w) :
    decode w = .error .reservedOpcode := by
  rw [decode, if_neg hw]
  split
  case h_42 => rfl
  all_goals omega

/-! ### The obligations -/

/-- Settles O1. -/
theorem roundTrip : Obligations.RoundTrip := by
  unfold Obligations.RoundTrip
  exact fun _ _ => decode_encode

/-- Settles O2: a decoder tests every field that it does not give to the instruction. -/
theorem oneMeaning : Obligations.OneMeaning := by
  unfold Obligations.OneMeaning
  exact fun _ => decode_sound

/-- Settles O3. -/
theorem wordsOfTheSpec : Obligations.WordsOfTheSpec := by
  unfold Obligations.WordsOfTheSpec
  exact ⟨⟨by decide, by decide, by decide, by decide⟩, by decide, fun _ => decode_reservedOpcode⟩

end Sys2Proof
end

section
/-! PROOFS. O18 and O19: the level that an instruction needs (R60, R82), and what MFC reads. -/

open Sys2Proof.Claims

namespace Sys2Proof.Machine

variable {s : State} {d ra : GReg} {r : BitVec 6}

/-! ### At K the check for level S raises PROTECT (R60) -/

theorem needS_atK (hK : s.me.atS = false) : needS s = .error (.trap .protect (.word false)) s := by
  simp [needS, orRaise, M.run_bind, hK]

/-- An instruction that begins with the check for level S raises PROTECT at K. -/
theorem runI_needS {i : Instr} {f : Unit → M Unit} (hK : s.me.atS = false) :
    runI i (needS >>= f) s = .next ((s.keepLoss s).trapInstr s.cur i.word .protect (.word false)) :=
  runI_trap (M.bind_error s s (needS_atK hK))

theorem mfcNeedsS_iff (n : Nat) : mfcNeedsS n = true ↔ 24 ≤ n := decide_eq_true_iff

/-- MFC of a register that only S reads (R82). -/
theorem mfc_protect (hK : s.me.atS = false) (hS : 24 ≤ r.toNat) (hmax : r.toNat ≤ 32) : Traps (.mfc d r) s .protect (.word false) := by
  refine runI_trap ?_
  rw [if_neg (Nat.not_lt.2 hmax), if_pos ((mfcNeedsS_iff _).2 hS)]
  exact M.bind_error s s (needS_atK hK)

/-- MTC of a register that only S writes (R82). -/
theorem mtc_protect (hK : s.me.atS = false) (hS : mtcNeedsS r.toNat = true) (hmax : r.toNat ≤ 32) (hw : mtcReadOnly r.toNat = false) :
    Traps (.mtc r ra) s .protect (.word false) := by
  refine runI_trap ?_
  have hok : ¬(decide (32 < r.toNat) || mtcReadOnly r.toNat) = true := by simp [hmax, hw]
  rw [if_neg hok, if_pos hS]
  exact M.bind_error s s (needS_atK hK)

/-- No register that only S writes is read-only. -/
theorem mtcReadOnly_of_needsS {n : Nat} (h : mtcNeedsS n = true) : mtcReadOnly n = false := by
  rw [mtcNeedsS_iff] at h
  simp [mtcReadOnly]
  omega

/-- Settles O18: each form begins with the check for level S. -/
theorem privilegedAtK : Obligations.PrivilegedAtK := by
  unfold Obligations.PrivilegedAtK
  intro s d ra r hK
  refine ⟨runI_needS hK, runI_needS hK, runI_needS hK, runI_needS hK, runI_needS hK, runI_needS hK, runI_needS hK, runI_needS hK,
    runI_needS hK, runI_needS hK, mfc_protect hK, fun hr => ?mtc⟩
  have hS : mtcNeedsS r.toNat = true := by
    rw [mtcNeedsS_iff]
    rcases hr with rfl | rfl | rfl | ⟨hlow, -⟩
    all_goals simp [*]
  have hmax : r.toNat ≤ 32 := by
    rcases hr with rfl | rfl | rfl | ⟨-, hhigh⟩
    all_goals simp [*]
  exact mtc_protect hK hS hmax (mtcReadOnly_of_needsS hS)

/-! ### What MFC reads (R82, R91, R109) -/

/-- An instruction whose step is a result gives its register the result. -/
theorem gives_of_result {i : Instr} {m : M Unit} {v : Word} {ls : List Label} (hexec : exec i s = runI i m s)
    (hm : m s = result d v ls s) : Gives i s d v ls := by
  refine ⟨fun hd => ?zero, fun l t hd hl => ?nonzero⟩
  case zero =>
    rw [hexec]
    exact runI_ok (hm.trans (hd ▸ result_zero v ls s))
  case nonzero =>
    rw [hexec]
    exact runI_ok (hm.trans (result_ok hd hl v))

theorem mfc_gives {n : Nat} {v : Word} (hmax : n ≤ 32) (hv : s.controlReg s.cur n = v) (hr : r.toNat = n)
    (hS : 24 ≤ n → s.me.atS = true) : Gives (.mfc d r) s d v [] := by
  subst hr hv
  have hok : ¬32 < r.toNat := Nat.not_lt.2 hmax
  refine gives_of_result rfl ?_
  by_cases hlevel : 24 ≤ r.toNat
  · rw [if_neg hok, if_pos ((mfcNeedsS_iff _).2 hlevel)]
    exact M.bind_ok s s (needS_atS (hS hlevel))
  · rw [if_neg hok, if_neg (mt (mfcNeedsS_iff _).1 hlevel)]
    rfl

theorem mfcFflags_gives (hvq : s.me.vq = []) : Gives (.mfcFflags d) s d s.me.fflags [] := by
  have hdone : s.me.flagsPending = false := by simp [Core.flagsPending, hvq]
  exact gives_of_result rfl (by simp [M.run_bind, hdone])

theorem isWide_iff (k : Nat) : isWide k = true ↔ k % 64 < 32 := decide_eq_true_iff

/-- CLUSTER (R91). -/
theorem controlReg_cluster (s : State) :
    s.controlReg s.cur 1 = BitVec.ofNat 64 ((if s.cur / 8 % 64 < 32 then 2 ^ 11 else 0) + s.lclus (s.cur / 8) % 2 ^ 11) := by
  change BitVec.ofNat 64 ((if isWide (clusterOf s.cur) = true then 2 ^ 11 else 0) + s.lclus (clusterOf s.cur) % 2 ^ 11) = _
  simp only [isWide_iff, clusterOf]

/-- Settles O19: an MFC that may read its register is the result of `State.controlReg` (R82). -/
theorem readControl : Obligations.ReadControl := by
  unfold Obligations.ReadControl
  intro s d r c x reads
  have hread {n : Nat} {v : Word} (hv : s.controlReg s.cur n = v) (hmax : n ≤ 32 := by decide) : reads n v := mfc_gives hmax hv
  exact ⟨hread rfl, hread (controlReg_cluster s), hread rfl, hread rfl, hread rfl, hread rfl, hread rfl, hread rfl, hread rfl, hread rfl,
    hread rfl, hread rfl, hread rfl, hread rfl, hread rfl, hread rfl, hread rfl, hread rfl, hread rfl, hread rfl, hread rfl, hread rfl,
    hread rfl, hread rfl, hread rfl, hread rfl, hread rfl, hread rfl, hread rfl, hread rfl, hread rfl, hread rfl, mfcFflags_gives⟩

end Sys2Proof.Machine
end

section
/-! PROOFS. O14: the first cycle of a guarded pair and of a repeat frame (R61, R83, R108). -/

open Sys2Proof.Claims

namespace Sys2Proof.Machine

/-- Outside STRICT, and on TRUE labels, a control transfer passes (R107). -/
theorem strictCheck_passes {s : State} {l : Label} (h : s.me.lflags.getLsbD 1 = false ∨ l = labelTrue) :
    strictCheck [l] s = .ok () s := by
  have hpass : (s.me.strict && [l].any (· != labelTrue)) = false := by
    rcases h with h | rfl
    · rw [Core.strict, h, Bool.false_and]
    · simp
  simp only [strictCheck, M.run_bind, M.run_getMe]
  rw [if_neg (Bool.eq_false_iff.1 hpass)]
  rfl

theorem exec_guard {s t : State} {v : Bool} {n : PReg} {w : HWord} {j : Instr} (hfetch : fetchNth 1 s = .ok w t)
    (hdecode : decode w = .ok j) (hword : unguardable w = false) (hready : PredReady t n)
    (hstrict : t.me.lflags.getLsbD 1 = false ∨ t.me.lp n = labelTrue) :
    exec (.guard v n) s = .next (t.modCore t.cur (fun c => { c with
      run := .running, wait := .none
      pair := some ⟨Instr.word (.guard v n), w, t.me.lp n, (t.me.rp n).getLsbD 0 != v⟩ })) := by
  have hpred : t.me.predPending n = false := hready
  refine runI_ok ?_
  simp only [M.run_bind, hfetch, hword, Bool.false_eq_true, if_false, hdecode, M.run_getMe, hpred, Bool.not_false, M.run_needs_true,
    strictCheck_passes hstrict]
  rfl

theorem exec_rpt {s t : State} {q k sd sa sb : BitVec 4} {ws : List HWord}
    (hfetch : (List.range (q.toNat + 1)).mapM (fun i => fetchNth (1 + i)) s = .ok ws t) (hwords : ws.all frameWord = true) :
    exec (.rpt q k sd sa sb) s = .next (t.modCore t.cur (fun c => { c with
      run := .running, wait := .none, pair := none
      frame := some ⟨ws, k.toNat + 1, sd.toNat, sa.toNat, sb.toNat, 0, 0⟩ })) := by
  refine runI_ok ?_
  rw [M.bind_ok s t hfetch, hwords]
  rfl

/-- Settles O14. -/
theorem guardAndFrame : Obligations.GuardAndFrame := by
  unfold Obligations.GuardAndFrame
  exact fun s t v n w j q k sd sa sb ws => ⟨exec_guard, exec_rpt⟩

end Sys2Proof.Machine
end

section
/-! PROOFS. O58: no instruction stops the machine.

An instruction, an engine, a plinth and a step of the surroundings each end in a next state whatever their own operation answers. What
is left is the test whether a unit that a step names exists: `NextUnless p` says that the step answers a next state, or that p holds and
the unit is lacking. -/

namespace Sys2Proof.Machine

/-- The step answers a next state. -/
def Goes (r : Step) : Prop := ∃ t, r = .next t

/-- The step answers a next state, or p holds and it names a unit that the package lacks. -/
def NextUnless (p : Prop) (r : Step) : Prop := Goes r ∨ p ∧ r = .fault .noSuchUnit

variable {s : State} {p : Prop} {r : Step}

/-! ### How the kinds of steps end -/

theorem goes_next (t : State) : Goes (.next t) := ⟨t, rfl⟩

theorem Goes.nextUnless (h : Goes r) (p : Prop) : NextUnless p r := .inl h

theorem NextUnless.goes (h : NextUnless p r) (hp : ¬p) : Goes r := h.resolve_right fun hlacks => hp hlacks.1

theorem onUnits_nextUnless (b : Bool) (f : State → State) (s : State) : NextUnless (¬b = true) (onUnits b f s) := by
  cases b with
  | true => exact .inl (goes_next (f s))
  | false => exact .inr ⟨Bool.false_ne_true, rfl⟩

theorem unit_nextUnless {c : Prop} [Decidable c] (h : c → Goes r) : NextUnless (¬c) (if c then r else .fault .noSuchUnit) := by
  split
  next hc => exact .inl (h hc)
  next hc => exact .inr ⟨hc, rfl⟩

theorem runI_goes (i : Instr) (m : M Unit) (s : State) : Goes (runI i m s) := runI_next i m s

theorem runEngine_goes (n : Nat) (e : Engine) (m : M Unit) (s : State) : Goes (runEngine n e m s) := runEngine_next n e m s

theorem runEvent_goes (m : M Unit) (s : State) : Goes (runEvent m s) := runEvent_next m s

theorem runPlinth_goes (m : M Unit) (s : State) : Goes (runPlinth m s) := by
  unfold runPlinth
  split <;> exact goes_next _

theorem runOutside_goes (e : Nat) (m : M Unit) (s : State) : Goes (runOutside e m s) := by
  unfold runOutside
  split <;> exact goes_next _

theorem runCopy_nextUnless (n : Nat) (m : CEntry → M Unit) (s : State) : NextUnless (¬n < nCores) (runCopy n m s) :=
  unit_nextUnless fun _ => by
    split
    · exact goes_next s
    · exact runEngine_goes ..

theorem fabricGo_goes (e x : Nat) (c : Captured) (s : State) : Goes (fabricGo e x c s) := by
  unfold fabricGo
  split <;> exact goes_next _

/-! ### Every instruction that has a word (R88, R336, R337) -/

theorem execYield_goes (s : State) : Goes (execYield s) := by
  unfold execYield
  dsimp only
  split
  · exact goes_next _
  · exact runI_goes ..

theorem exec_goes_of_word (i : Instr) (hi : (encode i).isSome = true) (s : State) : Goes (exec i s) := by
  unfold exec
  cases i with
  | trap => exact goes_next _
  | yield => exact execYield_goes s
  | brk | eret | guard | halt | mfc | mfcFflags | mtc | mtcFflags | mtcSrseed | mtcLspace | mtcFbstat | mtcTracectl | tlbinvPage |
    tlbinvContext | tlbinvPartition | freplay | wayset | waysetQ | trace | sample | add | sub | and | or | xor | andn | orn | sll |
    srl | sra | rol | ror | min | max | minn | maxn | seq | sne | slt | sltn | sel | clz | ctz | popc | brev | bswap | addi | andi |
    ori | xori | slti | sltni | slli | srli | srai | roli | lui | luiK | adpc | mul | mulh | mulhn | div | divn | rem | remn |
    bpermi | bext | bins | bperm | bsrinit | bsget | bspeek | bsskip | bsgetg | bswinit | bsemit | bsflush | fadd | fsub | fmul |
    ffma | fmin | fmax | fcmpEq | fcmpLt | fcmpLe | fcmpUn | fcvt | bCond | jl | jlr | rpt | ld | ldAcq | ldnt | st | stRel | stnt |
    amoAdd | amoAnd | amoOr | amoXor | amoMin | amoMax | amoMinn | amoMaxn | amoSwap | amoCas | amoFadd | redAdd | redAnd | redOr |
    redXor | redMin | redMax | redFadd | memred | memcas | memsax | cinit | cdec | cinc | cread | clocal | fence | fenceLx | drain |
    l1inv | l1wb | icinv | isync | pause | waita | evsig | evarm | bar | sync | send | take | peeki | assume | lget | lset | lprod |
    lunion | leq | nogood | nogoode | lvis | lsel | lcount | lenv | lfocus | xcopy | xpub | xstat | mma | mzero | mld | mst | mwait |
    mtest | launch | exit | gform | grejoin | gleave | gstat | vaddInt | vsubInt | vmulInt | vminInt | vmaxInt | vabsInt | vnegInt |
    vand | vor | vxor | vshl | vshr | vsra | vbcast | vaddFloat | vsubFloat | vmulFloat | vfma | vfms | vminFloat | vmaxFloat |
    vabsFloat | vnegFloat | vcmp | vsel | pand | por | pxor | pnot | pset | pcnt | pfirst | vred | vtrans | vrot | vshape | vld |
    vst | vgather | vscatter | vamo | vcvt | vquant | vdeq | vexp | vlog | vrcp | vrsq | vsqrt | vsin | vcos | vtanh | vsigm | vgelu |
    vlget | vlset | vlvis =>
    exact runI_goes ..
  | _ => cases hi

/-! ### Steps of the surroundings and of the engines -/

theorem execFullerMissComplete_nextUnless (k x : Nat) (op : FullerOp) (a b : Label) (s : State) :
    NextUnless (¬k < nClusters) (execFullerMissComplete k x op a b s) := by
  unfold execFullerMissComplete
  dsimp only
  split
  next hk => exact .inr ⟨by simpa using hk, rfl⟩
  next =>
    left
    split
    · exact goes_next s
    · exact runPlinth_goes _ s

theorem execSliceStore_nextUnless (c : Nat) (s : State) : NextUnless (¬c < nCores) (execSliceStore c s) :=
  unit_nextUnless fun _ => by
    split
    · exact goes_next s
    · split
      · dsimp only
        split
        · exact runEngine_goes ..
        · exact runEngine_goes ..
        all_goals exact goes_next _
      · exact goes_next s

theorem execMatrixOpComplete_nextUnless (k : Nat) (s : State) : NextUnless (¬k < nClusters) (execMatrixOpComplete k s) :=
  unit_nextUnless fun _ => by
    split
    · exact goes_next s
    · exact runEngine_goes ..

theorem execURecallComplete_goes (L : Nat) (s : State) : Goes (execURecallComplete L s) := by
  unfold execURecallComplete
  dsimp only
  split
  · exact runPlinth_goes ..
  · exact goes_next s

theorem execClusterStart_goes (k q : Nat) (s : State) : Goes (execClusterStart k q s) := by
  unfold execClusterStart
  dsimp only
  split
  · exact goes_next s
  · split
    · exact goes_next s
    · split <;> exact goes_next _

theorem execContextRestoreComplete_goes (x : Nat) (s : State) : Goes (execContextRestoreComplete x s) := by
  unfold execContextRestoreComplete
  dsimp only
  split
  · exact goes_next s
  · split
    · exact runPlinth_goes ..
    · exact goes_next s

theorem execHostAccess_nextUnless (a : HostAddr) (size : Nat) (v : Option Nat) (s : State) :
    NextUnless (¬(isDram a.pa && decide (a.pa + size ≤ 2 ^ 39)) = true) (execHostAccess a size v s) := by
  unfold execHostAccess
  dsimp only
  split
  next ha => exact .inr ⟨Bool.eq_false_iff.1 (Bool.not_eq_true' _ ▸ ha), rfl⟩
  next =>
    left
    split
    · exact goes_next _
    · exact runOutside_goes ..

theorem execFabricLaunch_goes (o : Sender) (x : Nat) (q : BitVec 4) (va : Word) (s : State) : Goes (execFabricLaunch o x q va s) := by
  unfold execFabricLaunch
  split
  · exact goes_next _
  · split
    · exact goes_next _
    · split
      · exact fabricGo_goes ..
      · exact goes_next _
      · exact runOutside_goes ..

theorem execFabricTlbinv_goes (o : Sender) (x : Nat) (e : BitVec 2) (va : Word) (s : State) : Goes (execFabricTlbinv o x e va s) := by
  unfold execFabricTlbinv
  split
  · exact goes_next _
  · split
    · exact goes_next _
    · split
      · exact goes_next _
      · extract_lets bad
        split
        · exact goes_next _
        · exact runOutside_goes ..

theorem execContextRecordWrite_goes (o : Sender) (x : Nat) (f : CtxField) (v : Word) (s : State) :
    Goes (execContextRecordWrite o x f v s) := by
  unfold execContextRecordWrite
  split
  · exact goes_next _
  · split
    · exact goes_next _
    · split
      · exact goes_next _
      · dsimp only
        split
        · exact runPlinth_goes ..
        · exact goes_next _

theorem execBlockingRequest_goes (o : Sender) (t : BitVec 2) (roles : List Role) (s : State) : Goes (execBlockingRequest o t roles s) := by
  unfold execBlockingRequest
  dsimp only
  split
  · exact goes_next _
  · split
    · exact goes_next _
    · split
      · exact goes_next _
      · exact runEvent_goes ..

theorem execBlockingFlushComplete_goes (t : BitVec 2) (s : State) : Goes (execBlockingFlushComplete t s) := by
  unfold execBlockingFlushComplete
  dsimp only
  split
  · split
    · exact runPlinth_goes ..
    · exact goes_next s
  · exact goes_next s

theorem execWordNotAnInstruction_goes (w : HWord) (s : State) : Goes (execWordNotAnInstruction w s) := by
  unfold execWordNotAnInstruction
  split <;> exact goes_next _

/-- A step answers a next state, or names a unit that the package lacks. -/
theorem exec_nextUnless (i : Instr) (s : State) : NextUnless True (exec i s) := by
  have weaken {p : Prop} {r : Step} (h : NextUnless p r) : NextUnless True r := h.imp_right fun h => ⟨trivial, h.2⟩
  by_cases hi : (encode i).isSome = true
  · exact (exec_goes_of_word i hi s).nextUnless _
  unfold exec
  cases i with
  | inboxDelivery | followerBufferTimeout | leaderRejoinTimeout | l1FillReply | sliceFillRequest | dirGets | dirGetx | dirUpg |
    dirPut | dirRedJoin | invalidationAck | agentInvalidation | agentForwardedGets | agentForwardedGetx | agentDataGrant |
    agentEviction | writebackAck | uPartialEvict | deadAgentTimeout | newerIncarnation | counterRequest | counterRecall |
    allowanceReturn | counterReply | matrixOpStart | matrixSelfTest | throttleChange | waitaWake | syncRelease | pauseEnd | watchdog |
    deadlockProbe | pageWalkComplete | energyWindow | asyncMachineCheck | traceRequest | coreRestart | laneRepairTrigger |
    laneQuiesced | laneSwitched | laneFailNoSpare | laneGroupGrant =>
    exact weaken (onUnits_nextUnless ..)
  | tileComplete | storePerform | stntBufferPerform | memBankExecute | matrixTransferComplete =>
    exact weaken (unit_nextUnless fun _ => runEngine_goes ..)
  | forcedSaveTimeout => exact weaken (unit_nextUnless fun _ => runEvent_goes ..)
  | nogoodInstall => exact weaken (unit_nextUnless fun _ => runPlinth_goes ..)
  | copyCommandStart | copyBeat | copyCommandComplete => exact weaken (runCopy_nextUnless ..)
  | sliceStore => exact weaken (execSliceStore_nextUnless ..)
  | matrixOpComplete => exact weaken (execMatrixOpComplete_nextUnless ..)
  | fullerMissComplete => exact weaken (execFullerMissComplete_nextUnless ..)
  | hostAccess => exact weaken (execHostAccess_nextUnless ..)
  | internRequest | nogoodRequest | deferredLabelFold => exact (runPlinth_goes ..).nextUnless _
  | preemptRequest => exact (runEvent_goes ..).nextUnless _
  | uRecallComplete => exact (execURecallComplete_goes ..).nextUnless _
  | clusterStart => exact (execClusterStart_goes ..).nextUnless _
  | contextRestoreComplete => exact (execContextRestoreComplete_goes ..).nextUnless _
  | fabricLaunch => exact (execFabricLaunch_goes ..).nextUnless _
  | fabricTlbinv => exact (execFabricTlbinv_goes ..).nextUnless _
  | contextRecordWrite => exact (execContextRecordWrite_goes ..).nextUnless _
  | blockingRequest => exact (execBlockingRequest_goes ..).nextUnless _
  | blockingFlushComplete => exact (execBlockingFlushComplete_goes ..).nextUnless _
  | wordNotAnInstruction => exact (execWordNotAnInstruction_goes ..).nextUnless _
  | eventWindowLoad | eventWindowStore | fetchFault => exact (runI_goes ..).nextUnless _
  | recallRoundComplete | dispatchDecision | kernelDone | samplingPulse | fabricReplay | queueConfigure | queueStop | queueRestart |
    contextCreate | contextSchedule | contextTerminate | partitionDescriptor | wayMaskWrite | blockingDrainComplete | blockingResume |
    freeze | readOut | thaw | firmwareLoad | attestationRequest | reset | linkTrainingStart | lanesLocked | trainingTimeout |
    acceptedSetWritten | laneFailure | flitReceive | flitReplayLimit | linkFence => exact (goes_next _).nextUnless _
  | _ => exact absurd rfl hi

/-! ### A core's turn -/

theorem decode_goes {w : HWord} {i : Instr} (h : decode w = .ok i) (s : State) : Goes (exec i s) := by
  obtain ⟨-, hw⟩ := decode_sound i h
  exact exec_goes_of_word i (Option.isSome_of_eq_some hw) s

/-- What a repeat frame executes has a word (R83). -/
theorem encode_isSome_of_stepped {i j : Instr} {n d a b : Nat} (h : Instr.stepped i n d a b = some j) : (encode j).isSome = true := by
  cases i
  all_goals cases h
  all_goals rfl

theorem Frame.now_goes {f : Frame} {i : Instr} (h : f.now = some i) (s : State) : Goes (exec i s) := by
  unfold Frame.now at h
  split at h
  · cases h
  · split at h
    · exact exec_goes_of_word i (encode_isSome_of_stepped h) s
    · cases h

theorem State.run_goes {t : State} {i : Instr} (h : Goes (exec i t)) (s : State) (w : HWord) : Goes (s.run t i w) := by
  obtain ⟨u, hu⟩ := h
  unfold State.run
  rw [hu]
  dsimp only
  split <;> exact goes_next _

theorem State.runWord_goes (s t : State) (w : HWord) : Goes (s.runWord t w) := by
  unfold State.runWord
  cases h : decode w with
  | ok i => exact State.run_goes (decode_goes h t) s w
  | error e => exact execWordNotAnInstruction_goes w t

theorem endStep_goes (i : Instr) (e : Stop) (s t : State) : Goes (endStep i e s t) := by
  unfold endStep
  split <;> exact goes_next _

theorem State.noWord_goes (s t : State) (e : Stop) : Goes (s.noWord t e) := by
  unfold State.noWord
  cases e with
  | trap => exact endStep_goes ..
  | hold | recalls | absent => exact goes_next _

theorem State.issue_goes (s : State) : Goes s.issue := by
  unfold State.issue
  dsimp only
  split
  · exact runEvent_goes ..
  · split
    · split
      next hi => exact State.run_goes (Frame.now_goes hi s) ..
      next => exact goes_next _
    · split
      · split
        · exact State.runWord_goes ..
        · exact goes_next _
      · split
        · exact State.runWord_goes ..
        · split
          · split
            · exact State.runWord_goes ..
            · exact goes_next _
          · exact State.noWord_goes ..

theorem State.nextBeat_lt {s : State} {n m : Nat} (hn : n < nCores) (h : s.nextBeat (clusterOf n) = some m) : m < nCores := by
  obtain ⟨d, -, rfl⟩ := List.mem_map.1 (List.mem_of_find?_eq_some h)
  simp only [nCores, clusterOf] at hn ⊢
  omega

theorem State.engines_go {n : Nat} (hn : n < nCores) (s : State) : ∀ f ∈ s.engines n, Goes (f ()) := by
  have hk : clusterOf n < nClusters := by
    simp only [nCores, nClusters, clusterOf] at hn ⊢
    omega
  have hquarter : n / 4 < nCores / 4 := by
    simp only [nCores] at hn ⊢
    omega
  have hcore {r : Step} (h : NextUnless (¬n < nCores) r) : Goes r := h.goes (not_not.2 hn)
  have hunits {b : Bool} (hb : b = true) (f : State → State) (t : State) : Goes (onUnits b f t) :=
    (onUnits_nextUnless b f t).goes (not_not.2 hb)
  have hbeat : (s.nextBeat (clusterOf n)).getD n < nCores := by
    cases h : s.nextBeat (clusterOf n) with
    | none => exact hn
    | some m => exact State.nextBeat_lt hn h
  unfold State.engines
  extract_lets c k u go on
  have hon {b : Bool} {f : Unit → Step} (hf : Goes (f ())) : ∀ g ∈ on b f, Goes (g ()) := by
    intro g hg
    dsimp only [on] at hg
    split at hg
    · rwa [List.mem_singleton.1 hg]
    · cases hg
  clear_value on
  have hcopy (e : CEntry) : Goes (if !e.started then execCopyCommandStart n s else if e.done then execCopyCommandComplete n s
      else execCopyBeat ((s.nextBeat k).getD n) s) := by
    split
    · exact hcore (runCopy_nextUnless ..)
    · split
      · exact hcore (runCopy_nextUnless ..)
      · exact (runCopy_nextUnless ..).goes (not_not.2 hbeat)
  simp only [List.forall_mem_append]
  refine ⟨⟨⟨⟨⟨⟨hon ?store, hon ?tile⟩, hon ?test⟩, hon ?run⟩, hon ?matrix⟩, ?copy⟩, ?nt⟩
  case store => exact hcore (unit_nextUnless fun _ => runEngine_goes ..)
  case tile =>
    split
    · exact hcore (unit_nextUnless fun _ => runEngine_goes ..)
    · exact hunits (decide_eq_true hquarter) ..
  case test => exact hunits (decide_eq_true hk) ..
  case run => exact (execMatrixOpComplete_nextUnless ..).goes (not_not.2 hk)
  case matrix =>
    split
    · exact hcore (unit_nextUnless fun _ => runEngine_goes ..)
    · exact hunits (decide_eq_true hk) ..
  case copy =>
    cases c.cq with
    | nil => exact List.forall_mem_nil _
    | cons e r => exact hon (hcopy e)
  case nt =>
    cases c.nt with
    | nil => exact List.forall_mem_nil _
    | cons b r => exact hon (hcore (unit_nextUnless fun _ => runEngine_goes ..))

theorem State.firstOf_goes {s : State} {fs : List (Unit → Step)} (hfs : ∀ f ∈ fs, Goes (f ())) : Goes (s.firstOf fs) := by
  induction fs with
  | nil => exact goes_next _
  | cons f fs ih =>
    obtain ⟨t, ht⟩ := hfs f (List.mem_cons_self ..)
    unfold State.firstOf
    rw [ht]
    dsimp only
    split
    · exact ih fun g hg => hfs g (List.mem_cons_of_mem _ hg)
    · exact goes_next t

theorem State.turn_goes {s : State} (hflight : s.flight = []) (hwaiting : s.waiting = []) (hcur : s.cur < nCores) : Goes s.turn := by
  unfold State.turn
  extract_lets n save issue
  have harrive : Goes (s.arrive 0) := by
    unfold State.arrive
    rw [hflight]
    exact goes_next s
  have hsave : Goes (save ()) := by
    dsimp only [save]
    split <;> exact goes_next _
  have hissue : Goes (issue ()) := by
    dsimp only [issue]
    split
    · exact State.issue_goes s
    · exact goes_next s
  clear_value save issue
  split
  · exact (onUnits_nextUnless ..).goes (not_not.2 (decide_eq_true hcur))
  · split
    · exact (unit_nextUnless fun _ => runEvent_goes ..).goes (not_not.2 hcur)
    · split
      · exact State.issue_goes s
      · refine State.firstOf_goes ?_
        simp only [hwaiting, List.length_nil, List.range_zero, List.map_nil, List.append_nil, List.forall_mem_append, List.forall_mem_cons]
        exact ⟨⟨⟨harrive, List.forall_mem_nil _⟩, State.engines_go hcur s⟩, hsave, hissue, List.forall_mem_nil _⟩

theorem settle_goes (h : Goes r) : Goes (settle r) := by
  obtain ⟨t, rfl⟩ := h
  exact goes_next _

theorem step_goes {s : State} (hagenda : s.agenda = []) (hflight : s.flight = []) (hwaiting : s.waiting = []) (hcur : s.cur < nCores) :
    Goes (step s) := by
  unfold step State.next
  rw [hagenda]
  split
  · exact goes_next s
  · refine settle_goes ?_
    split
    · exact goes_next _
    · exact State.turn_goes hflight hwaiting hcur

/-- Settles O58: every kind of step answers a next state, unless the unit that it names is lacking; a core's turn names none that is. -/
theorem noStop : Obligations.NoStop := by
  unfold Obligations.NoStop
  refine ⟨fun i w s hw => exec_goes_of_word i (Option.isSome_of_eq_some hw) s, fun i s => ?_, fun s => step_goes⟩
  exact (exec_nextUnless i s).imp_right And.right

end Sys2Proof.Machine
end

section
/-! PROOFS. O59, refuted: a fetch that finds its word in the instruction cache.

The statement has such a fetch go through wherever the translation does. The model checks first that the link to a peer's window serves the
window (R367): where it does not, the fetch raises PROTECT, whatever the cache holds. -/

namespace Sys2Proof.Machine

/-- The place of the word: the first in the window of peer 0. -/
def barredLoc : Loc := ⟨.peer, 0x800000000000, false⟩

/-- Core 0 about to fetch at 0: the page there is executable and lies in the window of peer 0, whose word the cache holds; the link to
the peer is UP and has no feature accepted. -/
def barredFetch : State :=
  { State.reset with
    clusters := [(0, { Cluster.reset with tlb := [⟨0, 0, 0, 0x10000, 0x1000800000000000⟩], icache := [(0x800000000000, 0x04642800)] })]
    links := [(0, { Link.reset with st := .up, endpoint := some 0 })] }

theorem barredFetch_translates : translateMe .fetch 0 false barredFetch = .ok barredLoc barredFetch := rfl

theorem barredFetch_cached : (barredFetch.cluster (clusterOf barredFetch.cur)).icache.find? barredLoc.key = some 0x04642800 := rfl

theorem barredFetch_barred : barredFetch.peerBarred barredLoc = true := rfl

theorem barredFetch_protect : fetchNth 0 barredFetch = raiseAddr .protect 0 barredFetch := rfl

/-- Refutes O59: in `barredFetch` the instruction cache holds the word, and the fetch raises PROTECT, for the link does not serve the
peer's window. -/
theorem not_stepRunsDecoded : ¬ Obligations.StepRunsDecoded := by
  unfold Obligations.StepRunsDecoded
  intro h
  obtain ⟨-, hfetch, -⟩ := h barredFetch barredFetch barredFetch barredFetch 0 .brk
  obtain ⟨-, hmemory⟩ := hfetch rfl
  obtain ⟨hcached, -⟩ := hmemory barredLoc rfl (by decide) barredFetch_translates
  have hok := hcached _ barredFetch_cached
  rw [barredFetch_protect] at hok
  cases hok

end Sys2Proof.Machine
end

section
/-! PROOFS. O4 and O5: the integer instructions of two registers and with an immediate, multiply and divide (R93, R96, R97).

An instruction is the result of its function by `gives_of_result`; what is left is that the model's function is the one the manual gives. -/

open Sys2Proof.Claims

namespace Sys2Proof.Machine

/-! ### An instruction gives the value of its function -/

section
variable {i : Instr} {s : State} {d ra rb : GReg} {v : Word}

/-- The result of an instruction is written under the product of its factors. -/
theorem writeG_ok {ls : List Label} {l : Label} {t : State} (hd : d ≠ 0) (h : formLabel ls s = .ok l t) (v : Word) :
    writeG d v ls s = .ok () (t.modCore t.cur (fun c => c.wg d v l)) := by
  rw [writeG, if_neg hd]
  exact M.bind_ok s t h

theorem alu_gives {f : Word → Word → Word} (hexec : exec i s = alu i d ra rb f s)
    (hv : f (s.me.rg ra) (s.me.rg rb) = v := by rfl) :
    Gives i s d v [s.me.lg ra, s.me.lg rb] :=
  gives_of_result hexec (hv ▸ rfl)

theorem alu1_gives {f : Word → Word} (hexec : exec i s = alu1 i d ra f s) (hv : f (s.me.rg ra) = v := by rfl) :
    Gives i s d v [s.me.lg ra] :=
  gives_of_result hexec (hv ▸ rfl)

end

/-! ### The integer functions as the manual gives them (R93, R96) -/

section
variable (a b : Word)

theorem slt_iff_toInt_lt : a.slt b = true ↔ a.toInt < b.toInt := by simp [BitVec.slt]

theorem ult_iff_toNat_lt : a.ult b = true ↔ a.toNat < b.toNat := by simp [BitVec.ult]

/-- A truth value as a word is the choice between 1 and 0. -/
theorem b2w_eq_ite {c : Bool} {p : Prop} [Decidable p] (h : c = true ↔ p) : b2w c = if p then 1 else 0 := by
  simp only [b2w, h]

theorem smin_eq : smin a b = if a.toInt ≤ b.toInt then a else b := by
  simp only [smin, slt_iff_toInt_lt, ← Int.not_lt, ite_not]

theorem smax_eq : smax a b = if a.toInt ≤ b.toInt then b else a := by
  by_cases h : a.toInt = b.toInt
  · simp [smax, BitVec.eq_of_toInt_eq h]
  · simp only [smax, slt_iff_toInt_lt, Int.lt_iff_le_and_ne, ne_eq, h, not_false_eq_true, and_true]

theorem umin_eq : umin a b = if a.toNat ≤ b.toNat then a else b := by
  simp only [umin, ult_iff_toNat_lt, ← Nat.not_lt, ite_not]

theorem umax_eq : umax a b = if a.toNat ≤ b.toNat then b else a := by
  by_cases h : a.toNat = b.toNat
  · simp [umax, BitVec.eq_of_toNat_eq h]
  · simp only [umax, ult_iff_toNat_lt, Nat.lt_iff_le_and_ne, ne_eq, h, not_false_eq_true, and_true]

theorem sne_eq : b2w (a != b) = if a = b then 0 else 1 := by
  simp only [b2w, bne_iff_ne, ne_eq, ite_not]

/-- A rotation by a count below 64 joins two shifts. -/
theorem rotateLeft_eq {n : Nat} (hn : n < 64) : a.rotateLeft n = a <<< n ||| a >>> (64 - n) := by
  rw [BitVec.rotateLeft_def, Nat.mod_eq_of_lt hn]

theorem rotateRight_eq {n : Nat} (hn : n < 64) : a.rotateRight n = a >>> n ||| a <<< (64 - n) := by
  rw [BitVec.rotateRight_def, Nat.mod_eq_of_lt hn]

theorem shiftOf_lt : shiftOf b < 64 := Nat.mod_lt _ (by decide)

theorem toInt_sext (m : BitVec 16) : (sext m).toInt = m.toInt := BitVec.toInt_signExtend_of_le (by decide)

end

/-- Settles O4: the instructions of two registers by `alu_gives`, those with an immediate by `alu1_gives`. -/
theorem integerAlu : Obligations.IntegerAlu := by
  unfold Obligations.IntegerAlu
  refine ⟨fun s d ra rb => ?registers, fun s d ra m h k o => ?immediates⟩
  case registers =>
    exact ⟨alu_gives rfl, alu_gives rfl, alu_gives rfl, alu_gives rfl, alu_gives rfl,
      alu_gives (f := fun x y => x &&& ~~~y) rfl,
      alu_gives (f := fun x y => x ||| ~~~y) rfl,
      alu_gives (f := fun x y => x <<< shiftOf y) rfl,
      alu_gives (f := fun x y => x >>> shiftOf y) rfl,
      alu_gives (f := fun x y => x.sshiftRight (shiftOf y)) rfl,
      alu_gives (f := fun x y => x.rotateLeft (shiftOf y)) rfl (rotateLeft_eq _ (shiftOf_lt _)),
      alu_gives (f := fun x y => x.rotateRight (shiftOf y)) rfl (rotateRight_eq _ (shiftOf_lt _)),
      alu_gives (f := smin) rfl (smin_eq _ _),
      alu_gives (f := smax) rfl (smax_eq _ _),
      alu_gives (f := umin) rfl (umin_eq _ _),
      alu_gives (f := umax) rfl (umax_eq _ _),
      alu_gives (f := fun x y => b2w (x == y)) rfl (b2w_eq_ite beq_iff_eq),
      alu_gives (f := fun x y => b2w (x != y)) rfl (sne_eq _ _),
      alu_gives (f := fun x y => b2w (x.slt y)) rfl (b2w_eq_ite (slt_iff_toInt_lt _ _)),
      alu_gives (f := fun x y => b2w (x.ult y)) rfl (b2w_eq_ite (ult_iff_toNat_lt _ _))⟩
  case immediates =>
    have hslt (a : Word) : a.slt (sext m) = true ↔ a.toInt < m.toInt := by rw [slt_iff_toInt_lt, toInt_sext]
    exact ⟨alu1_gives (f := fun x => x + sext m) rfl,
      alu1_gives (f := fun x => x &&& zext m) rfl,
      alu1_gives (f := fun x => x ||| zext m) rfl,
      alu1_gives (f := fun x => x ^^^ zext m) rfl,
      alu1_gives (f := fun x => b2w (x.slt (sext m))) rfl (b2w_eq_ite (hslt _)),
      alu1_gives (f := fun x => b2w (x.ult (sext m))) rfl (b2w_eq_ite (ult_iff_toNat_lt _ _)),
      alu1_gives (f := fun x => x <<< h.toNat) rfl,
      alu1_gives (f := fun x => x >>> h.toNat) rfl,
      alu1_gives (f := fun x => x.sshiftRight h.toNat) rfl,
      alu1_gives (f := fun x => x.rotateLeft h.toNat) rfl (rotateLeft_eq _ h.isLt),
      gives_of_result rfl rfl,
      alu1_gives (f := fun x => luiInsert x k m) rfl,
      gives_of_result rfl rfl⟩

/-! ### Multiply and divide (R97) -/

section
variable (a b : Word)

theorem mul_eq_ofNat : a * b = BitVec.ofNat 64 (a.toNat * b.toNat) := by
  rw [BitVec.ofNat_mul, BitVec.ofNat_toNat, BitVec.ofNat_toNat, BitVec.setWidth_eq, BitVec.setWidth_eq]

variable {a b}

/-- The corner of R97: −2^63 divided by −1 leaves the range of a word. -/
theorem divS_overflow (ha : a.toInt = -2 ^ 63) (hb : b.toInt = -1) : divS a b = a := by
  obtain rfl : a = BitVec.intMin 64 := BitVec.eq_of_toInt_eq ha
  obtain rfl : b = BitVec.allOnes 64 := BitVec.eq_of_toInt_eq hb
  decide

theorem remS_overflow (ha : a.toInt = -2 ^ 63) (hb : b.toInt = -1) : remS a b = 0 := by
  obtain rfl : a = BitVec.intMin 64 := BitVec.eq_of_toInt_eq ha
  obtain rfl : b = BitVec.allOnes 64 := BitVec.eq_of_toInt_eq hb
  decide

variable (a b)

theorem divS_eq : divS a b = if b = 0 then BitVec.allOnes 64
    else if a.toInt = -2 ^ 63 ∧ b.toInt = -1 then a else BitVec.ofInt 64 (a.toInt.tdiv b.toInt) := by
  by_cases hcorner : a.toInt = -2 ^ 63 ∧ b.toInt = -1
  · have hb : b ≠ 0 := by
      rintro rfl
      exact absurd hcorner.2 (by decide)
    rw [if_neg hb, if_pos hcorner, divS_overflow hcorner.1 hcorner.2]
  · rw [if_neg hcorner, divS]

theorem remS_eq : remS a b = if b = 0 then a else if a.toInt = -2 ^ 63 ∧ b.toInt = -1 then 0 else a - b * divS a b := by
  by_cases hcorner : a.toInt = -2 ^ 63 ∧ b.toInt = -1
  · have hb : b ≠ 0 := by
      rintro rfl
      exact absurd hcorner.2 (by decide)
    rw [if_neg hb, if_pos hcorner, remS_overflow hcorner.1 hcorner.2]
  · rw [if_neg hcorner, remS]

end

/-- Settles O5: the model's quotient and remainder are those of R97 also where they overflow (`divS_eq`, `remS_eq`). -/
theorem multiplyDivide : Obligations.MultiplyDivide := by
  unfold Obligations.MultiplyDivide
  intro s d ra rb a b ls corner q
  have hq : divS a b = q := divS_eq a b
  have hr : remS a b = if b = 0 then a else if corner then 0 else a - b * q := hq ▸ remS_eq a b
  exact ⟨alu_gives rfl (by exact mul_eq_ofNat a b), alu_gives rfl, alu_gives rfl, alu_gives rfl hq, alu_gives rfl,
    alu_gives rfl hr, alu_gives rfl⟩

end Sys2Proof.Machine
end

section
/-! PROOFS. O6 and O7: bit counts, bit fields, byte permutes and SEL (R94, R95, R98 to R100).

Each function is described once, independent of the instruction: what its count counts, where its bits and bytes come from. -/

open Sys2Proof.Claims

namespace Sys2Proof.Machine

/-! ### Bit counts and reversals (R94) -/

section
variable (a : Word)

/-- The count of leading zeros below bit n stops at the highest set bit. -/
theorem clzFrom_spec (n : Nat) :
    clzFrom a n ≤ n ∧ (∀ j, n - clzFrom a n ≤ j → j < n → a.getLsbD j = false) ∧
      (clzFrom a n < n → a.getLsbD (n - 1 - clzFrom a n) = true) := by
  induction n with
  | zero => simp [clzFrom]
  | succ n ih =>
    obtain ⟨hle, hzero, hset⟩ := ih
    rw [clzFrom]
    split
    next htop => exact ⟨by omega, fun j _ _ => by omega, fun _ => by simpa using htop⟩
    next htop =>
      refine ⟨by omega, fun j hj hlt => ?_, fun hlt => ?_⟩
      · rcases Nat.lt_succ_iff_lt_or_eq.1 hlt with hbelow | rfl
        · exact hzero j (by omega) hbelow
        · simpa using htop
      · rw [show n + 1 - 1 - (1 + clzFrom a n) = n - 1 - clzFrom a n by omega]
        exact hset (by omega)

/-- The count of trailing zeros from bit i on stops at the lowest set bit. -/
theorem ctzFrom_spec (i n : Nat) :
    ctzFrom a i n ≤ n ∧ (∀ j, j < ctzFrom a i n → a.getLsbD (i + j) = false) ∧
      (ctzFrom a i n < n → a.getLsbD (i + ctzFrom a i n) = true) := by
  induction n generalizing i with
  | zero => simp [ctzFrom]
  | succ n ih =>
    obtain ⟨hle, hzero, hset⟩ := ih (i + 1)
    rw [ctzFrom]
    split
    next hlow => exact ⟨by omega, fun j hj => by omega, fun _ => hlow⟩
    next hlow =>
      refine ⟨by omega, fun j hj => ?_, fun hlt => ?_⟩
      · cases j with
        | zero => simpa using hlow
        | succ j => rw [show i + (j + 1) = i + 1 + j by omega]; exact hzero j (by omega)
      · rw [← Nat.add_assoc]
        exact hset (by omega)

/-- The number whose bit i, for i below n, is f i. -/
theorem foldl_bits (f : Nat → Bool) (n : Nat) :
    (List.range n).foldl (fun m i => m + (if f i then 2 ^ i else 0)) 0 < 2 ^ n ∧
      ∀ i, i < n → ((List.range n).foldl (fun m i => m + (if f i then 2 ^ i else 0)) 0).testBit i = f i := by
  induction n with
  | zero => simp
  | succ n ih =>
    rw [List.range_succ, List.foldl_append]
    generalize (List.range n).foldl (fun m i => m + (if f i then 2 ^ i else 0)) 0 = m at ih ⊢
    obtain ⟨hlt, hbit⟩ := ih
    have hsum : m + (if f n then 2 ^ n else 0) = 2 ^ n * (f n).toNat + m := by
      cases f n <;> simp [Nat.add_comm]
    simp only [List.foldl_cons, List.foldl_nil, hsum]
    refine ⟨?_, fun i hi => ?_⟩
    · have := Bool.toNat_le (f n)
      rw [Nat.pow_succ]
      nlinarith
    · rw [Nat.testBit_two_pow_mul_add _ hlt]
      split
      next hbelow => exact hbit i hbelow
      next hge =>
        obtain rfl : i = n := by omega
        cases f i <;> simp

theorem getLsbD_bitReverse {i : Nat} (hi : i < 64) : (bitReverse a).getLsbD i = a.getLsbD (63 - i) := by
  rw [bitReverse, BitVec.getLsbD_ofNat, decide_eq_true hi, Bool.true_and]
  exact (foldl_bits (fun i => a.getLsbD (63 - i)) 64).2 i hi

theorem popcount_eq : popcount a = (List.range 64).countP (fun i => a.getLsbD i) := by
  rw [List.countP_eq_length_filter, popcount]

/-- Above its lowest byte, an appended word has the bytes of its upper part. -/
theorem extractLsb'_append_byte {n i : Nat} (x : BitVec n) (y : Byte) :
    (x ++ y).extractLsb' (8 * (i + 1)) 8 = x.extractLsb' (8 * i) 8 :=
  BitVec.extractLsb'_append_eq_of_le (by omega)

/-- Byte i of the reversed word is byte 7 − i. -/
theorem byteOf_byteSwap {i : Nat} (hi : i < 8) : byteOf (byteSwap a) i = byteOf a (7 - i) := by
  rw [byteOf, byteSwap]
  obtain rfl | hlow : i = 7 ∨ i < 7 := by omega
  · repeat refine (extractLsb'_append_byte _ _).trans ?_
    exact BitVec.extractLsb'_eq_self
  · interval_cases i
    all_goals
      repeat refine (extractLsb'_append_byte _ _).trans ?_
      exact BitVec.extractLsb'_append_eq_right

end

/-! ### Byte permutes (R99, R100) -/

theorem byteOf_fourBytes (b : Nat → Byte) {i : Nat} (hi : i < 4) : byteOf (fourBytes (b 0) (b 1) (b 2) (b 3)) i = b i := by
  rw [byteOf, fourBytes, BitVec.zeroExtend, BitVec.extractLsb'_setWidth_of_le (by omega)]
  obtain rfl | hlow : i = 3 ∨ i < 3 := by omega
  · repeat refine (extractLsb'_append_byte _ _).trans ?_
    exact BitVec.extractLsb'_eq_self
  · interval_cases i
    all_goals
      repeat refine (extractLsb'_append_byte _ _).trans ?_
      exact BitVec.extractLsb'_append_eq_right

theorem fourBytes_lt (b0 b1 b2 b3 : Byte) : (fourBytes b0 b1 b2 b3).toNat < 2 ^ 32 := by
  rw [fourBytes, BitVec.zeroExtend, BitVec.toNat_setWidth]
  exact Nat.lt_of_le_of_lt (Nat.mod_le _ _) (BitVec.isLt _)

/-- The sign of a byte, as a byte. -/
def signByte (x : Byte) : Byte := if x.getLsbD 7 then 0xFF else 0

/-- The byte that selector i of BPERM asks of a (R99). -/
def bpermByte (a b : Word) (i : Nat) : Byte :=
  let x := byteOf a (b.toNat / 2 ^ (5 * i) % 8)
  let k := b.toNat / 2 ^ (5 * i + 3) % 4
  if k = 0 then x else if k = 1 then 0 else signByte x

section
variable {a b : Word}

theorem permByte_eq_some {i : Nat} (hmode : b.toNat / 2 ^ (5 * i + 3) % 4 ≠ 3) :
    permByte a (b.toNat / 2 ^ (5 * i) % 8) (b.toNat / 2 ^ (5 * i + 3) % 4) = some (bpermByte a b i) := by
  rw [bpermByte]
  have hlt : b.toNat / 2 ^ (5 * i + 3) % 4 < 4 := Nat.mod_lt _ (by decide)
  generalize b.toNat / 2 ^ (5 * i + 3) % 4 = k at hmode hlt ⊢
  interval_cases k
  · rfl
  · rfl
  · rfl
  · exact absurd rfl hmode

theorem permByte_eq_none {i j : Nat} (hmode : b.toNat / 2 ^ (5 * i + 3) % 4 = 3) :
    permByte a j (b.toNat / 2 ^ (5 * i + 3) % 4) = none := by
  rw [hmode]
  rfl

theorem bpermValue_eq_some (hmode : ∀ i, i < 4 → b.toNat / 2 ^ (5 * i + 3) % 4 ≠ 3) :
    bpermValue a b = some (fourBytes (bpermByte a b 0) (bpermByte a b 1) (bpermByte a b 2) (bpermByte a b 3)) := by
  simp only [bpermValue, permByte_eq_some (hmode 0 (by decide)), permByte_eq_some (hmode 1 (by decide)),
    permByte_eq_some (hmode 2 (by decide)), permByte_eq_some (hmode 3 (by decide))]

/-- One selector of mode 0b11 leaves BPERM without a result. -/
theorem bpermValue_eq_none {i : Nat} (hi : i < 4) (hmode : b.toNat / 2 ^ (5 * i + 3) % 4 = 3) : bpermValue a b = none := by
  rw [bpermValue]
  split
  next h0 h1 h2 h3 =>
    have hnone := permByte_eq_none (a := a) (j := b.toNat / 2 ^ (5 * i) % 8) hmode
    interval_cases i
    · cases hnone.symm.trans h0
    · cases hnone.symm.trans h1
    · cases hnone.symm.trans h2
    · cases hnone.symm.trans h3
  next => rfl

end

/-- The byte that selector i of BPERMI asks of g (R100). -/
def bpermiByte (g : Word) (m : BitVec 16) (i : Nat) : Byte :=
  let x := byteOf g (m.toNat / 2 ^ (4 * i + 1) % 8)
  if m.getLsbD (4 * i) then signByte x else x

/-- A selector of BPERMI: its low bit asks for the sign, the others are the index of the byte. -/
theorem bpermi_selector (g : Word) (m : BitVec 16) (i : Nat) :
    (let n := m.toNat / 2 ^ (4 * i) % 16
     let x := byteOf g (n / 2)
     if n % 2 = 0 then x else if x.getLsbD 7 then 0xFF else 0) = bpermiByte g m i := by
  have hindex : m.toNat / 2 ^ (4 * i) % 16 / 2 = m.toNat / 2 ^ (4 * i + 1) % 8 := by
    rw [Nat.pow_succ, ← Nat.div_div_eq_div_mul]
    omega
  have hsign : m.toNat / 2 ^ (4 * i) % 16 % 2 = 0 ↔ ¬m.getLsbD (4 * i) = true := by
    rw [BitVec.getLsbD, Nat.testBit_eq_decide_div_mod_eq, decide_eq_true_iff]
    omega
  simp only [hindex, hsign, ite_not, bpermiByte, signByte]

theorem bpermiValue_eq (g : Word) (m : BitVec 16) :
    bpermiValue g m = fourBytes (bpermiByte g m 0) (bpermiByte g m 1) (bpermiByte g m 2) (bpermiByte g m 3) := by
  simp only [← bpermi_selector]
  rfl

/-! ### The instructions -/

section
variable {s : State} {d ra rb : GReg} {n : PReg}

theorem bperm_gives {v : Word} (hv : bpermValue (s.me.rg ra) (s.me.rg rb) = some v) :
    Gives (.bperm d ra rb) s d v [s.me.lg ra, s.me.lg rb] := by
  refine gives_of_result rfl ?_
  simp only [M.run_bind, M.run_getMe, hv]

/-- A field that ends at bit 63 or below is taken (R98). -/
theorem bext_gives {p l : BitVec 6} (hfit : p.toNat + (l.toNat + 1) ≤ 64) :
    Gives (.bext d ra p l) s d (bextValue (s.me.rg ra) p.toNat (l.toNat + 1)) [s.me.lg ra] := by
  refine gives_of_result rfl ?_
  rw [if_neg (by omega)]
  rfl

theorem bins_gives {p l : BitVec 6} (hfit : p.toNat + (l.toNat + 1) ≤ 64) :
    Gives (.bins d ra p l) s d (binsValue (s.me.rg d) (s.me.rg ra) p.toNat (l.toNat + 1)) [s.me.lg d, s.me.lg ra] := by
  refine gives_of_result rfl ?_
  rw [if_neg (by omega)]
  rfl

/-- SEL is the result of the operand that the predicate chooses (R95). -/
theorem sel_gives (hready : PredReady s n) : Gives (.sel d n ra rb) s d (if (s.me.rp n).getLsbD 0 then s.me.rg ra else s.me.rg rb)
    [s.me.lp n, if (s.me.rp n).getLsbD 0 then s.me.lg ra else s.me.lg rb] := by
  have hpred : s.me.predPending n = false := hready
  refine gives_of_result rfl ?_
  simp only [M.run_bind, M.run_getMe, hpred, Bool.not_false, M.run_needs_true]
  split <;> rfl

end

/-- Settles O6: each function by the lemma that describes it, each instruction as the result of its function. -/
theorem bitFields : Obligations.BitFields := by
  unfold Obligations.BitFields
  refine ⟨fun s d ra => ?counts, fun s d ra rb p l m n => ⟨bext_gives, bins_gives, fun hmode => ?bperm, ?bpermi, sel_gives⟩⟩
  case counts =>
    intro a ls
    obtain ⟨hclz, hclzZero, hclzSet⟩ := clzFrom_spec a 64
    obtain ⟨hctz, hctzZero, hctzSet⟩ := ctzFrom_spec a 0 64
    refine ⟨⟨clzFrom a 64, alu1_gives (f := fun x => BitVec.ofNat 64 (clzFrom x 64)) rfl, hclz, fun j hj => ?_, fun hlt => hclzSet hlt⟩,
      ⟨ctzFrom a 0 64, alu1_gives (f := fun x => BitVec.ofNat 64 (ctzFrom x 0 64)) rfl, hctz, fun j hj => ?_, fun hlt => ?_⟩,
      alu1_gives (f := fun x => BitVec.ofNat 64 (popcount x)) rfl (congrArg (BitVec.ofNat 64) (popcount_eq a)),
      ⟨bitReverse a, alu1_gives (f := bitReverse) rfl, fun i hi => getLsbD_bitReverse a hi⟩,
      ⟨byteSwap a, alu1_gives (f := byteSwap) rfl, fun i hi => byteOf_byteSwap a hi⟩⟩
    · by_cases hbelow : j < 64
      · exact hclzZero j hj hbelow
      · exact BitVec.getLsbD_of_ge a j (by omega)
    · simpa using hctzZero j hj
    · simpa using hctzSet hlt
  case bperm => exact ⟨_, bperm_gives (bpermValue_eq_some hmode), fourBytes_lt _ _ _ _, fun i hi => byteOf_fourBytes _ hi⟩
  case bpermi =>
    exact ⟨_, alu1_gives (f := fun x => bpermiValue x m) rfl (bpermiValue_eq _ _), fourBytes_lt _ _ _ _, fun i hi => byteOf_fourBytes _ hi⟩

/-- Settles O7: without a result (`bpermValue_eq_none`) BPERM raises ILLEGAL by its value. -/
theorem bpermIllegal : Obligations.BpermIllegal := by
  unfold Obligations.BpermIllegal
  intro s d ra rb i hi hmode
  refine runI_trap ?_
  simp only [M.run_bind, M.run_getMe, bpermValue_eq_none hi hmode, M.run_raiseValue]

end Sys2Proof.Machine
end

section
/-! PROOFS. O8 and O9: scalar floating point (R101 to R104), and what FMIN, FMAX and FCMP make of NaN operands and signed zeros. -/

open Sys2Proof.Claims

namespace Sys2Proof.Machine

/-! ### The result of a scalar floating-point instruction (R31, R35) -/

section
variable {i : Instr} {s : State} {d ra rb : GReg} {r : Nat × Flags} {rounds : Bool} {ls : List Label}

/-- A core once an instruction has drawn for its rounding and its flags have accrued. -/
def Core.rounded (c : Core) (rounds : Bool) (f : Flags) : Core := (if rounds then c.draws 1 else c).accrue f

theorem Core.rounded_eq (c : Core) (rounds : Bool) (f : Flags) :
    c.rounded rounds f =
      { (if rounds = true ∧ c.frm.toNat % 8 = 4 then { c with srseed := seedStep c.srseed } else c) with
        fflags := c.fflags ||| f.zeroExtend 64 } := by
  by_cases hsr : c.frm.toNat % 8 = 4
  all_goals cases rounds
  all_goals simp [Core.rounded, Core.draws, Core.mode, Core.accrue, seedSteps, hsr]

theorem fpResult_of_writeG {t : State} (h : writeG d (BitVec.ofNat 64 r.1) ls s = .ok () t) :
    fpResult d r rounds ls s = .ok () (t.modCore t.cur (fun c => (c.rounded rounds r.2).past)) := by
  rw [fpResult, M.bind_ok s t h]
  simp only [M.run_bind, M.run_modMe, M.run_advance, State.modCore_cur, State.modCore_modCore]
  rfl

/-- An instruction whose step is a floating-point result gives its register the result. -/
theorem givesFp_of_fpResult {m : M Unit} (hexec : exec i s = runI i m s) (hm : m s = fpResult d r rounds ls s) :
    GivesFp i s d r rounds ls := by
  refine ⟨fun hd => ?zero, fun l t hd hl => ?nonzero⟩
  case zero =>
    subst hd
    simp only [hexec, ← Core.rounded_eq]
    exact runI_ok (hm.trans (fpResult_of_writeG rfl))
  case nonzero =>
    simp only [hexec, ← Core.rounded_eq]
    refine runI_ok (hm.trans ((fpResult_of_writeG (writeG_ok hd hl _)).trans ?_))
    simp only [State.modCore_cur, State.modCore_modCore]

theorem fp2_gives {f : RMode → Nat → Nat → Nat × Flags} (hexec : exec i s = fp2 i d ra rb rounds f s)
    (hr : f s.me.rnd (f32In (s.me.rg ra)) (f32In (s.me.rg rb)) = r) : GivesFp i s d r rounds [s.me.lg ra, s.me.lg rb] :=
  givesFp_of_fpResult hexec (hr ▸ rfl)

end

theorem FcvtKind.rounds_eq (k : FcvtKind) : FcvtKind.rounds k = (k != .f16f32 && k != .bf16f32) := by
  cases k <;> rfl

/-- Settles O8: each instruction is the floating-point result of its operation on the f32 operands. -/
theorem scalarFp : Obligations.ScalarFp := by
  unfold Obligations.ScalarFp
  intro s d ra rb rc k v x m ls cmp
  exact ⟨fp2_gives (f := fun m x y => fmtF32.fadd m (fmtF32.decode x) (fmtF32.decode y)) rfl rfl,
    fp2_gives (f := fun m x y => fmtF32.fadd m (fmtF32.decode x) (fmtF32.decode y).negate) rfl rfl,
    fp2_gives (f := fun m x y => fmtF32.fmul m (fmtF32.decode x) (fmtF32.decode y)) rfl rfl,
    givesFp_of_fpResult rfl rfl,
    fp2_gives (f := fun _ x y => fmtF32.fminmax false x y) rfl rfl,
    fp2_gives (f := fun _ x y => fmtF32.fminmax true x y) rfl rfl,
    fp2_gives (f := fun _ x y => fcmp .eq x y) rfl rfl,
    fp2_gives (f := fun _ x y => fcmp .lt x y) rfl rfl,
    fp2_gives (f := fun _ x y => fcmp .le x y) rfl rfl,
    fp2_gives (f := fun _ x y => fcmp .un x y) rfl rfl,
    FcvtKind.rounds_eq k ▸ givesFp_of_fpResult rfl rfl⟩

/-! ### The order of values (R102, R103) -/

theorem Ex.cmp_swap (x y : Ex) : (x.cmp y).swap = y.cmp x := by
  rw [Ex.cmp, Ex.cmp, min_comm y.exp, ← Std.OrientedCmp.eq_swap]

/-- Exchanging the operands reverses the order. -/
theorem FVal.cmp_swap (x y : FVal) : (x.cmp y).swap = y.cmp x := by
  cases x with
  | fin x =>
    cases y with
    | fin y => exact Ex.cmp_swap x y
    | inf q => cases q <;> rfl
    | nan g => rfl
  | inf p =>
    cases y with
    | fin y => cases p <;> rfl
    | inf q => cases p <;> cases q <;> rfl
    | nan g => cases p <;> rfl
  | nan g =>
    cases y with
    | fin y => rfl
    | inf q => cases q <;> rfl
    | nan h => rfl

theorem FVal.below_of_lt {x y : FVal} (h : x.cmp y = .lt) : x.below y = true := by rw [FVal.below, h]

theorem FVal.not_below_of_gt {x y : FVal} (h : x.cmp y = .gt) : x.below y = false := by rw [FVal.below, h]

theorem snanFlag_pair (x y : FVal) : snanFlag [x, y] = if x.isSnan = true ∨ y.isSnan = true then flagNV else 0 := by
  simp [snanFlag]

/-! ### FMIN and FMAX (R102) -/

section
variable {f : Fmt} {big : Bool} {a b : Nat}

theorem Fmt.fminmax_flags (f : Fmt) (big : Bool) (a b : Nat) : (f.fminmax big a b).2 = snanFlag [f.decode a, f.decode b] := by
  rw [Fmt.fminmax]
  repeat' split
  all_goals rfl

theorem Fmt.fminmax_nan_left (hx : (f.decode a).isNan = true) (hy : (f.decode b).isNan = false) : (f.fminmax big a b).1 = b := by
  simp [Fmt.fminmax, hx, hy]

theorem Fmt.fminmax_nan_right (hx : (f.decode a).isNan = false) (hy : (f.decode b).isNan = true) : (f.fminmax big a b).1 = a := by
  simp [Fmt.fminmax, hx, hy]

theorem Fmt.fminmax_nan_both (hx : (f.decode a).isNan = true) (hy : (f.decode b).isNan = true) : (f.fminmax big a b).1 = f.nan := by
  simp [Fmt.fminmax, hx, hy]

theorem Fmt.fminmax_numbers (hx : (f.decode a).isNan = false) (hy : (f.decode b).isNan = false) :
    (f.fminmax big a b).1 =
      if (if big then (f.decode a).below (f.decode b) else (f.decode b).below (f.decode a)) = true then b else a := by
  cases big <;> simp [Fmt.fminmax, hx, hy]

theorem Fmt.fminmax_lt (hx : (f.decode a).isNan = false) (hy : (f.decode b).isNan = false)
    (h : (f.decode a).cmp (f.decode b) = .lt) : (f.fminmax big a b).1 = if big then b else a := by
  have hswap : (f.decode b).cmp (f.decode a) = .gt := by rw [← FVal.cmp_swap, h]; rfl
  rw [Fmt.fminmax_numbers hx hy, FVal.below_of_lt h, FVal.not_below_of_gt hswap]
  cases big <;> rfl

theorem Fmt.fminmax_gt (hx : (f.decode a).isNan = false) (hy : (f.decode b).isNan = false)
    (h : (f.decode a).cmp (f.decode b) = .gt) : (f.fminmax big a b).1 = if big then a else b := by
  have hswap : (f.decode b).cmp (f.decode a) = .lt := by rw [← FVal.cmp_swap, h]; rfl
  rw [Fmt.fminmax_numbers hx hy, FVal.below_of_lt hswap, FVal.not_below_of_gt h]
  cases big <;> rfl

end

/-! ### FCMP (R103) -/

theorem FVal.test_nan {x y : FVal} (h : x.isNan = true ∨ y.isNan = true) (c : FCond) : (FVal.test c x y).1 = (c == .un) := by
  have hnan : (x.isNan || y.isNan) = true := by simpa using h
  simp [FVal.test, hnan]

theorem FVal.test_numbers {x y : FVal} (h : ¬(x.isNan = true ∨ y.isNan = true)) (c : FCond) :
    (FVal.test c x y).1 = match c with
      | .eq => x.cmp y == .eq
      | .lt => x.cmp y == .lt
      | .le => x.cmp y != .gt
      | .un => false := by
  have hnan : (x.isNan || y.isNan) = false := by simpa using h
  cases c <;> simp [FVal.test, hnan]

theorem FVal.test_flags (x y : FVal) (c : FCond) :
    (FVal.test c x y).2 = match c with
      | .eq | .un => snanFlag [x, y]
      | .lt | .le => if x.isNan || y.isNan then flagNV else 0 := by
  unfold FVal.test
  cases c
  all_goals
    dsimp only
    split <;> rfl

/-- A condition of numbers holds as their order says, and never with a NaN. -/
theorem FVal.test_iff {x y : FVal} {c : FCond} {p : Prop} (hc : c ≠ .un)
    (hp : ¬(x.isNan = true ∨ y.isNan = true) → ((FVal.test c x y).1 = true ↔ p)) :
    (FVal.test c x y).1 = true ↔ ¬(x.isNan = true ∨ y.isNan = true) ∧ p := by
  by_cases hnan : x.isNan = true ∨ y.isNan = true
  · simp [FVal.test_nan hnan, hc, hnan]
  · simp only [hp hnan, hnan, not_false_eq_true, true_and]

theorem FVal.test_un_iff (x y : FVal) : (FVal.test .un x y).1 = true ↔ x.isNan = true ∨ y.isNan = true := by
  by_cases hnan : x.isNan = true ∨ y.isNan = true
  · simp [FVal.test_nan hnan, hnan]
  · simp [FVal.test_numbers hnan, hnan]

/-- Settles O9: FMIN and FMAX by whether an operand is a NaN and by the order of two numbers; FCMP by whether an operand is a NaN. -/
theorem minMaxCompare : Obligations.MinMaxCompare := by
  unfold Obligations.MinMaxCompare
  refine ⟨fun big a b _ _ => ?minmax, fun x y => ?compare⟩
  case minmax =>
    refine ⟨Fmt.fminmax_nan_left, Fmt.fminmax_nan_right, Fmt.fminmax_nan_both, ?flags,
      fun hx hy => ⟨Fmt.fminmax_lt hx hy, Fmt.fminmax_gt hx hy⟩, ?negative, ?positive⟩
    case flags => rw [Fmt.fminmax_flags, snanFlag_pair]
    case negative => cases big <;> rfl
    case positive => cases big <;> rfl
  case compare =>
    refine ⟨FVal.test_iff (by decide) fun h => ?_, FVal.test_iff (by decide) fun h => ?_, FVal.test_iff (by decide) fun h => ?_,
      FVal.test_un_iff x y, rfl, ?quiet, ?ordered⟩
    · simp [FVal.test_numbers h]
    · simp [FVal.test_numbers h]
    · simp [FVal.test_numbers h]
    case quiet =>
      rintro c (rfl | rfl)
      all_goals exact (FVal.test_flags x y _).trans (snanFlag_pair x y)
    case ordered =>
      rintro c (rfl | rfl)
      all_goals simp [FVal.test_flags]

end Sys2Proof.Machine
end

section
/-! PROOFS. O11, O12 and O13: branches and jumps, and how STRICT stops a control transfer (R105 to R107). -/

open Sys2Proof.Claims

namespace Sys2Proof.Machine

variable {s t : State} {d ra rb : GReg}

/-! ### STRICT (R107) -/

/-- Under STRICT a label that is not TRUE raises LABEL_BRANCH. -/
theorem strictCheck_raises {ls : List Label} (hstrict : s.me.lflags.getLsbD 1 = true) (h : ∃ l ∈ ls, l ≠ labelTrue) :
    strictCheck ls s = .error (.trap .labelBranch (.word false)) s := by
  have hraise : (s.me.strict && ls.any (· != labelTrue)) = true := by
    rw [Core.strict, hstrict, Bool.true_and, List.any_eq_true]
    simpa using h
  simp only [strictCheck, M.run_bind, M.run_getMe]
  rw [if_pos hraise]
  rfl

/-- Outside STRICT, and where every label is TRUE, a control transfer passes. -/
theorem strictCheck_passes_all {ls : List Label} (h : s.me.lflags.getLsbD 1 = false ∨ ∀ l ∈ ls, l = labelTrue) :
    strictCheck ls s = .ok () s := by
  have hpass : (s.me.strict && ls.any (· != labelTrue)) = false := by
    rcases h with h | h
    · rw [Core.strict, h, Bool.false_and]
    · simpa using fun _ => h
  simp only [strictCheck, M.run_bind, M.run_getMe]
  rw [if_neg (Bool.eq_false_iff.1 hpass)]
  rfl

/-! ### Branches (R105) -/

/-- A condition of R105 on two words. -/
def branchTaken (k : BCond) (a b : Word) : Prop := match k with
  | .eq => a = b
  | .ne => a ≠ b
  | .lt => a.toInt < b.toInt
  | .ge => b.toInt ≤ a.toInt
  | .ltn => a.toNat < b.toNat
  | .gen => b.toNat ≤ a.toNat

theorem BCond.holds_iff (k : BCond) (a b : Word) : BCond.holds k a b = true ↔ branchTaken k a b := by
  cases k with
  | eq => exact beq_iff_eq
  | ne => exact bne_iff_ne
  | lt => exact slt_iff_toInt_lt a b
  | ge => simp [BCond.holds, branchTaken, BitVec.slt]
  | ltn => exact ult_iff_toNat_lt a b
  | gen => simp [BCond.holds, branchTaken, BitVec.ult]

/-- A branch that STRICT does not stop goes on where its condition says. -/
theorem exec_bCond {k : BCond} {o : BitVec 13}
    (h : s.me.lflags.getLsbD 1 = false ∨ (s.me.lg ra = labelTrue ∧ s.me.lg rb = labelTrue)) :
    exec (.bCond k ra rb o) s = .next (s.modCore s.cur (fun c =>
      c.at (if BCond.holds k (s.me.rg ra) (s.me.rg rb) then s.me.here + 4 * sext o else s.me.here + 4))) := by
  have hpass : strictCheck [s.me.lg ra, s.me.lg rb] s = .ok () s := strictCheck_passes_all (h.imp_right (by simp))
  refine runI_ok ?_
  simp only [M.run_bind, M.run_getMe, hpass]
  rfl

/-- Settles O11: the branch goes on where `BCond.holds` says, which is the condition of R105. -/
theorem branch : Obligations.Branch := by
  unfold Obligations.Branch
  intro s k ra rb o hstrict a b taken
  have hiff : BCond.holds k a b = true ↔ taken := BCond.holds_iff k a b
  refine ⟨fun htaken => ?_, fun hnot => ?_⟩
  · rw [exec_bCond hstrict, if_pos (hiff.2 htaken)]
    rfl
  · rw [exec_bCond hstrict, if_neg (mt hiff.1 hnot)]

/-! ### Jumps (R106) -/

/-- A link written before the jump goes on leaves its register and the new place. -/
theorem writeG_goTo {v a : Word} {l : Label} (hd : d ≠ 0) (h : formLabel [] s = .ok l t) :
    (do writeG d v []; goTo a : M Unit) s = .ok () (t.modCore t.cur (fun c => (c.wg d v l).at a)) := by
  rw [M.bind_ok s _ (writeG_ok hd h v)]
  simp only [goTo, M.run_modMe, State.modCore_cur, State.modCore_modCore]

theorem exec_jl {o : BitVec 26} {l : Label} (h : formLabel [] s = .ok l t) :
    exec (.jl o) s = .next (t.modCore t.cur (fun c => (c.wg 31 (s.me.here + 4) l).at (s.me.here + 4 * sext o))) := by
  change execJl o s = _
  refine runI_ok ?_
  exact (M.bind_ok s s (M.run_getMe s)).trans (writeG_goTo (d := 31) (by decide) h)

section
variable {m : BitVec 16}

theorem jlr_misaligned (hstrict : s.me.lflags.getLsbD 1 = false ∨ s.me.lg ra = labelTrue)
    (hodd : (s.me.rg ra + sext m).toNat % 4 ≠ 0) :
    Traps (.jlr d ra m) s .misalign (.other (s.me.rg ra + sext m) false) := by
  refine runI_trap ?_
  simp only [M.run_bind, M.run_getMe, strictCheck_passes hstrict]
  rw [if_pos hodd]
  refine M.bind_error s s ?_
  rw [M.run_raiseAddr, BitVec.ofNat_toNat, BitVec.setWidth_eq]

/-- With an aligned target that STRICT does not stop, JLR writes its link and goes there. -/
theorem exec_jlr (hstrict : s.me.lflags.getLsbD 1 = false ∨ s.me.lg ra = labelTrue)
    (haligned : (s.me.rg ra + sext m).toNat % 4 = 0) {u : State}
    (hlink : (do writeG d (s.me.here + 4) []; goTo (s.me.rg ra + sext m) : M Unit) s = .ok () u) :
    exec (.jlr d ra m) s = .next u := by
  refine runI_ok ?_
  simp only [M.run_bind, M.run_getMe, strictCheck_passes hstrict]
  rw [if_neg (not_not.2 haligned)]
  exact hlink

end

/-- Settles O12: the target is computed from the registers as the jump finds them, before the link is written. -/
theorem jumps : Obligations.Jumps := by
  unfold Obligations.Jumps
  intro s d ra o m l t link target
  exact ⟨exec_jl, fun hstrict => ⟨jlr_misaligned hstrict, fun haligned hd => exec_jlr hstrict haligned (hd ▸ rfl),
    fun haligned hd h => exec_jlr hstrict haligned (writeG_goTo hd h)⟩⟩

/-! ### Control transfers that STRICT stops (R107) -/

theorem bCond_strict {k : BCond} {o : BitVec 13} (hstrict : s.me.lflags.getLsbD 1 = true)
    (h : s.me.lg ra ≠ labelTrue ∨ s.me.lg rb ≠ labelTrue) : Traps (.bCond k ra rb o) s .labelBranch (.word false) :=
  runI_trap ((M.bind_ok s s (M.run_getMe s)).trans (M.bind_error s s (strictCheck_raises hstrict (by simpa using h))))

theorem jlr_strict {m : BitVec 16} (hstrict : s.me.lflags.getLsbD 1 = true) (h : s.me.lg ra ≠ labelTrue) :
    Traps (.jlr d ra m) s .labelBranch (.word false) :=
  runI_trap ((M.bind_ok s s (M.run_getMe s)).trans (M.bind_error s s (strictCheck_raises hstrict (by simpa using h))))

/-- A guard that has its second word raises at the predicate's label, whatever the predicate holds. -/
theorem guard_strict {v : Bool} {n : PReg} {w : HWord} {j : Instr} (hfetch : fetchNth 1 s = .ok w t) (hdecode : decode w = .ok j)
    (hword : unguardable w = false) (hready : PredReady t n) (hstrict : t.me.lflags.getLsbD 1 = true) (h : t.me.lp n ≠ labelTrue) :
    exec (.guard v n) s = .next ((t.keepLoss s).trapInstr s.cur (Instr.word (.guard v n)) .labelBranch (.word false)) := by
  have hpred : t.me.predPending n = false := hready
  refine runI_trap ?_
  simp only [M.run_bind, hfetch, hword, Bool.false_eq_true, if_false, hdecode, M.run_getMe, hpred, Bool.not_false, M.run_needs_true,
    strictCheck_raises hstrict (ls := [t.me.lp n]) (by simpa using h)]

/-- Settles O13: the check for STRICT comes before every effect of the three transfers. -/
theorem strictTransfers : Obligations.StrictTransfers := by
  unfold Obligations.StrictTransfers
  intro s k d ra rb o m v n w j t hstrict
  exact ⟨bCond_strict hstrict, jlr_strict hstrict, fun hl _ _ hfetch hlp hflags hready hdecode hword =>
    guard_strict hfetch hdecode hword hready (hflags ▸ hstrict) (hlp ▸ hl)⟩

end Sys2Proof.Machine
end

section
/-! PROOFS. O10: the read stream and the write stream (R109 to R114).

A read stream is a function from positions to bits. `Rd.Stands` says that a buffer, its count and its address stand at the start of such a
function; refilling keeps the function, and consuming n bits shifts it by n. `firstBits` is the number that the first bits of a function
spell, which is what each read gives. Reading the local store changes nothing but the logical time of the core, which `Aged` says. -/

open Sys2Proof.Claims

namespace Sys2Proof.Machine

/-! ### The first bits of a stream as a number -/

/-- The first n bits of f as a number, the first highest. -/
def firstBits (f : Nat → Bool) : Nat → Nat
  | 0 => 0
  | n + 1 => 2 * firstBits f n + (f n).toNat

section
variable (f : Nat → Bool)

theorem firstBits_lt (n : Nat) : firstBits f n < 2 ^ n := by
  induction n with
  | zero => simp [firstBits]
  | succ n ih =>
    have := Bool.toNat_le (f n)
    rw [firstBits, Nat.pow_succ]
    omega

/-- The first n bits, then the m bits behind them. -/
theorem firstBits_add (n m : Nat) : firstBits f (n + m) = firstBits f n * 2 ^ m + firstBits (fun i => f (n + i)) m := by
  induction m with
  | zero => simp [firstBits]
  | succ m ih => rw [← Nat.add_assoc, firstBits, firstBits, ih, Nat.pow_succ]; ring

theorem firstBits_add_mod (n m : Nat) : firstBits f (n + m) % 2 ^ m = firstBits (fun i => f (n + i)) m := by
  rw [firstBits_add, Nat.mul_add_mod_self_right, Nat.mod_eq_of_lt (firstBits_lt _ _)]

theorem firstBits_div {k n : Nat} (h : k ≤ n) : firstBits f n / 2 ^ (n - k) = firstBits f k := by
  obtain ⟨m, rfl⟩ := Nat.exists_eq_add_of_le h
  rw [Nat.add_sub_cancel_left, firstBits_add, Nat.add_comm, Nat.add_mul_div_right _ _ (Nat.two_pow_pos m),
    Nat.div_eq_of_lt (firstBits_lt _ _), Nat.zero_add]

theorem firstBits_succ_mod (n : Nat) : firstBits f (n + 1) % 2 = (f n).toNat := by
  have := Bool.toNat_le (f n)
  rw [firstBits]
  omega

theorem testBit_firstBits {j n : Nat} (h : j < n) : (firstBits f n).testBit (n - 1 - j) = f j := by
  rw [Nat.testBit_eq_decide_div_mod_eq, Nat.sub_sub, Nat.add_comm 1 j, firstBits_div f h, firstBits_succ_mod]
  cases f j <;> rfl

variable {f}

theorem firstBits_congr {g : Nat → Bool} {n : Nat} (h : ∀ i, i < n → f i = g i) : firstBits f n = firstBits g n := by
  induction n with
  | zero => rfl
  | succ n ih => rw [firstBits, firstBits, ih fun i hi => h i (by omega), h n (by omega)]

theorem firstBits_eq_zero {n : Nat} (h : ∀ i, i < n → f i = false) : firstBits f n = 0 := by
  induction n with
  | zero => rfl
  | succ n ih => rw [firstBits, ih fun i hi => h i (by omega), h n (by omega)]; rfl

/-- The highest n bits of a number of m bits. -/
theorem firstBits_testBit {x n m : Nat} (hx : x < 2 ^ m) (h : n ≤ m) :
    firstBits (fun i => x.testBit (m - 1 - i)) n = x / 2 ^ (m - n) := by
  induction n with
  | zero => simp [firstBits, Nat.div_eq_of_lt hx]
  | succ n ih =>
    have hhalf : x / 2 ^ (m - n) = x / 2 ^ (m - (n + 1)) / 2 := by
      rw [Nat.div_div_eq_div_mul, ← Nat.pow_succ, show m - n = (m - (n + 1)).succ by omega]
    have hbit : (x.testBit (m - 1 - n)).toNat = x / 2 ^ (m - (n + 1)) % 2 := by
      rw [Nat.toNat_testBit, show m - 1 - n = m - (n + 1) by omega]
    rw [firstBits, ih (by omega), hhalf, hbit]
    omega

/-- Bits at the top of 64, the first n of them shifted out. -/
theorem firstBits_shift_out {n c : Nat} (hn : n ≤ c) (hc : c ≤ 64) :
    firstBits f c * 2 ^ (64 - c) * 2 ^ n % 2 ^ 64 = firstBits (fun i => f (n + i)) (c - n) * 2 ^ (64 - (c - n)) := by
  obtain ⟨m, rfl⟩ := Nat.exists_eq_add_of_le hn
  have hpow : 2 ^ (64 - (n + m)) * 2 ^ n = 2 ^ (64 - m) := by rw [← Nat.pow_add]; congr 1; omega
  have htop : 2 ^ m * 2 ^ (64 - m) = 2 ^ 64 := by rw [← Nat.pow_add]; congr 1; omega
  have hlt : firstBits (fun i => f (n + i)) m * 2 ^ (64 - m) < 2 ^ 64 :=
    htop ▸ Nat.mul_lt_mul_of_pos_right (firstBits_lt _ m) (Nat.two_pow_pos _)
  rw [Nat.add_sub_cancel_left, firstBits_add, Nat.mul_assoc, hpow, Nat.add_mul, Nat.mul_assoc, htop, Nat.mul_add_mod_self_right,
    Nat.mod_eq_of_lt hlt]

end

/-! ### Bits of the own local store (R109) -/

/-- The bits of the current core's local store from byte a on. -/
def localFrom (s : State) (a i : Nat) : Bool := localBit s s.cur (8 * a + i)

section
variable (s : State) (a i : Nat)

theorem localFrom_add (k : Nat) : localFrom s (a + k) i = localFrom s a (8 * k + i) := by
  rw [localFrom, localFrom, Nat.mul_add, Nat.add_assoc]

/-- Addresses are taken modulo the size of the local store. -/
theorem localFrom_mod : localFrom s (a % 2 ^ 17) i = localFrom s a i := by
  rw [localFrom, localFrom, localBit, localBit, show (8 * (a % 2 ^ 17) + i) / 8 % 2 ^ 17 = (8 * a + i) / 8 % 2 ^ 17 by omega,
    show (8 * (a % 2 ^ 17) + i) % 8 = (8 * a + i) % 8 by omega]

/-- A byte of the local store as the number of its bits. -/
theorem byte_eq_firstBits : (s.mem.get 0 (lsBase s.cur + a % 2 ^ 17)).toNat = firstBits (localFrom s a) 8 := by
  generalize hx : s.mem.get 0 (lsBase s.cur + a % 2 ^ 17) = x
  have hbits : firstBits (localFrom s a) 8 = firstBits (fun i => x.toNat.testBit (8 - 1 - i)) 8 := by
    refine firstBits_congr fun i hi => ?_
    rw [localFrom, localBit, show (8 * a + i) / 8 = a by omega, show (8 * a + i) % 8 = i by omega, hx]
    rfl
  rw [hbits, firstBits_testBit x.isLt (Nat.le_refl 8)]
  simp

end

/-! ### Reading the local store -/

/-- t is s but for the logical time of the current core. -/
structure Aged (s t : State) : Prop where
  cur : t.cur = s.cur
  mem : t.mem = s.mem
  tags : t.tags = s.tags
  damaged : t.damaged = s.damaged
  me : ∃ p, t.me = { s.me with pts := p }

theorem Aged.refl (s : State) : Aged s s := ⟨rfl, rfl, rfl, rfl, s.me.pts, rfl⟩

theorem Aged.observe {s t : State} (h : Aged s t) : Aged s (t.observe t.cur) := by
  obtain ⟨hcur, hmem, htags, hdamaged, p, hme⟩ := h
  refine ⟨hcur, hmem, htags, hdamaged, max p t.latest, ?_⟩
  rw [State.observe, State.modCore_me, hme]

/-- From s, whatever the logical time, m goes through, changes nothing but that time, and answers what P allows. -/
def Finds {α : Type} (s : State) (m : M α) (P : α → Prop) : Prop :=
  ∀ t, Aged s t → ∃ a u, m t = .ok a u ∧ Aged s u ∧ P a

section
variable {α β : Type} {s : State} {P : α → Prop} {Q : β → Prop}

theorem Finds.pure {a : α} (h : P a) : Finds s (Pure.pure a) P := fun t ht => ⟨a, t, rfl, ht, h⟩

theorem Finds.bind {m : M α} {f : α → M β} (hm : Finds s m P) (hf : ∀ a, P a → Finds s (f a) Q) : Finds s (m >>= f) Q := by
  intro t ht
  obtain ⟨a, u, hrun, hu, ha⟩ := hm t ht
  rw [M.bind_ok t u hrun]
  exact hf a ha u hu

end

/-- What was read is under TRUE labels and holds no uncorrectable error. -/
def Reads.Clean (r : Reads) : Prop := r.bad = Option.none ∧ ∀ l ∈ r.labels, l = labelTrue

theorem Reads.clean_none : Reads.none.Clean := ⟨rfl, by simp [Reads.none, Reads.labels]⟩

theorem Reads.Clean.add {r : Reads} (h : r.Clean) (w : Nat) : (r.add w [labelTrue] Option.none).Clean := by
  obtain ⟨hbad, hlabels⟩ := h
  refine ⟨by simp [Reads.add, hbad], fun l hl => ?_⟩
  simp only [Reads.labels, Reads.add, List.foldl_cons, List.foldl_nil] at hl
  split at hl
  · exact hlabels l hl
  · rw [List.map_append, List.mem_append] at hl
    rcases hl with hl | hl
    · exact hlabels l hl
    · simpa using hl

/-- A byte touches one word. -/
theorem wordsOf_byte (k : Nat) : wordsOf k 1 = [k / 4] := by simp [wordsOf]

/-- Where nothing of the core's memory work is queued, a load from a local store reads the storage. -/
theorem loadFrom_local {s : State} (hstill : Still s.me) (ea : Word) (k size : Nat) :
    loadFrom ea ⟨.local, k, false⟩ size false s = .ok ((s.observe s.cur).got ⟨.local, k, false⟩ size) (s.observe s.cur) := by
  obtain ⟨hsb, hnt, htile, hmst⟩ := hstill
  have hcover : s.me.ntCovers ea.toNat size = false := by simp [Core.ntCovers, hnt]
  have hcounter : s.inCounter ⟨.local, k, false⟩ = false := rfl
  have hforward : forward [] ea.toNat size = .memory := rfl
  have hlink : linkReady ⟨.local, k, false⟩ s = .ok true s := rfl
  simp only [loadFrom, M.run_bind, M.run_get, M.run_getMe, hcounter, awaitOrder, hsb, hcover, htile, hmst, hforward, hlink,
    Bool.false_eq_true, if_false, Bool.and_false, Bool.not_false, Bool.not_true, Bool.and_true, M.run_needs_true]
  rfl

section
variable {s : State} (hstill : Still s.me) (htrue : TrueLocal s s.cur)
include hstill htrue

/-- A byte of the own local store is found under TRUE (R111). -/
theorem lsByte_finds (a : Nat) {r : Reads} (hr : r.Clean) :
    Finds s (lsByte a r) (fun x => x.1 = firstBits (localFrom s a) 8 ∧ x.2.Clean) := by
  intro t ht
  obtain ⟨p, hme⟩ := ht.me
  have hstill' : Still t.me := by rw [hme]; exact hstill
  obtain ⟨htag, hsound⟩ := htrue ((lsBase s.cur + a % 2 ^ 17) / 4) (by omega) (by unfold lsBase; omega)
  have hgot : (t.observe t.cur).got ⟨.local, lsBase t.cur + a % 2 ^ 17, false⟩ 1 =
      ⟨firstBits (localFrom s a) 8, [labelTrue], false⟩ := by
    have hobserved := ht.observe
    rw [← byte_eq_firstBits, State.got, State.read, State.badAt, hobserved.mem, hobserved.tags, hobserved.damaged, ht.cur, wordsOf_byte]
    generalize lsBase s.cur + a % 2 ^ 17 = k at htag hsound ⊢
    simp [readNat, htag, hsound]
  refine ⟨(_, r.add (a % 2 ^ 17 / 4) [labelTrue] Option.none), _, ?_, ht.observe, rfl, hr.add _⟩
  simp only [lsByte, M.run_bind, M.run_get, loadFrom_local hstill', hgot]
  rfl

/-- Bytes read behind the first m bits of f extend them. -/
theorem lsBytes_finds {f : Nat → Bool} {m a : Nat} (n : Nat) {r : Reads} (hr : r.Clean) (hf : ∀ i, f (m + i) = localFrom s a i) :
    Finds s (lsBytes a (firstBits f m) r n) (fun x => x.1 = firstBits f (m + 8 * n) ∧ x.2.Clean) := by
  induction n generalizing m a r with
  | zero => exact .pure ⟨rfl, hr⟩
  | succ n ih =>
    refine .bind (lsByte_finds hstill htrue a hr) fun x hx => ?_
    obtain ⟨hval, hclean⟩ := hx
    have hnext : firstBits f m * 256 + x.1 = firstBits f (m + 8) := by
      rw [firstBits_add, hval, firstBits_congr fun i _ => (hf i).symm, show 256 = 2 ^ 8 from rfl]
    rw [hnext, show m + 8 * (n + 1) = m + 8 + 8 * n by ring]
    exact ih hclean fun i => by rw [Nat.add_assoc, hf, localFrom_add, Nat.mul_one]

end

/-! ### The read side of the stream (R111) -/

/-- A buffer, its count and its address stand at the start of the stream f. -/
structure Rd.Stands (s : State) (b : Rd) (f : Nat → Bool) : Prop where
  cnt_le : b.cnt ≤ 64
  buf_eq : b.buf = firstBits f b.cnt * 2 ^ (64 - b.cnt)
  behind : ∀ i, f (b.cnt + i) = localFrom s b.addr i

/-- An empty buffer stands at the byte of its address. -/
theorem Rd.stands_empty (s : State) (a : Nat) : Rd.Stands s ⟨0, 0, a⟩ (localFrom s a) :=
  ⟨Nat.zero_le 64, by simp [firstBits], fun i => by rw [Nat.zero_add]⟩

/-- The stream registers stand at the stream of the core. -/
theorem Core.rd_stands {s : State} (hcnt : s.me.brptr.toNat / 2 ^ 32 % 2 ^ 7 ≤ 64) : Rd.Stands s s.me.rd (streamBit s) := by
  change brCnt s.me.brptr ≤ 64 at hcnt
  refine ⟨hcnt, ?_, fun i => ?_⟩
  · have hbits : firstBits (streamBit s) (brCnt s.me.brptr) = s.me.brbuf.toNat / 2 ^ (64 - brCnt s.me.brptr) := by
      rw [← firstBits_testBit s.me.brbuf.isLt hcnt]
      exact firstBits_congr fun i hi => if_pos hi
    have hle := Nat.div_mul_le_self s.me.brbuf.toNat (2 ^ (64 - brCnt s.me.brptr))
    change s.me.brbits.toNat = firstBits (streamBit s) (brCnt s.me.brptr) * 2 ^ (64 - brCnt s.me.brptr)
    rw [hbits, Core.brbits, BitVec.toNat_ofNat, Nat.mod_eq_of_lt (Nat.lt_of_le_of_lt hle s.me.brbuf.isLt)]
  · change streamBit s (brCnt s.me.brptr + i) = localFrom s (bpAddr s.me.brptr) i
    have hbehind : ¬brCnt s.me.brptr + i < s.me.brptr.toNat / 2 ^ 32 % 2 ^ 7 := Nat.not_lt.2 (Nat.le_add_right _ i)
    rw [streamBit, if_neg hbehind, localFrom]
    congr 2
    exact Nat.add_sub_cancel_left _ i

section
variable {s : State} {b : Rd} {f : Nat → Bool} (hstill : Still s.me) (htrue : TrueLocal s s.cur) (hb : b.Stands s f)
include hstill htrue hb

/-- The first n bits of the stream are read as their number. -/
theorem streamBits_finds (n : Nat) {r : Reads} (hr : r.Clean) :
    Finds s (streamBits b n r) (fun x => x.1 = firstBits f n ∧ x.2.Clean) := by
  have hheld : b.buf / 2 ^ (64 - b.cnt) = firstBits f b.cnt := by rw [hb.buf_eq, Nat.mul_div_cancel _ (Nat.two_pow_pos _)]
  simp only [streamBits, hheld]
  split
  next hle => exact .pure ⟨firstBits_div f hle, hr⟩
  next hgt =>
    refine .bind (lsBytes_finds hstill htrue _ hr hb.behind) fun x hx => ?_
    obtain ⟨hval, hclean⟩ := hx
    exact .pure ⟨by rw [hval, firstBits_div f (by omega)], hclean⟩

/-- The refill keeps the stream. -/
theorem refill_finds (n : Nat) {r : Reads} (hr : r.Clean) :
    Finds s (refill b r n) (fun x => x.1.Stands s f ∧ x.2.Clean) := by
  induction n generalizing b r with
  | zero => exact .pure ⟨hb, hr⟩
  | succ n ih =>
    rw [refill]
    split
    next hle =>
      refine .bind (lsByte_finds hstill htrue b.addr hr) fun x hx => ?_
      obtain ⟨hval, hclean⟩ := hx
      refine ih ⟨?_, ?_, fun i => ?_⟩ hclean
      · dsimp only
        omega
      · have hnext : firstBits f (b.cnt + 8) = firstBits f b.cnt * 2 ^ 8 + x.1 := by
          rw [firstBits_add, hval, firstBits_congr fun i _ => hb.behind i]
        have hpow : 2 ^ (64 - b.cnt) = 2 ^ 8 * 2 ^ (64 - (b.cnt + 8)) := by rw [← Nat.pow_add]; congr 1; omega
        dsimp only
        rw [hnext, hb.buf_eq, hpow, show 56 - b.cnt = 64 - (b.cnt + 8) by omega, Nat.add_mul, Nat.mul_assoc]
      · dsimp only
        rw [Nat.add_assoc, hb.behind, localFrom_mod, localFrom_add, Nat.mul_one]
    next => exact .pure ⟨hb, hr⟩

/-- Consuming n bits leaves the stream behind them. -/
theorem consume_finds (n : Nat) {r : Reads} (hr : r.Clean) :
    Finds s (consume b n r) (fun x => x.1.Stands s (fun i => f (n + i)) ∧ x.2.Clean) := by
  rw [consume]
  split
  next hle =>
    refine refill_finds hstill htrue ⟨?_, ?_, fun i => ?_⟩ 8 hr
    · exact (Nat.sub_le _ _).trans hb.cnt_le
    · dsimp only
      rw [hb.buf_eq, firstBits_shift_out hle hb.cnt_le]
    · dsimp only
      rw [← Nat.add_assoc, Nat.add_sub_cancel' hle, hb.behind]
  next hgt =>
    dsimp only
    generalize ha : b.addr + (n - b.cnt) / 8 = a
    have hf (i : Nat) : f (n + i) = localFrom s a ((n - b.cnt) % 8 + i) := by
      rw [← ha, localFrom_add, ← Nat.add_assoc, Nat.div_add_mod, ← hb.behind]
      congr 1
      omega
    have hk : (n - b.cnt) % 8 ≤ 64 := (Nat.mod_lt _ (by decide)).le.trans (by decide)
    have hshift := firstBits_shift_out (f := localFrom s a) hk (Nat.le_refl 64)
    rw [Nat.sub_self, Nat.pow_zero, Nat.mul_one] at hshift
    refine .bind (lsBytes_finds hstill htrue (f := localFrom s a) (m := 0) 8 hr fun i => by rw [Nat.zero_add]) fun x hx => ?_
    obtain ⟨hval, hclean⟩ := hx
    refine refill_finds hstill htrue ⟨?_, ?_, fun i => ?_⟩ 8 hclean
    · exact Nat.sub_le _ _
    · dsimp only
      rw [hval, Nat.zero_add, hshift, firstBits_congr fun i _ => hf i]
    · dsimp only
      rw [hf, localFrom_mod, localFrom_add, ← Nat.add_assoc, Nat.add_sub_cancel' hk]

/-- The zeros before the first one, at position z from i, are counted (R113). -/
theorem leadingZeros_finds {i z n : Nat} {r : Reads} (hr : r.Clean) (hzero : ∀ j, j < z → f (i + j) = false) (hone : f (i + z) = true)
    (hz : z < n) : Finds s (leadingZeros b i r n) (fun x => x.1 = z ∧ x.2.Clean) := by
  induction n generalizing i z r with
  | zero => exact absurd hz (Nat.not_lt_zero z)
  | succ n ih =>
    refine .bind (streamBits_finds hstill htrue hb (i + 1) hr) fun x hx => ?_
    obtain ⟨hval, hclean⟩ := hx
    have hbit : x.1 % 2 = (f i).toNat := hval ▸ firstBits_succ_mod f i
    cases z with
    | zero =>
      rw [if_pos (by rw [hbit, ← Nat.add_zero i, hone]; rfl)]
      exact .pure ⟨rfl, hclean⟩
    | succ z =>
      have hfirst : f i = false := hzero 0 (Nat.succ_pos z)
      rw [if_neg (by rw [hbit, hfirst]; decide)]
      refine .bind (ih hclean (fun j hj => ?_) ?_ (Nat.lt_of_succ_lt_succ hz)) fun y hy => .pure ⟨congrArg (· + 1) hy.1, hy.2⟩
      · rw [Nat.add_assoc, Nat.add_comm 1 j]
        exact hzero (j + 1) (Nat.succ_lt_succ hj)
      · rw [Nat.add_assoc, Nat.add_comm 1 z]
        exact hone

end

/-! ### Labels that are all TRUE -/

section
variable {s : State}

theorem streamLabel_true {ls : List Label} (h : ∀ l ∈ ls, l = labelTrue) (s : State) :
    streamLabel labelTrue ls s = .ok labelTrue s := by
  unfold streamLabel forMe
  simp only [M.run_bind, M.run_get, foldProd_true _ _ ls h]
  rfl

theorem Reads.Clean.sound {r : Reads} (hr : r.Clean) (s : State) : r.sound s = .ok () s := by
  rw [Reads.sound, hr.1]
  rfl

theorem readLabel_clean {r : Reads} (hr : r.Clean) (s : State) : readLabel labelTrue r s = .ok labelTrue s := by
  simp only [readLabel, M.run_bind, streamLabel_true hr.2, hr.sound]
  rfl

theorem formEarly_true (d : GReg) {ls : List Label} (h : ∀ l ∈ ls, l = labelTrue) (hg : s.me.guardLabel = labelTrue) :
    formEarly d ls s = .ok ⟨labelTrue, false⟩ s := by
  unfold formEarly
  split
  · rfl
  · simp only [M.run_bind, M.run_get]
    exact foldProd_true _ _ _ (by simpa [or_imp, forall_and, hg] using h) _ s

end

/-! ### Steps that change their core alone -/

/-- From s the step m goes through and changes the current core by f, and no other part that the streams depend on. -/
def Updates (s : State) (m : M Unit) (f : Core → Core) : Prop :=
  ∃ u, m s = .ok () u ∧ u.cur = s.cur ∧ u.mem = s.mem ∧ u.me = f s.me

section
variable {s : State} {f g : Core → Core}

theorem Updates.modMe (s : State) (f : Core → Core) : Updates s (modMe f) f := ⟨_, rfl, rfl, rfl, State.modCore_me s f⟩

theorem Updates.advance (s : State) : Updates s advance Core.past := .modMe s _

theorem Updates.bind {m : M Unit} {k : Unit → M Unit} (hm : Updates s m f)
    (hk : ∀ u : State, u.cur = s.cur → u.me = f s.me → Updates u (k ()) g) : Updates s (m >>= k) (fun c => g (f c)) := by
  obtain ⟨u, hrun, hcur, hmem, hme⟩ := hm
  obtain ⟨w, hrun', hcur', hmem', hme'⟩ := hk u hcur hme
  exact ⟨w, (M.bind_ok s u hrun).trans hrun', hcur'.trans hcur, hmem'.trans hmem, by rw [hme', hme]⟩

/-- An instruction that only changes its core and is done. -/
theorem finish_updates (s : State) (f : Core → Core) : Updates s (do modMe f; Machine.advance) (fun c => (f c).past) :=
  .bind (.modMe s f) fun u _ _ => .advance u

theorem Updates.finish {m : M Unit} (hm : Updates s m f) (g : Core → Core) :
    Updates s (do m; Machine.modMe g; Machine.advance) (fun c => (g (f c)).past) :=
  .bind (g := fun c => (g c).past) hm fun u _ _ => finish_updates u g

/-- A result under TRUE labels is written under TRUE. -/
theorem writeG_updates (d : GReg) (v : Word) (hg : s.me.guardLabel = labelTrue) :
    Updates s (writeG d v [labelTrue]) (fun c => c.wg d v labelTrue) := by
  by_cases hd : d = 0
  · subst hd
    exact ⟨s, rfl, rfl, rfl, (Core.wg_zero _ _ _).symm⟩
  · exact ⟨_, writeG_ok hd (formLabel_true [labelTrue] (by simp) s hg) v, rfl, rfl, State.modCore_me s _⟩

/-- An instruction whose operation reaches s1 before it changes its core. -/
theorem exec_of_updates {i : Instr} {m k : M Unit} {s1 : State} (hexec : exec i s = runI i m s) (hm : m s = k s1)
    (hk : Updates s1 k f) : ∃ t, exec i s = .next t ∧ t.cur = s1.cur ∧ t.mem = s1.mem ∧ t.me = f s1.me := by
  obtain ⟨t, hrun, ht⟩ := hk
  exact ⟨t, hexec.trans (runI_ok (hm.trans hrun)), ht⟩

end

theorem Core.rg_wg_same (c : Core) {r : GReg} (hr : r ≠ 0) (v : Word) (l : Label) : (c.wg r v l).rg r = v := by
  cases hbank : bankOf c r with
  | some k =>
    have hbank' : bankOf (c.wg r v l) r = some k := by rw [← hbank, bankOf, bankOf, Core.atS, Core.wg_status, Core.atS]
    rw [Core.rg, if_neg hr, hbank', Core.wg, if_neg hr]
    simp [hbank]
  | none =>
    have hbank' : bankOf (c.wg r v l) r = none := by rw [← hbank, bankOf, bankOf, Core.atS, Core.wg_status, Core.atS]
    rw [Core.rg, if_neg hr, hbank', Core.wg, if_neg hr]
    simp [hbank]

theorem Core.rg_past (c : Core) (r : GReg) : c.past.rg r = c.rg r := by
  unfold Core.past
  split
  · rfl
  · split
    · rfl
    · split <;> rfl

/-! ### Bits at the top of a word -/

section
variable {f : Nat → Bool} {i n : Nat}

theorem getLsbD_top (hi : i < n) (hn : n ≤ 64) : (BitVec.ofNat 64 (firstBits f n * 2 ^ (64 - n))).getLsbD (63 - i) = f i := by
  rw [BitVec.getLsbD_ofNat, Nat.testBit_mul_two_pow, decide_eq_true (by omega), decide_eq_true (by omega),
    show 63 - i - (64 - n) = n - 1 - i by omega, testBit_firstBits f hi]
  rfl

theorem getLsbD_below_top (hi : i + n < 64) : (BitVec.ofNat 64 (firstBits f n * 2 ^ (64 - n))).getLsbD i = false := by
  rw [BitVec.getLsbD_ofNat, Nat.testBit_mul_two_pow, decide_eq_false (by omega : ¬64 - n ≤ i), Bool.false_and, Bool.and_false]

end

/-! ### Where a stream is left -/

/-- The instruction leaves the core with value v in gd and its read stream at b. -/
def Core.leftAt (c : Core) (d : GReg) (v : Word) (b : Rd) : Core :=
  Core.past { (c.wg d v labelTrue).setRd b with brl := labelTrue }

section
variable {s s1 t : State} {b : Rd} {f : Nat → Bool}

/-- The registers that a stream is left in give the stream again. -/
theorem streamBit_of_stands (hb : b.Stands s f) (hcur : t.cur = s.cur) (hmem : t.mem = s.mem)
    (hbuf : t.me.brbuf = BitVec.ofNat 64 b.buf) (hptr : t.me.brptr = bpOf b.cnt b.addr) (i : Nat) : streamBit t i = f i := by
  obtain ⟨hcnt, hbufEq, hbehind⟩ := hb
  have hptrNat : t.me.brptr.toNat = b.cnt * 2 ^ 32 + b.addr % 2 ^ 17 := by
    rw [hptr, bpOf, BitVec.toNat_ofNat]
    omega
  have hcntOf : t.me.brptr.toNat / 2 ^ 32 % 2 ^ 7 = b.cnt := by omega
  have haddrOf : t.me.brptr.toNat % 2 ^ 17 = b.addr % 2 ^ 17 := by omega
  simp only [streamBit, hcntOf, haddrOf]
  split
  next hlt =>
    rw [hbuf, hbufEq, getLsbD_top hlt hcnt]
  next hge =>
    have hlocal : localBit t t.cur (8 * (b.addr % 2 ^ 17) + (i - b.cnt)) = localFrom s (b.addr % 2 ^ 17) (i - b.cnt) := by
      rw [localFrom, localBit, localBit, hcur, hmem]
    rw [hlocal, localFrom_mod, ← hbehind, Nat.add_sub_cancel' (Nat.not_lt.1 hge)]

/-- The stream depends on its registers and on memory alone. -/
theorem streamBit_congr (hcur : t.cur = s.cur) (hmem : t.mem = s.mem) (hbuf : t.me.brbuf = s.me.brbuf)
    (hptr : t.me.brptr = s.me.brptr) (i : Nat) : streamBit t i = streamBit s i := by
  simp only [streamBit, localBit, hcur, hmem, hbuf, hptr]

/-- What an instruction of the read stream leaves: memory as it was, its result and the stream at b. -/
theorem leftAt_spec (hb : b.Stands s f) (h1 : Aged s s1) {d : GReg} {v : Word} (hcur : t.cur = s1.cur) (hmem : t.mem = s1.mem)
    (hme : t.me = s1.me.leftAt d v b) :
    t.mem = s.mem ∧ (d ≠ 0 → t.me.rg d = v) ∧ ∀ i, streamBit t i = f i := by
  refine ⟨hmem.trans h1.mem, fun hd => ?_, ?_⟩
  · rw [hme, Core.leftAt, Core.rg_past]
    exact Core.rg_wg_same _ hd v labelTrue
  · refine streamBit_of_stands hb (hcur.trans h1.cur) (hmem.trans h1.mem) ?_ ?_
    all_goals
      rw [hme, Core.leftAt]
      simp [Core.setRd]

/-- The number of the stream's next n bits. -/
theorem takesBits_firstBits {n : Nat} (hn : n ≤ 64) : TakesBits s (BitVec.ofNat 64 (firstBits (streamBit s) n)) n := by
  have hlt := firstBits_lt (streamBit s) n
  have hval : (BitVec.ofNat 64 (firstBits (streamBit s) n)).toNat = firstBits (streamBit s) n := by
    rw [BitVec.toNat_ofNat, Nat.mod_eq_of_lt (Nat.lt_of_lt_of_le hlt (Nat.pow_le_pow_right (by decide) hn))]
  exact ⟨by rw [hval]; exact hlt, fun j hj => by rw [BitVec.getLsbD, hval, testBit_firstBits _ hj]⟩

end

section
variable {s : State} {r : Reads} (hr : r.Clean)
include hr

theorem leaveRead_clean (b : Rd) (s : State) :
    leaveRead b labelTrue r s = .ok labelTrue (s.modCore s.cur (fun c => { c.setRd b with brl := labelTrue })) := by
  simp only [leaveRead, M.run_bind, readLabel_clean hr, M.run_modMe]
  rfl

end

/-- The number that an exp-Golomb code of order k spells: z zeros, a one, and z + k bits (R113). -/
theorem firstBits_golomb {f : Nat → Bool} {z k : Nat} (hzero : ∀ j, j < z → f j = false) (hone : f z = true) :
    2 ^ (z + k) + firstBits f (2 * z + 1 + k) % 2 ^ (z + k) = firstBits f (2 * z + 1 + k) := by
  have hhead : firstBits f (z + 1) = 1 := by rw [firstBits, firstBits_eq_zero hzero, hone]; rfl
  rw [show 2 * z + 1 + k = z + 1 + (z + k) by omega, firstBits_add_mod, firstBits_add f (z + 1) (z + k), hhead, Nat.one_mul]

/-! ### The instructions of the read stream (R112, R113) -/

/-- The stream registers written, the instruction is done. -/
def leave (b : Rd) : M Unit := do
  modMe (fun c => { c.setRd b with brl := labelTrue })
  advance

theorem leave_updates (s : State) (b : Rd) : Updates s (leave b) (fun c => c.leftAt 0 0 b) := finish_updates s _

/-- The result written, then the stream registers. -/
theorem writeG_leave_updates {s : State} (d : GReg) (v : Word) (b : Rd) (hg : s.me.guardLabel = labelTrue) :
    Updates s (do writeG d v [labelTrue]; leave b) (fun c => c.leftAt d v b) :=
  .bind (g := fun c => c.leftAt 0 0 b) (writeG_updates d v hg) fun u _ _ => leave_updates u b

theorem resultFormed_updates (s : State) (d : GReg) (v : Word) :
    Updates s (resultFormed d v ⟨labelTrue, false⟩) (fun c => (c.wg d v labelTrue).past) := by
  have hwg : (fun c : Core => if d = 0 then c else (if false = true then c.lose else c).wg d v labelTrue) =
      fun c => c.wg d v labelTrue := by
    funext c
    split
    next hd => rw [hd, Core.wg_zero]
    next => rfl
  rw [resultFormed, hwg]
  exact finish_updates s _

section
variable {s : State} (hready : StreamReady s)
include hready

theorem streamReady_ok : streamReady s = .ok () s := by
  obtain ⟨⟨-, -, htile, hmst⟩, -⟩ := hready
  simp only [streamReady, M.run_bind, M.run_getMe, htile, hmst]
  rfl

theorem guardLabel_aged {t : State} (h : Aged s t) : t.me.guardLabel = labelTrue := by
  obtain ⟨-, -, -, -, hguard, -⟩ := hready
  obtain ⟨p, hme⟩ := h.me
  rw [hme]
  exact hguard

theorem exec_bsrinit {ra : GReg} (hlabel : s.me.lg ra = labelTrue) : ∃ t, exec (.bsrinit ra) s = .next t ∧ t.mem = s.mem ∧
    ∀ i, streamBit t i = localBit s s.cur ((s.me.rg ra).toNat % 2 ^ 20 + i) := by
  have ⟨hstill, htrue, _⟩ := hready
  generalize hp : (s.me.rg ra).toNat % 2 ^ 20 = p
  obtain ⟨x, s1, hrun, h1, hstands, hclean⟩ :=
    consume_finds hstill htrue (Rd.stands_empty s (p / 8)) (p % 8) Reads.clean_none s (.refl s)
  obtain ⟨t, hexec, hcur, hmem, hme⟩ := exec_of_updates (i := .bsrinit ra) (s := s) rfl (by
    simp only [M.run_bind, streamReady_ok hready, M.run_getMe, hp, hrun, hlabel, leaveRead_clean hclean, leave, M.run_modMe])
    (leave_updates s1 x.1)
  obtain ⟨hmem', -, hstream⟩ := leftAt_spec hstands h1 hcur hmem hme
  refine ⟨t, hexec, hmem', fun i => ?_⟩
  rw [hstream, localFrom, ← Nat.add_assoc, Nat.div_add_mod]

theorem exec_bsskip (n : BitVec 6) : ∃ t, exec (.bsskip n) s = .next t ∧ t.mem = s.mem ∧
    ∀ i, streamBit t i = streamBit s (n.toNat + 1 + i) := by
  have ⟨hstill, htrue, hbrl, _, _, hcnt⟩ := hready
  obtain ⟨x, s1, hrun, h1, hstands, hclean⟩ :=
    consume_finds hstill htrue (Core.rd_stands hcnt) (n.toNat + 1) Reads.clean_none s (.refl s)
  obtain ⟨t, hexec, hcur, hmem, hme⟩ := exec_of_updates (i := .bsskip n) (s := s) rfl (by
    simp only [M.run_bind, streamReady_ok hready, M.run_getMe, hrun, hbrl, leaveRead_clean hclean, leave, M.run_modMe])
    (leave_updates s1 x.1)
  obtain ⟨hmem', -, hstream⟩ := leftAt_spec hstands h1 hcur hmem hme
  exact ⟨t, hexec, hmem', hstream⟩

theorem exec_bspeek (d : GReg) (n : BitVec 6) : ∃ t v, exec (.bspeek d n) s = .next t ∧ TakesBits s v (n.toNat + 1) ∧
    t.mem = s.mem ∧ (d ≠ 0 → t.me.rg d = v) ∧ ∀ i, streamBit t i = streamBit s i := by
  have ⟨hstill, htrue, hbrl, _, _, hcnt⟩ := hready
  obtain ⟨x, s1, hrun, h1, hval, hclean⟩ :=
    streamBits_finds hstill htrue (Core.rd_stands hcnt) (n.toNat + 1) Reads.clean_none s (.refl s)
  have hlabels : ∀ l ∈ labelTrue :: x.2.labels, l = labelTrue := by simpa using hclean.2
  obtain ⟨t, hexec, hcur, hmem, hme⟩ := exec_of_updates (i := .bspeek d n) (s := s) rfl (by
    simp only [M.run_bind, streamReady_ok hready, M.run_getMe, hrun, hbrl,
      formEarly_true d hlabels (guardLabel_aged hready h1), hclean.sound])
    (resultFormed_updates s1 d (BitVec.ofNat 64 x.1))
  obtain ⟨p, hme1⟩ := h1.me
  refine ⟨t, _, hexec, hval ▸ takesBits_firstBits (by omega), hmem.trans h1.mem, fun hd => ?_,
    streamBit_congr (hcur.trans h1.cur) (hmem.trans h1.mem) ?_ ?_⟩
  · rw [hme, Core.rg_past]
    exact Core.rg_wg_same _ hd _ _
  all_goals rw [hme, hme1]; simp

theorem exec_bsget (d : GReg) (n : BitVec 6) : ∃ t v, exec (.bsget d n) s = .next t ∧ TakesBits s v (n.toNat + 1) ∧
    t.mem = s.mem ∧ (d ≠ 0 → t.me.rg d = v) ∧ ∀ i, streamBit t i = streamBit s (n.toNat + 1 + i) := by
  have ⟨hstill, htrue, hbrl, _, _, hcnt⟩ := hready
  obtain ⟨v, s1, hrunv, h1, hval, hcleanv⟩ :=
    streamBits_finds hstill htrue (Core.rd_stands hcnt) (n.toNat + 1) Reads.clean_none s (.refl s)
  obtain ⟨x, s2, hrunx, h2, hstands, hcleanx⟩ := consume_finds hstill htrue (Core.rd_stands hcnt) (n.toNat + 1) hcleanv s1 h1
  obtain ⟨t, hexec, hcur, hmem, hme⟩ := exec_of_updates (i := .bsget d n) (s := s) rfl (by
    simp only [M.run_bind, streamReady_ok hready, M.run_getMe, hrunv, hrunx, hbrl, readLabel_clean hcleanx, leave])
    (writeG_leave_updates d (BitVec.ofNat 64 v.1) x.1 (guardLabel_aged hready h2))
  exact ⟨t, _, hexec, hval ▸ takesBits_firstBits (by omega), leftAt_spec hstands h2 hcur hmem hme⟩

theorem exec_bsgetg (d : GReg) (k : BitVec 5) {z : Nat} (hzero : ∀ j, j < z → streamBit s j = false) (hone : streamBit s z = true)
    (hz : z ≤ 31) (hlen : 2 * z + 1 + k.toNat ≤ 64) : ∃ t v, exec (.bsgetg d k) s = .next t ∧ t.mem = s.mem ∧
      TakesBits s v (2 * z + 1 + k.toNat) ∧ (d ≠ 0 → t.me.rg d = v - BitVec.ofNat 64 (2 ^ k.toNat)) ∧
      ∀ i, streamBit t i = streamBit s (2 * z + 1 + k.toNat + i) := by
  have ⟨hstill, htrue, hbrl, _, _, hcnt⟩ := hready
  have hrd := Core.rd_stands hcnt
  obtain ⟨⟨y, r⟩, s1, hrunz, h1, rfl, hcleanz⟩ := leadingZeros_finds hstill htrue hrd (i := 0) (z := z) (n := 32) Reads.clean_none
    (by simpa using hzero) (by simpa using hone) (Nat.lt_succ_of_le hz) s (.refl s)
  dsimp only at *
  obtain ⟨v, s2, hrunv, h2, hval, hcleanv⟩ := streamBits_finds hstill htrue hrd (2 * y + 1 + k.toNat) hcleanz s1 h1
  obtain ⟨x, s3, hrunx, h3, hstands, hcleanx⟩ := consume_finds hstill htrue hrd (2 * y + 1 + k.toNat) hcleanv s2 h2
  have hlimit : ¬(31 < y ∨ 64 < 2 * y + 1 + k.toNat) := by omega
  have hcode : 2 ^ (y + k.toNat) + v.1 % 2 ^ (y + k.toNat) = v.1 := by rw [hval]; exact firstBits_golomb hzero hone
  obtain ⟨t, hexec, hcur, hmem, hme⟩ := exec_of_updates (i := .bsgetg d k) (s := s) rfl (by
    simp only [M.run_bind, streamReady_ok hready, M.run_getMe, hrunz, hlimit, if_false, hrunv, hrunx, hcode, hbrl,
      readLabel_clean hcleanx, leave])
    (writeG_leave_updates d (BitVec.ofNat 64 (v.1 - 2 ^ k.toNat)) x.1 (guardLabel_aged hready h3))
  obtain ⟨hmem', hresult, hstream⟩ := leftAt_spec hstands h3 hcur hmem hme
  refine ⟨t, BitVec.ofNat 64 v.1, hexec, hmem', hval ▸ takesBits_firstBits hlen, fun hd => ?_, hstream⟩
  have hk : 2 ^ k.toNat < 2 ^ 64 := Nat.pow_lt_pow_right (by decide) (by omega)
  have hle : 2 ^ k.toNat ≤ v.1 := hcode ▸ (Nat.pow_le_pow_right (by decide) (Nat.le_add_left _ _)).trans (Nat.le_add_right _ _)
  rw [hresult hd, BitVec.ofNat_sub_ofNat_of_le _ _ hk hle]

end

/-! ### Bytes stored by the write stream (R114) -/

theorem ownLocal_toNat (a : Nat) : (ownLocal a).toNat = 0x7F0000000000 + a % 2 ^ 17 := by
  rw [ownLocal, BitVec.toNat_ofNat]
  omega

theorem storeByte_updates (s : State) (a x : Nat) :
    Updates s (storeByte a x labelTrue) (fun c => { c with sb := c.sb ++ [byteStore s.cur a x] }) := by
  refine ⟨_, rfl, rfl, rfl, ?_⟩
  rw [State.modCore_me, ownLocal_toNat]
  rfl

/-- The bytes of a value enter the store buffer in order, the highest first. -/
theorem storeBytes_updates (s : State) (a v rest n : Nat) : Updates s (storeBytes a v rest labelTrue n) (fun c =>
    { c with sb := c.sb ++ (List.range n).map (fun j => byteStore s.cur (a + j) (v / 2 ^ (8 * (n - 1 - j) + rest))) }) := by
  induction n generalizing s a with
  | zero => exact ⟨s, rfl, rfl, rfl, by simp⟩
  | succ n ih =>
    have hlist : (List.range (n + 1)).map (fun j => byteStore s.cur (a + j) (v / 2 ^ (8 * (n + 1 - 1 - j) + rest))) =
        byteStore s.cur a (v / 2 ^ (8 * n + rest)) ::
          (List.range n).map (fun j => byteStore s.cur (a + 1 + j) (v / 2 ^ (8 * (n - 1 - j) + rest))) := by
      rw [List.range_succ_eq_map, List.map_cons, List.map_map]
      refine congrArg₂ List.cons rfl (List.map_congr_left fun j _ => ?_)
      change byteStore s.cur (a + (j + 1)) (v / 2 ^ (8 * (n + 1 - 1 - (j + 1)) + rest)) = _
      rw [show a + (j + 1) = a + 1 + j by omega, show n + 1 - 1 - (j + 1) = n - 1 - j by omega]
    have hboth := (storeByte_updates s a (v / 2 ^ (8 * n + rest))).bind (k := fun _ => storeBytes (a + 1) v rest labelTrue n)
      fun u hcur _ => hcur ▸ ih u (a + 1)
    simp only [List.append_assoc, List.singleton_append, ← hlist] at hboth
    exact hboth

/-! ### The instructions of the write stream (R114) -/

section
variable {s : State} (hready : StreamReady s)
include hready

/-- BSWINIT keeps the bits of its byte that stand before its place. -/
theorem exec_bswinit {ra : GReg} {q : Nat} (hlabel : s.me.lg ra = labelTrue) (hq : (s.me.rg ra).toNat % 2 ^ 20 = q) :
    ∃ t, exec (.bswinit ra) s = .next t ∧ t.me.sb = [] ∧ t.me.bwptr = BitVec.ofNat 64 (q % 8 * 2 ^ 32 + q / 8) ∧
      t.me.bwbuf = BitVec.ofNat 64 (firstBits (localFrom s (q / 8)) (q % 8) * 2 ^ (64 - q % 8)) := by
  have ⟨hstill, htrue, _⟩ := hready
  have ⟨hsb, _⟩ := hstill
  have hlt : q < 2 ^ 20 := hq ▸ Nat.mod_lt _ (by decide)
  have hplace : bpOf (q % 8) (q / 8) = BitVec.ofNat 64 (q % 8 * 2 ^ 32 + q / 8) := by
    rw [bpOf, Nat.mod_eq_of_lt (show q / 8 < 2 ^ 17 by omega)]
  by_cases hbits : q % 8 = 0
  case pos =>
    obtain ⟨t, hexec, -, -, hme⟩ := exec_of_updates (i := .bswinit ra) (s := s) rfl (by
      simp only [M.run_bind, streamReady_ok hready, M.run_getMe, hq, if_pos hbits, hlabel])
      (finish_updates s fun c => { c with bwbuf := 0, bwptr := bpOf 0 (q / 8), bwl := labelTrue })
    refine ⟨t, hexec, ?_, ?_, ?_⟩
    · rw [hme, Core.past_sb]
      exact hsb
    · rw [hme, Core.past_bwptr, ← hplace, hbits]
    · rw [hme, Core.past_bwbuf, hbits, firstBits, Nat.zero_mul]
      rfl
  case neg =>
    obtain ⟨x, s1, hrun, h1, hval, hclean⟩ := lsByte_finds hstill htrue (q / 8) Reads.clean_none s (.refl s)
    obtain ⟨p, hme1⟩ := h1.me
    have hkept : x.1 / 2 ^ (8 - q % 8) * 2 ^ (8 - q % 8) * 2 ^ 56 =
        firstBits (localFrom s (q / 8)) (q % 8) * 2 ^ (64 - q % 8) := by
      rw [hval, firstBits_div _ (by omega), Nat.mul_assoc, ← Nat.pow_add, show 8 - q % 8 + 56 = 64 - q % 8 by omega]
    obtain ⟨t, hexec, -, -, hme⟩ := exec_of_updates (i := .bswinit ra) (s := s) rfl (by
      simp only [M.run_bind, streamReady_ok hready, M.run_getMe, hq, if_neg hbits, hrun, hlabel, readLabel_clean hclean, hkept])
      (finish_updates s1 fun c => { c with
        bwbuf := BitVec.ofNat 64 (firstBits (localFrom s (q / 8)) (q % 8) * 2 ^ (64 - q % 8))
        bwptr := bpOf (q % 8) (q / 8), bwl := labelTrue })
    refine ⟨t, hexec, ?_, ?_, ?_⟩
    · rw [hme, Core.past_sb, hme1]
      exact hsb
    · rw [hme, Core.past_bwptr, ← hplace]
    · rw [hme, Core.past_bwbuf]

theorem guarded_true : guarded labelTrue s = .ok labelTrue s := by
  obtain ⟨-, -, -, -, hguard, -⟩ := hready
  exact formLabel_true [labelTrue] (by simp) s hguard

/-- BSEMIT stores the whole bytes of what is pending and appended, and keeps the rest. -/
theorem exec_bsemit {ra : GReg} {n : BitVec 6} {cnt addr len all k rest : Nat} (hlabel : s.me.lg ra = labelTrue)
    (hcnt : bwCnt s.me.bwptr = cnt) (haddr : bpAddr s.me.bwptr = addr) (hlen : n.toNat + 1 = len)
    (hall : s.me.bwbuf.toNat / 2 ^ (64 - cnt) * 2 ^ len + (s.me.rg ra).toNat % 2 ^ len = all)
    (hk : (cnt + len) / 8 = k) (hrest : (cnt + len) % 8 = rest) :
    ∃ t, exec (.bsemit ra n) s = .next t ∧
      t.me.sb = (List.range k).map (fun j => byteStore s.cur (addr + j) (all / 2 ^ (8 * (k - 1 - j) + rest))) ∧
      t.me.bwptr = bpOf rest (addr + k) ∧ t.me.bwbuf = BitVec.ofNat 64 (all % 2 ^ rest * 2 ^ (64 - rest)) := by
  have ⟨⟨hsb, _⟩, _, _, hbwl, _⟩ := hready
  have hroom : decide (s.me.sb.length + k ≤ 16) = true := by
    have hlt : cnt < 8 := hcnt ▸ Nat.mod_lt _ (by decide)
    rw [hsb, List.length_nil, decide_eq_true_iff]
    omega
  obtain ⟨t, hexec, -, -, hme⟩ := exec_of_updates (i := .bsemit ra n) (s := s) rfl (by
    simp only [M.run_bind, streamReady_ok hready, M.run_getMe, hcnt, haddr, hlen, hall, hk, hrest, hroom, M.run_needs_true, hbwl,
      hlabel, streamLabel_true (ls := [labelTrue]) (by simp), guarded_true hready])
    ((storeBytes_updates s addr all rest k).finish fun c => { c with
      bwl := labelTrue, bwptr := bpOf rest (addr + k), bwbuf := BitVec.ofNat 64 (all % 2 ^ rest * 2 ^ (64 - rest)) })
  refine ⟨t, hexec, ?_, ?_, ?_⟩
  · rw [hme, Core.past_sb, hsb]
    rfl
  · rw [hme, Core.past_bwptr]
  · rw [hme, Core.past_bwbuf]

/-- BSFLUSH of no bits keeps the place; else the bits leave in a byte. -/
theorem exec_bsflush {cnt addr : Nat} (hcnt : bwCnt s.me.bwptr = cnt) (haddr : bpAddr s.me.bwptr = addr) :
    ∃ t, exec .bsflush s = .next t ∧ t.me.bwbuf = 0 ∧
      t.me.sb = (if cnt = 0 then [] else [byteStore s.cur addr (s.me.bwbuf.toNat / 2 ^ (64 - cnt) * 2 ^ (8 - cnt))]) ∧
      t.me.bwptr = if cnt = 0 then s.me.bwptr else bpOf 0 (addr + 1) := by
  have ⟨⟨hsb, _⟩, _, _, hbwl, _⟩ := hready
  by_cases hnone : cnt = 0
  case pos =>
    obtain ⟨t, hexec, -, -, hme⟩ := exec_of_updates (i := .bsflush) (s := s) rfl (by
      simp only [M.run_bind, streamReady_ok hready, M.run_getMe, hcnt, if_pos hnone])
      (finish_updates s fun c => { c with bwbuf := 0 })
    refine ⟨t, hexec, ?_, ?_, ?_⟩
    · rw [hme, Core.past_bwbuf]
    · rw [hme, Core.past_sb, if_pos hnone]
      exact hsb
    · rw [hme, Core.past_bwptr, if_pos hnone]
  case neg =>
    have hroom : decide (s.me.sb.length < 16) = true := by rw [hsb]; rfl
    obtain ⟨t, hexec, -, -, hme⟩ := exec_of_updates (i := .bsflush) (s := s) rfl (by
      simp only [M.run_bind, streamReady_ok hready, M.run_getMe, hcnt, haddr, if_neg hnone, hroom, M.run_needs_true, hbwl,
        guarded_true hready])
      ((storeByte_updates s addr (s.me.bwbuf.toNat / 2 ^ (64 - cnt) * 2 ^ (8 - cnt))).finish fun c => { c with
        bwbuf := 0, bwptr := bpOf 0 (addr + 1) })
    refine ⟨t, hexec, ?_, ?_, ?_⟩
    · rw [hme, Core.past_bwbuf]
    · rw [hme, Core.past_sb, if_neg hnone, hsb]
      rfl
    · rw [hme, Core.past_bwptr, if_neg hnone]

end

/-- Settles O10: the read stream by what each instruction finds and where it leaves the stream, the write stream by the bytes it stores. -/
theorem streams : Obligations.Streams := by
  unfold Obligations.Streams
  refine ⟨fun s d ra n k z hready => ?read,
    fun s ra n hready hlabel => ⟨?init, exec_bsemit hready hlabel rfl rfl rfl rfl rfl rfl, ?flush⟩⟩
  case read =>
    exact ⟨exec_bsrinit hready, exec_bsget hready d n, exec_bspeek hready d n, exec_bsskip hready n, exec_bsgetg hready d k⟩
  case init =>
    obtain ⟨t, hexec, hsb, hptr, hbuf⟩ := exec_bswinit hready hlabel rfl
    refine ⟨t, hexec, hsb, hptr, fun i hi => ?_, fun i hi => ?_⟩
    · rw [hbuf, getLsbD_top hi (by omega), localFrom, Nat.mul_comm]
    · rw [hbuf, getLsbD_below_top hi]
  case flush =>
    obtain ⟨t, hexec, hbuf, hsb, hptr⟩ := exec_bsflush hready rfl rfl
    refine ⟨t, hexec, hbuf, hsb, hptr.trans ?_⟩
    rw [bpOf, Nat.zero_mul, Nat.zero_add]
    rfl

end Sys2Proof.Machine
end

section
/-! PROOFS. What the label steps of an instruction leave of the cores (R61, R171, R175).

A label step reads and writes the label space, where a word that a core's WAITA watches may lie: it may meet that wait (R263), and nothing
else of any core changes. -/

namespace Sys2Proof.Machine

/-- The cores of t are those of s, but for what they wait for. -/
structure SameCores (s t : State) : Prop where
  cur : t.cur = s.cur
  core : ∀ n, ∃ w, t.core n = { s.core n with wait := w }

namespace SameCores
variable {s t u : State}

theorem refl (s : State) : SameCores s s := ⟨rfl, fun n => ⟨(s.core n).wait, rfl⟩⟩

/-- What changes no core keeps the relation. -/
theorem of_eq (h : SameCores s t) (hcur : u.cur = t.cur) (hcores : u.cores = t.cores) : SameCores s u :=
  ⟨hcur.trans h.cur, fun n => by rw [State.core, hcores]; exact h.core n⟩

/-- What a core waits for may change. -/
theorem modCore (h : SameCores s t) {k : Nat} {f : Core → Core} (hf : ∀ c, ∃ w, f c = { c with wait := w }) :
    SameCores s (t.modCore k f) := by
  refine ⟨h.cur, fun n => ?_⟩
  obtain ⟨w, hw⟩ := h.core n
  by_cases hn : n = k
  · subst hn
    obtain ⟨w', hw'⟩ := hf (t.core n)
    exact ⟨w', by rw [State.modCore_core, hw', hw]⟩
  · exact ⟨w, by rw [State.modCore_core_ne _ _ hn, hw]⟩

end SameCores

variable {s t : State}

/-! ### Writes of memory -/

theorem Core.seeLocal_wait (c : Core) (m : Memory) (n : Nat) : ∃ w, c.seeLocal m n = { c with wait := w } := by
  unfold Core.seeLocal
  split
  · split
    · exact ⟨_, rfl⟩
    · exact ⟨c.wait, rfl⟩
  · exact ⟨c.wait, rfl⟩

theorem SameCores.wakeLocal (h : SameCores s t) (k : Nat) : SameCores s (t.wakeLocal k) := by
  unfold State.wakeLocal
  split
  · exact h
  · split
    · exact h.modCore fun c => Core.seeLocal_wait c _ _
    · exact h

theorem SameCores.poke (h : SameCores s t) (k v n : Nat) : SameCores s (t.poke k v n) :=
  SameCores.wakeLocal (h.of_eq (u := { t with mem := writeNat t.mem k v n, damaged := repaired t.damaged k n }) rfl rfl) k

theorem SameCores.dropLeases (h : SameCores s t) (k n : Nat) : SameCores s (t.dropLeases k n) := by
  unfold State.dropLeases
  dsimp only
  split
  · exact h.of_eq rfl rfl
  · exact h

theorem SameCores.askRecall (h : SameCores s t) (L : Nat) : SameCores s (t.askRecall L) := by
  unfold State.askRecall
  split
  · exact h.of_eq rfl rfl
  · exact h

theorem SameCores.stampLine (h : SameCores s t) (L : Nat) : SameCores s (t.stampLine L) := by
  unfold State.stampLine
  split
  · refine foldl_keeps (P := SameCores s) _ _ (fun u k hu => ?_) (h.of_eq rfl rfl)
    dsimp only
    split
    · exact hu
    · exact hu.of_eq rfl rfl
  · exact h

theorem SameCores.foldUnder (h : SameCores s t) (k n : Nat) : SameCores s (t.foldUnder k n) := by
  unfold State.foldUnder
  dsimp only
  split
  · exact h
  · apply SameCores.askRecall
    apply foldl_keeps (P := SameCores s)
    · intro u k hu
      split
      · exact hu
      · exact hu.of_eq rfl rfl
    · apply foldl_keeps (P := SameCores s)
      · intro u e hu
        split
        · exact hu.of_eq rfl rfl
        · exact hu
      · exact h.of_eq rfl rfl

theorem SameCores.plinthWrite (h : SameCores s t) (k v n : Nat) : SameCores s (t.plinthWrite k v n) :=
  ((((h.foldUnder k n).poke k v n).dropLeases k n).stampLine (lineOf k)).of_eq rfl rfl

/-! ### Translation -/

theorem SameCores.walked (h : SameCores s t) (x va : Nat) : SameCores s (t.walked x va) :=
  foldl_keeps (P := SameCores s) _ _ (fun _ _ hu => hu.askRecall _) h

theorem SameCores.setAliases (h : SameCores s t) (e : Word) (size : Nat) : SameCores s (t.setAliases e size) := by
  unfold State.setAliases
  split
  · exact h.of_eq rfl rfl
  · exact h

theorem SameCores.translate (h : SameCores s t) (x l : Nat) (acc : Access) (va : Nat) : SameCores s (t.translate x l none acc va).1 := by
  have hw := h.walked x va
  unfold State.translate
  dsimp only [Option.bind_none]
  split
  · exact h
  · split
    · exact hw
    · exact hw
    · exact hw
    · exact hw
    · split
      · exact hw
      · split
        · exact hw
        · exact (hw.setAliases _ _).of_eq rfl rfl

/-! ### Label steps -/

/-- An operation that changes of the cores no more than what they wait for, however it ends. -/
def KeepsCores {α : Type} (m : M α) : Prop := ∀ s, Keeps (SameCores s) m

namespace KeepsCores
variable {α β : Type} {m : M α}

theorem pure (a : α) : KeepsCores (Pure.pure a : M α) := fun _ => .pure a
theorem get : KeepsCores (MonadState.get : M State) := fun _ => .get
theorem raise (c : Cause) (i : Info) : KeepsCores (Machine.raise c i : M α) := fun _ => .raise c i
theorem modS {f : State → State} (hf : ∀ s t, SameCores s t → SameCores s (f t)) : KeepsCores (Machine.modS f) := fun s => .modS (hf s)
theorem bind {f : α → M β} (hm : KeepsCores m) (hf : ∀ a, KeepsCores (f a)) : KeepsCores (m >>= f) :=
  fun s => .bind (hm s) fun a => hf a s
theorem ite {c : Prop} [Decidable c] {n : M α} (hm : KeepsCores m) (hn : KeepsCores n) : KeepsCores (if c then m else n) :=
  fun s => .ite (hm s) (hn s)
theorem forM {f : β → M PUnit} (hf : ∀ b, KeepsCores (f b)) (l : List β) : KeepsCores (l.forM f) := fun s => .forM l fun b => hf b s

theorem mapM {f : α → M β} (hf : ∀ a, KeepsCores (f a)) (l : List α) : KeepsCores (l.mapM f) := by
  rw [← List.mapM'_eq_mapM]
  induction l with
  | nil => exact pure _
  | cons a l ih => exact (hf a).bind fun _ => ih.bind fun _ => pure _

/-- Where an operation goes through, the cores are those that it found. -/
theorem ok (hm : KeepsCores m) {a : α} (h : m s = .ok a t) : SameCores s t := by
  have ht := hm s s (.refl s)
  rwa [h] at ht

end KeepsCores

theorem spaceAt_keepsCores (w : Who) (write : Bool) (va : Nat) : KeepsCores (spaceAt w write va) := by
  intro s t ht
  have h := ht.translate w.ctx w.layer .read va
  unfold spaceAt
  rcases hr : t.translate w.ctx w.layer none .read va with ⟨u, o⟩
  rw [hr] at h
  cases o <;> exact h

theorem spaceRead_keepsCores (w : Who) (va n : Nat) : KeepsCores (spaceRead w va n) := by
  refine .bind (spaceAt_keepsCores _ _ _) fun k => .bind .get fun s => .ite (.raise _ _) ?_
  exact .bind (.modS fun _ _ h => h.askRecall _) fun _ => .bind .get fun _ => .pure _

theorem spaceWrite_keepsCores (w : Who) (va v n : Nat) : KeepsCores (spaceWrite w va v n) :=
  .bind (spaceAt_keepsCores _ _ _) fun _ => .modS fun _ _ h => h.plinthWrite _ _ _

theorem spaceOf_keepsCores (w : Who) : KeepsCores (spaceOf w) := fun _ _ h => h

theorem entryEnvs_keepsCores (w : Who) (base v : Nat) : KeepsCores (entryEnvs w base v) :=
  .bind (spaceRead_keepsCores _ _ _) fun _ => .mapM (fun _ => .bind (spaceRead_keepsCores _ _ _) fun _ => .pure _) _

theorem labelEnvs_keepsCores (w : Who) (l : Label) : KeepsCores (labelEnvs w l) := by
  refine .ite (.pure _) (.ite (.pure _) (.bind (spaceOf_keepsCores _) fun b => ?_))
  cases b with
  | none => exact .pure _
  | some base => exact .bind (spaceRead_keepsCores _ _ _) fun _ => .ite (entryEnvs_keepsCores _ _ _) (.pure _)

theorem liveLabel_keepsCores (w : Who) (l : Label) : KeepsCores (liveLabel w l) := by
  refine .ite (.pure _) (.bind (spaceOf_keepsCores _) fun b => ?_)
  cases b with
  | none => exact .pure _
  | some base => exact .bind (spaceRead_keepsCores _ _ _) fun _ => .pure _

theorem findEntry_keepsCores (w : Who) (base : Nat) (envs : List Env) (v n : Nat) : KeepsCores (findEntry w base envs v n) := by
  induction n generalizing v with
  | zero => exact .pure _
  | succ n ih => exact .bind (entryEnvs_keepsCores _ _ _) fun _ => .ite (.pure _) (ih _)

theorem internAt_keepsCores (w : Who) (base : Nat) (envs : List Env) : KeepsCores (internAt w base envs) := by
  refine .bind .get fun s => .bind (spaceRead_keepsCores _ _ _) fun next => .bind (findEntry_keepsCores _ _ _ _ _) fun found => ?_
  cases found with
  | some v => exact .pure _
  | none =>
    refine .bind (spaceRead_keepsCores _ _ _) fun st => .bind (spaceRead_keepsCores _ _ _) fun line => .ite (.pure _) (.ite ?_ ?_)
    · exact .bind (spaceWrite_keepsCores _ _ _ _) fun _ => .pure _
    · refine .bind (.forM (fun _ => spaceWrite_keepsCores _ _ _ _) _) fun _ => ?_
      exact .bind (spaceWrite_keepsCores _ _ _ _) fun _ => .bind (spaceWrite_keepsCores _ _ _ _) fun _ =>
        .bind (spaceWrite_keepsCores _ _ _ _) fun _ => .bind (spaceWrite_keepsCores _ _ _ _) fun _ => .pure _

theorem finish_keepsCores (w : Who) (pol : Policy) (l : List Env) : KeepsCores (finish w pol l) := by
  unfold finish
  refine .ite (.pure _) (.ite (.raise _ _) (.ite (.pure _) (.bind (spaceOf_keepsCores _) fun b => ?_)))
  have hlost : KeepsCores (if pol == .deferred then pure ⟨labelFalse, true⟩ else raise .labelSpaceFull (.labelWord 0) : M Formed) :=
    .ite (.pure _) (.raise _ _)
  cases b with
  | none => exact hlost
  | some base =>
    refine .bind (internAt_keepsCores _ _ _) fun r => ?_
    cases r with
    | id l => exact .pure _
    | full => exact hlost

theorem cached_keepsCores (w : Who) (op : FullerOp) (x y : Label) {form : M Formed} (hf : KeepsCores form) :
    KeepsCores (cached w op x y form) := by
  refine .ite hf (.bind .get fun s => ?_)
  split
  · exact .pure _
  · exact .bind hf fun _ => .ite (.bind (.modS fun _ _ h => h.of_eq rfl rfl) fun _ => .pure _) (.pure _)

theorem filterOf_keepsCores (w : Who) : KeepsCores (filterOf w) := by
  refine .ite (.bind (spaceOf_keepsCores _) fun b => ?_) (.bind .get fun _ => .pure _)
  cases b with
  | none => exact .pure _
  | some base =>
    exact .bind (spaceRead_keepsCores _ _ _) fun _ => .mapM (fun _ => .bind (spaceRead_keepsCores _ _ _) fun _ => .pure _) _

theorem prod_keepsCores (w : Who) (pol : Policy) (x y : Label) : KeepsCores (prod w pol x y) := by
  refine .ite (.pure _) (.ite (.pure _) (.bind (liveLabel_keepsCores _ _) fun x => .bind (liveLabel_keepsCores _ _) fun y =>
    .ite (.pure _) (cached_keepsCores _ _ _ _ ?_)))
  exact .bind (labelEnvs_keepsCores _ _) fun _ => .bind (labelEnvs_keepsCores _ _) fun _ => .bind (filterOf_keepsCores _) fun _ =>
    finish_keepsCores _ _ _

theorem foldProd_keepsCores (w : Who) (pol : Policy) (f : Formed) (ls : List Label) : KeepsCores (foldProd w pol f ls) := by
  induction ls generalizing f with
  | nil => exact .pure _
  | cons l r ih => exact .bind (prod_keepsCores _ _ _ _) fun _ => ih _

/-! ### The label of an instruction -/

/-- Forming the label of an instruction is a fold of its factors, and where that is truncated its LOSS (R176). -/
theorem formLabel_eq_ok {ls : List Label} {l : Label} (h : formLabel ls s = .ok l t) :
    ∃ (f : Formed) (u : State), foldProd (s.who s.cur) (.issue s.me.ovm) ⟨labelTrue, false⟩ (ls ++ [s.me.guardLabel]) s = .ok f u ∧
      f.label = l ∧ t = if f.cut then u.modCore u.cur Core.lose else u := by
  simp only [formLabel, forMe, M.run_bind, M.run_get] at h
  split at h
  case h_1 f u hfold =>
    refine ⟨f, u, hfold, ?_⟩
    cases hcut : f.cut
    all_goals
      simp only [hcut] at h
      cases h
      exact ⟨rfl, rfl⟩
  case h_2 => cases h

/-- The label of an instruction formed, its core is as before, its LFLAGS and what it waits for apart. -/
theorem formLabel_me {ls : List Label} {l : Label} (h : formLabel ls s = .ok l t) :
    t.cur = s.cur ∧ ∃ w f, t.me = { s.me with wait := w, lflags := f } := by
  obtain ⟨f, u, hfold, -, rfl⟩ := formLabel_eq_ok h
  have hsame := (foldProd_keepsCores _ _ _ _).ok hfold
  obtain ⟨w, hw⟩ := hsame.core s.cur
  have hme : u.me = { s.me with wait := w } := by rw [State.me, hsame.cur, hw]; rfl
  split
  · exact ⟨hsame.cur, w, s.me.lflags ||| 4, by rw [State.modCore_me, hme]; rfl⟩
  · exact ⟨hsame.cur, w, s.me.lflags, hme⟩

end Sys2Proof.Machine
end

section
/-! PROOFS. O29: the queued tile instructions enter the vector queue (R118, R120, R121, R123).

`enters_of_enterQueue` says once what `enterQueue` does; each instruction is that operation behind its own checks. -/

open Sys2Proof.Claims

namespace Sys2Proof.Machine

variable {s t : State} {i : Instr} {q : TileIssue} {put : Core → Label → Core} {l : Label}

/-- A core changed by two functions that agree on it. -/
theorem State.modCore_congr {n : Nat} {f g : Core → Core} (h : f (s.core n) = g (s.core n)) : s.modCore n f = s.modCore n g := by
  rw [State.modCore, h, ← State.modCore]

theorem Core.count_eq_elems (c : Core) : c.count = elems c := rfl

theorem Core.keeps_eq_merges (c : Core) (p : PReg) : c.keeps p = Merges c p := rfl

/-- Where old elements stay, their label is a further factor (R120). -/
theorem keptLabel_eq (keep : Option (PReg × VReg)) (ls : List Label) (s : State) :
    keptLabel keep ls s = formLabel (ls ++ match keep with
      | some (p, d) => if Merges s.me p then [s.me.lv d] else []
      | none => []) s := by
  rw [keptLabel, M.bind_ok s s (M.run_getMe s)]
  cases keep with
  | none => rw [List.append_nil]
  | some pd =>
    obtain ⟨p, d⟩ := pd
    cases hmerges : Merges s.me p with
    | true => simp only [Core.keeps_eq_merges, hmerges, if_true]
    | false => simp only [Core.keeps_eq_merges, hmerges, Bool.false_eq_true, if_false, List.append_nil]

/-- A core with an instruction at the end of its vector queue, its draws reserved (R31, R121). -/
theorem Core.draws_vpush (c : Core) (i : Instr) (q : TileIssue) (l : Label) (n : Nat) :
    (c.vpush i q l).draws n = { c with
      vq := c.vq ++ [{ op := i, rows := c.shape.toNat % 128, cols := c.shape.toNat / 2 ^ 16 % 512, frm := c.frm.toNat % 8
                       seed := c.srseed, ga := q.ga, gb := q.gb, label := l, beats := q.beats }]
      srseed := if c.frm.toNat % 8 = 4 then seedSteps n c.srseed else c.srseed } := by
  rw [Core.draws]
  by_cases hsr : c.frm.toNat % 8 = 4
  · rw [if_pos hsr, if_pos (show (c.vpush i q l).mode = 4 from hsr)]
    rfl
  · rw [if_neg hsr, if_neg (show ¬(c.vpush i q l).mode = 4 from hsr)]
    rfl

/-- The entry, once the queue has room, the predicate is at hand and the label is formed (R121). -/
theorem enterQueue_ok (hroom : s.me.vq.length < 16) (hready : ∀ p d, q.keep = some (p, d) → PredReady s p)
    (hlabel : keptLabel q.keep q.ls s = .ok l t) :
    enterQueue i q put s = .ok () (t.modCore t.cur (fun c =>
      (put ((c.vpush i q l).draws (if q.rounds then c.count else 0)) l).past)) := by
  have hneeds : needs (decide (s.me.vq.length < 16) && !(match q.keep with
      | some (p, _) => s.me.predPending p
      | none => false)) s = .ok () s := by
    cases hkeep : q.keep with
    | none => simp [hroom]
    | some pd =>
      obtain ⟨p, d⟩ := pd
      simp [hroom, show s.me.predPending p = false from hready p d hkeep]
  refine (M.bind_ok s s (M.run_getMe s)).trans ((M.bind_ok s s hneeds).trans ((M.bind_ok s t hlabel).trans ?_))
  simp only [M.run_bind, M.run_modMe, M.run_advance, State.modCore_cur, State.modCore_modCore]

/-- An instruction that, where its shape fits, goes on to enter the queue. -/
theorem enters_of_enterQueue {m : M Unit} {bits beats draws n : Nat} {ga gb : Word} {keep : Option (PReg × VReg)} {ls : List Label}
    {rounds : Bool} (hexec : exec i s = runI i m s)
    (hm : elems s.me * bits ≤ 2048 → m s = enterQueue i ⟨n, rounds, ga, gb, keep, ls⟩ put s)
    (hbeats : n = beats) (hdraws : draws = if rounds then elems s.me else 0) : Enters i s bits beats draws ga gb keep ls put := by
  subst hbeats
  intro l t hfits hroom hready hlabel
  obtain ⟨-, w, f, hme⟩ := formLabel_me hlabel
  have hcount : t.me.count = elems s.me := by rw [hme]; rfl
  rw [hexec]
  refine runI_ok ((hm hfits).trans ((enterQueue_ok hroom hready ((keptLabel_eq _ _ _).trans hlabel)).trans ?_))
  refine congrArg _ (State.modCore_congr ?_)
  change (put ((t.me.vpush i _ l).draws (if rounds = true then t.me.count else 0)) l).past = _
  rw [hcount, ← hdraws, Core.draws_vpush]
  rfl

/-- The beats of a lane-group instruction (R123). -/
theorem laneBeats_eq (c : Core) (bits : Nat) : laneBeats c.count bits = max 1 ((elems c * bits + 511) / 512) := by
  rw [laneBeats, Core.count_eq_elems]

/-! ### The checks before the entry -/

theorem needs_ok {b : Bool} (h : b = true) : needs b s = .ok () s := h ▸ M.run_needs_true s

theorem widthOk_ok {bits : Nat} (h : elems s.me * bits ≤ 2048) : widthOk bits s = .ok () s := by
  rw [widthOk, M.bind_ok s s (M.run_getMe s), Core.count_eq_elems, if_neg (Nat.not_lt.2 h)]
  rfl

/-- An operation behind the check of the shape's width (R118). -/
theorem run_widthOk {bits : Nat} {α : Type} (h : elems s.me * bits ≤ 2048) (f : Unit → M α) : (widthOk bits >>= f) s = f () s :=
  M.bind_ok s s (widthOk_ok h)

/-- The form of most instructions: the check of the width, then what the core samples. -/
theorem run_fitted {bits : Nat} (h : elems s.me * bits ≤ 2048) (f : Core → M Unit) :
    (widthOk bits >>= fun _ => getMe >>= f) s = f s.me s := run_widthOk h _

/-- The same with the check that the positions make blocks (R140). -/
theorem run_blocks {bits : Nat} (h : elems s.me * bits ≤ 2048) (hblocks : elems s.me % 64 = 0) (f : Core → M Unit) :
    (widthOk bits >>= fun _ => blocksOk >>= fun _ => getMe >>= f) s = f s.me s := by
  refine (run_widthOk h _).trans ((M.bind_ok s s (a := ()) ?_).trans (M.bind_ok s s (M.run_getMe s)))
  rw [blocksOk, M.bind_ok s s (M.run_getMe s), Core.count_eq_elems, if_neg (not_not.2 hblocks)]
  rfl

theorem idValid_const {l : Label} (h : l = labelTrue ∨ l = labelFalse) : idValid l s = .ok true s := by
  rw [idValid, if_pos h]
  rfl

theorem localKey_own (n : Nat) {ea : Word} {off : Nat} (hea : ea.toNat = 0x7F0000000000 + off) (hoff : off < 2 ^ 17) :
    localKey n ea = lsBase n + off := by
  have hown : ea.toNat - 0x7F0000000000 < 0x20000 := by omega
  simp only [localKey, if_pos hown]
  rw [hea, Nat.add_sub_cancel_left]

/-- A base in the own local store (R135). -/
theorem tileWindow_own {ea : Word} {off : Nat} (hea : ea.toNat = 0x7F0000000000 + off) (hoff : off < 2 ^ 17) :
    tileWindow ea s = .ok (lsBase s.cur + off) s := by
  have htarget : s.target s.cur ea = .localStore s.cur off := by
    have h48 : ¬2 ^ 48 ≤ ea.toNat := by omega
    have hglobal : ¬(ea.toNat < 0x7F0000000000 ∨ 0x800000000000 ≤ ea.toNat) := by omega
    have hown : ea.toNat - 0x7F0000000000 < 0x20000 := by omega
    simp only [State.target, if_neg h48, if_neg hglobal, if_pos hown]
    rw [hea, Nat.add_sub_cancel_left]
  rw [tileWindow, M.bind_ok s s (M.run_get s), htarget, localKey_own _ hea hoff]
  rfl

/-- The bytes of an element of a type of whole bytes. -/
theorem nibsOf_half {t : ETy} : nibsOf t / 2 = bitsOf t / 8 := by rw [nibsOf, Nat.div_div_eq_div_mul]

theorem bitsOf_cases (t : ETy) : bitsOf t = 4 ∨ bitsOf t = 8 ∨ bitsOf t = 16 ∨ bitsOf t = 32 := by
  cases t <;> decide

/-- An aligned base in the own local store and at most 128 positions pass the checks of R135 and R136. -/
theorem indexChecks_own {t : ETy} {ea : Word} {off : Nat} (hfits : elems s.me * bitsOf t ≤ 2048) (hbits : 8 ≤ bitsOf t)
    (hea : ea.toNat = 0x7F0000000000 + off) (hoff : off < 2 ^ 17) (halign : off % (bitsOf t / 8) = 0) (hcount : elems s.me ≤ 128) :
    indexChecks t ea s = .ok (lsBase s.cur + off) s := by
  have haligned : ¬ea.toNat % (nibsOf t / 2) ≠ 0 := by
    rw [nibsOf_half, hea]
    rcases bitsOf_cases t with h | h | h | h
    all_goals
      rw [h] at halign hbits ⊢
      omega
  rw [indexChecks, run_widthOk hfits, M.bind_ok s s (tileWindow_own hea hoff)]
  dsimp only
  rw [if_neg haligned, M.bind_ok s s (M.run_getMe s), Core.count_eq_elems, if_neg (Nat.not_lt.2 hcount)]
  rfl

/-- Settles O29: each instruction is `enterQueue` behind its own checks (`enters_of_enterQueue`). -/
theorem tilesEnter : Obligations.TilesEnter := by
  unfold Obligations.TilesEnter
  intro s t z p d a b g h k o q x y n v key off c e lane w to' two one pred l three
  have two_enters {i : Instr} (hexec : exec i s = tile2 i t p d a b false s) : two i 0 :=
    enters_of_enterQueue hexec (fun hfits => run_fitted hfits _) (laneBeats_eq _ _) rfl
  have two_rounds {i : Instr} (hexec : exec i s = tile2 i t p d a b true s) : two i e :=
    enters_of_enterQueue hexec (fun hfits => run_fitted hfits _) (laneBeats_eq _ _) rfl
  have three_enters {i : Instr} (hexec : exec i s = tile3 i t p d a b s) : three i :=
    enters_of_enterQueue hexec (fun hfits => run_fitted hfits _) (laneBeats_eq _ _) rfl
  have one_enters {i : Instr} (hexec : exec i s = tile1 i t p d a s) : one i :=
    enters_of_enterQueue hexec (fun hfits => run_fitted hfits _) (laneBeats_eq _ _) rfl
  have sfu_enters {i : Instr} (hexec : exec i s = sfuOp i t p d a s) :
      Enters i s w ((e + 15) / 16) 0 0 0 (some (p, d)) [c.lv a, c.lp p] to' :=
    enters_of_enterQueue hexec (fun hfits => run_fitted hfits _) (by rw [Core.count_eq_elems]) rfl
  have pred_enters {i : Instr} {f : Core → List Label} (hexec : exec i s = predOp i q f s) : pred i (f c) :=
    enters_of_enterQueue hexec (fun _ => M.bind_ok s s (M.run_getMe s)) rfl rfl
  have lane_succ (w : Nat) : laneBeats c.count w + 1 = lane w + 1 := congrArg (· + 1) (laneBeats_eq c w)
  refine ⟨two_enters rfl, two_enters rfl, two_enters rfl, two_enters rfl, two_enters rfl, two_enters rfl, two_enters rfl, two_enters rfl,
    two_enters rfl, two_enters rfl, two_enters rfl, two_rounds rfl, two_rounds rfl, two_rounds rfl, two_enters rfl, two_enters rfl,
    three_enters rfl, three_enters rfl, one_enters rfl, one_enters rfl, one_enters rfl, one_enters rfl,
    ?bcast, ?cmp, ?sel, ?red, ?trans, ?rot, ?cvt, ?quant, ?deq, ?sfu,
    pred_enters (f := fun c => [c.lp x, c.lp y]) rfl, pred_enters (f := fun c => [c.lp x, c.lp y]) rfl,
    pred_enters (f := fun c => [c.lp x, c.lp y]) rfl, pred_enters (f := fun c => [c.lp x]) rfl, pred_enters (f := fun _ => []) rfl,
    ?lset, ?store, ?scatter⟩
  case bcast | cmp | sel => exact enters_of_enterQueue rfl (fun hfits => run_fitted hfits _) (laneBeats_eq _ _) rfl
  case trans | rot | cvt => exact enters_of_enterQueue rfl (fun hfits => run_fitted hfits _) (lane_succ _) rfl
  case red => exact enters_of_enterQueue rfl (fun hfits => run_fitted hfits _) (lane_succ _) (by simp [e, c])
  case quant | deq => exact fun hblocks => enters_of_enterQueue rfl (fun hfits => run_blocks hfits hblocks _) (lane_succ _) rfl
  case sfu =>
    intro i hi
    simp only [List.mem_cons, List.not_mem_nil, or_false] at hi
    rcases hi with rfl | rfl | rfl | rfl | rfl | rfl | rfl | rfl | rfl | rfl
    all_goals exact sfu_enters rfl
  case lset =>
    intro hconst
    exact enters_of_enterQueue rfl (fun _ => M.bind_ok s s (idValid_const hconst)) rfl rfl
  case store =>
    intro hmst hchecks
    have hready : needs (!s.me.mstQueued) s = .ok () s := needs_ok (by simp [← hmst, c])
    exact enters_of_enterQueue rfl (fun _ => (M.bind_ok s s hchecks).trans (M.bind_ok s s hready)) (laneBeats_eq _ _) rfl
  case scatter =>
    intro hmst hbits hea hoff halign hcount
    have hready : needs (!s.me.mstQueued) s = .ok () s := needs_ok (by simp [← hmst, c])
    exact enters_of_enterQueue rfl (fun hfits =>
      (M.bind_ok s s (indexChecks_own hfits hbits hea hoff halign hcount)).trans (M.bind_ok s s hready)) (by rw [Core.count_eq_elems]) rfl

end Sys2Proof.Machine
end

section
/-! PROOFS. O30: the tile instructions whose result lies outside the tiles (R119, R132, R187, R195), and how the head of the vector queue
leaves it (R121). -/

open Sys2Proof.Claims

namespace Sys2Proof.Machine

variable {s t u : State} {g : GLow} {a n : PReg} {v : VReg} {i : Instr}

/-! ### The head of the vector queue completes (R121) -/

section
variable (c : Core) (e : VEntry)

@[simp] theorem Core.accrue_vq (f : Flags) : (c.accrue f).vq = c.vq := rfl

@[simp] theorem Core.mapTile_vq (b : Nat) (p : PReg) (d : VReg) (f : Nat → Nat × Flags) : (c.mapTile e b p d f).vq = c.vq := rfl

@[simp] theorem Core.fillTile_vq (b : Nat) (d : VReg) (f : Nat → Nat × Flags) : (c.fillTile e b d f).vq = c.vq := rfl

/-- Writing its result leaves the queue. -/
theorem Core.tileData_vq : (c.tileData e).vq = c.vq := by
  unfold Core.tileData
  split
  all_goals simp only [Core.intTile, Core.floatTile, Core.cmpTile, Core.redTile, Core.quantTile, Core.deqTile, Core.sfuTile,
    Core.mapTile_vq, Core.fillTile_vq, Core.accrue_vq, Core.wp_vq, Core.wv_vq]

end

/-- A head with its beats granted that is no store leaves the queue and what it writes (R121). -/
theorem exec_tileComplete {k : Nat} {e : VEntry} {rest : List VEntry} (hk : k < nCores) (hpaused : (s.core k).paused = [])
    (hvq : (s.core k).vq = e :: rest) (hbeats : e.beats = 0) (hstore : storeElems k (s.core k) e = none) :
    exec (.tileComplete k) s = .next (s.modCore k (fun c => { c.tileData e with vq := rest })) := by
  have hrun : completeTile k s = .ok () (s.modCore k (fun c => { c.tileData e with vq := (c.tileData e).vq.drop 1 })) := by
    simp only [completeTile, M.run_bind, M.run_get, hvq, hbeats, hstore, beq_self_eq_true, M.run_needs_true, M.run_modS,
      State.modCore_modCore]
  have hdrop : (s.core k).vq.drop 1 = rest := by rw [hvq]; rfl
  change (if k < nCores then _ else _) = _
  rw [if_pos hk]
  refine runEngine_ok ?_
  simp only [M.run_bind, M.run_get, hpaused, List.contains_nil, Bool.false_eq_true, if_false, hrun]
  refine congrArg _ (State.modCore_congr ?_)
  rw [Core.tileData_vq, hdrop]

/-! ### PCNT and PFIRST (R132) -/

/-- What PCNT and PFIRST do until their count is there. -/
theorem predCount_of_not_granted (hwait : ∀ w, s.me.wait ≠ .granted w) :
    predCount i g a s = (do
      needs (s.me.vq.length < 16)
      let f ← formEarly (lowG g) [s.me.lp a]
      modMe (fun c => c.vpush i ⟨1, false, 0, 0, none, []⟩ f.label)
      holdFormed .stalled .result f : M Unit) s := by
  rw [predCount, M.bind_ok s s (M.run_getMe s)]
  generalize s.me.wait = w at hwait
  cases w with
  | granted v => exact absurd rfl (hwait v)
  | _ => rfl

/-- Until its count is there the instruction waits, its entry in the queue and its label kept. -/
theorem exec_predCount {l : Label} (hexec : exec i s = runI i (predCount i g a) s) (hwait : ∀ w, s.me.wait ≠ .granted w)
    (hroom : s.me.vq.length < 16) (hg : lowG g ≠ 0) (hlabel : formLabel [s.me.lp a] s = .ok l t) :
    ∃ x, exec i s = .next x ∧ x.me.pc = s.me.pc ∧ x.me.run = .stalled ∧ x.me.wait = .result ∧ x.me.formed.1 = l ∧
      ∃ e : VEntry, x.me.vq = s.me.vq ++ [e] ∧ e.op = i ∧ e.count = elems s.me ∧ e.beats = 1 := by
  obtain ⟨f, u, hfold, rfl, -⟩ := formLabel_eq_ok hlabel
  have hsame := (foldProd_keepsCores _ _ _ _).ok hfold
  obtain ⟨w, hw⟩ := hsame.core s.cur
  have hearly : formEarly (lowG g) [s.me.lp a] s = .ok f u := by
    rw [formEarly, if_neg hg]
    exact hfold
  have hrun : predCount i g a s = .error (.hold .stalled .result) (u.modCore s.cur (fun c =>
      { c.vpush i ⟨1, false, 0, 0, none, []⟩ f.label with formed := (f.label, f.cut) })) := by
    rw [predCount_of_not_granted hwait]
    simp only [M.run_bind, needs_ok (decide_eq_true hroom), hearly, M.run_modMe, holdFormed, M.run_holdOn, State.modCore_cur,
      State.modCore_modCore, hsame.cur]
  refine ⟨_, by rw [hexec, runI, hrun]; rfl, ?_⟩
  have hme : ∃ n, (((u.modCore s.cur (fun c => { c.vpush i ⟨1, false, 0, 0, none, []⟩ f.label with formed := (f.label, f.cut) })).keepLoss
      s).waitIn i .stalled .result).me = { s.me.vpush i ⟨1, false, 0, 0, none, []⟩ f.label with
        formed := (f.label, f.cut), run := .stalled, wait := .result, held := i.word, since := n } := by
    simp only [State.waitIn, State.keepLoss, State.modCore_cur, hsame.cur, State.modCore_modCore, State.me, State.modCore_core, hw]
    exact ⟨_, rfl⟩
  obtain ⟨n, hme⟩ := hme
  rw [hme]
  exact ⟨rfl, rfl, rfl, rfl, _, rfl, rfl, rfl, rfl⟩

/-- With its count there the instruction completes under the label that it kept. -/
theorem sets_predCount {w : Word} (hexec : exec i s = runI i (predCount i g a) s) (hwait : s.me.wait = .granted w) :
    Sets i s (fun c => if lowG g = 0 then c else (if c.formed.2 then c.lose else c).wg (lowG g) w c.formed.1) := by
  refine hexec.trans (runI_ok (t := _) ?_)
  rw [predCount, M.bind_ok s s (M.run_getMe s)]
  simp only [hwait, resultKept, resultFormed, M.run_bind, M.run_getMe, M.run_modMe, M.run_advance, State.modCore_cur,
    State.modCore_modCore]
  exact congrArg _ (State.modCore_congr rfl)

/-- The first position below n where p holds, or n. -/
theorem find?_range_getD (p : Nat → Bool) (n : Nat) :
    ((List.range n).find? p).getD n ≤ n ∧ (∀ j, j < ((List.range n).find? p).getD n → p j = false) ∧
      (((List.range n).find? p).getD n < n → p (((List.range n).find? p).getD n) = true) := by
  cases hfind : (List.range n).find? p with
  | none =>
    refine ⟨Nat.le_refl n, fun j hj => ?_, fun h => absurd h (Nat.lt_irrefl n)⟩
    simpa using List.find?_eq_none.1 hfind j (List.mem_range.2 hj)
  | some m =>
    rw [List.find?_range_eq_some] at hfind
    obtain ⟨hp, hm, hbefore⟩ := hfind
    exact ⟨Nat.le_of_lt (List.mem_range.1 hm), fun j hj => by simpa using hbefore j hj, fun _ => hp⟩

/-! ### VSHAPE (R119) -/

theorem shapeOk_iff (w : Word) : shapeOk w = true ↔
    w.toNat = w.toNat % 128 + 2 ^ 16 * (w.toNat / 2 ^ 16 % 512) ∧ 1 ≤ w.toNat % 128 ∧ w.toNat % 128 ≤ 64 ∧
      1 ≤ w.toNat / 2 ^ 16 % 512 ∧ w.toNat / 2 ^ 16 % 512 ≤ 256 ∧ w.toNat % 128 * (w.toNat / 2 ^ 16 % 512) ≤ 256 := by
  simp only [shapeOk, Bool.and_eq_true, decide_eq_true_eq, beq_iff_eq]
  simp only [shapeRows, shapeCols]
  generalize w.toNat % 128 * (w.toNat / 2 ^ 16 % 512) = area
  omega

theorem vshape_sets (h : shapeOk (s.me.rg (lowG g)) = true) :
    Sets (.vshape g) s (fun c => { c with shape := s.me.rg (lowG g) }) := by
  refine runI_ok ?_
  simp only [M.run_bind, M.run_getMe, h, Bool.not_true, Bool.false_eq_true, if_false, M.run_modMe, M.run_advance, State.modCore_cur,
    State.modCore_modCore]

theorem vshape_traps (h : ¬shapeOk (s.me.rg (lowG g)) = true) : Traps (.vshape g) s .illegal (.word true) := by
  refine runI_trap ?_
  simp only [M.run_bind, M.run_getMe, Bool.eq_false_iff.2 h, Bool.not_false, if_true, M.run_raiseValue]

/-! ### VLVIS (R187, R195) -/

theorem exec_vlvis {b : Bool} {l : Label} (hvq : s.me.vq = []) (hn : n ≠ 0) (hvisible : visible (s.me.lv v) s = .ok b t)
    (hlabel : formLabel [] t = .ok l u) :
    exec (.vlvis n v) s = .next (u.modCore u.cur (fun c => ((c.wp n (if b then BitVec.allOnes 256 else 0)).wpl n l).past)) := by
  have hready : predReady n s = .ok () s := by
    rw [predReady, M.bind_ok s s (M.run_getMe s)]
    exact needs_ok (by simp [hvq])
  refine runI_ok ?_
  simp only [M.run_bind, hready, M.run_getMe, hvisible, setPred, hn, ne_eq, not_false_eq_true, if_true, hlabel, M.run_modMe, M.run_advance,
    State.modCore_cur, State.modCore_modCore]

/-- Settles O30. -/
theorem tilesAtIssue : Obligations.TilesAtIssue := by
  unfold Obligations.TilesAtIssue
  intro s t u g a n v b l c r k valid
  have hvalid : shapeOk (c.rg (lowG g)) = true ↔ valid := shapeOk_iff _
  refine ⟨fun i hi => ?issue, fun e rest k hk hpaused hvq hbeats => ?complete, fun h => vshape_sets (hvalid.2 h),
    fun h => vshape_traps (mt hvalid.1 h), gives_of_result rfl rfl, exec_vlvis⟩
  case issue =>
    have hexec : exec i s = runI i (predCount i g a) s := by
      rcases hi with rfl | rfl
      all_goals rfl
    refine ⟨fun hwait hroom hg hlabel => ?_, fun w hwait => sets_predCount hexec hwait⟩
    obtain ⟨x, hx, hpc, hrun, hres, hformed, e, hvq, hop, hcount, hbeats⟩ := exec_predCount hexec hwait hroom hg hlabel
    refine ⟨x, hx, hpc, hrun, hres, hformed, by rw [hvq, List.map_append, List.map_singleton, hop], fun e' he' => ?_⟩
    rw [hvq, List.mem_append, List.mem_singleton] at he'
    rcases he' with he' | rfl
    · exact .inl he'
    · exact .inr ⟨hop, hcount, hbeats⟩
  case complete =>
    intro set tells
    have htells {m : Nat} (hstore : storeElems k (s.core k) e = none)
        (hdata : (s.core k).tileData e = { s.core k with wait := .granted (BitVec.ofNat 64 m) }) : tells m :=
      (exec_tileComplete hk hpaused hvq hbeats hstore).trans (congrArg _ (State.modCore_congr (by rw [hdata])))
    refine ⟨fun hop => htells (by rw [storeElems, hop]) (by rw [Core.tileData, hop]),
      fun hop => ⟨_, htells (by rw [storeElems, hop]) (by rw [Core.tileData, hop]), find?_range_getD set e.count⟩⟩

end Sys2Proof.Machine
end

section
/-! PROOFS. The elements of a tile (R24, R116, R120): what stands at a position after elements are put side by side, and the flags and the
modes of the positions. -/

open Sys2Proof.Claims

namespace Sys2Proof.Machine

/-! ### Elements side by side -/

section
variable (b : Nat)

theorem elem_eq_elemAt (t : Tile) (e : Nat) : elem t b e = elemAt t.toNat b e := rfl

theorem elemAt_lt (x e : Nat) : elemAt x b e < 2 ^ b := Nat.mod_lt _ (Nat.two_pow_pos b)

/-- Behind the highest bit of a number its elements are zero. -/
theorem elemAt_of_lt {x n e : Nat} (hx : x < 2 ^ n) (hn : n ≤ b * e) : elemAt x b e = 0 := by
  rw [elemAt, Nat.div_eq_of_lt (Nat.lt_of_lt_of_le hx (Nat.pow_le_pow_right Nat.two_pos hn)), Nat.zero_mod]

/-- An element that lies within the n bits of a vector is that of the number. -/
theorem elemAt_ofNat {x n e : Nat} (h : b * e + b ≤ n) : elemAt (BitVec.ofNat n x).toNat b e = elemAt x b e := by
  obtain ⟨k, rfl⟩ := Nat.exists_eq_add_of_le h
  rw [BitVec.toNat_ofNat, elemAt, elemAt, show b * e + b + k = b * e + (b + k) by omega, Nat.pow_add, Nat.mod_mul_right_div_self, Nat.pow_add,
    Nat.mod_mul_right_mod]

theorem elemAt_ofNat_of_lt {x m n e : Nat} (hx : x < 2 ^ n) (hn : n ≤ b * e) : elemAt (BitVec.ofNat m x).toNat b e = 0 := by
  rw [BitVec.toNat_ofNat]
  exact elemAt_of_lt b (Nat.lt_of_le_of_lt (Nat.mod_le _ _) hx) hn

theorem packElems_lt (l : List Nat) : packElems b l < 2 ^ (b * l.length) := by
  induction l with
  | nil => simp [packElems]
  | cons x r ih =>
    have hx : x % 2 ^ b < 2 ^ b := Nat.mod_lt _ (Nat.two_pow_pos b)
    rw [packElems, List.length_cons, Nat.mul_succ, Nat.add_comm (b * _), Nat.pow_add]
    calc x % 2 ^ b + 2 ^ b * packElems b r < 2 ^ b + 2 ^ b * packElems b r := Nat.add_lt_add_right hx _
      _ = 2 ^ b * (packElems b r + 1) := by ring
      _ ≤ 2 ^ b * 2 ^ (b * r.length) := Nat.mul_le_mul_left _ ih

theorem elemAt_packElems (l : List Nat) (k : Nat) : elemAt (packElems b l) b k = l.getD k 0 % 2 ^ b := by
  induction l generalizing k with
  | nil => simp [packElems, elemAt]
  | cons x r ih =>
    cases k with
    | zero => simp [packElems, elemAt]
    | succ k =>
      have hx : x % 2 ^ b < 2 ^ b := Nat.mod_lt _ (Nat.two_pow_pos b)
      have htail : packElems b (x :: r) / 2 ^ b = packElems b r := by
        rw [packElems, Nat.add_mul_div_left _ _ (Nat.two_pow_pos b), Nat.div_eq_of_lt hx, Nat.zero_add]
      rw [List.getD_cons_succ, ← ih, elemAt, Nat.mul_succ, Nat.add_comm, Nat.pow_add, ← Nat.div_div_eq_div_mul, htail]
      rfl

end

/-! ### A tile with elements put into it (R120) -/

section
variable (old : Tile) {b : Nat} (l : List (Option Nat))

/-- The elements that are put, with one more where the last byte would be half a byte. -/
def padded (b : Nat) (l : List (Option Nat)) : List (Option Nat) := if b = 4 && l.length % 2 == 1 then l ++ [none] else l

theorem padded_length : b * (padded b l).length ≤ 8 * ((l.length * b + 7) / 8) := by
  unfold padded
  split
  case isTrue h =>
    simp only [Bool.and_eq_true, decide_eq_true_eq, beq_iff_eq] at h
    obtain ⟨rfl, hodd⟩ := h
    rw [List.length_append, List.length_singleton]
    omega
  case isFalse h =>
    rw [Nat.mul_comm]
    omega

theorem padded_getElem? {k : Nat} (hk : k < l.length) : (padded b l)[k]? = l[k]? := by
  unfold padded
  split
  · exact List.getElem?_append_left hk
  · rfl

theorem putElems_eq : putElems old b l =
    BitVec.ofNat 2048 (packElems b ((padded b l).zipIdx.map (fun e => e.1.getD (elemAt old.toNat b e.2)))) := rfl

/-- A position that is put holds the element, or keeps the old one. -/
theorem elem_putElems (hfits : l.length * b ≤ 2048) {k : Nat} (hk : k < l.length) :
    elem (putElems old b l) b k = (l[k].getD (elem old b k)) % 2 ^ b := by
  have hpad : k < (padded b l).length := by
    unfold padded
    split
    · rw [List.length_append]; omega
    · exact hk
  have hin : b * k + b ≤ 2048 := by
    calc b * k + b = (k + 1) * b := by ring
      _ ≤ l.length * b := Nat.mul_le_mul_right b hk
      _ ≤ 2048 := hfits
  rw [elem_eq_elemAt, putElems_eq, elemAt_ofNat b hin, elemAt_packElems]
  congr 1
  rw [List.getD_eq_getElem?_getD, List.getElem?_map, List.getElem?_zipIdx, padded_getElem? l hk, List.getElem?_eq_getElem hk]
  simp [elem_eq_elemAt]

/-- The bytes behind the elements are zero (R120). -/
theorem elem_putElems_behind {j : Nat} (hj : (l.length * b + 7) / 8 ≤ j) : elem (putElems old b l) 8 j = 0 := by
  have hlt := packElems_lt b ((padded b l).zipIdx.map (fun e => e.1.getD (elemAt old.toNat b e.2)))
  rw [List.length_map, List.length_zipIdx] at hlt
  exact elemAt_ofNat_of_lt 8 hlt (Nat.le_trans (padded_length l) (Nat.mul_le_mul_left 8 hj))

end

/-- The first bits of a predicate. -/
theorem getLsbD_predOf (l : List Bool) {j : Nat} (hj : j < 256) : (predOf l).getLsbD j = l.getD j false := by
  have hbit := elemAt_packElems 1 (l.map (fun b => b.toNat)) j
  rw [elemAt, Nat.one_mul, pow_one] at hbit
  rw [predOf, BitVec.getLsbD_ofNat, decide_eq_true hj, Bool.true_and, Nat.testBit_eq_decide_div_mod_eq, hbit]
  simp only [List.getD_eq_getElem?_getD, List.getElem?_map]
  cases l[j]? with
  | none => rfl
  | some b => cases b <;> rfl

/-! ### Flags (R35) and modes (R31) of the positions -/

theorem getLsbD_foldl_or (l : List Flags) (a : Flags) (j : Nat) :
    (l.foldl (fun a b => a ||| b) a).getLsbD j = (a.getLsbD j || l.any (fun f => f.getLsbD j)) := by
  induction l generalizing a with
  | nil => simp
  | cons f r ih => rw [List.foldl_cons, ih, BitVec.getLsbD_or, List.any_cons, Bool.or_assoc]

theorem getLsbD_joinFlags (l : List Flags) (j : Nat) : (joinFlags l).getLsbD j = l.any (fun f => f.getLsbD j) := by
  rw [joinFlags, getLsbD_foldl_or, show (0 : Flags) = 0#5 from rfl, BitVec.getLsbD_zero, Bool.false_or]

theorem Core.getLsbD_accrue (c : Core) (f : Flags) (j : Nat) :
    (c.accrue f).fflags.getLsbD j = (c.fflags.getLsbD j || f.getLsbD j) := by
  rw [Core.accrue, BitVec.getLsbD_or, BitVec.getLsbD_setWidth]
  by_cases hj : j < 64
  · rw [decide_eq_true hj, Bool.true_and]
  · rw [BitVec.getLsbD_of_ge f j (by omega), Bool.and_false]

theorem modesOf_getElem? (frm n k : Nat) (seed : Word) (hk : k < n) :
    (modesOf frm seed n)[k]? = some (rmode frm (seedSteps k seed)) := by
  induction n generalizing k seed with
  | zero => omega
  | succ n ih =>
    cases k with
    | zero => rfl
    | succ k => rw [modesOf, List.getElem?_cons_succ, ih k _ (by omega)]; rfl

/-- The mode of a position (R31). -/
theorem VEntry.modes_getD (e : VEntry) {k : Nat} (hk : k < e.rows * e.cols) : e.modes.getD k .rne = drawn e k := by
  rw [List.getD_eq_getElem?_getD, VEntry.modes, modesOf_getElem? _ _ _ _ (show k < e.count from hk)]
  rfl

/-! ### Tile and predicate registers -/

theorem Core.rv_wv_ne (c : Core) {r d : VReg} (h : r ≠ d) (t : Tile) : (c.wv d t).rv r = c.rv r := by
  have hne : d.toNat ≠ r.toNat := fun he => h (BitVec.eq_of_toNat_eq he.symm)
  simp [Core.wv, Core.rv, hne]

theorem Core.rp_wp_same (c : Core) {q : PReg} (h : q ≠ 0) (v : Pred) : (c.wp q v).rp q = v := by
  rw [Core.wp, if_neg h, Core.rp, if_neg h]
  exact Vector.getElem_set_self _

theorem Core.rp_wp_ne (c : Core) {r q : PReg} (h : r ≠ q) (v : Pred) : (c.wp q v).rp r = c.rp r := by
  have hne : q.toNat ≠ r.toNat := fun he => h (BitVec.eq_of_toNat_eq he.symm)
  by_cases hq : q = 0
  · rw [Core.wp, if_pos hq]
  · rw [Core.wp, if_neg hq, Core.rp, Core.rp]
    split
    · rfl
    · exact Vector.getElem_set_ne (by omega) _ hne

end Sys2Proof.Machine
end

section
/-! PROOFS. What the head of the vector queue writes (R120, R127 to R134, R139 to R142).

`completes_mapTile` and `completes_fillTile` say once what results at the positions of a predicate, or at all positions, leave; an
instruction is one of them, with the function of its elements. -/

open Sys2Proof.Claims

namespace Sys2Proof.Machine

/-- A test of the elements depends on it at them alone. -/
theorem any_congr_mem {α : Type} {l : List α} {f g : α → Bool} (h : ∀ x ∈ l, f x = g x) : l.any f = l.any g := by
  induction l with
  | nil => rfl
  | cons x r ih => rw [List.any_cons, List.any_cons, h x (by simp), ih fun y hy => h y (by simp [hy])]

/-- The elements of a list of results, some present where the test holds. -/
theorem map_fst_ite (l : List Nat) (on : Nat → Bool) (g : Nat → Nat × Flags) :
    (l.map (fun k => if on k then some (g k) else none)).map (Option.map (·.1)) = l.map (fun k => if on k then some (g k).1 else none) := by
  rw [List.map_map]
  refine List.map_congr_left fun k _ => ?_
  rw [Function.comp_apply]
  split
  all_goals rfl

section
variable {s : State} {n : Nat} {e : VEntry} {rest : List VEntry} {w : Nat} {d : VReg} {i : Instr} {f g : Nat → Nat × Flags}
variable (hn : n < nCores) (hpaused : (s.core n).paused = []) (hvq : (s.core n).vq = e :: rest) (hbeats : e.beats = 0)
include hn hpaused hvq hbeats

/-- A head that is no store leaves the queue and what it writes, for the instruction that it is. -/
theorem exec_tileComplete_of_op (hop : e.op = i) (hstore : storeElems n (s.core n) { e with op := i } = none) {c' : Core}
    (hdata : (s.core n).tileData { e with op := i } = c') :
    exec (.tileComplete n) s = .next (s.modCore n (fun _ => { c' with vq := rest })) := by
  subst hop hdata
  exact (exec_tileComplete hn hpaused hvq hbeats hstore).trans (congrArg _ (State.modCore_congr rfl))

/-- Results at the positions that on names, with the flags fl (R120). -/
theorem completes_of_results {on : Nat → Bool} {fl : Flags} (hfits : e.rows * e.cols * w ≤ 2048)
    (hstore : storeElems n (s.core n) { e with op := i } = none)
    (hdata : (s.core n).tileData { e with op := i } = ((s.core n).wv d (putElems ((s.core n).rv d) w
      ((List.range (e.rows * e.cols)).map (fun k => if on k then some (g k).1 else none)))).accrue fl)
    (hflags : ∀ j, fl.getLsbD j = (List.range (e.rows * e.cols)).any (fun k => on k && (g k).2.getLsbD j))
    (hval : ∀ k, k < e.rows * e.cols → (g k).1 % 2 ^ w = (f k).1 % 2 ^ w) (hfl : ∀ k, k < e.rows * e.cols → (g k).2 = (f k).2) :
    Completes s n e rest w d on i f := by
  intro hop
  refine ⟨_, exec_tileComplete_of_op hn hpaused hvq hbeats hop hstore hdata, ?_⟩
  dsimp only
  rw [State.modCore_core]
  refine ⟨rfl, fun k hk => ?elem, fun j hj => ?behind, fun r hr => ?other, rfl, rfl, rfl, rfl, fun j => ?flags⟩
  case elem =>
    change elem (((s.core n).wv d _).rv d) w k = _
    rw [Core.rv_wv, elem_putElems _ _ (by simpa using hfits) (by simpa using hk), List.getElem_map, List.getElem_range]
    split
    · exact hval k hk
    · exact Nat.mod_eq_of_lt (elemAt_lt w _ _)
  case behind =>
    change elem (((s.core n).wv d _).rv d) 8 j = 0
    rw [Core.rv_wv]
    exact elem_putElems_behind _ _ (by simpa using hj)
  case other => exact Core.rv_wv_ne _ hr _
  case flags =>
    change (Core.accrue _ fl).fflags.getLsbD j = _
    rw [Core.getLsbD_accrue, hflags]
    refine congrArg _ (any_congr_mem fun k hk => ?_)
    rw [hfl k (List.mem_range.1 hk)]

/-- Results at the positions where the governing predicate is 1. -/
theorem completes_mapTile {p : PReg} (hfits : e.rows * e.cols * w ≤ 2048)
    (hstore : storeElems n (s.core n) { e with op := i } = none)
    (hdata : (s.core n).tileData { e with op := i } = (s.core n).mapTile e w p d g)
    (hval : ∀ k, k < e.rows * e.cols → (g k).1 % 2 ^ w = (f k).1 % 2 ^ w) (hfl : ∀ k, k < e.rows * e.cols → (g k).2 = (f k).2) :
    Completes s n e rest w d (fun j => ((s.core n).rp p).getLsbD j) i f := by
  refine completes_of_results hn hpaused hvq hbeats hfits hstore
    (fl := joinFlags (((List.range e.count).map (fun k => if ((s.core n).rp p).getLsbD k then some (g k) else none)).filterMap
      (Option.map (·.2))))
    (hdata.trans ?_) (fun j => ?_) hval hfl
  · rw [Core.mapTile, map_fst_ite]
    rfl
  · rw [getLsbD_joinFlags, List.filterMap_map, List.any_filterMap]
    refine any_congr_mem fun k _ => ?_
    rw [Function.comp_apply]
    cases ((s.core n).rp p).getLsbD k
    all_goals simp

/-- Results at every position. -/
theorem completes_fillTile (hfits : e.rows * e.cols * w ≤ 2048) (hstore : storeElems n (s.core n) { e with op := i } = none)
    (hdata : (s.core n).tileData { e with op := i } = (s.core n).fillTile e w d g)
    (hval : ∀ k, k < e.rows * e.cols → (g k).1 % 2 ^ w = (f k).1 % 2 ^ w) (hfl : ∀ k, k < e.rows * e.cols → (g k).2 = (f k).2) :
    Completes s n e rest w d (fun _ => true) i f := by
  refine completes_of_results hn hpaused hvq hbeats hfits hstore (fl := joinFlags (((List.range e.count).map g).map (·.2)))
    (hdata.trans ?_) (fun j => ?_) hval hfl
  · rw [Core.fillTile, List.map_map]
    rfl
  · rw [getLsbD_joinFlags, List.map_map, List.any_map]
    rfl

end

end Sys2Proof.Machine
end

section
/-! PROOFS. What each instruction on elements gives at a position (R127 to R131, R133, R134, R139, R141, R142). -/

open Sys2Proof.Claims

namespace Sys2Proof.Machine

/-! ### Elements, in the words of the claims -/

theorem natAbs_eq_ite (x : Int) : (x.natAbs : Int) = if x < 0 then -x else x := by
  split
  all_goals omega

/-- VABS and VNEG on a pattern (R129). -/
theorem signElem_eq (f : Fmt) (neg : Bool) (x : Nat) : signElem f neg x =
    (if (f.decode x).isNan then f.nan else if neg then (x + 2 ^ (f.width - 1)) % 2 ^ f.width else x % 2 ^ (f.width - 1), 0) := by
  have hwidth : f.width ≠ 0 := by
    unfold Fmt.width
    omega
  unfold signElem
  split
  · rfl
  · simp only [mul_pow_sub_one hwidth]

theorem compared_eq (k : VCond) (t : ETy) (x y : Nat) :
    (if t.isInt then (intTest k (tyInt t x) (tyInt t y), 0)
      else floatTest k ((tyFmt (tyn t)).decode x) ((tyFmt (tyn t)).decode y)) = compared k t x y := by
  unfold compared
  split
  case isTrue =>
    cases k
    case ne => exact congrArg (fun b => (b, (0 : Flags))) (decide_not ..).symm
    all_goals rfl
  case isFalse =>
    cases k
    all_goals rfl

/-! ### A row's result (R133) -/

/-- One element alone: the float types of four bits have no NaN, neither as a value nor as a pattern. -/
theorem tyValue_float (t : ETy) (ht : t.isInt = false) (x : Nat) :
    (tyValue (tyn t) x).isNan = ((tyFmt (tyn t)).decode x).isNan ∧ (tyValue (tyn t) x).isSnan = ((tyFmt (tyn t)).decode x).isSnan := by
  cases t
  case s32 | n32 | s16 | n16 | s8 | n8 => exact absurd ht (by decide)
  all_goals exact ⟨rfl, rfl⟩

theorem redRow_singleton (o : VredOp) (t : ETy) (x : Nat) (m : RMode) : redRow o t [(x, m)] = rowResult o t [(x, m)] := by
  cases ht : t.isInt
  case true => simp [redRow, rowResult, ht]
  case false =>
    obtain ⟨hnan, hsnan⟩ := tyValue_float t ht x
    simp [redRow, rowResult, ht, hnan, hsnan, snanFlag]

theorem redRow_eq (o : VredOp) (t : ETy) (l : List (Nat × RMode)) : redRow o t l = rowResult o t l := by
  match l with
  | [] => rfl
  | [(x, m)] => exact redRow_singleton o t x m
  | (x, m) :: y :: r =>
    unfold redRow rowResult redStep
    cases t.isInt
    all_goals cases o <;> rfl

theorem filterMap_ite {α β : Type} (l : List α) (p : α → Bool) (f : α → β) :
    l.filterMap (fun x => if p x then some (f x) else none) = (l.filter p).map f := by
  induction l with
  | nil => rfl
  | cons x r ih => cases hx : p x <;> simp [hx, ih]

section
variable {s : State} {n : Nat} {e : VEntry} {rest : List VEntry} {w : Nat} {t : ETy} {p : PReg} {d : VReg} {i : Instr} {F : Nat → Nat × Flags}
variable (hn : n < nCores) (hpaused : (s.core n).paused = []) (hvq : (s.core n).vq = e :: rest) (hbeats : e.beats = 0)
variable (hfits : e.rows * e.cols * bitsOf t ≤ 2048) (hstore : storeElems n (s.core n) { e with op := i } = none)
include hn hpaused hvq hbeats hfits hstore

/-- An integer instruction with the operation f (R127). -/
theorem completes_intTile {a b : VReg} {f : Nat → Nat → Int}
    (hdata : (s.core n).tileData { e with op := i } = (s.core n).intTile { e with op := i } t p d a b f)
    (hF : ∀ k, F k = ((f (elem ((s.core n).rv a) (bitsOf t) k) (elem ((s.core n).rv b) (bitsOf t) k) % 2 ^ bitsOf t).toNat, 0)) :
    Completes s n e rest (bitsOf t) d (fun j => ((s.core n).rp p).getLsbD j) i F :=
  completes_mapTile hn hpaused hvq hbeats hfits hstore hdata (fun k _ => by rw [hF]; rfl) (fun k _ => by rw [hF])

/-- A float instruction: each position in its own mode (R129). -/
theorem completes_floatTile {a b : VReg} {f : Fmt → RMode → Nat → Nat → Nat → Nat × Flags}
    (hdata : (s.core n).tileData { e with op := i } = (s.core n).floatTile { e with op := i } t p d a b f)
    (hF : ∀ k, F k = f (tyFmt (tyn t)) (drawn e k) (elem ((s.core n).rv a) (bitsOf t) k) (elem ((s.core n).rv b) (bitsOf t) k)
      (elem ((s.core n).rv d) (bitsOf t) k)) :
    Completes s n e rest (bitsOf t) d (fun j => ((s.core n).rp p).getLsbD j) i F := by
  have hmode : ∀ k, k < e.rows * e.cols → f (tyFmt (tyn t)) (e.modes.getD k .rne) (elemAt ((s.core n).rv a).toNat (bitsOf t) k)
      (elemAt ((s.core n).rv b).toNat (bitsOf t) k) (elemAt ((s.core n).rv d).toNat (bitsOf t) k) = F k := fun k hk => by
    rw [e.modes_getD hk, hF]
    rfl
  exact completes_mapTile hn hpaused hvq hbeats hfits hstore hdata (fun k hk => congrArg (fun r => r.1 % 2 ^ bitsOf t) (hmode k hk))
    (fun k hk => congrArg (·.2) (hmode k hk))

/-- A special function (R142). -/
theorem completes_sfuTile {a : VReg} {k : Nat} (hdata : (s.core n).tileData { e with op := i } = (s.core n).sfuTile { e with op := i } k t p d a) :
    Completes s n e rest (bitsOf t) d (fun j => ((s.core n).rp p).getLsbD j) i
      (fun j => sfuElem k (tyn t) (elem ((s.core n).rv a) (bitsOf t) j)) :=
  completes_mapTile hn hpaused hvq hbeats hfits hstore hdata (fun _ _ => rfl) (fun _ _ => rfl)

end

section
variable {s : State} {n : Nat} {e : VEntry} {rest : List VEntry} {t : ETy}
variable (hn : n < nCores) (hpaused : (s.core n).paused = []) (hvq : (s.core n).vq = e :: rest) (hbeats : e.beats = 0)
variable (hfits : e.rows * e.cols * bitsOf t ≤ 2048)
include hn hpaused hvq hbeats hfits

/-- VRED: the row of position j starts there (R133). -/
theorem completes_vred (o : VredOp) (p : PReg) (d a : VReg) :
    Completes s n e rest (bitsOf t) d (fun _ => true) (.vred o t p d a) (fun j => if j % e.cols = 0 then
      rowResult o t (((List.range e.cols).filter (fun i => ((s.core n).rp p).getLsbD (j + i))).map
        (fun i => (elem ((s.core n).rv a) (bitsOf t) (j + i), drawn e (j + i)))) else (0, 0)) := by
  have hrow : ∀ j, j < e.rows * e.cols → j % e.cols = 0 → ∀ i, i < e.cols → j + i < e.rows * e.cols := fun j hj hz i hi => by
    obtain ⟨r, rfl⟩ := Nat.dvd_of_mod_eq_zero hz
    have hr : r < e.rows := Nat.lt_of_mul_lt_mul_left (a := e.cols) (by rwa [Nat.mul_comm e.cols e.rows])
    calc e.cols * r + i < e.cols * r + e.cols := Nat.add_lt_add_left hi _
      _ = (r + 1) * e.cols := by ring
      _ ≤ e.rows * e.cols := Nat.mul_le_mul_right _ hr
  have hsame : ∀ j, j < e.rows * e.cols →
      (if j % e.cols = 0 then redRow o t ((List.range e.cols).filterMap (fun k =>
        if ((s.core n).rp p).getLsbD (j / e.cols * e.cols + k) then
          some (elemAt ((s.core n).rv a).toNat (bitsOf t) (j / e.cols * e.cols + k), e.modes.getD (j / e.cols * e.cols + k) .rne)
        else none)) else (0, 0)) =
      if j % e.cols = 0 then rowResult o t (((List.range e.cols).filter (fun i => ((s.core n).rp p).getLsbD (j + i))).map
        (fun i => (elem ((s.core n).rv a) (bitsOf t) (j + i), drawn e (j + i)))) else (0, 0) := fun j hj => by
    split
    case isFalse => rfl
    case isTrue hz =>
      rw [Nat.div_mul_cancel (Nat.dvd_of_mod_eq_zero hz), filterMap_ite, redRow_eq]
      refine congrArg _ (List.map_congr_left fun i hi => ?_)
      rw [e.modes_getD (hrow j hj hz i (List.mem_range.1 (List.mem_filter.1 hi).1))]
      rfl
  exact completes_fillTile hn hpaused hvq hbeats hfits rfl rfl (fun j hj => congrArg (fun r => r.1 % 2 ^ bitsOf t) (hsame j hj))
    (fun j hj => congrArg (·.2) (hsame j hj))

/-- VDEQ: each code by its block's scale, in the mode of its position (R141). -/
theorem completes_vdeq (z : ETy) (d a b : VReg) :
    Completes s n e rest (bitsOf t) d (fun _ => true) (.vdeq t z d a b) (fun j => (tyFmt (tyn t)).arith (drawn e j)
      (FVal.mul (tyValue (tyn z) (elem ((s.core n).rv a) 4 j)) (scaleValue (elem ((s.core n).rv b) 8 (j / 64)))).1) := by
  have hsame : ∀ j, j < e.rows * e.cols → (tyFmt (tyn t)).arith (e.modes.getD j .rne)
      (FVal.mul (tyValue (tyn z) (elemAt ((s.core n).rv a).toNat 4 j)) (scaleValue (elemAt ((s.core n).rv b).toNat 8 (j / 64)))).1 =
      (tyFmt (tyn t)).arith (drawn e j)
        (FVal.mul (tyValue (tyn z) (elem ((s.core n).rv a) 4 j)) (scaleValue (elem ((s.core n).rv b) 8 (j / 64)))).1 := fun j hj => by
    rw [e.modes_getD hj]
    rfl
  exact completes_fillTile hn hpaused hvq hbeats hfits rfl rfl (fun j hj => congrArg (fun r => r.1 % 2 ^ bitsOf t) (hsame j hj))
    (fun j hj => congrArg (·.2) (hsame j hj))

/-- VCVT: each element converted in the mode of its position (R139). -/
theorem completes_vcvt (z : ETy) (p : PReg) (d a : VReg) :
    Completes s n e rest (bitsOf t) d (fun j => ((s.core n).rp p).getLsbD j) (.vcvt t z p d a)
      (fun j => if t = z then (elem ((s.core n).rv a) (bitsOf t) j, 0) else
        tyConvert (tyn t) (drawn e j) (tyValue (tyn z) (elem ((s.core n).rv a) (bitsOf z) j))) := by
  have hsame : ∀ j, j < e.rows * e.cols → cvtElem t z (e.modes.getD j .rne) (elemAt ((s.core n).rv a).toNat (bitsOf z) j) =
      if t = z then (elem ((s.core n).rv a) (bitsOf t) j, 0) else
        tyConvert (tyn t) (drawn e j) (tyValue (tyn z) (elem ((s.core n).rv a) (bitsOf z) j)) := fun j hj => by
    rw [e.modes_getD hj, cvtElem]
    split
    case isTrue h => rw [h]; rfl
    case isFalse => rfl
  exact completes_mapTile hn hpaused hvq hbeats hfits rfl rfl (fun j hj => congrArg (fun r => r.1 % 2 ^ bitsOf t) (hsame j hj))
    (fun j hj => congrArg (·.2) (hsame j hj))

/-- VSEL: an element of either tile (R131). -/
theorem completes_vsel (p : PReg) (d a b : VReg) :
    Completes s n e rest (bitsOf t) d (fun _ => true) (.vsel t p d a b)
      (fun j => (if ((s.core n).rp p).getLsbD j then elem ((s.core n).rv a) (bitsOf t) j else elem ((s.core n).rv b) (bitsOf t) j, 0)) := by
  refine completes_fillTile hn hpaused hvq hbeats hfits rfl rfl (fun j _ => ?_) (fun _ _ => rfl)
  change elemAt (if _ then _ else _) _ _ % _ = _
  split
  all_goals rfl

end

end Sys2Proof.Machine
end

section
/-! PROOFS. The completions that write a predicate, or codes and scales (R130, R132, R140, R195). -/

open Sys2Proof.Claims

namespace Sys2Proof.Machine

/-! ### Blocks of codes (R140) -/

/-- Lists of one length, one after another. -/
theorem getD_flatMap {α β : Type} {f : α → List β} {c : Nat} (hlen : ∀ x, (f x).length = c) (z : β) (l : List α) (j : Nat) {i : Nat}
    (hi : i < c) : (l.flatMap f).getD (c * j + i) z = (l[j]?.elim z fun x => (f x).getD i z) := by
  induction l generalizing j with
  | nil => rfl
  | cons x r ih =>
    rw [List.flatMap_cons]
    cases j with
    | zero =>
      rw [Nat.mul_zero, Nat.zero_add]
      exact List.getD_append _ _ _ _ (by rw [hlen x]; exact hi)
    | succ j =>
      rw [List.getD_append_right _ _ _ _ (by rw [hlen x, Nat.mul_succ]; omega), hlen x,
        show c * (j + 1) + i - c = c * j + i by rw [Nat.mul_succ]; omega, ih]
      rfl

theorem length_flatMap_of_length {α β : Type} {f : α → List β} {c : Nat} (hlen : ∀ x, (f x).length = c) (l : List α) :
    (l.flatMap f).length = c * l.length := by
  induction l with
  | nil => rfl
  | cons x r ih => rw [List.flatMap_cons, List.length_append, hlen, ih, List.length_cons, Nat.mul_succ, Nat.add_comm]

theorem nq4Nearest_lt (y : Ex) : nq4Nearest y < 16 := by
  refine List.foldlRecOn (motive := fun best => best < 16) (List.range 16) _ (by decide) fun best hbest c hc => ?_
  split
  · exact List.mem_range.1 hc
  · exact hbest

theorem nq4Quant_lt (v : FVal) : (nq4Quant v).1 < 16 := by
  cases v with
  | nan => exact Nat.zero_lt_succ _
  | inf neg => cases neg <;> decide
  | fin y =>
    change (if _ then 8 else if _ then 7 else nq4Nearest y) < 16
    split
    · decide
    · split
      · decide
      · exact nq4Nearest_lt y

theorem signBit_e2m1_le (neg : Bool) : fmtE2m1.signBit neg ≤ 8 := by cases neg <;> decide

theorem arith_e2m1_lt (mode : RMode) (v : FVal) : (fmtE2m1.arith mode v).1 < 16 := by
  cases v with
  | nan => exact Nat.zero_lt_succ _
  | inf neg =>
    change fmtE2m1.infinity neg < 16
    cases neg <;> decide
  | fin x =>
    have hsign := signBit_e2m1_le x.neg
    change (fmtE2m1.roundFin false mode x).1 < 16
    unfold Fmt.roundFin
    have hmax : fmtE2m1.maxBits = 7 := rfl
    have hinf : fmtE2m1.infBits.getD fmtE2m1.maxBits = 7 := rfl
    dsimp only
    rw [hinf, hmax, ite_self]
    split
    · dsimp only; omega
    · dsimp only; omega

theorem scaleCeil_lt (q : FVal) : (scaleCeil q).1 < 256 := by
  cases q with
  | nan => exact Nat.lt_succ_self _
  | inf => exact Nat.lt_succ_of_lt (Nat.lt_succ_self _)
  | fin x =>
    unfold scaleCeil
    dsimp only
    split
    · decide
    · split
      · decide
      · dsimp only; omega

/-- The code of a value under the scale s. -/
def codeOf (t : ETy) (mode : RMode) (v : FVal) (s : Nat) : Nat :=
  if t = .nq4 then (nq4Quant (scaledElem v s)).1 else (fmtE2m1.arith mode (scaledElem v s)).1

theorem codeOf_lt (t : ETy) (mode : RMode) (v : FVal) (s : Nat) : codeOf t mode v s < 16 := by
  unfold codeOf
  split
  · exact nq4Quant_lt _
  · exact arith_e2m1_lt _ _

/-- The scale of a block whose largest magnitude is top, no NaN. -/
def scaleOf (t : ETy) (top : FVal) : Nat :=
  (scaleCeil (match top, t with
    | .fin x, .nq4 => .fin x
    | .fin x, _ => .fin (x.div (Ex.ofInt 6))
    | y, _ => y)).1

section
variable (t : ETy) (l : List (FVal × RMode))

theorem quantBlock_nan (h : (blockMax (l.map (·.1))).isNan = true) : quantBlock t l = (0xFF, l.map (fun _ => 0), flagNV) :=
  if_pos h

theorem quantBlock_number (h : (blockMax (l.map (·.1))).isNan = false) :
    (quantBlock t l).1 = scaleOf t (blockMax (l.map (·.1))) ∧
    (quantBlock t l).2.1 = l.map (fun x => codeOf t x.2 x.1 (scaleOf t (blockMax (l.map (·.1))))) := by
  have hscale : scaleOf t (blockMax (l.map (·.1))) = (scaleCeil (if t = .nq4 then blockMax (l.map (·.1)) else match blockMax (l.map (·.1)) with
      | .fin x => .fin (x.div (Ex.ofInt 6))
      | v => v)).1 := by
    cases blockMax (l.map (·.1))
    all_goals cases t <;> rfl
  unfold quantBlock
  rw [if_neg (by simp [h]), hscale]
  refine ⟨rfl, ?_⟩
  dsimp only
  rw [List.map_map]
  refine List.map_congr_left fun x _ => ?_
  dsimp only [Function.comp_apply, codeOf]
  split
  all_goals rfl

theorem quantBlock_length : (quantBlock t l).2.1.length = l.length := by
  cases h : (blockMax (l.map (·.1))).isNan
  · rw [(quantBlock_number t l h).2, List.length_map]
  · rw [quantBlock_nan t l h, List.length_map]

end

/-- The values of a block of 64 positions, each with its mode. -/
def Core.blockOf (c : Core) (e : VEntry) (z : ETy) (a : VReg) (j : Nat) : List (FVal × RMode) :=
  (List.range 64).map (fun k => (tyValue (tyn z) (elem (c.rv a) (bitsOf z) (64 * j + k)), e.modes.getD (64 * j + k) .rne))

theorem Core.blockOf_length (c : Core) (e : VEntry) (z : ETy) (a : VReg) (j : Nat) : (c.blockOf e z a j).length = 64 := by
  rw [Core.blockOf, List.length_map, List.length_range]

/-- The codes of every block side by side, and the scales. -/
def Core.codesOf (c : Core) (e : VEntry) (t z : ETy) (a : VReg) : Tile :=
  BitVec.ofNat 2048 (packElems 4 ((List.range (e.rows * e.cols / 64)).flatMap (fun j => (quantBlock t (c.blockOf e z a j)).2.1)))
def Core.scalesOf (c : Core) (e : VEntry) (t z : ETy) (a : VReg) : Tile :=
  BitVec.ofNat 2048 (packElems 8 ((List.range (e.rows * e.cols / 64)).map (fun j => (quantBlock t (c.blockOf e z a j)).1)))
def Core.quantFlags (c : Core) (e : VEntry) (t z : ETy) (a : VReg) : Flags :=
  joinFlags ((List.range (e.rows * e.cols / 64)).map (fun j => (quantBlock t (c.blockOf e z a j)).2.2))

theorem Core.quantTile_eq (c : Core) (e : VEntry) (t z : ETy) (d a b : VReg) :
    c.quantTile e t z d a b = ((c.wv d (c.codesOf e t z a)).wv b (c.scalesOf e t z a)).accrue (c.quantFlags e t z a) := by
  rw [Core.quantTile, List.flatMap_map, List.map_map, List.map_map]
  rfl

section
variable (c : Core) (e : VEntry) (t z : ETy) (a : VReg) (hroom : e.rows * e.cols * 4 ≤ 2048)

theorem quantBlock_blockOf_length (j : Nat) : (quantBlock t (c.blockOf e z a j)).2.1.length = 64 := by
  rw [quantBlock_length, Core.blockOf_length]

theorem elem_scalesOf_behind {j : Nat} (hj : e.rows * e.cols / 64 ≤ j) : elem (c.scalesOf e t z a) 8 j = 0 := by
  refine elemAt_ofNat_of_lt 8 (packElems_lt 8 _) ?_
  rw [List.length_map, List.length_range]
  exact Nat.mul_le_mul_left 8 hj

theorem elem_codesOf_behind {j : Nat} (hj : e.rows * e.cols ≤ j) : elem (c.codesOf e t z a) 4 j = 0 := by
  refine elemAt_ofNat_of_lt 4 (packElems_lt 4 _) ?_
  rw [length_flatMap_of_length (quantBlock_blockOf_length c e t z a), List.length_range]
  omega

include hroom

theorem elem_scalesOf {j : Nat} (hj : j < e.rows * e.cols / 64) :
    elem (c.scalesOf e t z a) 8 j = (quantBlock t (c.blockOf e z a j)).1 % 2 ^ 8 := by
  rw [elem_eq_elemAt, Core.scalesOf, elemAt_ofNat 8 (by omega), elemAt_packElems, List.getD_eq_getElem?_getD, List.getElem?_map,
    List.getElem?_range hj]
  rfl

theorem elem_codesOf {j i : Nat} (hj : j < e.rows * e.cols / 64) (hi : i < 64) :
    elem (c.codesOf e t z a) 4 (64 * j + i) = (quantBlock t (c.blockOf e z a j)).2.1.getD i 0 % 2 ^ 4 := by
  rw [elem_eq_elemAt, Core.codesOf, elemAt_ofNat 4 (by omega), elemAt_packElems,
    getD_flatMap (quantBlock_blockOf_length c e t z a) 0 _ _ hi, List.getElem?_range hj]
  rfl

end

/-- What a block leaves, in the words of the claim. -/
theorem quantBlock_blockOf (c : Core) (e : VEntry) (t z : ETy) (a : VReg) {j : Nat} (hj : j < e.rows * e.cols / 64) :
    let val (i : Nat) : FVal := tyValue (tyn z) (elem (c.rv a) (bitsOf z) (64 * j + i))
    let top := blockMax ((List.range 64).map val)
    if top.isNan then quantBlock t (c.blockOf e z a j) = (0xFF, (c.blockOf e z a j).map (fun _ => 0), flagNV)
    else (quantBlock t (c.blockOf e z a j)).1 = scaleOf t top ∧
      ∀ i, i < 64 → (quantBlock t (c.blockOf e z a j)).2.1.getD i 0 = codeOf t (drawn e (64 * j + i)) (val i) (scaleOf t top) := by
  intro val top
  have hvals : (c.blockOf e z a j).map (·.1) = (List.range 64).map val := by
    rw [Core.blockOf, List.map_map]
    rfl
  cases htop : top.isNan
  case true => exact quantBlock_nan t _ (by rw [hvals]; exact htop)
  case false =>
    obtain ⟨hscale, hcodes⟩ := quantBlock_number t (c.blockOf e z a j) (by rw [hvals]; exact htop)
    rw [hvals] at hscale hcodes
    refine ⟨hscale, fun i hi => ?_⟩
    rw [hcodes, Core.blockOf, List.map_map, List.getD_eq_getElem?_getD, List.getElem?_map, List.getElem?_range hi, Option.map_some,
      Option.getD_some, Function.comp_apply, e.modes_getD (by omega)]

/-- What VCMP tests at a position, or nothing where its predicate is 0. -/
def Core.comparedAt (c : Core) (k : VCond) (t : ETy) (p : PReg) (a b : VReg) (i : Nat) : Bool × Flags :=
  if (c.rp p).getLsbD i then compared k t (elem (c.rv a) (bitsOf t) i) (elem (c.rv b) (bitsOf t) i) else (false, 0)

theorem Core.comparedAt_fst (c : Core) (k : VCond) (t : ETy) (p : PReg) (a b : VReg) (i : Nat) : (c.comparedAt k t p a b i).1 =
    ((c.rp p).getLsbD i && (compared k t (elem (c.rv a) (bitsOf t) i) (elem (c.rv b) (bitsOf t) i)).1) := by
  unfold Core.comparedAt
  cases (c.rp p).getLsbD i
  all_goals rfl

theorem Core.getLsbD_comparedAt_snd (c : Core) (k : VCond) (t : ETy) (p : PReg) (a b : VReg) (i j : Nat) :
    (c.comparedAt k t p a b i).2.getLsbD j =
    ((c.rp p).getLsbD i && (compared k t (elem (c.rv a) (bitsOf t) i) (elem (c.rv b) (bitsOf t) i)).2.getLsbD j) := by
  unfold Core.comparedAt
  cases (c.rp p).getLsbD i
  · exact BitVec.getLsbD_zero
  · rfl

theorem Core.cmpTile_eq (c : Core) (e : VEntry) (k : VCond) (t : ETy) (p q : PReg) (a b : VReg) : c.cmpTile e k t p q a b =
    (c.wp q (predOf ((List.range (e.rows * e.cols)).map (fun i => (c.comparedAt k t p a b i).1)))).accrue
      (joinFlags ((List.range (e.rows * e.cols)).map (fun i => (c.comparedAt k t p a b i).2))) := by
  have htest : (fun i => if (c.rp p).getLsbD i then
      (if t.isInt then (intTest k (tyInt t (elemAt (c.rv a).toNat (bitsOf t) i)) (tyInt t (elemAt (c.rv b).toNat (bitsOf t) i)), 0)
      else floatTest k ((tyFmt (tyn t)).decode (elemAt (c.rv a).toNat (bitsOf t) i))
        ((tyFmt (tyn t)).decode (elemAt (c.rv b).toNat (bitsOf t) i)))
      else (false, 0)) = c.comparedAt k t p a b := by
    funext i
    rw [compared_eq]
    rfl
  rw [Core.cmpTile]
  dsimp only
  rw [htest, List.map_map, List.map_map]
  rfl

section
variable {s : State} {n : Nat} {e : VEntry} {rest : List VEntry}
variable (hn : n < nCores) (hpaused : (s.core n).paused = []) (hvq : (s.core n).vq = e :: rest) (hbeats : e.beats = 0)
include hn hpaused hvq hbeats

/-- A predicate operation, or VLSET (R132, R195). -/
theorem exec_tileComplete_writes {i : Instr} {f : Core → Core} (hop : e.op = i)
    (hstore : storeElems n (s.core n) { e with op := i } = none) (hdata : (s.core n).tileData { e with op := i } = f (s.core n)) :
    exec (.tileComplete n) s = .next (s.modCore n (fun c => { f c with vq := rest })) :=
  (exec_tileComplete_of_op hn hpaused hvq hbeats hop hstore hdata).trans (congrArg _ (State.modCore_congr rfl))

theorem exec_vquant {t z : ETy} {d a b : VReg} (hop : e.op = .vquant t z d a b) (hdb : d ≠ b) :
    ∃ u, exec (.tileComplete n) s = .next u ∧ (u.core n).vq = rest ∧ (u.core n).vl = (s.core n).vl ∧ u.mem = s.mem ∧
      (∀ r, r ≠ d → r ≠ b → (u.core n).rv r = (s.core n).rv r) ∧ (u.core n).rv d = (s.core n).codesOf e t z a ∧
      (u.core n).rv b = (s.core n).scalesOf e t z a ∧
      ∀ f, (u.core n).fflags.getLsbD f = ((s.core n).fflags.getLsbD f || ((s.core n).quantFlags e t z a).getLsbD f) := by
  refine ⟨_, exec_tileComplete_of_op hn hpaused hvq hbeats hop rfl (Core.quantTile_eq (s.core n) _ t z d a b), ?_⟩
  rw [State.modCore_core]
  exact ⟨rfl, rfl, rfl, fun r hd hb => (Core.rv_wv_ne _ hb _).trans (Core.rv_wv_ne _ hd _),
    (Core.rv_wv_ne _ hdb _).trans (Core.rv_wv _ _ _), Core.rv_wv _ _ _, fun f => Core.getLsbD_accrue _ _ f⟩

/-- VQUANT: the codes into vd, the scales into vb (R140). -/
theorem completes_vquant {t z : ETy} {d a b : VReg} (hfits : e.rows * e.cols * bitsOf t ≤ 2048) (hop : e.op = .vquant t z d a b)
    (hdb : d ≠ b) :
    ∃ u, exec (.tileComplete n) s = .next u ∧ (u.core n).vq = rest ∧ (u.core n).vl = (s.core n).vl ∧ u.mem = s.mem ∧
      (∀ r, r ≠ d → r ≠ b → (u.core n).rv r = (s.core n).rv r) ∧
      (∀ j, e.rows * e.cols / 64 ≤ j → elem ((u.core n).rv b) 8 j = 0) ∧ (∀ j, e.rows * e.cols ≤ j → elem ((u.core n).rv d) 4 j = 0) ∧
      ∀ j, j < e.rows * e.cols / 64 →
        let val (i : Nat) : FVal := tyValue (tyn z) (elem ((s.core n).rv a) (bitsOf z) (64 * j + i))
        let top := blockMax ((List.range 64).map val)
        let sc := elem ((u.core n).rv b) 8 j
        let code (i : Nat) : Nat := elem ((u.core n).rv d) 4 (64 * j + i)
        if top.isNan then sc = 0xFF ∧ (∀ i, i < 64 → code i = 0) ∧ (u.core n).fflags.getLsbD 4 = true
        else sc = scaleOf t top ∧ ∀ i, i < 64 → code i = codeOf t (drawn e (64 * j + i)) (val i) sc := by
  have hpos : 4 ≤ bitsOf t := by
    rcases bitsOf_cases t with h | h | h | h
    all_goals omega
  have hroom : e.rows * e.cols * 4 ≤ 2048 := Nat.le_trans (Nat.mul_le_mul_left _ hpos) hfits
  obtain ⟨u, hexec, hq, hvl, hmem, hother, hd, hb, hflags⟩ := exec_vquant hn hpaused hvq hbeats hop hdb
  refine ⟨u, hexec, hq, hvl, hmem, hother, fun j hj => ?_, fun j hj => ?_, fun j hj => ?_⟩
  · rw [hb]
    exact elem_scalesOf_behind _ e t z a hj
  · rw [hd]
    exact elem_codesOf_behind _ e t z a hj
  · have hblock := quantBlock_blockOf (s.core n) e t z a hj
    have hscale := elem_scalesOf (s.core n) e t z a hroom hj
    have hcode := fun i (hi : i < 64) => elem_codesOf (s.core n) e t z a hroom hj hi
    intro val top sc code
    have hsc : sc = elem ((s.core n).scalesOf e t z a) 8 j := congrArg (elem · 8 j) hb
    have hcodes : ∀ i, code i = elem ((s.core n).codesOf e t z a) 4 (64 * j + i) := fun i => congrArg (elem · 4 (64 * j + i)) hd
    dsimp only at hblock
    split at hblock
    case isTrue hnan =>
      rw [if_pos hnan]
      refine ⟨?_, fun i hi => ?_, ?_⟩
      · rw [hsc, hscale, hblock]
        rfl
      · rw [hcodes, hcode i hi, hblock, List.getD_eq_getElem?_getD, List.getElem?_map]
        cases ((s.core n).blockOf e z a j)[i]?
        all_goals rfl
      · rw [hflags, Core.quantFlags, getLsbD_joinFlags, List.any_map]
        refine (congrArg _ ?_).trans (Bool.or_true _)
        refine List.any_eq_true.2 ⟨j, List.mem_range.2 hj, ?_⟩
        rw [Function.comp_apply, hblock]
        change flagNV.getLsbD 4 = true
        decide
    case isFalse hnumber =>
      rw [if_neg hnumber]
      obtain ⟨hs, hc⟩ := hblock
      have hthis : sc = scaleOf t top := by
        rw [hsc, hscale, hs]
        exact Nat.mod_eq_of_lt (scaleCeil_lt _)
      refine ⟨hthis, fun i hi => ?_⟩
      rw [hcodes, hcode i hi, hc i hi, hthis]
      exact Nat.mod_eq_of_lt (codeOf_lt _ _ _ _)

/-- VCMP: the predicate on the positions, and zero behind them (R130). -/
theorem completes_vcmp {k : VCond} {t : ETy} {p q : PReg} {a b : VReg} (hop : e.op = .vcmp k t p q a b) (hq : q ≠ 0) :
    ∃ u, exec (.tileComplete n) s = .next u ∧ (u.core n).vq = rest ∧ (u.core n).v = (s.core n).v ∧ (u.core n).pl = (s.core n).pl ∧
      u.mem = s.mem ∧ (∀ r, r ≠ q → (u.core n).rp r = (s.core n).rp r) ∧
      (∀ j, j < 256 → ((u.core n).rp q).getLsbD j = (decide (j < e.rows * e.cols) && ((s.core n).rp p).getLsbD j &&
        (compared k t (elem ((s.core n).rv a) (bitsOf t) j) (elem ((s.core n).rv b) (bitsOf t) j)).1)) ∧
      ∀ j, (u.core n).fflags.getLsbD j = ((s.core n).fflags.getLsbD j || (List.range (e.rows * e.cols)).any (fun i =>
        ((s.core n).rp p).getLsbD i && (compared k t (elem ((s.core n).rv a) (bitsOf t) i) (elem ((s.core n).rv b) (bitsOf t) i)).2.getLsbD j)) := by
  refine ⟨_, exec_tileComplete_of_op hn hpaused hvq hbeats hop rfl (Core.cmpTile_eq (s.core n) _ k t p q a b), ?_⟩
  rw [State.modCore_core]
  refine ⟨rfl, Core.wp_v _ _ _, Core.wp_pl _ _ _, rfl, fun r hr => Core.rp_wp_ne _ hr _, fun j hj => ?bits, fun j => ?flags⟩
  case bits =>
    change ((Core.wp (s.core n) q _).rp q).getLsbD j = _
    rw [Core.rp_wp_same _ hq, getLsbD_predOf _ hj, List.getD_eq_getElem?_getD, List.getElem?_map]
    by_cases hm : j < e.rows * e.cols
    · rw [List.getElem?_range hm, Option.map_some, Option.getD_some, Core.comparedAt_fst, decide_eq_true hm, Bool.true_and]
    · rw [List.getElem?_eq_none (by rw [List.length_range]; exact Nat.le_of_not_lt hm), decide_eq_false hm, Bool.false_and, Bool.false_and]
      rfl
  case flags =>
    change ((Core.wp (s.core n) q _).accrue _).fflags.getLsbD j = _
    rw [Core.getLsbD_accrue, Core.wp_fflags, getLsbD_joinFlags, List.any_map]
    exact congrArg _ (any_congr_mem fun i _ => Core.getLsbD_comparedAt_snd _ _ _ _ _ _ _ _)

end

end Sys2Proof.Machine
end

section
/-! PROOFS. A cycle of a vector unit that one core alone uses (R123, R124).

Every bidder but the lone core's has no head, so a grant goes to that core or to nobody: `Served` says where the core's entry stands
after some grants, and each step of the cycle keeps it. -/

open Sys2Proof.Claims

namespace Sys2Proof.Machine

/-! ### A queue of one lane-group instruction, and an empty one -/

section
variable {c : Core} {e : VEntry}

theorem Core.vhead_single (h : c.vq = [e]) : c.vhead = if e.beats = 0 then none else some 0 := by
  by_cases hb : e.beats = 0
  all_goals simp [Core.vhead, h, hb, List.find?]

theorem Core.vready_single {k : VClass} (h : c.vq = [e]) (hk : Instr.vclass e.op = k) :
    c.vready k = if e.beats = 0 then none else some 0 := by
  unfold Core.vready
  rw [Core.vhead_single h]
  by_cases hb : e.beats = 0
  all_goals simp [hb, Core.vclassAt, Core.vfree, h, hk]

theorem Core.vready_other {k : VClass} (h : c.vq = [e]) (hk : Instr.vclass e.op ≠ k) : c.vready k = none := by
  unfold Core.vready
  rw [Core.vhead_single h]
  by_cases hb : e.beats = 0
  all_goals simp [hb, Core.vclassAt, h, hk]

theorem Core.vready_empty (k : VClass) (h : c.vq = []) : c.vready k = none := by
  simp [Core.vready, Core.vhead, h]

theorem Core.vtake_single (k : VClass) (h : c.vq = [e]) : c.vtake k 0 = if e.beats = 0 then none else some 0 := by
  by_cases hb : e.beats = 0
  all_goals simp [Core.vtake, Core.beatsAt, Core.vclassAt, h, hb]

theorem Core.grantBeat_single (h : c.vq = [e]) : (c.grantBeat 0).vq = [{ e with beats := e.beats - 1 }] := by
  simp [Core.grantBeat, h]

end

/-! ### The bidders of a cycle -/

/-- After some grants core n's bidder holds entry e with b beats left, and no other has work. -/
def Served (n : Nat) (e : VEntry) (b : Nat) (l : List Bidder) : Prop :=
  ∀ x ∈ l, if x.n = n then x.core.vq = [{ e with beats := b }] ∧ (x.head = none → b = 0) ∧ (x.head = none ∨ x.head = some 0)
    else x.core.vq = [] ∧ x.head = none

section
variable {n : Nat} {e : VEntry} {b : Nat} {l : List Bidder}

theorem Served.want_self (h : Served n e b l) (k : VClass) {x : Bidder} (hx : x ∈ l) (hn : x.n = n) :
    x.want k = if b = 0 then none else some 0 := by
  have hserved := h x hx
  rw [if_pos hn] at hserved
  obtain ⟨hq, hnone, hhead⟩ := hserved
  unfold Bidder.want
  rcases hhead with hh | hh
  · rw [hh, if_pos (hnone hh)]
    rfl
  · rw [hh]
    exact Core.vtake_single k hq

theorem Served.want_other (h : Served n e b l) (k : VClass) {x : Bidder} (hx : x ∈ l) (hn : x.n ≠ n) : x.want k = none := by
  have hserved := h x hx
  rw [if_neg hn] at hserved
  rw [Bidder.want, hserved.2]
  rfl

theorem giveBeat_names (k : VClass) (sum : Int) (m : Nat) (l : List Bidder) : (giveBeat k sum m l).map (·.n) = l.map (·.n) := by
  rw [giveBeat, List.map_map]
  refine List.map_congr_left fun x _ => ?_
  rw [Function.comp_apply]
  split
  · split
    all_goals rfl
  · rfl

theorem Served.giveBeat (h : Served n e b l) (k : VClass) (sum : Int) : Served n e (b - 1) (giveBeat k sum n l) := by
  intro y hy
  obtain ⟨x, hx, rfl⟩ := List.mem_map.1 hy
  by_cases hn : x.n = n
  · have hserved := h x hx
    rw [if_pos hn] at hserved
    obtain ⟨hq, hnone, hhead⟩ := hserved
    rw [if_pos hn, h.want_self k hx hn]
    by_cases hb : b = 0
    · subst hb
      rw [if_pos rfl, if_pos hn]
      exact ⟨hq, hnone, hhead⟩
    · rw [if_neg hb, if_pos hn]
      exact ⟨Core.grantBeat_single hq, fun hh => absurd (hnone hh) hb, hhead⟩
  · have hserved := h x hx
    rw [if_neg hn] at hserved
    rw [if_neg hn, if_neg hn]
    exact hserved

theorem bestBidder_mem (k : VClass) {l : List Bidder} {x : Bidder} (h : bestBidder k l = some x) : x ∈ l ∧ (x.want k).isSome := by
  have hfold : ∀ (r : List Bidder) (m : Option Bidder), (∀ y, m = some y → y ∈ l ∧ (y.want k).isSome) →
      (∀ y ∈ r, y ∈ l ∧ (y.want k).isSome) → r.foldl (fun m b => match m with
        | none => some b
        | some x => if x.a < b.a then some b else some x) m = some x → x ∈ l ∧ (x.want k).isSome := by
    intro r
    induction r with
    | nil => exact fun m hm _ hx => hm x hx
    | cons y r ih =>
      refine fun m hm hr => ih _ (fun z hz => ?_) (fun z hz => hr z (List.mem_cons_of_mem _ hz))
      cases m with
      | none => exact Option.some.inj hz ▸ hr y List.mem_cons_self
      | some w =>
        dsimp only at hz
        split at hz
        · exact Option.some.inj hz ▸ hr y List.mem_cons_self
        · exact Option.some.inj hz ▸ hm w rfl
  exact hfold _ none (fun y hy => absurd hy (by simp)) (fun y hy => by simpa using hy) h

theorem bestBidder_none (k : VClass) {l : List Bidder} (h : bestBidder k l = none) : ∀ x ∈ l, x.want k = none := by
  have hsome : ∀ (r : List Bidder) (m : Bidder), r.foldl (fun m b => match m with
        | none => some b
        | some x => if x.a < b.a then some b else some x) (some m) ≠ none := by
    intro r
    induction r with
    | nil => exact fun m => by simp
    | cons y r ih =>
      intro m
      rw [List.foldl_cons]
      dsimp only
      split
      all_goals exact ih _
  intro x hx
  by_contra hw
  have hmem : x ∈ l.filter (fun b => (b.want k).isSome) := List.mem_filter.2 ⟨hx, by simpa [Option.isSome_iff_ne_none] using hw⟩
  unfold bestBidder at h
  cases hl : l.filter (fun b => (b.want k).isSome) with
  | nil => rw [hl] at hmem; exact absurd hmem (by simp)
  | cons y r =>
    rw [hl] at h
    exact hsome r y h

theorem shareOut_names (k : VClass) (sum : Int) (l : List Bidder) (m : Nat) : (shareOut k sum l m).map (·.n) = l.map (·.n) := by
  induction m generalizing l with
  | zero => rfl
  | succ m ih =>
    unfold shareOut
    split
    · rfl
    · rw [ih, giveBeat_names]

/-- What is left of the grants goes to the lone core, as far as it has beats left. -/
theorem Served.shareOut (h : Served n e b l) (hmem : n ∈ l.map (·.n)) (k : VClass) (sum : Int) (m : Nat) :
    Served n e (b - m) (shareOut k sum l m) := by
  induction m generalizing b l with
  | zero => exact h
  | succ m ih =>
    unfold Machine.shareOut
    split
    case h_1 hbest =>
      obtain ⟨x, hx, hn⟩ := List.mem_map.1 hmem
      have hzero : b = 0 := by
        by_contra hb
        have hwant := h.want_self k hx hn
        rw [bestBidder_none k hbest x hx, if_neg hb] at hwant
        exact absurd hwant (by simp)
      rw [hzero, Nat.zero_sub]
      exact hzero ▸ h
    case h_2 x hbest =>
      obtain ⟨hx, hwant⟩ := bestBidder_mem k hbest
      have hn : x.n = n := by
        by_contra hn
        rw [h.want_other k hx hn] at hwant
        exact absurd hwant (by simp)
      rw [hn, show b - (m + 1) = b - 1 - m by omega]
      exact ih (h.giveBeat k sum) (by rw [giveBeat_names]; exact hmem)

/-- The grants of cores that the cycle owes one: here they can be the lone core's alone. -/
theorem Served.late (k : VClass) (sum : Int) (late : List Nat) (hlate : ∀ x ∈ late, x = n) (m : Nat) (h : Served n e b l) :
    let r := late.foldl (fun (x : List Bidder × Nat) n => if x.2 = 0 then x else (Machine.giveBeat k sum n x.1, x.2 - 1)) (l, m)
    r.1.map (·.n) = l.map (·.n) ∧ Served n e (b - (m - r.2)) r.1 ∧ r.2 ≤ m := by
  induction late generalizing b l m with
  | nil => exact ⟨rfl, by simpa using h, Nat.le_refl m⟩
  | cons x late ih =>
    rw [List.foldl_cons]
    obtain rfl := hlate x List.mem_cons_self
    have hrest := fun y hy => hlate y (List.mem_cons_of_mem _ hy)
    dsimp only
    split
    case isTrue => exact ih hrest m h
    case isFalse hm =>
      obtain ⟨hnames, hserved, hle⟩ := ih hrest (m - 1) (h.giveBeat k sum)
      refine ⟨hnames.trans (giveBeat_names _ _ _ _), ?_, by omega⟩
      rwa [show ∀ r, r ≤ m - 1 → b - (m - r) = b - 1 - (m - 1 - r) by omega] 
      exact hle

/-- The owed grants and what is left after them. -/
theorem Served.grants (h : Served n e b l) (hmem : n ∈ l.map (·.n)) (k : VClass) (sum : Int) (late : List Nat) (hlate : ∀ x ∈ late, x = n)
    (m : Nat) :
    let r := late.foldl (fun (x : List Bidder × Nat) n => if x.2 = 0 then x else (Machine.giveBeat k sum n x.1, x.2 - 1)) (l, m)
    (Machine.shareOut k sum r.1 r.2).map (·.n) = l.map (·.n) ∧ Served n e (b - m) (Machine.shareOut k sum r.1 r.2) := by
  obtain ⟨hnames, hserved, hle⟩ := Served.late k sum late hlate m h
  have hend := hserved.shareOut (by rw [hnames]; exact hmem) k sum
    (late.foldl (fun (x : List Bidder × Nat) n => if x.2 = 0 then x else (Machine.giveBeat k sum n x.1, x.2 - 1)) (l, m)).2
  refine ⟨(shareOut_names _ _ _ _).trans hnames, ?_⟩
  rwa [Nat.sub_sub, Nat.sub_add_cancel hle] at hend

end

/-! ### A cycle of a resource -/

/-- The bidders at the start of a cycle, with counts A. -/
def bidders (k : VClass) (cores : List (Nat × Core × Int × Nat)) (a : Bidder → Int) : List Bidder :=
  (cores.map (fun x => (⟨x.1, x.2.1, x.2.1.vready k, x.2.2.1, x.2.2.2, false⟩ : Bidder))).map (fun b => { b with a := a b })

section
variable {k : VClass} {cores : List (Nat × Core × Int × Nat)} {a : Bidder → Int}

theorem bidders_names : (bidders k cores a).map (·.n) = cores.map (·.1) := by
  rw [bidders, List.map_map, List.map_map]
  rfl

theorem mem_bidders {y : Bidder} (hy : y ∈ bidders k cores a) : ∃ x ∈ cores, y.n = x.1 ∧ y.core = x.2.1 ∧ y.head = x.2.1.vready k := by
  obtain ⟨z, hz, rfl⟩ := List.mem_map.1 hy
  obtain ⟨x, hx, rfl⟩ := List.mem_map.1 hz
  exact ⟨x, hx, rfl, rfl, rfl⟩

theorem served_bidders {n : Nat} {e : VEntry} (hk : Instr.vclass e.op = k)
    (hcores : ∀ x ∈ cores, x.2.1.vq = if x.1 = n then [e] else []) : Served n e e.beats (bidders k cores a) := by
  intro y hy
  obtain ⟨x, hx, hname, hcore, hhead⟩ := mem_bidders hy
  have hq := hcores x hx
  rw [hname, hcore, hhead]
  split
  case isTrue hxn =>
    rw [if_pos hxn] at hq
    rw [Core.vready_single hq hk]
    refine ⟨hq, ?_⟩
    split
    case isTrue hb => exact ⟨fun _ => hb, .inl rfl⟩
    case isFalse => exact ⟨fun h => absurd h (by simp), .inr rfl⟩
  case isFalse hxn =>
    rw [if_neg hxn] at hq
    exact ⟨hq, Core.vready_empty k hq⟩

/-- Each ready core's count grows by its weight. -/
def Bidder.opening (b : Bidder) : Int := if b.head.isSome then b.a + 4 * b.core.vshare.toNat else 0

/-- The cores that have been ready for seven cycles without a grant. -/
def owed (l : List Bidder) : List Nat := (l.filter (fun b => b.head.isSome && 7 ≤ b.late)).map (·.n)

/-- A cycle: the owed grants, then what is left. -/
theorem cycleOf_eq (k : VClass) (m : Nat) (cores : List (Nat × Core × Int × Nat)) : ∃ sum : Int, cycleOf k m cores =
    (let r := (owed (bidders k cores Bidder.opening)).foldl (fun (x : List Bidder × Nat) n =>
        if x.2 = 0 then x else (giveBeat k sum n x.1, x.2 - 1)) (bidders k cores Bidder.opening, m)
     shareOut k sum r.1 r.2) := ⟨_, rfl⟩

/-- A cycle of m units over cores of which core n alone has work for them. -/
theorem served_cycleOf {n : Nat} {e : VEntry} (m : Nat) (hk : Instr.vclass e.op = k) (hn : n ∈ cores.map (·.1))
    (hcores : ∀ x ∈ cores, x.2.1.vq = if x.1 = n then [e] else []) :
    (cycleOf k m cores).map (·.n) = cores.map (·.1) ∧ Served n e (e.beats - m) (cycleOf k m cores) := by
  obtain ⟨sum, hcycle⟩ := cycleOf_eq k m cores
  have hserved := served_bidders (a := Bidder.opening) hk hcores
  have howed : ∀ x ∈ owed (bidders k cores Bidder.opening), x = n := fun x hx => by
    obtain ⟨y, hy, rfl⟩ := List.mem_map.1 hx
    obtain ⟨hy, hhead⟩ := List.mem_filter.1 hy
    by_contra hyn
    have hy := hserved y hy
    rw [if_neg hyn] at hy
    rw [hy.2] at hhead
    exact absurd hhead (by simp)
  have hgrants := hserved.grants (by rw [bidders_names]; exact hn) k sum _ howed m
  rw [bidders_names] at hgrants
  rw [hcycle]
  exact hgrants

/-- Where no bidder has a head there is nothing to share. -/
theorem shareOut_idle (sum : Int) {l : List Bidder} (h : ∀ x ∈ l, x.head = none) (m : Nat) : shareOut k sum l m = l := by
  cases m with
  | zero => rfl
  | succ m =>
    unfold shareOut
    split
    case h_1 => rfl
    case h_2 x hbest =>
      obtain ⟨hx, hwant⟩ := bestBidder_mem k hbest
      rw [Bidder.want, h x hx] at hwant
      exact absurd hwant (by simp)

/-- A cycle of a resource that no core has work for leaves every core as it is. -/
theorem idle_cycleOf (m : Nat) (hcores : ∀ x ∈ cores, x.2.1.vready k = none) :
    (cycleOf k m cores).map (·.n) = cores.map (·.1) ∧ ∀ y ∈ cycleOf k m cores, ∃ x ∈ cores, y.n = x.1 ∧ y.core = x.2.1 := by
  have hidle : ∀ y ∈ bidders k cores Bidder.opening, y.head = none := fun y hy => by
    obtain ⟨x, hx, _, _, hhead⟩ := mem_bidders hy
    rw [hhead, hcores x hx]
  have howed : owed (bidders k cores Bidder.opening) = [] := by
    rw [owed, List.filter_eq_nil_iff.2 fun y hy => by simp [hidle y hy]]
    rfl
  obtain ⟨sum, hcycle⟩ := cycleOf_eq k m cores
  rw [howed] at hcycle
  rw [hcycle.trans (shareOut_idle sum hidle m)]
  refine ⟨bidders_names, fun y hy => ?_⟩
  obtain ⟨x, hx, hn, hc, _⟩ := mem_bidders hy
  exact ⟨x, hx, hn, hc⟩

end

/-! ### The unit's cycle -/

/-- Cores set one after another: each holds what one of its settings gives, or what it held. -/
theorem foldl_setCore {P : Core → Prop} {m : Nat} (f : Bidder → Core) (l : List Bidder) (s : State)
    (hset : ∀ b ∈ l, b.n = m → P (f b)) (h : m ∈ l.map (·.n) ∨ P (s.core m)) : P ((l.foldl (fun s b => s.setCore b.n (f b)) s).core m) := by
  induction l generalizing s with
  | nil => simpa using h
  | cons b r ih =>
    rw [List.foldl_cons]
    refine ih _ (fun x hx => hset x (List.mem_cons_of_mem _ hx)) ?_
    by_cases hb : b.n = m
    · right
      rw [hb, State.setCore_core]
      exact hset b List.mem_cons_self hb
    · rw [State.setCore_core_ne _ _ (Ne.symm hb)]
      simpa [Ne.symm hb] using h

theorem foldl_setCore_mem (f : Bidder → Core) (l : List Bidder) (s : State) : (l.foldl (fun s b => s.setCore b.n (f b)) s).mem = s.mem := by
  induction l generalizing s with
  | nil => rfl
  | cons b r ih => exact ih _

theorem mem_unitCores {u m : Nat} : m ∈ (List.range 4).map (4 * u + ·) ↔ m / 4 = u := by
  rw [List.mem_map]
  constructor
  · rintro ⟨i, hi, rfl⟩
    have := List.mem_range.1 hi
    omega
  · intro h
    exact ⟨m % 4, List.mem_range.2 (by omega), by omega⟩

theorem Core.portCycle_of_idle {c : Core} (h : c.vready .port = none) : c.portCycle = c := by
  rw [Core.portCycle, h]

/-- The cores of unit u with counts a and cycles w in vain. -/
def State.unitCores (s : State) (u : Nat) (a : Core → Int) (w : Core → Nat) : List (Nat × Core × Int × Nat) :=
  ((List.range 4).map (4 * u + ·)).map (fun n => (n, s.core n, a (s.core n), w (s.core n)))

theorem State.unitCores_names (s : State) (u : Nat) (a : Core → Int) (w : Core → Nat) :
    (s.unitCores u a w).map (·.1) = (List.range 4).map (4 * u + ·) := by
  rw [State.unitCores, List.map_map]
  exact List.map_id _

theorem State.of_mem_unitCores {s : State} {u : Nat} {a : Core → Int} {w : Core → Nat} {x : Nat × Core × Int × Nat} (h : x ∈ s.unitCores u a w) :
    x.1 / 4 = u ∧ x.2.1 = s.core x.1 := by
  obtain ⟨i, hi, rfl⟩ := List.mem_map.1 h
  exact ⟨mem_unitCores.1 hi, rfl⟩

/-- The two halves of the unit's cycle: its lane groups, then its pipe and the ports. -/
def State.laneCycle (s : State) (u : Nat) : State :=
  (cycleOf .lane 4 (s.unitCores u Core.va Core.vstarve)).foldl (fun s b => s.setCore b.n { b.core with va := b.a, vstarve := b.starve }) s
def State.pipeCycle (s : State) (u : Nat) : State :=
  (cycleOf .sfu 1 (s.unitCores u Core.sfua Core.sfustarve)).foldl
    (fun s b => s.setCore b.n ({ b.core with sfua := b.a, sfustarve := b.starve }.portCycle)) s

theorem State.unitCycle_eq (s : State) (u : Nat) : s.unitCycle u = (s.laneCycle u).pipeCycle u := rfl

/-- The cores of the unit before and after a step of its cycle: core n holds e with b beats left, the others nothing. -/
def AloneIn (s : State) (u n : Nat) (e : VEntry) (b : Nat) : Prop :=
  ∀ m, m / 4 = u → (s.core m).vq = if m = n then [{ e with beats := b }] else []

section
variable {s : State} {u n : Nat} {e : VEntry} (hclass : Instr.vclass e.op = .lane)
include hclass

theorem AloneIn.laneCycle (hu : n / 4 = u) (h : AloneIn s u n e e.beats) : AloneIn (s.laneCycle u) u n e (e.beats - 4) := by
  intro m hm
  obtain ⟨hnames, hserved⟩ := served_cycleOf 4 (cores := s.unitCores u Core.va Core.vstarve) hclass
    (by rw [State.unitCores_names]; exact mem_unitCores.2 hu) (fun x hx => by
      obtain ⟨hx, hcore⟩ := State.of_mem_unitCores hx
      rw [hcore]
      exact h x.1 hx)
  rw [State.unitCores_names] at hnames
  refine foldl_setCore (P := fun c => c.vq = if m = n then [{ e with beats := e.beats - 4 }] else []) _ _ s (fun b hb hbm => ?_)
    (.inl (by rw [hnames]; exact mem_unitCores.2 hm))
  have hb := hserved b hb
  rw [hbm] at hb
  split at hb
  case isTrue hmn => rw [if_pos hmn]; exact hb.1
  case isFalse hmn => rw [if_neg hmn]; exact hb.1

theorem AloneIn.vready {b : Nat} (h : AloneIn s u n e b) {k : VClass} (hk : k ≠ .lane) {m : Nat} (hm : m / 4 = u) :
    (s.core m).vready k = none := by
  have hq := h m hm
  split at hq
  · exact Core.vready_other hq (by rw [hclass]; exact hk.symm)
  · exact Core.vready_empty k hq

theorem AloneIn.pipeCycle {b : Nat} (h : AloneIn s u n e b) : AloneIn (s.pipeCycle u) u n e b := by
  intro m hm
  obtain ⟨hnames, hcores⟩ := idle_cycleOf (k := .sfu) 1 (cores := s.unitCores u Core.sfua Core.sfustarve) (fun x hx => by
    obtain ⟨hx, hcore⟩ := State.of_mem_unitCores hx
    rw [hcore]
    exact h.vready hclass (by decide) hx)
  rw [State.unitCores_names] at hnames
  refine foldl_setCore (P := fun c => c.vq = if m = n then [{ e with beats := b }] else []) _ _ s (fun b hb hbm => ?_)
    (.inl (by rw [hnames]; exact mem_unitCores.2 hm))
  obtain ⟨x, hx, hn, hc⟩ := hcores b hb
  have hcore : b.core = s.core m := by rw [hc, (State.of_mem_unitCores hx).2, ← hn, hbm]
  have hidle : ({ b.core with sfua := b.a, sfustarve := b.starve } : Core).vready .port = none := by
    rw [hcore]
    exact h.vready hclass (by decide) hm
  rw [Core.portCycle_of_idle hidle, hcore]
  exact h m hm

end

theorem State.unitCycle_mem (s : State) (u : Nat) : (s.unitCycle u).mem = s.mem := by
  rw [State.unitCycle_eq, State.pipeCycle, foldl_setCore_mem, State.laneCycle, foldl_setCore_mem]

/-- LANE_GROUP_GRANT of a unit that one core alone uses: at most four beats of its instruction (R123). -/
theorem exec_laneGroupGrant {s : State} {u n : Nat} {e : VEntry} (hunit : u < nCores / 4) (hu : n / 4 = u) (hvq : (s.core n).vq = [e])
    (hclass : Instr.vclass e.op = .lane) (hothers : ∀ m, m / 4 = u → m ≠ n → (s.core m).vq = []) :
    ∃ t, exec (.laneGroupGrant u) s = .next t ∧ (t.core n).vq = [{ e with beats := e.beats - min 4 e.beats }] ∧
      (∀ m, m / 4 = u → m ≠ n → (t.core m).vq = []) ∧ t.mem = s.mem := by
  have hbefore : AloneIn s u n e e.beats := fun m hm => by
    split
    case isTrue hmn => rw [hmn]; exact hvq
    case isFalse hmn => exact hothers m hm hmn
  have hafter : AloneIn (s.unitCycle u) u n e (e.beats - 4) :=
    State.unitCycle_eq s u ▸ AloneIn.pipeCycle hclass (AloneIn.laneCycle hclass hu hbefore)
  have hexec : exec (.laneGroupGrant u) s = onUnits (u < nCores / 4) (fun s => s.unitCycle u) s := rfl
  refine ⟨s.unitCycle u, ?_, ?_, fun m hm hmn => ?_, State.unitCycle_mem s u⟩
  · rw [hexec, decide_eq_true hunit, onUnits_true]
  · rw [hafter n hu, if_pos rfl, show e.beats - min 4 e.beats = e.beats - 4 by omega]
  · rw [hafter m hm, if_neg hmn]

end Sys2Proof.Machine
end

section
/-! PROOFS. The words that a tile store writes (R137, R138, R180).

Memory is read bit by bit: bit b is bit b % 8 of byte b / 8. A store's words are described by the map of the bits that they write,
`Puts`, and adding an element to them writes its bits over that map. -/

open Sys2Proof.Claims

namespace Sys2Proof.Machine

/-! ### Bits of memory -/

def memBit (m : Memory) (b : Nat) : Bool := (m.get 0 (b / 8)).getLsbD (b % 8)

theorem testBit_readNat (m : Memory) (k n b : Nat) : (readNat m k n).testBit b = (decide (b < 8 * n) && memBit m (8 * k + b)) := by
  induction n generalizing k b with
  | zero => simp [readNat]
  | succ n ih =>
    have hbyte : (m.get 0 k).toNat < 2 ^ 8 := (m.get 0 k).isLt
    rw [readNat, Nat.add_comm, show (256 : Nat) = 2 ^ 8 from rfl, Nat.testBit_two_pow_mul_add _ hbyte, ih]
    split
    case isTrue hb =>
      rw [decide_eq_true (show b < 8 * (n + 1) by omega), Bool.true_and, memBit, show (8 * k + b) / 8 = k by omega,
        show (8 * k + b) % 8 = b by omega]
      exact (BitVec.getLsbD_eq_getElem hb).symm ▸ rfl
    case isFalse hb =>
      rw [show 8 * (k + 1) + (b - 8) = 8 * k + b by omega]
      congr 1
      exact decide_eq_decide.2 (by omega)

theorem readNat_lt (m : Memory) (k n : Nat) : readNat m k n < 2 ^ (8 * n) := by
  induction n generalizing k with
  | zero => exact Nat.one_pos
  | succ n ih =>
    have hbyte : (m.get 0 k).toNat < 256 := (m.get 0 k).isLt
    have hrest := ih (k + 1)
    rw [readNat, Nat.mul_succ, Nat.pow_add]
    omega

theorem memBit_writeNat {m : Memory} (h : Memory.wf m) (k v n b : Nat) :
    memBit (writeNat m k v n) b = if 8 * k ≤ b ∧ b < 8 * (k + n) then v.testBit (b - 8 * k) else memBit m b := by
  induction n generalizing m k v with
  | zero => rw [if_neg (by omega)]; rfl
  | succ n ih =>
    rw [writeNat, ih (AMap.wf_set h _ _)]
    by_cases hlow : b / 8 = k
    · rw [if_neg (by omega), if_pos (by omega), memBit, hlow, AMap.get_set h, if_pos rfl, BitVec.getLsbD_ofNat,
        show (256 : Nat) = 2 ^ 8 from rfl, Nat.testBit_mod_two_pow, show b - 8 * k = b % 8 by omega]
      simp [Nat.mod_lt b]
    · have hsame : memBit (m.set 0 k (BitVec.ofNat 8 (v % 256))) b = memBit m b := by
        rw [memBit, AMap.get_set h, if_neg hlow]
        rfl
      rw [hsame]
      by_cases hin : 8 * k ≤ b ∧ b < 8 * (k + (n + 1))
      · rw [if_pos hin, if_pos (by omega), show (256 : Nat) = 2 ^ 8 from rfl, Nat.testBit_div_two_pow]
        congr 1
        omega
      · rw [if_neg hin, if_neg (by omega)]

/-- Bytes whose bits are a number's. -/
theorem readNat_eq_of_bits {m : Memory} {k n x : Nat} (hx : x < 2 ^ (8 * n)) (h : ∀ b, b < 8 * n → memBit m (8 * k + b) = x.testBit b) :
    readNat m k n = x := by
  refine Nat.eq_of_testBit_eq fun b => ?_
  rw [testBit_readNat]
  by_cases hb : b < 8 * n
  · rw [decide_eq_true hb, Bool.true_and, h b hb]
  · rw [decide_eq_false hb, Bool.false_and]
    exact (Nat.testBit_lt_two_pow (Nat.lt_of_lt_of_le hx (Nat.pow_le_pow_right Nat.two_pos (Nat.le_of_not_lt hb)))).symm

/-- A byte whose bits stay. -/
theorem get_eq_of_bits {m m' : Memory} {a : Nat} (h : ∀ i, i < 8 → memBit m (8 * a + i) = memBit m' (8 * a + i)) :
    m.get 0 a = m'.get 0 a := by
  refine BitVec.eq_of_getLsbD_eq fun i hi => ?_
  have hbit := h i hi
  rwa [memBit, memBit, show (8 * a + i) / 8 = a by omega, show (8 * a + i) % 8 = i by omega] at hbit

/-- Bytes a to a + c of a word are those of its location. -/
theorem readNat_part (m : Memory) (k : Nat) {n a c : Nat} (h : a + c ≤ n) :
    readNat m k n / 2 ^ (8 * a) % 2 ^ (8 * c) = readNat m (k + a) c := by
  refine (readNat_eq_of_bits (Nat.mod_lt _ (Nat.two_pow_pos _)) fun b hb => ?_).symm
  rw [Nat.testBit_mod_two_pow, Nat.testBit_div_two_pow, testBit_readNat, decide_eq_true hb, decide_eq_true (show b + 8 * a < 8 * n by omega),
    Bool.true_and, Bool.true_and]
  congr 1
  omega

/-! ### Nibbles replaced, and a word mixed -/

theorem testBit_nibSet (x i n v j : Nat) :
    (nibSet x i n v).testBit j = if 4 * i ≤ j ∧ j < 4 * (i + n) then v.testBit (j - 4 * i) else x.testBit j := by
  have hpow : ∀ k, 16 ^ k = 2 ^ (4 * k) := fun k => by rw [Nat.pow_mul]
  have hlo : x % 2 ^ (4 * i) < 2 ^ (4 * i) := Nat.mod_lt _ (Nat.two_pow_pos _)
  have hmid : v % 2 ^ (4 * n) < 2 ^ (4 * n) := Nat.mod_lt _ (Nat.two_pow_pos _)
  have hset : nibSet x i n v = 2 ^ (4 * i) * (2 ^ (4 * n) * (x / 2 ^ (4 * i) / 2 ^ (4 * n)) + v % 2 ^ (4 * n)) + x % 2 ^ (4 * i) := by
    have hx := Nat.div_add_mod x (2 ^ (4 * i))
    have hm := Nat.div_add_mod (x / 2 ^ (4 * i)) (2 ^ (4 * n))
    rw [nibSet, hpow, hpow]
    generalize x / 2 ^ (4 * i) / 2 ^ (4 * n) = hi at *
    generalize x / 2 ^ (4 * i) % 2 ^ (4 * n) = mid at *
    rw [← hm] at hx
    conv_lhs => rw [← hx]
    rw [Nat.mul_add, Nat.mul_add]
    rw [Nat.mul_comm mid, Nat.mul_comm (v % _)]
    omega
  rw [hset, Nat.testBit_two_pow_mul_add _ hlo, Nat.testBit_two_pow_mul_add _ hmid]
  split
  case isTrue hj => rw [if_neg (by omega), Nat.testBit_mod_two_pow, decide_eq_true hj, Bool.true_and]
  case isFalse hj =>
    split
    case isTrue hn => rw [if_pos (by omega), Nat.testBit_mod_two_pow, decide_eq_true hn, Bool.true_and]
    case isFalse hn =>
      rw [if_neg (by omega), Nat.testBit_div_two_pow, Nat.testBit_div_two_pow]
      congr 1
      omega

theorem testBit_mix (mask x y : Nat) {j : Nat} (hj : j < 32) :
    (mix mask x y).testBit j = if mask.testBit j then x.testBit j else y.testBit j := by
  have hones : (0xFFFFFFFF : Nat).testBit j = true := by
    rw [show (0xFFFFFFFF : Nat) = 2 ^ 32 - 1 from rfl, Nat.testBit_two_pow_sub_one, decide_eq_true hj]
  rw [mix, Nat.testBit_or, Nat.testBit_and, Nat.testBit_and, Nat.testBit_xor, hones]
  cases mask.testBit j
  all_goals simp

/-! ### The words of a store -/

/-- The bits from lo on, n of them, are those of v. -/
def setBits (f : Nat → Option Bool) (lo n v : Nat) : Nat → Option Bool :=
  fun b => if lo ≤ b ∧ b < lo + n then some (v.testBit (b - lo)) else f b

/-- The words l write the bits of memory that f gives, and no others. -/
structure Puts (l : List WordPut) (f : Nat → Option Bool) : Prop where
  distinct : (l.map WordPut.word).Nodup
  bits : ∀ p ∈ l, ∀ b, b < 32 → f (32 * p.word + b) = if p.mask.testBit b then some (p.val.testBit b) else none
  words : ∀ w, w ∈ l.map WordPut.word ↔ ∃ b, b / 32 = w ∧ f b ≠ none

theorem puts_nil : Puts [] (fun _ => none) := ⟨List.nodup_nil, by simp, by simp⟩

/-- A word with nibbles i to i + n written. -/
def WordPut.put (p : WordPut) (i n v : Nat) : WordPut := { p with mask := nibSet p.mask i n (16 ^ n - 1), val := nibSet p.val i n v }

theorem putElem_eq (l : List WordPut) (word i n v : Nat) : putElem l word i n v =
    if word ∈ l.map WordPut.word then l.map (fun p => if p.word = word then p.put i n v else p) else l ++ [(⟨word, 0, 0⟩ : WordPut).put i n v] := by
  have hany : l.any (fun p => p.word == word) = decide (word ∈ l.map WordPut.word) := by
    rw [Bool.eq_iff_iff]
    simp
  simp only [putElem, hany, decide_eq_true_eq, beq_iff_eq]
  rfl

/-- The bits of a word with nibbles written over it. -/
theorem WordPut.put_bits {p : WordPut} {f : Nat → Option Bool} {i n v : Nat}
    (hp : ∀ b, b < 32 → f (32 * p.word + b) = if p.mask.testBit b then some (p.val.testBit b) else none) {b : Nat} (hb : b < 32) :
    setBits f (32 * p.word + 4 * i) (4 * n) v (32 * p.word + b) =
      if (p.put i n v).mask.testBit b then some ((p.put i n v).val.testBit b) else none := by
  have hones : ∀ j, j < 4 * n → (16 ^ n - 1).testBit j = true := fun j hj => by
    rw [show (16 : Nat) = 2 ^ 4 from rfl, ← Nat.pow_mul, Nat.testBit_two_pow_sub_one, decide_eq_true hj]
  rw [setBits, WordPut.put, testBit_nibSet, testBit_nibSet]
  by_cases hin : 4 * i ≤ b ∧ b < 4 * (i + n)
  · rw [if_pos (by omega), if_pos hin, if_pos hin, hones _ (by omega), if_pos rfl]
    congr 2
    omega
  · rw [if_neg (by omega), if_neg hin, if_neg hin, hp b hb]

theorem Puts.putElem {l : List WordPut} {f : Nat → Option Bool} (h : Puts l f) {word i n v : Nat} (hpos : 0 < n) (hn : i + n ≤ 8) :
    Puts (putElem l word i n v) (setBits f (32 * word + 4 * i) (4 * n) v) := by
  have hother : ∀ w b, w ≠ word → b < 32 → setBits f (32 * word + 4 * i) (4 * n) v (32 * w + b) = f (32 * w + b) := fun w b hw hb => by
    rw [setBits, if_neg (by omega)]
  have hwords : ∀ w, (∃ b, b / 32 = w ∧ setBits f (32 * word + 4 * i) (4 * n) v b ≠ none) ↔ w = word ∨ w ∈ l.map WordPut.word := fun w => by
    rw [h.words]
    constructor
    · rintro ⟨b, hb, hf⟩
      unfold setBits at hf
      split at hf
      · left; omega
      · exact .inr ⟨b, hb, hf⟩
    · by_cases hw : w = word
      · refine fun _ => ⟨32 * word + 4 * i, by omega, ?_⟩
        rw [setBits, if_pos (by omega)]
        exact Option.some_ne_none _
      · rintro (hw' | ⟨b, hb, hf⟩)
        · exact absurd hw' hw
        · refine ⟨b, hb, ?_⟩
          have hsame := hother w (b % 32) hw (Nat.mod_lt _ (by decide))
          rw [show 32 * w + b % 32 = b by omega] at hsame
          rwa [hsame]
  rw [putElem_eq]
  split
  case isTrue hmem =>
    have hmap : (l.map (fun p => if p.word = word then p.put i n v else p)).map WordPut.word = l.map WordPut.word := by
      rw [List.map_map]
      refine List.map_congr_left fun p _ => ?_
      rw [Function.comp_apply]
      split
      all_goals rfl
    refine ⟨by rw [hmap]; exact h.distinct, fun q hq b hb => ?_, fun w => ?_⟩
    · obtain ⟨p, hp, rfl⟩ := List.mem_map.1 hq
      split
      case isTrue hpw => exact hpw ▸ WordPut.put_bits (h.bits p hp) hb
      case isFalse hpw => rw [hother p.word b hpw hb, h.bits p hp b hb]
    · rw [hmap, hwords]
      exact ⟨.inr, fun hw => hw.elim (fun e => e ▸ hmem) id⟩
  case isFalse hmem =>
    have hnew : ∀ b, b < 32 → f (32 * word + b) = none := fun b hb => by
      by_contra hf
      exact hmem ((h.words word).2 ⟨32 * word + b, by omega, hf⟩)
    refine ⟨?_, fun q hq b hb => ?_, fun w => ?_⟩
    · rw [List.map_append]
      exact List.nodup_append.2 ⟨h.distinct, List.nodup_singleton _, fun a ha c hc hac => hmem (by simp_all [WordPut.put])⟩
    · rcases List.mem_append.1 hq with hq | hq
      · have hqw : q.word ≠ word := fun e => hmem (e ▸ List.mem_map_of_mem hq)
        rw [hother q.word b hqw hb, h.bits q hq b hb]
      · rw [List.mem_singleton.1 hq]
        exact WordPut.put_bits (p := ⟨word, 0, 0⟩) (fun b hb => by simpa using hnew b hb) hb
    · rw [hwords, List.map_append, List.mem_append, or_comm]
      simp [WordPut.put]

end Sys2Proof.Machine
end

section
/-! PROOFS. Words stored one after another (R126, R137, R138): the memory that they leave, and the cores, which stay as they are but for
what they wait for. -/

open Sys2Proof.Claims

namespace Sys2Proof.Machine

theorem SameCores.trans {s t u : State} (h : SameCores s t) (h' : SameCores t u) : SameCores s u := by
  refine ⟨h'.cur.trans h.cur, fun n => ?_⟩
  obtain ⟨w, hw⟩ := h.core n
  obtain ⟨w', hw'⟩ := h'.core n
  exact ⟨w', by rw [hw', hw]⟩

theorem SameCores.vq {s t : State} (h : SameCores s t) (n : Nat) : (t.core n).vq = (s.core n).vq := by
  obtain ⟨w, hw⟩ := h.core n
  rw [hw]

theorem SameCores.v {s t : State} (h : SameCores s t) (n : Nat) : (t.core n).v = (s.core n).v := by
  obtain ⟨w, hw⟩ := h.core n
  rw [hw]

theorem SameCores.store {s t : State} (h : SameCores s t) (loc : Loc) (size v : Nat) (tags : List (Nat × Label)) :
    SameCores s (t.store loc size v tags) := by
  unfold State.store
  dsimp only
  split
  · exact h.poke _ _ _
  · exact (h.poke _ _ _).of_eq rfl rfl

theorem State.store_mem (s : State) (loc : Loc) (size v : Nat) (tags : List (Nat × Label)) :
    (s.store loc size v tags).mem = writeNat s.mem loc.key v size := by
  have hwake := State.wakeLocal_mem { s with mem := writeNat s.mem loc.key v size, damaged := repaired s.damaged loc.key size } loc.key
  unfold State.store
  dsimp only
  split
  all_goals exact hwake.1

/-- A word of the local store stored: its bits are the value's. -/
theorem memBit_storeWord {s : State} (hs : s.Canonical) (word v : Nat) (tags : List (Nat × Label)) (b : Nat) :
    memBit (s.store (localLoc word) 4 v tags).mem b = if b / 32 = word then v.testBit (b % 32) else memBit s.mem b := by
  rw [State.store_mem, memBit_writeNat hs.1, localLoc]
  by_cases hb : b / 32 = word
  · rw [if_pos (by dsimp only; omega), if_pos hb]
    congr 1
    dsimp only
    omega
  · rw [if_neg (by dsimp only; omega), if_neg hb]

/-- A step that writes, in the word that it names, the bits that are given, and nothing else of memory. -/
def WritesWord (word : Nat) (bit : Nat → Option Bool) (s t : State) : Prop :=
  t.Canonical ∧ SameCores s t ∧ ∀ b, memBit t.mem b = if b / 32 = word then (bit (b % 32)).getD (memBit s.mem b) else memBit s.mem b

/-- Different words written in turn. -/
theorem foldl_writesWord {α : Type} {word : α → Nat} {bit : α → Nat → Option Bool} {g : State → α → State}
    (hg : ∀ s a, s.Canonical → WritesWord (word a) (bit a) s (g s a)) (l : List α) {s : State} (hs : s.Canonical)
    (hl : (l.map word).Nodup) :
    (l.foldl g s).Canonical ∧ SameCores s (l.foldl g s) ∧
    (∀ b, b / 32 ∉ l.map word → memBit (l.foldl g s).mem b = memBit s.mem b) ∧
    ∀ a ∈ l, ∀ b, b / 32 = word a → memBit (l.foldl g s).mem b = (bit a (b % 32)).getD (memBit s.mem b) := by
  induction l generalizing s with
  | nil => exact ⟨hs, .refl s, fun _ _ => rfl, fun a ha => absurd ha (by simp)⟩
  | cons a r ih =>
    obtain ⟨hcanon, hcores, hbits⟩ := hg s a hs
    rw [List.map_cons, List.nodup_cons] at hl
    obtain ⟨hnew, hr⟩ := hl
    obtain ⟨hcanon', hcores', hstay, hwritten⟩ := ih hcanon hr
    refine ⟨hcanon', hcores.trans hcores', fun b hb => ?_, fun x hx b hb => ?_⟩
    · rw [List.map_cons, List.mem_cons, not_or] at hb
      rw [List.foldl_cons, hstay b hb.2, hbits, if_neg hb.1]
    · rw [List.foldl_cons]
      rcases List.mem_cons.1 hx with rfl | hxr
      · rw [hstay b (hb ▸ hnew), hbits, if_pos hb]
      · have hne : b / 32 ≠ word a := fun e => hnew (e ▸ hb ▸ List.mem_map_of_mem hxr)
        rw [hwritten x hxr b hb, hbits, if_neg hne]

/-! ### A tile store -/

/-- Steps that all give one value and change nothing. -/
theorem mapM_same {α β : Type} {f : α → M β} {v : β} {s : State} (l : List α) (h : ∀ a ∈ l, f a s = .ok v s) :
    l.mapM f s = .ok (l.map (fun _ => v)) s := by
  induction l with
  | nil => rfl
  | cons a r ih =>
    rw [List.mapM_cons]
    exact (M.bind_ok s s (h a List.mem_cons_self)).trans (M.bind_ok s s (ih fun x hx => h x (List.mem_cons_of_mem _ hx)))

theorem zip_const {α β : Type} (l : List α) (v : β) : l.zip (l.map (fun _ => v)) = l.map (fun a => (a, v)) := by
  induction l with
  | nil => rfl
  | cons a r ih => rw [List.map_cons, List.zip_cons_cons, ih, List.map_cons]

theorem deferredFold_true (w : Who) (k : Nat) {ls : List Label} (h : ∀ l ∈ ls, l = labelTrue) (s : State) :
    deferredFold w k ls s = .ok labelTrue s := by
  rw [deferredFold, foldProd_true w .deferred ls h]
  rfl

/-- One word of a tile store. -/
def State.putWord (s : State) (e : WordPut × Label) : State :=
  let t := s.store (localLoc e.1.word) 4 (mix e.1.mask e.1.val (s.read (4 * e.1.word) 4)) [(e.1.word, e.2)]
  if e.1.mask = 0xFFFFFFFF then t else { t with damaged := s.damaged }

theorem writesWord_putWord {s : State} (hs : s.Canonical) (e : WordPut × Label) :
    WritesWord e.1.word (fun b => if e.1.mask.testBit b then some (e.1.val.testBit b) else none) s (s.putWord e) := by
  have hstore : WritesWord e.1.word (fun b => if e.1.mask.testBit b then some (e.1.val.testBit b) else none) s
      (s.store (localLoc e.1.word) 4 (mix e.1.mask e.1.val (s.read (4 * e.1.word) 4)) [(e.1.word, e.2)]) := by
    refine ⟨State.store_canonical hs _ _ _ _, SameCores.store (.refl s) _ _ _ _, fun b => ?_⟩
    rw [memBit_storeWord hs]
    split
    case isFalse => rfl
    case isTrue hb =>
      have hlow : b % 32 < 32 := Nat.mod_lt _ (by decide)
      rw [testBit_mix _ _ _ hlow, State.read, testBit_readNat, decide_eq_true (show b % 32 < 8 * 4 from hlow), Bool.true_and,
        show 8 * (4 * e.1.word) + b % 32 = b by omega]
      dsimp only
      split
      all_goals rfl
  unfold State.putWord
  dsimp only
  split
  · exact hstore
  · exact ⟨hstore.1, hstore.2.1.of_eq rfl rfl, hstore.2.2⟩

/-- A tile store under TRUE into words that hold TRUE. -/
theorem tileStore_run {n : Nat} {l : List WordPut} {f : Nat → Option Bool} {s : State} (hs : s.Canonical) (hputs : Puts l f)
    (htrue : ∀ p ∈ l, s.tagAt (4 * p.word) = labelTrue) :
    ∃ t, tileStore n l labelTrue s = .ok () t ∧ SameCores s t ∧ ∀ b, memBit t.mem b = (f b).getD (memBit s.mem b) := by
  have hwords : (l.map (fun p => (p, labelTrue))).map (fun e => e.1.word) = l.map WordPut.word := by
    rw [List.map_map]
    rfl
  obtain ⟨-, hcores, hstay, hwritten⟩ := foldl_writesWord (word := fun e : WordPut × Label => e.1.word) (fun s e hs => writesWord_putWord hs e)
    (l.map (fun p => (p, labelTrue))) hs (by rw [hwords]; exact hputs.distinct)
  refine ⟨_, ?run, hcores, fun b => ?bit⟩
  case run =>
    rw [← zip_const l labelTrue]
    refine (M.bind_ok s s rfl).trans ((M.bind_ok s s (mapM_same l fun p hp => ?_)).trans rfl)
    split
    · rfl
    · refine (M.bind_ok s s rfl).trans (deferredFold_true _ _ (fun x hx => ?_) s)
      rw [List.mem_cons, List.mem_singleton] at hx
      exact hx.elim id fun e => e.trans (htrue p hp)
  case bit =>
    rw [hwords] at hstay
    by_cases hb : b / 32 ∈ l.map WordPut.word
    · obtain ⟨p, hp, hpb⟩ := List.mem_map.1 hb
      have hbit := hputs.bits p hp (b % 32) (Nat.mod_lt _ (by decide))
      rw [hpb, Nat.div_add_mod] at hbit
      rw [hwritten (p, labelTrue) (List.mem_map_of_mem hp) b hpb.symm, hbit]
    · have hnone : f b = none := by
        by_contra hf
        exact hb ((hputs.words _).2 ⟨b, rfl, hf⟩)
      rw [hstay b hb, hnone]
      rfl

end Sys2Proof.Machine
end

section
/-! PROOFS. A queued tile store completes (R136, R137). -/

open Sys2Proof.Claims

namespace Sys2Proof.Machine

/-! ### The elements of a store, one after another -/

/-- A store's words after the elements of a list whose position is on. -/
def putAll (on : Nat → Bool) (word i : Nat → Nat) (n : Nat) (x : Nat → Nat) (l : List Nat) (puts : List WordPut) : List WordPut :=
  l.foldl (fun q e => if on e then putElem q (word e) (i e) n (x e) else q) puts

/-- The bits of those elements over others. -/
def bitsAll (on : Nat → Bool) (lo : Nat → Nat) (n : Nat) (x : Nat → Nat) (l : List Nat) (f : Nat → Option Bool) : Nat → Option Bool :=
  l.foldl (fun f e => if on e then setBits f (lo e) n (x e) else f) f

section
variable {on : Nat → Bool} {word i lo x : Nat → Nat} {n : Nat} {l : List Nat}

theorem puts_putAll (hpos : 0 < n) (h : ∀ e ∈ l, on e = true → i e + n ≤ 8 ∧ lo e = 32 * word e + 4 * i e) {q : List WordPut}
    {f : Nat → Option Bool} (hq : Puts q f) : Puts (putAll on word i n x l q) (bitsAll on lo (4 * n) x l f) := by
  induction l generalizing q f with
  | nil => exact hq
  | cons e r ih =>
    refine ih (fun y hy => h y (List.mem_cons_of_mem _ hy)) ?_
    dsimp only
    split
    case isTrue he =>
      obtain ⟨hroom, hlo⟩ := h e List.mem_cons_self he
      rw [hlo]
      exact hq.putElem hpos hroom
    case isFalse => exact hq

/-- A bit that no element covers stays. -/
theorem bitsAll_outside {f : Nat → Option Bool} {b : Nat} (h : ∀ e ∈ l, on e = true → b < lo e ∨ lo e + n ≤ b) :
    bitsAll on lo n x l f b = f b := by
  induction l generalizing f with
  | nil => rfl
  | cons e r ih =>
    refine (ih fun y hy => h y (List.mem_cons_of_mem _ hy)).trans ?_
    dsimp only
    split
    case isTrue he =>
      have hout := h e List.mem_cons_self he
      rw [setBits, if_neg (by omega)]
    case isFalse => rfl

/-- A bit that one element alone covers is that element's. -/
theorem bitsAll_inside {f : Nat → Option Bool} {b e : Nat} (he : e ∈ l) (hon : on e = true) (hin : lo e ≤ b ∧ b < lo e + n)
    (honly : ∀ y ∈ l, on y = true → lo y ≤ b → b < lo y + n → y = e) : bitsAll on lo n x l f b = some ((x e).testBit (b - lo e)) := by
  induction l generalizing f with
  | nil => exact absurd he (by simp)
  | cons y r ih =>
    by_cases her : e ∈ r
    · exact ih her fun z hz => honly z (List.mem_cons_of_mem _ hz)
    · have hye : y = e := by
        rcases List.mem_cons.1 he with h | h
        · exact h.symm
        · exact absurd h her
      subst hye
      refine (bitsAll_outside (l := r) fun z hz hzon => ?_).trans ?_
      · by_contra hcov
        have hzy := honly z (List.mem_cons_of_mem _ hz) hzon (by omega) (by omega)
        exact her (hzy ▸ hz)
      · dsimp only
        rw [if_pos hon, setBits, if_pos hin]

end

theorem zipIdx_map_range {α : Type} (g : Nat → α) (m : Nat) : ((List.range m).map g).zipIdx = (List.range m).map (fun e => (g e, e)) := by
  refine List.ext_getElem (by simp) fun k hk hk' => ?_
  simp

/-! ### The store completes -/

section
variable {s : State} {n : Nat} {e : VEntry} {rest : List VEntry} {t : ETy} {p : PReg} {d : VReg} {key : Nat} {nibs : List Int}

/-- The words of a queued store. -/
def storePuts (c : Core) (t : ETy) (p : PReg) (d : VReg) (key : Nat) (nibs : List Int) : List WordPut :=
  nibs.zipIdx.foldl (fun l (q : Int × Nat) => if (c.rp p).getLsbD q.2 then
    putElem l (nibWord key q.1) (q.1.toNat % 8) (nibsOf t) (elemAt (c.rv d).toNat (4 * nibsOf t) q.2) else l) []

/-- A head with its beats granted that is a store under TRUE, with nothing buffered before it, writes its words. -/
theorem exec_tileComplete_store {f : Nat → Option Bool} (hn : n < nCores) (hpaused : (s.core n).paused = [])
    (hvq : (s.core n).vq = e :: rest) (hbeats : e.beats = 0) (hstore : storeElems n (s.core n) e = some (t, p, d, key, nibs))
    (hlabel : e.label = labelTrue) (hs : s.Canonical) (hsb : (s.core n).sb = []) (hwait : ∀ u, (s.core n).wait ≠ .pause u)
    (hputs : Puts (storePuts (s.core n) t p d key nibs) f)
    (htrue : ∀ q ∈ storePuts (s.core n) t p d key nibs, s.tagAt (4 * q.word) = labelTrue) :
    ∃ u, exec (.tileComplete n) s = .next u ∧ (u.core n).vq = rest ∧ (u.core n).v = (s.core n).v ∧
      ∀ b, memBit u.mem b = (f b).getD (memBit s.mem b) := by
  obtain ⟨u, hrun, hcores, hbits⟩ := tileStore_run (n := n) hs hputs htrue
  have hyields : s.yieldsFuller n = false := by
    have hpausing : s.pausing n = false := by
      unfold State.pausing
      generalize (s.core n).wait = w at hwait
      cases w with
      | pause x => exact absurd rfl (hwait x)
      | _ => rfl
    rw [State.yieldsFuller, State.yieldsTo, hpausing, Bool.false_and]
  unfold storePuts at hrun
  have hcomplete : completeTile n s = .ok () (u.modCore n (fun c => { c with vq := c.vq.drop 1 })) := by
    simp only [completeTile, M.run_bind, M.run_get, hvq, hbeats, hstore, beq_self_eq_true, M.run_needs_true, hsb, hyields, List.isEmpty_nil,
      Bool.not_false, Bool.and_self, hlabel, hrun, M.run_modS]
  refine ⟨u.modCore n (fun c => { c with vq := c.vq.drop 1 }), ?_, ?_, ?_, hbits⟩
  · change (if n < nCores then _ else _) = _
    rw [if_pos hn]
    refine runEngine_ok ?_
    simp only [M.run_bind, M.run_get, hpaused, List.contains_nil, Bool.false_eq_true, if_false, hcomplete]
  · rw [State.modCore_core, hcores.vq, hvq]
    rfl
  · rw [State.modCore_core]
    exact hcores.v n

/-- Aligned elements of one width that share a byte are the same. -/
theorem eq_of_aligned {w a b x : Nat} (ha : a % w = 0) (hb : b % w = 0) (hax : a ≤ x ∧ x < a + w) (hbx : b ≤ x ∧ x < b + w) : a = b := by
  obtain ⟨i, rfl⟩ := Nat.dvd_of_mod_eq_zero ha
  obtain ⟨j, rfl⟩ := Nat.dvd_of_mod_eq_zero hb
  have hi : x / w = i := Nat.div_eq_of_lt_le (by rw [Nat.mul_comm]; exact hax.1) (by rw [Nat.succ_mul, Nat.mul_comm]; exact hax.2)
  have hj : x / w = j := Nat.div_eq_of_lt_le (by rw [Nat.mul_comm]; exact hbx.1) (by rw [Nat.succ_mul, Nat.mul_comm]; exact hbx.2)
  rw [← hi, ← hj]

theorem nibsOf_eq (t : ETy) (h : 8 ≤ bitsOf t) : nibsOf t = 2 * (bitsOf t / 8) ∧ 8 * (bitsOf t / 8) = bitsOf t := by
  rw [nibsOf]
  rcases bitsOf_cases t with ht | ht | ht | ht
  all_goals omega

/-- The nibble of an aligned element lies with the whole element in its word. -/
theorem nib_in_word (t : ETy) (h : 8 ≤ bitsOf t) {n off k : Nat} (hoff : off < 2 ^ 17) (hk : k % (bitsOf t / 8) = 0) :
    2 * k % 8 + nibsOf t ≤ 8 ∧ 8 * (lsBase n + k) = 32 * nibWord (lsBase n + off) (2 * k : Nat) + 4 * (2 * k % 8) := by
  have hkey : (lsBase n + off) / 2 ^ 17 * 2 ^ 15 * 32 = 8 * lsBase n := by
    unfold lsBase
    omega
  have hword : nibWord (lsBase n + off) (2 * k : Nat) = (lsBase n + off) / 2 ^ 17 * 2 ^ 15 + 2 * k / 8 := rfl
  rw [hword, nibsOf]
  refine ⟨?_, by omega⟩
  rcases bitsOf_cases t with ht | ht | ht | ht
  all_goals rw [ht] at hk ⊢
  all_goals omega

/-- The bits that a store of m elements at the bytes k of core n's local store writes. -/
def storeBits (c : Core) (t : ETy) (p : PReg) (d : VReg) (n m : Nat) (k : Nat → Nat) : Nat → Option Bool :=
  bitsAll (fun j => (c.rp p).getLsbD j) (fun j => 8 * (lsBase n + k j)) (bitsOf t) (elem (c.rv d) (bitsOf t)) (List.range m) (fun _ => none)

theorem puts_storePuts (c : Core) (p : PReg) (d : VReg) (hwidth : 8 ≤ bitsOf t) {off m : Nat} {k : Nat → Nat} (hoff : off < 2 ^ 17)
    (hk : ∀ j, j < m → k j % (bitsOf t / 8) = 0) :
    Puts (storePuts c t p d (lsBase n + off) ((List.range m).map (fun j => ((2 * k j : Nat) : Int)))) (storeBits c t p d n m k) := by
  obtain ⟨hnibs, hbits⟩ := nibsOf_eq t hwidth
  have hfour : 4 * nibsOf t = bitsOf t := by omega
  have hall := puts_putAll (on := fun j => (c.rp p).getLsbD j) (word := fun j => nibWord (lsBase n + off) (2 * k j : Nat))
    (i := fun j => 2 * k j % 8) (lo := fun j => 8 * (lsBase n + k j)) (x := elem (c.rv d) (bitsOf t)) (n := nibsOf t) (l := List.range m)
    (by omega) (fun j hj _ => nib_in_word t hwidth hoff (hk j (List.mem_range.1 hj))) puts_nil
  rw [hfour] at hall
  rw [storePuts, zipIdx_map_range, List.foldl_map, hfour]
  exact hall

theorem storeBits_inside (c : Core) (p : PReg) (d : VReg) (hwidth : 8 ≤ bitsOf t) {m j b : Nat} {k : Nat → Nat}
    (hk : ∀ j, j < m → k j % (bitsOf t / 8) = 0)
    (hapart : ∀ i j, i < m → j < m → (c.rp p).getLsbD i = true → (c.rp p).getLsbD j = true → k i = k j → i = j)
    (hj : j < m) (hon : (c.rp p).getLsbD j = true) (hb : b < bitsOf t) :
    storeBits c t p d n m k (8 * (lsBase n + k j) + b) = some ((elem (c.rv d) (bitsOf t) j).testBit b) := by
  obtain ⟨-, hbits⟩ := nibsOf_eq t hwidth
  refine (bitsAll_inside (List.mem_range.2 hj) hon (by omega) fun y hy hyon hlow hhigh => ?_).trans (by rw [Nat.add_sub_cancel_left])
  have hy := List.mem_range.1 hy
  exact hapart y j hy hj hyon hon (eq_of_aligned (x := k j + b / 8) (hk y hy) (hk j hj) (by omega) (by omega))

theorem storeBits_outside (c : Core) (p : PReg) (d : VReg) {m b : Nat} {k : Nat → Nat}
    (h : ∀ j, j < m → (c.rp p).getLsbD j = true → b < 8 * (lsBase n + k j) ∨ 8 * (lsBase n + k j) + bitsOf t ≤ b) :
    storeBits c t p d n m k b = none :=
  bitsAll_outside fun j hj hon => h j (List.mem_range.1 hj) hon

/-- A store under TRUE to aligned places apart in the own local store: each element at its place, and no other byte (R136, R137). -/
theorem completes_store {off : Nat} {k : Nat → Nat} (hn : n < nCores) (hpaused : (s.core n).paused = []) (hvq : (s.core n).vq = e :: rest)
    (hbeats : e.beats = 0) (hwidth : 8 ≤ bitsOf t) (hlabel : e.label = labelTrue) (htrue : TrueLocal s n) (hs : s.Canonical)
    (hsb : (s.core n).sb = []) (hwait : ∀ u, (s.core n).wait ≠ .pause u) (hoff : off < 2 ^ 17)
    (hplace : ∀ j, j < e.rows * e.cols → k j + bitsOf t / 8 ≤ 2 ^ 17 ∧ k j % (bitsOf t / 8) = 0)
    (hapart : ∀ i j, i < e.rows * e.cols → j < e.rows * e.cols → ((s.core n).rp p).getLsbD i = true → ((s.core n).rp p).getLsbD j = true →
      k i = k j → i = j)
    (hstore : storeElems n (s.core n) e = some (t, p, d, lsBase n + off, (List.range (e.rows * e.cols)).map (fun j => ((2 * k j : Nat) : Int)))) :
    ∃ u, exec (.tileComplete n) s = .next u ∧ (u.core n).vq = rest ∧ (u.core n).v = (s.core n).v ∧
      (∀ j, j < e.rows * e.cols → ((s.core n).rp p).getLsbD j = true →
        readNat u.mem (lsBase n + k j) (bitsOf t / 8) = elem ((s.core n).rv d) (bitsOf t) j) ∧
      ∀ l, (∀ j, j < e.rows * e.cols → ((s.core n).rp p).getLsbD j = true → l < lsBase n + k j ∨ lsBase n + k j + bitsOf t / 8 ≤ l) →
        u.mem.get 0 l = s.mem.get 0 l := by
  obtain ⟨hnibs, hbits⟩ := nibsOf_eq t hwidth
  have hputs := puts_storePuts (n := n) (s.core n) p d hwidth hoff fun j hj => (hplace j hj).2
  have hown : ∀ q ∈ storePuts (s.core n) t p d (lsBase n + off) ((List.range (e.rows * e.cols)).map (fun j => ((2 * k j : Nat) : Int))),
      s.tagAt (4 * q.word) = labelTrue := fun q hq => by
    obtain ⟨b, hb, hf⟩ := (hputs.words q.word).1 (List.mem_map_of_mem hq)
    have hin : lsBase n / 4 ≤ q.word ∧ q.word < lsBase (n + 1) / 4 := by
      by_contra hout
      refine hf (storeBits_outside _ p d fun j hj _ => ?_)
      have hle := (hplace j hj).1
      simp only [lsBase] at *
      omega
    rw [State.tagAt, Nat.mul_div_cancel_left _ (by decide)]
    exact (htrue q.word hin.1 hin.2).1
  obtain ⟨u, hexec, hq, hv, hmem⟩ := exec_tileComplete_store hn hpaused hvq hbeats hstore hlabel hs hsb hwait hputs hown
  refine ⟨u, hexec, hq, hv, fun j hj hon => ?_, fun l hl => ?_⟩
  · refine readNat_eq_of_bits (by rw [hbits]; exact elemAt_lt _ _ _) fun b hb => ?_
    rw [hmem, storeBits_inside _ p d hwidth (fun j hj => (hplace j hj).2) hapart hj hon (by omega)]
    rfl
  · refine get_eq_of_bits fun i hi => ?_
    rw [hmem, storeBits_outside _ p d fun j hj hon => ?_]
    · rfl
    · have := hl j hj hon
      omega

end

end Sys2Proof.Machine
end

section
/-! PROOFS. O32: the head of the vector queue writes its result, and the grants of a lone core (R120, R123, R127 to R144). -/

open Sys2Proof.Claims

namespace Sys2Proof.Machine

/-! ### The places of a tile's elements (R135, R136) -/

/-- Byte of an element that rows a stride apart, or side by side, put into the local store. -/
def rowPlace (off cols w : Nat) (named : Bool) (stride : Word) (j : Nat) : Int :=
  off + (j / cols : Nat) * (if named then stride.toInt else (cols * w : Nat)) + (j % cols * w : Nat)

theorem rowPlace_eq (off cols w : Nat) (h : GLow) (stride : Word) (j : Nat) : rowPlace off cols w (h != 0) stride j =
    (off : Int) + (j / cols : Nat) * (if h = 0 then ((cols * w : Nat) : Int) else stride.toInt) + (j % cols * w : Nat) := by
  by_cases hz : h = 0
  · rw [rowPlace, if_pos hz, hz]
    rfl
  · rw [rowPlace, if_neg hz, if_pos (bne_iff_ne.2 hz)]

/-- Byte of an element that an index names. -/
def indexPlace (off w : Nat) (idx : Tile) (j : Nat) : Nat := (off + elem idx 16 j * w) % 2 ^ 17

theorem lsBase_add_mod (n : Nat) {off : Nat} (hoff : off < 2 ^ 17) : (lsBase n + off) % 2 ^ 17 = off := by
  unfold lsBase
  omega

theorem rowNibs_own {t : ETy} (hwidth : 8 ≤ bitsOf t) {n off rows cols : Nat} {named : Bool} {stride : Word} (hoff : off < 2 ^ 17)
    (h : ∀ j, j < rows * cols → 0 ≤ rowPlace off cols (bitsOf t / 8) named stride j) :
    rowNibs (lsBase n + off) rows cols (nibsOf t) named stride =
      (List.range (rows * cols)).map (fun j => ((2 * (rowPlace off cols (bitsOf t / 8) named stride j).toNat : Nat) : Int)) := by
  refine List.map_congr_left fun j hj => ?_
  have hplace : ((2 * (rowPlace off cols (bitsOf t / 8) named stride j).toNat : Nat) : Int) =
      2 * rowPlace off cols (bitsOf t / 8) named stride j := by
    rw [Nat.cast_mul, Int.toNat_of_nonneg (h j (List.mem_range.1 hj))]
    rfl
  rw [lsBase_add_mod n hoff, (nibsOf_eq t hwidth).1, hplace, rowPlace]
  split
  all_goals
    push_cast
    ring

theorem indexNibs_own {t : ETy} {n off m : Nat} {idx : Tile} (hoff : off < 2 ^ 17) :
    indexNibs (lsBase n + off) m (nibsOf t) idx =
      (List.range m).map (fun j => ((2 * indexPlace off (bitsOf t / 8) idx j : Nat) : Int)) := by
  refine List.map_congr_left fun j _ => ?_
  rw [lsBase_add_mod n hoff, nibsOf_half]
  rfl

section
variable {s : State} {n : Nat} {e : VEntry} {rest : List VEntry} {t : ETy} {p : PReg} {d b : VReg} {g h : GLow} {off : Nat}
variable (hn : n < nCores) (hpaused : (s.core n).paused = []) (hvq : (s.core n).vq = e :: rest) (hbeats : e.beats = 0)
variable (hwidth : 8 ≤ bitsOf t) (hlabel : e.label = labelTrue) (htrue : TrueLocal s n) (hs : s.Canonical) (hsb : (s.core n).sb = [])
variable (hwait : ∀ u, (s.core n).wait ≠ .pause u) (hoff : off < 2 ^ 17)
include hn hpaused hvq hbeats hwidth hlabel htrue hs hsb hwait hoff

/-- A store to places given as integers. -/
theorem completes_storeAt {at' : Nat → Int}
    (hplace : ∀ j, j < e.rows * e.cols → 0 ≤ at' j ∧ at' j + bitsOf t / 8 ≤ 2 ^ 17 ∧ at' j % (bitsOf t / 8 : Nat) = 0)
    (hapart : ∀ i j, i < e.rows * e.cols → j < e.rows * e.cols → ((s.core n).rp p).getLsbD i = true → ((s.core n).rp p).getLsbD j = true →
      at' i = at' j → i = j)
    (hstore : storeElems n (s.core n) e =
      some (t, p, d, lsBase n + off, (List.range (e.rows * e.cols)).map (fun j => ((2 * (at' j).toNat : Nat) : Int)))) :
    ∃ u, exec (.tileComplete n) s = .next u ∧ (u.core n).vq = rest ∧ (u.core n).v = (s.core n).v ∧
      (∀ j, j < e.rows * e.cols → ((s.core n).rp p).getLsbD j = true →
        readNat u.mem (lsBase n + (at' j).toNat) (bitsOf t / 8) = elem ((s.core n).rv d) (bitsOf t) j) ∧
      ∀ l, (∀ j, j < e.rows * e.cols → ((s.core n).rp p).getLsbD j = true →
          l < lsBase n + (at' j).toNat ∨ lsBase n + (at' j).toNat + bitsOf t / 8 ≤ l) → u.mem.get 0 l = s.mem.get 0 l := by
  have hnat : ∀ j, j < e.rows * e.cols → at' j = ((at' j).toNat : Nat) := fun j hj => (Int.toNat_of_nonneg (hplace j hj).1).symm
  refine completes_store (k := fun j => (at' j).toNat) hn hpaused hvq hbeats hwidth hlabel htrue hs hsb hwait hoff (fun j hj => ?_)
    (fun i j hi hj hin hjn he => hapart i j hi hj hin hjn ?_) hstore
  · obtain ⟨-, hle, haligned⟩ := hplace j hj
    rw [hnat j hj] at hle haligned
    exact ⟨by exact_mod_cast hle, by exact_mod_cast haligned⟩
  · rw [hnat i hi, hnat j hj]
    exact congrArg Nat.cast he

end

/-- Settles O32: an instruction on elements is `completes_mapTile` or `completes_fillTile` with its function, a store `completes_storeAt`. -/
theorem tileCompletes : Obligations.TileCompletes := by
  unfold Obligations.TileCompletes
  refine ⟨fun s u n e hu hn hvq hclass hothers => exec_laneGroupGrant hu hn hvq hclass hothers, by decide +kernel, ?_⟩
  intro s n e rest t z p d a b q x y g h k o r v off hn hpaused hvq hbeats hfits c w m on fm A B tile whole int sg flt sign pred stores
  have hint : ∀ {i : Instr} {F : Nat → Nat × Flags} (f : Nat → Nat → Int) (b' : VReg), storeElems n (s.core n) { e with op := i } = none →
      (s.core n).tileData { e with op := i } = (s.core n).intTile { e with op := i } t p d a b' f →
      (∀ j, F j = ((f (A j) (elem (c.rv b') w j) % 2 ^ w).toNat, 0)) → tile i F := fun f b' hstore hdata hF =>
    completes_intTile hn hpaused hvq hbeats hfits hstore hdata hF
  have hflt : ∀ {i : Instr} {F : Nat → Nat × Flags} (f : Fmt → RMode → Nat → Nat → Nat → Nat × Flags) (b' : VReg),
      storeElems n (s.core n) { e with op := i } = none →
      (s.core n).tileData { e with op := i } = (s.core n).floatTile { e with op := i } t p d a b' f →
      (∀ j, F j = f fm (drawn e j) (A j) (elem (c.rv b') w j) (elem (c.rv d) w j)) → tile i F := fun f b' hstore hdata hF =>
    completes_floatTile hn hpaused hvq hbeats hfits hstore hdata hF
  have hsfu : ∀ {i : Instr} (k : Nat), storeElems n (s.core n) { e with op := i } = none →
      (s.core n).tileData { e with op := i } = (s.core n).sfuTile { e with op := i } k t p d a → tile i (fun j => sfuElem k (tyn t) (A j)) :=
    fun k hstore hdata => completes_sfuTile hn hpaused hvq hbeats hfits hstore hdata
  have hpred : ∀ (i : Instr) (v : Pred), storeElems n (s.core n) { e with op := i } = none →
      (s.core n).tileData { e with op := i } = (s.core n).wp q v → pred i v := fun i v hstore hdata hop =>
    exec_tileComplete_writes hn hpaused hvq hbeats (f := fun c => c.wp q v) hop hstore hdata
  have hmod : ∀ {v v' : Int}, v' = v → ((v % 2 ^ w).toNat, (0 : Flags)) = ((v' % 2 ^ w).toNat, 0) := fun h => by rw [h]
  refine ⟨?vaddInt, ?vsubInt, ?vmulInt, ?vand, ?vor, ?vxor, ?vshl, ?vshr, ?vsra, ?vminInt, ?vmaxInt, ?vabsInt, ?vnegInt, ?vbcast, ?vaddFloat,
    ?vsubFloat, ?vmulFloat, ?vfma, ?vfms, ?vminFloat, ?vmaxFloat, ?vabsFloat, ?vnegFloat, ?sfu, completes_vcvt hn hpaused hvq hbeats hfits z p d a,
    completes_vsel hn hpaused hvq hbeats hfits p d a b, completes_vred hn hpaused hvq hbeats hfits o p d a, ?vtrans, ?vrot,
    completes_vdeq hn hpaused hvq hbeats hfits z d a b, ?vlset, fun hop hdb _ => completes_vquant hn hpaused hvq hbeats hfits hop hdb,
    fun hop hq => completes_vcmp hn hpaused hvq hbeats hop hq, hpred (.pand q x y) _ rfl rfl, hpred (.por q x y) _ rfl rfl,
    hpred (.pxor q x y) _ rfl rfl, hpred (.pnot q x) _ rfl rfl, hpred (.pset q v) _ rfl rfl, ?vst, ?vscatter⟩
  case vaddInt => exact hint (fun x y => (x + y : Nat)) b rfl rfl fun _ => rfl
  case vsubInt => exact hint (fun x y => (x : Int) - y) b rfl rfl fun _ => rfl
  case vmulInt => exact hint (fun x y => (x * y : Nat)) b rfl rfl fun _ => rfl
  case vand => exact hint (fun x y => (x &&& y : Nat)) b rfl rfl fun _ => rfl
  case vor => exact hint (fun x y => (x ||| y : Nat)) b rfl rfl fun _ => rfl
  case vxor => exact hint (fun x y => (x ^^^ y : Nat)) b rfl rfl fun _ => rfl
  case vshl => exact hint (fun x y => (x * 2 ^ (y % w) : Nat)) b rfl rfl fun _ => rfl
  case vshr => exact hint (fun x y => (x / 2 ^ (y % w) : Nat)) b rfl rfl fun _ => rfl
  case vsra => exact hint (fun x y => sraElem w x (y % w)) b rfl rfl fun _ => rfl
  case vminInt => exact hint (fun x y => min (sg x) (sg y)) b rfl rfl fun _ => hmod (min_def _ _)
  case vmaxInt => exact hint (fun x y => max (sg x) (sg y)) b rfl rfl fun _ => hmod (max_def _ _)
  case vabsInt => exact hint (fun x _ => (sg x).natAbs) a rfl rfl fun _ => hmod (natAbs_eq_ite _)
  case vnegInt => exact hint (fun x _ => -(x : Int)) a rfl rfl fun _ => rfl
  case vbcast => exact completes_mapTile hn hpaused hvq hbeats hfits rfl rfl (fun _ _ => Nat.mod_mod _ _) (fun _ _ => rfl)
  case vaddFloat => exact hflt (fun f m x y _ => f.fadd m (f.decode x) (f.decode y)) b rfl rfl fun _ => rfl
  case vsubFloat => exact hflt (fun f m x y _ => f.fadd m (f.decode x) (f.decode y).negate) b rfl rfl fun _ => rfl
  case vmulFloat => exact hflt (fun f m x y _ => f.fmul m (f.decode x) (f.decode y)) b rfl rfl fun _ => rfl
  case vfma => exact hflt (fun f m x y z => f.ffma m (f.decode x) (f.decode y) (f.decode z)) b rfl rfl fun _ => rfl
  case vfms => exact hflt (fun f m x y z => f.ffma m (f.decode x).negate (f.decode y) (f.decode z)) b rfl rfl fun _ => rfl
  case vminFloat => exact hflt (fun f _ x y _ => f.fminmax false x y) b rfl rfl fun _ => rfl
  case vmaxFloat => exact hflt (fun f _ x y _ => f.fminmax true x y) b rfl rfl fun _ => rfl
  case vabsFloat => exact hflt (fun f _ x _ _ => signElem f false x) a rfl rfl fun _ => (signElem_eq fm false _).symm
  case vnegFloat => exact hflt (fun f _ x _ _ => signElem f true x) a rfl rfl fun _ => (signElem_eq fm true _).symm
  case sfu =>
    simp only [List.forall_mem_cons]
    exact ⟨hsfu 0 rfl rfl, hsfu 1 rfl rfl, hsfu 2 rfl rfl, hsfu 3 rfl rfl, hsfu 4 rfl rfl, hsfu 5 rfl rfl, hsfu 6 rfl rfl, hsfu 7 rfl rfl,
      hsfu 8 rfl rfl, hsfu 9 rfl rfl, fun _ h => absurd h List.not_mem_nil⟩
  case vtrans => exact completes_fillTile hn hpaused hvq hbeats hfits rfl rfl (fun _ _ => rfl) (fun _ _ => rfl)
  case vrot => exact completes_fillTile hn hpaused hvq hbeats hfits rfl rfl (fun _ _ => rfl) (fun _ _ => rfl)
  case vlset => exact fun hop => exec_tileComplete_writes hn hpaused hvq hbeats (f := fun c => c.wv d (c.rv a)) hop rfl rfl
  case vst =>
    intro hop hwidth hlabel htrue hs hsb hwait hga hoff hplace hapart
    refine completes_storeAt hn hpaused hvq hbeats hwidth hlabel htrue hs hsb hwait hoff hplace hapart ?_
    rw [storeElems, hop]
    dsimp only
    rw [localKey_own n hga hoff, rowNibs_own hwidth hoff fun j hj => by rw [rowPlace_eq]; exact (hplace j hj).1]
    simp only [rowPlace_eq]
    rfl
  case vscatter =>
    intro hop hwidth hlabel htrue hs hsb hwait hga hoff hplace hapart
    refine completes_storeAt hn hpaused hvq hbeats hwidth hlabel htrue hs hsb hwait hoff hplace hapart ?_
    rw [storeElems, hop]
    dsimp only
    rw [localKey_own n hga hoff, indexNibs_own hoff]
    rfl

end Sys2Proof.Machine
end

section
/-! PROOFS. The words that a tile memory instruction touches, and the checks that it passes, at the own local store (R125, R135, R136, R180). -/

open Sys2Proof.Claims

namespace Sys2Proof.Machine

/-! ### Each word once, in ascending order -/

theorem insertBy_perm {α : Type} (f : α → Nat) (k : α) (l : List α) : (insertBy f k l).Perm (k :: l) := by
  induction l with
  | nil => exact .refl _
  | cons j r ih =>
    unfold insertBy
    split
    · exact .refl _
    · exact (ih.cons j).trans (.swap k j r)

theorem sortBy_perm {α : Type} (f : α → Nat) (l : List α) : (sortBy f l).Perm l := by
  have hfold : ∀ (r a : List α), (r.foldl (fun a k => insertBy f k a) a).Perm (a ++ r) := by
    intro r
    induction r with
    | nil => exact fun a => by rw [List.append_nil]; exact .refl a
    | cons x r ih => exact fun a => (ih _).trans (((insertBy_perm f x a).append_right r).trans List.perm_middle.symm)
  exact hfold l []

/-- Members put in once each. -/
theorem foldl_once (l a : List Nat) (ha : a.Nodup) : (l.foldl (fun a x => if a.contains x then a else a ++ [x]) a).Nodup ∧
    ∀ x, x ∈ l.foldl (fun a x => if a.contains x then a else a ++ [x]) a ↔ x ∈ a ∨ x ∈ l := by
  induction l generalizing a with
  | nil => exact ⟨ha, fun x => by simp⟩
  | cons y r ih =>
    rw [List.foldl_cons]
    split
    case isTrue hy =>
      have hmem : y ∈ a := by simpa using hy
      obtain ⟨hnodup, hiff⟩ := ih a ha
      refine ⟨hnodup, fun x => ?_⟩
      rw [hiff, List.mem_cons]
      exact ⟨fun h => h.imp_right .inr, fun h => h.elim .inl fun h => h.elim (fun e => .inl (e ▸ hmem)) .inr⟩
    case isFalse hy =>
      have hnot : y ∉ a := by simpa using hy
      obtain ⟨hnodup, hiff⟩ := ih (a ++ [y]) (List.nodup_append.2 ⟨ha, List.nodup_singleton y, fun x hx z hz e =>
        hnot (by rw [← List.mem_singleton.1 hz, ← e]; exact hx)⟩)
      refine ⟨hnodup, fun x => ?_⟩
      rw [hiff, List.mem_append, List.mem_singleton, List.mem_cons, or_assoc]

theorem wordsAt_nodup (key : Nat) (nibs : List Int) : (wordsAt key nibs).Nodup :=
  (sortBy_perm _ _).nodup_iff.2 (foldl_once _ [] List.nodup_nil).1

theorem mem_wordsAt {key : Nat} {nibs : List Int} {w : Nat} : w ∈ wordsAt key nibs ↔ w ∈ nibs.map (nibWord key) := by
  rw [wordsAt, (sortBy_perm _ _).mem_iff, (foldl_once _ [] List.nodup_nil).2]
  simp

/-! ### Elements of the own local store -/

section
variable {s : State} {t : ETy} {n off k : Nat} (hwidth : 8 ≤ bitsOf t) (hoff : off < 2 ^ 17) (hk : k % (bitsOf t / 8) = 0)
include hwidth hoff hk

/-- An aligned element read. -/
theorem nibRead_own : s.nibRead (lsBase n + off) (2 * k : Nat) (nibsOf t) = readNat s.mem (lsBase n + k) (bitsOf t / 8) := by
  obtain ⟨hroom, hlo⟩ := nib_in_word t hwidth hoff hk (n := n)
  obtain ⟨hnibs, -⟩ := nibsOf_eq t hwidth
  have hpow : ∀ i, 16 ^ (2 * i) = 2 ^ (8 * i) := fun i => by
    rw [show (16 : Nat) = 2 ^ 4 from rfl, ← Nat.pow_mul]
    congr 1
    omega
  have hnat : ((2 * k : Nat) : Int).toNat % 8 = 2 * (k % 4) := by
    rw [Int.toNat_natCast]
    omega
  rw [State.nibRead, State.read, hnat, hnibs, hpow, hpow, readNat_part _ _ (by omega)]
  congr 1
  omega

/-- The word of an element within the local store is one of its words. -/
theorem nibWord_own (hin : k < 2 ^ 17) :
    lsBase n / 4 ≤ nibWord (lsBase n + off) (2 * k : Nat) ∧ nibWord (lsBase n + off) (2 * k : Nat) < lsBase (n + 1) / 4 := by
  obtain ⟨-, hlo⟩ := nib_in_word t hwidth hoff hk (n := n)
  simp only [lsBase] at *
  omega

end

/-- Words of the own local store under TRUE hold no error (R203). -/
theorem tileSound_true {s : State} {ea : Word} {key : Nat} {words : List Nat} (h : ∀ w ∈ words, s.damaged.get false w = false) :
    tileSound ea key words s = .ok () s := by
  have hnone : words.find? (fun w => s.badAt (4 * w) 4) = none := by
    refine List.find?_eq_none.2 fun w hw => ?_
    have hword : wordsOf (4 * w) 4 = [w] := by
      rw [wordsOf, if_neg (by decide), show (4 * w + 4 - 1) / 4 - 4 * w / 4 + 1 = 1 by omega]
      simp
    simp [State.badAt, hword, h w hw]
  refine (M.bind_ok s s (M.run_get s)).trans ?_
  simp only [hnone, M.run_pure]

theorem loadReady_ok {s : State} (hvq : s.me.vq = []) (hstill : Still s.me) : loadReady s = .ok () s := by
  obtain ⟨hsb, -, -, hmst⟩ := hstill
  rw [loadReady, M.bind_ok s s (M.run_getMe s)]
  exact needs_ok (by simp [hvq, hsb, hmst])

/-- Rows within the own local store, with aligned base and stride, pass the checks of R135. -/
theorem rowChecks_own {s : State} {t : ETy} {ea stride : Word} {named : Bool} {off : Nat} (hfits : elems s.me * bitsOf t ≤ 2048)
    (hwidth : 8 ≤ bitsOf t) (hea : ea.toNat = 0x7F0000000000 + off) (hoff : off < 2 ^ 17) (halign : off % (bitsOf t / 8) = 0)
    (hstride : named = true → stride.toNat % (bitsOf t / 8) = 0)
    (hrange : ∀ j, j < elems s.me → 0 ≤ rowPlace off (shapeCols s.me.shape) (bitsOf t / 8) named stride j ∧
      rowPlace off (shapeCols s.me.shape) (bitsOf t / 8) named stride j + (bitsOf t / 8 : Nat) ≤ 2 ^ 17) :
    rowChecks t ea named stride s = .ok (lsBase s.cur + off) s := by
  obtain ⟨hnibs, hbits⟩ := nibsOf_eq t hwidth
  have hfind : (rowNibs (lsBase s.cur + off) (shapeRows s.me.shape) (shapeCols s.me.shape) (nibsOf t) named stride).find?
      (fun (x : Int) => decide (x < 0) || decide ((2 ^ 18 : Int) < x + nibsOf t)) = none := by
    rw [rowNibs_own (rows := shapeRows s.me.shape) (cols := shapeCols s.me.shape) hwidth hoff fun j hj => (hrange j hj).1]
    refine List.find?_eq_none.2 fun x hx => ?_
    obtain ⟨j, hj, rfl⟩ := List.mem_map.1 hx
    obtain ⟨hge, hle⟩ := hrange j (List.mem_range.1 hj)
    have hplace := Int.toNat_of_nonneg hge
    simp only [Bool.or_eq_true, decide_eq_true_eq]
    omega
  have hone : nibsOf t ≠ 1 := by omega
  have hst : (if named then stride else 0).toNat % (bitsOf t / 8) = 0 := by
    split
    case isTrue h => exact hstride h
    case isFalse => exact Nat.zero_mod _
  have hbase : ea.toNat % (bitsOf t / 8) = 0 := by
    rw [hea]
    rcases bitsOf_cases t with h | h | h | h
    all_goals
      rw [h] at halign ⊢
      omega
  have hmis : ¬(if nibsOf t = 1 then shapeCols s.me.shape % 2 = 1 ∧ (if named then stride else 0) ≠ 0
      else ea.toNat % (nibsOf t / 2) ≠ 0 ∨ (if named then stride else 0).toNat % (nibsOf t / 2) ≠ 0) := by
    rw [if_neg hone, nibsOf_half, hbase, hst]
    simp
  rw [rowChecks, run_widthOk hfits, M.bind_ok s s (tileWindow_own hea hoff), M.bind_ok s s (M.run_getMe s)]
  simp only [hfind, M.run_pure, if_neg hmis]

end Sys2Proof.Machine
end

section
/-! PROOFS. VLD and VGATHER at the own local store (R120, R135, R136). -/

open Sys2Proof.Claims

namespace Sys2Proof.Machine

/-- Elements read from nibbles of the local store, where a predicate is 1. -/
def State.nibVals (s : State) (t : ETy) (p : PReg) (key : Nat) (nibs : List Int) : List (Option Nat) :=
  nibs.zipIdx.map (fun e => if (s.me.rp p).getLsbD e.2 then some (s.nibRead key e.1 (nibsOf t)) else none)

/-- The words of the nibbles whose predicate is 1. -/
def Core.touched (c : Core) (p : PReg) (key : Nat) (nibs : List Int) : List Nat :=
  wordsAt key ((nibs.zipIdx.filter (fun e => (c.rp p).getLsbD e.2)).map (·.1))

theorem Core.exists_of_mem_touched {c : Core} {p : PReg} {key : Nat} {nibs : List Int} {w : Nat} (h : w ∈ c.touched p key nibs) :
    ∃ x ∈ nibs, nibWord key x = w := by
  obtain ⟨x, hx, rfl⟩ := List.mem_map.1 (mem_wordsAt.1 h)
  obtain ⟨e, he, rfl⟩ := List.mem_map.1 hx
  have hmem := List.mem_map_of_mem (f := Prod.fst) (List.mem_filter.1 he).1
  rw [List.zipIdx_map_fst] at hmem
  exact ⟨e.1, hmem, rfl⟩

theorem keptLabel_true {s : State} {p : PReg} {d : VReg} {ls : List Label} (hls : ∀ l ∈ ls, l = labelTrue) (hd : s.me.lv d = labelTrue)
    (hg : s.me.guardLabel = labelTrue) : keptLabel (some (p, d)) ls s = .ok labelTrue s := by
  rw [keptLabel_eq]
  refine formLabel_true _ (fun l hl => ?_) s hg
  rcases List.mem_append.1 hl with hl | hl
  · exact hls l hl
  · dsimp only at hl
    split at hl
    · exact (List.mem_singleton.1 hl).trans hd
    · exact absurd hl List.not_mem_nil

/-- A tile and its label written by an instruction that goes on. -/
def Core.takes (c : Core) (d : VReg) (v : Tile) (l : Label) : Core := ((c.wv d v).wvl d l).past

theorem Core.takes_lv (c : Core) (d : VReg) (v : Tile) (l : Label) : (c.takes d v l).lv d = l := by
  rw [Core.takes, Core.lv, Core.past_vl]
  exact Core.lv_wvl _ d l

theorem Core.takes_rv (c : Core) (d : VReg) (v : Tile) (l : Label) : (c.takes d v l).rv d = v := by
  rw [Core.takes, Core.rv, Core.past_v]
  exact Core.rv_wv c d v

theorem me_takes (t : State) (d : VReg) (f : Core → Tile) (l : Label) :
    ((t.modCore t.cur (fun c => (c.wv d (f c)).wvl d l)).modCore t.cur Core.past).me = t.me.takes d (f t.me) l :=
  (State.modCore_me (t.modCore t.cur _) Core.past).trans (congrArg Core.past (State.modCore_me t _))

/-- A tile load under TRUE whose words lie in the own local store. -/
theorem tileLoad_run {s : State} {t : ETy} {p : PReg} {d : VReg} {ea : Word} {key : Nat} {nibs : List Int} {ls : List Label}
    (htrue : TrueLocal s s.cur) (hg : s.me.guardLabel = labelTrue) (hd : s.me.lv d = labelTrue) (hls : ∀ l ∈ ls, l = labelTrue)
    (hown : ∀ x ∈ nibs, lsBase s.cur / 4 ≤ nibWord key x ∧ nibWord key x < lsBase (s.cur + 1) / 4) :
    ∃ u, tileLoad t p d ea key nibs ls s = .ok () u ∧ u.me.lv d = labelTrue ∧ u.mem = s.mem ∧
      u.me.rv d = putElems (s.me.rv d) (bitsOf t) (s.nibVals t p key nibs) := by
  obtain ⟨hcur, hmem, htags, hdamaged, q, hme⟩ := (Aged.refl s).observe
  have hwords : ∀ w ∈ (s.observe s.cur).me.touched p key nibs, s.tags.get labelTrue w = labelTrue ∧ s.damaged.get false w = false :=
    fun w hw => by
    obtain ⟨x, hx, rfl⟩ := Core.exists_of_mem_touched hw
    exact htrue _ (hown x hx).1 (hown x hx).2
  have hlabel : keptLabel (some (p, d)) (ls ++ ((s.observe s.cur).me.touched p key nibs).map (fun w =>
      (s.observe s.cur).tags.get labelTrue w)) (s.observe s.cur) = .ok labelTrue (s.observe s.cur) := by
    refine keptLabel_true (fun l hl => ?_) (by rw [hme]; exact hd) (by rw [hme]; exact hg)
    rcases List.mem_append.1 hl with hl | hl
    · exact hls l hl
    · obtain ⟨w, hw, rfl⟩ := List.mem_map.1 hl
      rw [htags]
      exact (hwords w hw).1
  have hsound : tileSound ea key ((s.observe s.cur).me.touched p key nibs) (s.observe s.cur) = .ok () (s.observe s.cur) :=
    tileSound_true fun w hw => by rw [hdamaged]; exact (hwords w hw).2
  have hvals : (s.observe s.cur).nibVals t p key nibs = s.nibVals t p key nibs := by
    simp only [State.nibVals, State.nibRead, State.read, hmem, hme]
    rfl
  have hrun : tileLoad t p d ea key nibs ls s = advance ((s.observe s.cur).modCore (s.observe s.cur).cur (fun c =>
      (c.wv d (putElems (c.rv d) (bitsOf t) ((s.observe s.cur).nibVals t p key nibs))).wvl d labelTrue)) :=
    (M.bind_ok s (s.observe s.cur) rfl).trans ((M.bind_ok _ _ (M.run_get _)).trans ((M.bind_ok _ _ hlabel).trans
      ((M.bind_ok _ _ hsound).trans (M.bind_ok _ _ (M.run_modMe _ _)))))
  refine ⟨_, hrun, ?_, hmem, ?_⟩
  · rw [State.modCore_cur, me_takes, Core.takes_lv]
  · rw [State.modCore_cur, me_takes, Core.takes_rv, hvals, hme]
    rfl

/-- The elements that a tile load from aligned places of the own local store gives. -/
theorem elem_nibVals {s : State} {t : ETy} {p : PReg} {old : Tile} {n off m : Nat} {k : Nat → Nat} (hwidth : 8 ≤ bitsOf t)
    (hfits : m * bitsOf t ≤ 2048) (hoff : off < 2 ^ 17) (hk : ∀ j, j < m → k j % (bitsOf t / 8) = 0) {j : Nat} (hj : j < m) :
    elem (putElems old (bitsOf t) (s.nibVals t p (lsBase n + off) ((List.range m).map (fun j => ((2 * k j : Nat) : Int))))) (bitsOf t) j =
      if (s.me.rp p).getLsbD j then readNat s.mem (lsBase n + k j) (bitsOf t / 8) else elem old (bitsOf t) j := by
  obtain ⟨-, hbits⟩ := nibsOf_eq t hwidth
  have hlt := readNat_lt s.mem (lsBase n + k j) (bitsOf t / 8)
  rw [hbits] at hlt
  rw [State.nibVals, zipIdx_map_range, List.map_map, elem_putElems _ _ (by simpa using hfits) (by simpa using hj), List.getElem_map,
    List.getElem_range, Function.comp_apply]
  dsimp only
  split
  · rw [Option.getD_some, nibRead_own hwidth hoff (hk j hj), Nat.mod_eq_of_lt hlt]
  · exact Nat.mod_eq_of_lt (elemAt_lt _ _ _)

end Sys2Proof.Machine
end

section
/-! PROOFS. O31, its loads: VLD and VGATHER complete (R120, R135, R136). -/

open Sys2Proof.Claims

namespace Sys2Proof.Machine

theorem Core.shape_elems (c : Core) : shapeRows c.shape * shapeCols c.shape = elems c := rfl

/-- A signed stride is aligned as its bits are. -/
theorem toInt_aligned (t : ETy) {v : Word} (h : v.toNat % (bitsOf t / 8) = 0) (hwidth : 8 ≤ bitsOf t) :
    ((bitsOf t / 8 : Nat) : Int) ∣ v.toInt := by
  rw [BitVec.toInt_eq_toNat_cond]
  rcases bitsOf_cases t with ht | ht | ht | ht
  all_goals
    rw [ht] at h hwidth ⊢
    split
    all_goals omega

theorem rowPlace_aligned (t : ETy) (hwidth : 8 ≤ bitsOf t) {off cols : Nat} {named : Bool} {stride : Word} {j : Nat}
    (halign : off % (bitsOf t / 8) = 0) (hstride : named = true → stride.toNat % (bitsOf t / 8) = 0)
    (hge : 0 ≤ rowPlace off cols (bitsOf t / 8) named stride j) :
    (rowPlace off cols (bitsOf t / 8) named stride j).toNat % (bitsOf t / 8) = 0 := by
  have hdvd : ((bitsOf t / 8 : Nat) : Int) ∣ rowPlace off cols (bitsOf t / 8) named stride j := by
    refine dvd_add (dvd_add (Int.natCast_dvd_natCast.2 (Nat.dvd_of_mod_eq_zero halign)) (dvd_mul_of_dvd_right ?_ _))
      (Int.natCast_dvd_natCast.2 (Nat.dvd_mul_left _ _))
    split
    case isTrue h => exact toInt_aligned t (hstride h) hwidth
    case isFalse => exact Int.natCast_dvd_natCast.2 (Nat.dvd_mul_left _ _)
  rw [← Int.toNat_of_nonneg hge] at hdvd
  exact Nat.mod_eq_zero_of_dvd (Int.natCast_dvd_natCast.1 hdvd)

theorem indexPlace_aligned (t : ETy) (hwidth : 8 ≤ bitsOf t) {off : Nat} (halign : off % (bitsOf t / 8) = 0) (idx : Tile) (j : Nat) :
    indexPlace off (bitsOf t / 8) idx j % (bitsOf t / 8) = 0 := by
  have hsum : (off + elem idx 16 j * (bitsOf t / 8)) % (bitsOf t / 8) = 0 := by rw [Nat.add_mul_mod_self_right, halign]
  rw [indexPlace, Nat.mod_mod_of_dvd _ ?_, hsum]
  rcases bitsOf_cases t with ht | ht | ht | ht
  all_goals
    rw [ht] at hwidth ⊢
    omega

/-- The element at position j of a load that takes its elements from the bytes k of the own local store. -/
def LoadsFrom (i : Instr) (s : State) (w m : Nat) (p : PReg) (d : VReg) (k : Nat → Nat) : Prop :=
  ∃ u, exec i s = .next u ∧ u.me.lv d = labelTrue ∧ u.mem = s.mem ∧
    ∀ e, e < m → elem (u.me.rv d) (8 * w) e =
      if (s.me.rp p).getLsbD e then readNat s.mem (lsBase s.cur + k e) w else elem (s.me.rv d) (8 * w) e

section
variable {s : State} {t : ETy} {p : PReg} {d b : VReg} {a z : GLow} {off : Nat}
variable (hwidth : 8 ≤ bitsOf t) (hfits : elems s.me * bitsOf t ≤ 2048) (hea : (s.me.rg (lowG a)).toNat = 0x7F0000000000 + off)
variable (hoff : off < 2 ^ 17) (halign : off % (bitsOf t / 8) = 0) (hvq : s.me.vq = []) (hstill : Still s.me) (htrue : TrueLocal s s.cur)
variable (hguard : s.me.guardLabel = labelTrue) (ha : s.me.lg (lowG a) = labelTrue) (hp : s.me.lp p = labelTrue) (hd : s.me.lv d = labelTrue)
include hwidth hfits hoff htrue hguard hd

/-- A load whose checks pass completes. -/
theorem loadsFrom_of_run {i : Instr} {m : M Unit} {ea : Word} {ls : List Label} {k : Nat → Nat} (hexec : exec i s = runI i m s)
    (hls : ∀ l ∈ ls, l = labelTrue) (hk : ∀ j, j < elems s.me → k j % (bitsOf t / 8) = 0 ∧ k j < 2 ^ 17)
    (hm : m s = tileLoad t p d ea (lsBase s.cur + off) ((List.range (elems s.me)).map (fun j => ((2 * k j : Nat) : Int))) ls s) :
    LoadsFrom i s (bitsOf t / 8) (elems s.me) p d k := by
  obtain ⟨-, hbits⟩ := nibsOf_eq t hwidth
  obtain ⟨u, hrun, hlv, hmem, hrv⟩ := tileLoad_run (t := t) (p := p) (ea := ea) (key := lsBase s.cur + off) htrue hguard hd hls
    (nibs := (List.range (elems s.me)).map (fun j => ((2 * k j : Nat) : Int))) (fun x hx => by
      obtain ⟨j, hj, rfl⟩ := List.mem_map.1 hx
      obtain ⟨haligned, hin⟩ := hk j (List.mem_range.1 hj)
      exact nibWord_own hwidth hoff haligned hin)
  refine ⟨u, hexec.trans (runI_ok (hm.trans hrun)), hlv, hmem, fun e he => ?_⟩
  rw [hbits, hrv]
  exact elem_nibVals hwidth hfits hoff (fun j hj => (hk j hj).1) he

include hea halign hvq hstill ha hp

/-- VLD: rows a stride apart (R135, R136). -/
theorem loadsFrom_vld (hz : s.me.lg (lowG z) = labelTrue) (hstride : z ≠ 0 → (s.me.rg (lowG z)).toNat % (bitsOf t / 8) = 0)
    (hrange : ∀ j, j < elems s.me → 0 ≤ rowPlace off (shapeCols s.me.shape) (bitsOf t / 8) (z != 0) (s.me.rg (lowG z)) j ∧
      rowPlace off (shapeCols s.me.shape) (bitsOf t / 8) (z != 0) (s.me.rg (lowG z)) j + (bitsOf t / 8 : Nat) ≤ 2 ^ 17) :
    LoadsFrom (.vld t p d a z) s (bitsOf t / 8) (elems s.me) p d
      (fun j => (rowPlace off (shapeCols s.me.shape) (bitsOf t / 8) (z != 0) (s.me.rg (lowG z)) j).toNat) := by
  have hnamed : (z != 0) = true → (s.me.rg (lowG z)).toNat % (bitsOf t / 8) = 0 := fun h => hstride (bne_iff_ne.1 h)
  refine loadsFrom_of_run hwidth hfits hoff htrue hguard hd rfl (ls := [s.me.lg (lowG a), s.me.lg (lowG z), s.me.lp p])
    (ea := s.me.rg (lowG a)) (by simp [ha, hz, hp]) (fun j hj => ?_) ?_
  · obtain ⟨hge, hle⟩ := hrange j hj
    have hplace := Int.toNat_of_nonneg hge
    have hpos : 0 < bitsOf t / 8 := by omega
    exact ⟨rowPlace_aligned t hwidth halign hnamed hge, by omega⟩
  · rw [← Core.shape_elems, ← rowNibs_own (rows := shapeRows s.me.shape) (cols := shapeCols s.me.shape) hwidth hoff fun j hj => (hrange j hj).1]
    exact (M.bind_ok s s (M.run_getMe s)).trans ((M.bind_ok s s (rowChecks_own hfits hwidth hea hoff halign hnamed hrange)).trans
      (M.bind_ok s s (loadReady_ok hvq hstill)))

/-- VGATHER: each element at its index (R135, R136). -/
theorem loadsFrom_vgather (hcount : elems s.me ≤ 128) (hb : s.me.lv b = labelTrue) :
    LoadsFrom (.vgather t p d a b) s (bitsOf t / 8) (elems s.me) p d (indexPlace off (bitsOf t / 8) (s.me.rv b)) := by
  refine loadsFrom_of_run hwidth hfits hoff htrue hguard hd rfl (ls := [s.me.lv b, s.me.lg (lowG a), s.me.lp p])
    (ea := s.me.rg (lowG a)) (by simp [ha, hb, hp]) (fun j _ => ⟨indexPlace_aligned t hwidth halign _ j, Nat.mod_lt _ (by decide)⟩) ?_
  rw [← indexNibs_own hoff, ← Core.count_eq_elems]
  exact (M.bind_ok s s (M.run_getMe s)).trans ((M.bind_ok s s (indexChecks_own hfits hwidth hea hoff halign hcount)).trans
    (M.bind_ok s s (loadReady_ok hvq hstill)))

end

end Sys2Proof.Machine
end

section
/-! PROOFS. VAMO at the own local store: its words read, combined and stored (R138). -/

open Sys2Proof.Claims

namespace Sys2Proof.Machine

/-! ### The operations of VAMO -/

/-- The new value of a word, in the words of the claim. -/
def vamoValue (o : VamoOp) (t : ETy) (old x : Nat) : Nat :=
  let sg (x : Nat) : Int := if t = .s32 then (BitVec.ofNat 32 x).toInt else x
  match o with
  | .add => (old + x) % 2 ^ 32
  | .min => if sg x < sg old then x else old
  | .max => if sg old < sg x then x else old
  | .and => old &&& x
  | .or => old ||| x
  | .xor => old ^^^ x
  | .swap => x

theorem tyInt_word {t : ETy} (ht : t = .s32 ∨ t = .n32) {x : Nat} (hx : x < 2 ^ 32) :
    tyInt t x = if t = .s32 then (BitVec.ofNat 32 x).toInt else (x : Int) := by
  rcases ht with rfl | rfl
  · have hsigned : tyInt .s32 x = if 2 ^ 31 ≤ x then (x : Int) - 2 ^ 32 else (x : Int) := by
      simp [tyInt, tyn, bitsOf, tyBits, tySigned, ETy.code]
    rw [hsigned, if_pos rfl, BitVec.toInt_eq_toNat_cond, BitVec.toNat_ofNat, Nat.mod_eq_of_lt hx]
    split
    all_goals split
    all_goals omega
  · rfl

theorem vamoStep_eq (o : VamoOp) {t : ETy} (ht : t = .s32 ∨ t = .n32) {old x : Nat} (hold : old < 2 ^ 32) (hx : x < 2 ^ 32) :
    vamoStep o t old x = vamoValue o t old x := by
  have hint : t.isInt = true := by rcases ht with rfl | rfl <;> rfl
  have hbits : bitsOf t = 32 := by rcases ht with rfl | rfl <;> rfl
  cases o
  all_goals simp only [vamoStep, vamoValue, redStep, hint, if_true, hbits, tyInt_word ht hold, tyInt_word ht hx]

theorem vamoValue_lt (o : VamoOp) (t : ETy) {old x : Nat} (hold : old < 2 ^ 32) (hx : x < 2 ^ 32) : vamoValue o t old x < 2 ^ 32 := by
  cases o
  case add => exact Nat.mod_lt _ (by decide)
  case min =>
    unfold vamoValue
    dsimp only
    split_ifs
    all_goals assumption
  case max =>
    unfold vamoValue
    dsimp only
    split_ifs
    all_goals assumption
  case and => exact Nat.and_lt_two_pow _ hx
  case or => exact Nat.or_lt_two_pow hold hx
  case xor => exact Nat.xor_lt_two_pow hold hx
  case swap => exact hx

/-! ### The positions in turn -/

/-- What the positions do in turn: the new words, and each position's old word. -/
def vamoFold (s : State) (o : VamoOp) (t : ETy) (key x : Nat) (hits : List (Int × Nat)) (r : AMap Nat × List (Nat × Nat)) :
    AMap Nat × List (Nat × Nat) :=
  hits.foldl (fun (r : AMap Nat × List (Nat × Nat)) e =>
    let w := nibWord key e.1
    let old := (r.1.find? w).getD (s.read (4 * w) 4)
    (r.1.put w (vamoStep o t old (elemAt x 32 e.2)), r.2 ++ [(e.2, old)])) r

/-- A position that acts on the word that memory holds. -/
def vamoFirst (s : State) (o : VamoOp) (t : ETy) (key x : Nat) (e : Int × Nat) (r : AMap Nat × List (Nat × Nat)) :
    AMap Nat × List (Nat × Nat) :=
  (r.1.put (nibWord key e.1) (vamoStep o t (s.read (4 * nibWord key e.1) 4) (elemAt x 32 e.2)),
    r.2 ++ [(e.2, s.read (4 * nibWord key e.1) 4)])

theorem vamoFold_cons (s : State) (o : VamoOp) (t : ETy) (key x : Nat) {e : Int × Nat} (l : List (Int × Nat))
    {r : AMap Nat × List (Nat × Nat)} (h : r.1.find? (nibWord key e.1) = none) :
    vamoFold s o t key x (e :: l) r = vamoFold s o t key x l (vamoFirst s o t key x e r) := by
  simp only [vamoFold, vamoFirst, List.foldl_cons, h, Option.getD_none]

/-- Where the positions name different words, each acts on the word that memory holds. -/
theorem vamoFold_apart (s : State) (o : VamoOp) (t : ETy) (key x : Nat) (hits : List (Int × Nat)) (r : AMap Nat × List (Nat × Nat))
    (hapart : (hits.map (fun e => nibWord key e.1)).Nodup) (hnew : ∀ e ∈ hits, r.1.find? (nibWord key e.1) = none) :
    (vamoFold s o t key x hits r).2 = r.2 ++ hits.map (fun e => (e.2, s.read (4 * nibWord key e.1) 4)) ∧
    (∀ w, w ∉ hits.map (fun e => nibWord key e.1) → (vamoFold s o t key x hits r).1.find? w = r.1.find? w) ∧
    ∀ e ∈ hits, (vamoFold s o t key x hits r).1.find? (nibWord key e.1) =
      some (vamoStep o t (s.read (4 * nibWord key e.1) 4) (elemAt x 32 e.2)) := by
  induction hits generalizing r with
  | nil => exact ⟨(List.append_nil _).symm, fun _ _ => rfl, fun e he => absurd he List.not_mem_nil⟩
  | cons e l ih =>
    rw [List.map_cons, List.nodup_cons] at hapart
    obtain ⟨hfirst, hrest⟩ := hapart
    have hne : ∀ y ∈ l, nibWord key y.1 ≠ nibWord key e.1 := fun y hy h => hfirst (h ▸ List.mem_map_of_mem hy)
    obtain ⟨hold, hstay, hput⟩ := ih (vamoFirst s o t key x e r) hrest fun y hy => by
      rw [vamoFirst, AMap.find_put_ne _ _ (hne y hy)]
      exact hnew y (List.mem_cons_of_mem _ hy)
    rw [vamoFold_cons s o t key x l (hnew e List.mem_cons_self)]
    refine ⟨by rw [hold, List.map_cons, vamoFirst, List.append_assoc]; rfl, fun w hw => ?_, fun y hy => ?_⟩
    · rw [List.map_cons, List.mem_cons, not_or] at hw
      rw [hstay w hw.2, vamoFirst, AMap.find_put_ne _ _ hw.1]
    · rcases List.mem_cons.1 hy with rfl | hy
      · rw [hstay _ hfirst, vamoFirst, AMap.find_put_self]
      · exact hput y hy

end Sys2Proof.Machine
end

section
/-! PROOFS. O31: VAMO completes, and the loads (R136, R138). -/

open Sys2Proof.Claims

namespace Sys2Proof.Machine

/-! ### The positions that act -/

/-- The positions of m where a predicate is 1. -/
def Core.hits (c : Core) (p : PReg) (m : Nat) : List Nat := (List.range m).filter (fun e => (c.rp p).getLsbD e)

theorem Core.mem_hits {c : Core} {p : PReg} {m e : Nat} : e ∈ c.hits p m ↔ e < m ∧ (c.rp p).getLsbD e = true := by
  rw [Core.hits, List.mem_filter, List.mem_range]

theorem filter_zipIdx_map_range {α : Type} (g : Nat → α) (q : Nat → Bool) (m : Nat) :
    ((List.range m).map g).zipIdx.filter (fun e => q e.2) = ((List.range m).filter q).map (fun e => (g e, e)) := by
  rw [zipIdx_map_range, List.filter_map]
  rfl

/-- The first pair of a position, in a list of one pair for each. -/
theorem find_pair (l : List Nat) (f : Nat → Nat) (i : Nat) :
    ((l.map (fun e => (e, f e))).find? (fun q => q.1 == i)).map (·.2) = if i ∈ l then some (f i) else none := by
  induction l with
  | nil => rfl
  | cons e r ih =>
    rw [List.map_cons, List.find?_cons]
    by_cases he : e = i
    · subst he
      simp
    · have hne : (e == i) = false := beq_eq_false_iff_ne.2 he
      dsimp only
      rw [hne]
      simp only [ih, List.mem_cons, Ne.symm he, false_or]

/-! ### The words stored -/

/-- A word of VAMO stored. -/
theorem writesWord_store {s : State} (hs : s.Canonical) (e : Nat × Label) (v : Nat) :
    WritesWord e.1 (fun b => some (v.testBit b)) s (s.store (localLoc e.1) 4 v [(e.1, e.2)]) :=
  ⟨State.store_canonical hs _ _ _ _, SameCores.store (.refl s) _ _ _ _, fun b => by rw [memBit_storeWord hs]; rfl⟩

/-- Different words stored whole. -/
theorem storeWords_run {s : State} (hs : s.Canonical) (words : List Nat) (hwords : words.Nodup) (v : Nat → Nat) :
    let u := (words.zip (words.map (fun _ => labelTrue))).foldl (fun s e => s.store (localLoc e.1) 4 (v e.1) [(e.1, e.2)]) s
    SameCores s u ∧ (∀ w ∈ words, v w < 2 ^ 32 → readNat u.mem (4 * w) 4 = v w) ∧ ∀ k, k / 4 ∉ words → u.mem.get 0 k = s.mem.get 0 k := by
  have hmap : (words.map (fun w => (w, labelTrue))).map Prod.fst = words := by
    rw [List.map_map]
    exact List.map_id words
  intro u
  have hu : u = (words.map (fun w => (w, labelTrue))).foldl (fun s e => s.store (localLoc e.1) 4 (v e.1) [(e.1, e.2)]) s := by
    rw [← zip_const]
  obtain ⟨-, hcores, hstay, hwritten⟩ := foldl_writesWord (word := Prod.fst) (fun s e hs => writesWord_store hs e (v e.1))
    (words.map (fun w => (w, labelTrue))) hs (by rw [hmap]; exact hwords)
  rw [← hu] at hcores hstay hwritten
  rw [hmap] at hstay
  refine ⟨hcores, fun w hw hlt => ?_, fun k hk => ?_⟩
  · refine readNat_eq_of_bits hlt fun b hb => ?_
    rw [hwritten (w, labelTrue) (List.mem_map_of_mem hw) _ (by dsimp only; omega), Option.getD_some]
    congr 1
    omega
  · refine get_eq_of_bits fun i hi => hstay _ ?_
    rwa [show (8 * k + i) / 32 = k / 4 by omega]

/-! ### VAMO -/

/-- The word of an aligned index. -/
theorem nibWord_word {n off k : Nat} (hoff : off < 2 ^ 17) (hk : k % 4 = 0) : 4 * nibWord (lsBase n + off) (2 * k : Nat) = lsBase n + k := by
  have hword := (nib_in_word .s32 (by decide) hoff hk (n := n)).2
  omega

/-- What VAMO names of its core: the nibbles where its predicate is 1, and its words. -/
def Core.vamoHits (c : Core) (t : ETy) (p : PReg) (b : VReg) (key : Nat) : List (Int × Nat) :=
  (indexNibs key c.count (nibsOf t) (c.rv b)).zipIdx.filter (fun e => (c.rp p).getLsbD e.2)
def Core.vamoWords (c : Core) (t : ETy) (p : PReg) (b : VReg) (key : Nat) : List Nat := wordsAt key ((c.vamoHits t p b key).map (·.1))

section
variable {s : State} {o : VamoOp} {t : ETy} {p : PReg} {d b : VReg} {a : GLow} {off : Nat}

theorem vamoHits_eq (hbits : bitsOf t = 32) (hoff : off < 2 ^ 17) (c : Core) (n : Nat) : c.vamoHits t p b (lsBase n + off) =
    (c.hits p (elems c)).map (fun e => (((2 * indexPlace off 4 (c.rv b) e : Nat) : Int), e)) := by
  rw [Core.vamoHits, indexNibs_own hoff, hbits, filter_zipIdx_map_range, Core.count_eq_elems]
  rfl

/-- The new words and the old ones. -/
def State.vamoResult (s : State) (o : VamoOp) (t : ETy) (p : PReg) (d b : VReg) (key : Nat) : AMap Nat × List (Nat × Nat) :=
  vamoFold (s.observe s.cur) o t key (s.me.rv d).toNat (s.me.vamoHits t p b key) ([], [])
/-- The state with the words stored, and the elements that the tile takes. -/
def State.vamoStored (s : State) (o : VamoOp) (t : ETy) (p : PReg) (d b : VReg) (key : Nat) : State :=
  ((s.me.vamoWords t p b key).zip ((s.me.vamoWords t p b key).map (fun _ => labelTrue))).foldl
    (fun u e => u.store (localLoc e.1) 4 (((s.vamoResult o t p d b key).1.find? e.1).getD 0) [(e.1, e.2)]) (s.observe s.cur)
def State.vamoVals (s : State) (o : VamoOp) (t : ETy) (p : PReg) (d b : VReg) (key : Nat) : List (Option Nat) :=
  (List.range 64).map (fun i => ((s.vamoResult o t p d b key).2.find? (fun e => e.1 == i)).map (·.2))

theorem vamoStored_spec (hs : s.Canonical) (key : Nat) : SameCores (s.observe s.cur) (s.vamoStored o t p d b key) ∧
    (∀ w ∈ s.me.vamoWords t p b key, ((s.vamoResult o t p d b key).1.find? w).getD 0 < 2 ^ 32 →
      readNat (s.vamoStored o t p d b key).mem (4 * w) 4 = ((s.vamoResult o t p d b key).1.find? w).getD 0) ∧
    ∀ k, k / 4 ∉ s.me.vamoWords t p b key → (s.vamoStored o t p d b key).mem.get 0 k = s.mem.get 0 k := by
  have hrun := storeWords_run (s := s.observe s.cur) hs (s.me.vamoWords t p b key) (wordsAt_nodup _ _)
    (fun w => ((s.vamoResult o t p d b key).1.find? w).getD 0)
  rw [(Aged.refl s).observe.mem] at hrun
  exact hrun

theorem vamoStored_rv (hs : s.Canonical) (key : Nat) : (s.vamoStored o t p d b key).me.rv d = s.me.rv d := by
  obtain ⟨hcores, -, -⟩ := vamoStored_spec (o := o) (t := t) (p := p) (d := d) (b := b) hs key
  obtain ⟨hcur, -, -, -, q, hme⟩ := (Aged.refl s).observe
  have hv : (s.vamoStored o t p d b key).me.v = s.me.v := by
    rw [State.me, hcores.cur, hcores.v]
    change (s.observe s.cur).me.v = s.me.v
    rw [hme]
  rw [Core.rv, Core.rv, hv]

/-- VAMO whose checks pass, under TRUE. -/
theorem exec_vamo {key : Nat} (hchecks : indexChecks t (s.me.rg (lowG a)) s = .ok key s) (hvq : s.me.vq = []) (hstill : Still s.me)
    (hguard : s.me.guardLabel = labelTrue) (ha : s.me.lg (lowG a) = labelTrue) (hp : s.me.lp p = labelTrue) (hd : s.me.lv d = labelTrue)
    (hb : s.me.lv b = labelTrue)
    (hwords : ∀ w ∈ s.me.vamoWords t p b key, s.tags.get labelTrue w = labelTrue ∧ s.damaged.get false w = false) :
    exec (.vamo o t p d a b) s = .next (((s.vamoStored o t p d b key).modCore (s.vamoStored o t p d b key).cur (fun c =>
      (c.wv d (putElems (c.rv d) 32 (s.vamoVals o t p d b key))).wvl d labelTrue)).modCore (s.vamoStored o t p d b key).cur Core.past) := by
  obtain ⟨hcur, -, htags, hdamaged, q, hme⟩ := (Aged.refl s).observe
  have hguard' : (s.observe s.cur).me.guardLabel = labelTrue := by rw [hme]; exact hguard
  have hls : ∀ l ∈ [s.me.lv d, s.me.lv b, s.me.lg (lowG a), s.me.lp p], l = labelTrue := by simp [hd, hb, ha, hp]
  have htag : ∀ w ∈ s.me.vamoWords t p b key, (s.observe s.cur).tags.get labelTrue w = labelTrue := fun w hw => by
    rw [htags]
    exact (hwords w hw).1
  have hmap := mapM_same (s := s.observe s.cur) (v := labelTrue) (s.me.vamoWords t p b key)
    (f := fun w => formLabel ((s.observe s.cur).tags.get labelTrue w :: [s.me.lv d, s.me.lv b, s.me.lg (lowG a), s.me.lp p]))
    fun w hw => formLabel_true _ (fun l hl => (List.mem_cons.1 hl).elim (fun e => e.trans (htag w hw)) (hls l)) _ hguard'
  have hlabel := formLabel_true ([s.me.lv d, s.me.lv b, s.me.lg (lowG a), s.me.lp p] ++
    (s.me.vamoWords t p b key).map (fun w => (s.observe s.cur).tags.get labelTrue w)) (fun l hl => by
      rcases List.mem_append.1 hl with hl | hl
      · exact hls l hl
      · obtain ⟨w, hw, rfl⟩ := List.mem_map.1 hl
        exact htag w hw) (s.observe s.cur) hguard'
  have hsound := tileSound_true (s := s.observe s.cur) (ea := s.me.rg (lowG a)) (key := key) (words := s.me.vamoWords t p b key)
    fun w hw => by rw [hdamaged]; exact (hwords w hw).2
  have hsb : needs s.me.sb.isEmpty s = .ok () s := needs_ok (by rw [hstill.1]; rfl)
  refine runI_ok ((M.bind_ok s s (M.run_getMe s)).trans ((M.bind_ok s s hchecks).trans ((M.bind_ok s s (loadReady_ok hvq hstill)).trans
    ((M.bind_ok s s hsb).trans ((M.bind_ok s (s.observe s.cur) rfl).trans ((M.bind_ok _ _ (M.run_get _)).trans
      ((M.bind_ok _ _ hmap).trans ((M.bind_ok _ _ hlabel).trans ((M.bind_ok _ _ hsound).trans
        ((M.bind_ok _ (s.vamoStored o t p d b key) rfl).trans (M.bind_ok _ _ (M.run_modMe _ _))))))))))))

/-- The byte of position e's word. -/
def State.vamoWord (s : State) (b : VReg) (off e : Nat) : Nat := lsBase s.cur + indexPlace off 4 (s.me.rv b) e

theorem indexPlace_word (halign : off % 4 = 0) (idx : Tile) (e : Nat) : indexPlace off 4 idx e % 4 = 0 := by
  unfold indexPlace
  omega

theorem vamoWord_eq (hoff : off < 2 ^ 17) (halign : off % 4 = 0) (e : Nat) :
    4 * nibWord (lsBase s.cur + off) (2 * indexPlace off 4 (s.me.rv b) e : Nat) = s.vamoWord b off e :=
  nibWord_word hoff (indexPlace_word halign _ e)

theorem mem_vamoWords (hbits : bitsOf t = 32) (hoff : off < 2 ^ 17) {w : Nat} : w ∈ s.me.vamoWords t p b (lsBase s.cur + off) ↔
    ∃ e ∈ s.me.hits p (elems s.me), nibWord (lsBase s.cur + off) (2 * indexPlace off 4 (s.me.rv b) e : Nat) = w := by
  rw [Core.vamoWords, mem_wordsAt, vamoHits_eq hbits hoff, List.map_map, List.map_map, List.mem_map]
  rfl

variable (ht : t = .s32 ∨ t = .n32) (hoff : off < 2 ^ 17) (halign : off % 4 = 0)
variable (hapart : ∀ e f, e ∈ s.me.hits p (elems s.me) → f ∈ s.me.hits p (elems s.me) → s.vamoWord b off e = s.vamoWord b off f → e = f)
include ht hoff halign

include hapart

/-- What the positions leave: the old words for the tile, the new ones for memory. -/
theorem vamoResult_apart :
    (s.vamoResult o t p d b (lsBase s.cur + off)).2 = (s.me.hits p (elems s.me)).map (fun e => (e, readNat s.mem (s.vamoWord b off e) 4)) ∧
    ∀ e ∈ s.me.hits p (elems s.me), (s.vamoResult o t p d b (lsBase s.cur + off)).1.find?
        (nibWord (lsBase s.cur + off) (2 * indexPlace off 4 (s.me.rv b) e : Nat)) =
      some (vamoStep o t (readNat s.mem (s.vamoWord b off e) 4) (elem (s.me.rv d) 32 e)) := by
  have hbits : bitsOf t = 32 := by rcases ht with rfl | rfl <;> rfl
  have hmem : (s.observe s.cur).mem = s.mem := (Aged.refl s).observe.mem
  have hread : ∀ e, (s.observe s.cur).read (4 * nibWord (lsBase s.cur + off) (2 * indexPlace off 4 (s.me.rv b) e : Nat)) 4 =
      readNat s.mem (s.vamoWord b off e) 4 := fun e => by rw [State.read, hmem, vamoWord_eq hoff halign]
  have hnodup : ((s.me.vamoHits t p b (lsBase s.cur + off)).map (fun e => nibWord (lsBase s.cur + off) e.1)).Nodup := by
    rw [vamoHits_eq hbits hoff, List.map_map]
    refine List.Nodup.map_on (fun e he f hf hef => hapart e f he hf ?_) (List.nodup_range.filter _)
    rw [← vamoWord_eq hoff halign, ← vamoWord_eq hoff halign]
    exact congrArg (4 * ·) hef
  obtain ⟨hold, -, hnew⟩ := vamoFold_apart (s.observe s.cur) o t (lsBase s.cur + off) (s.me.rv d).toNat
    (s.me.vamoHits t p b (lsBase s.cur + off)) ([], []) hnodup (fun _ _ => rfl)
  rw [vamoHits_eq hbits hoff] at hold hnew
  refine ⟨?_, fun e he => ?_⟩
  · rw [State.vamoResult, vamoHits_eq hbits hoff, hold, List.nil_append, List.map_map]
    exact List.map_congr_left fun e _ => congrArg (Prod.mk e) (hread e)
  · rw [State.vamoResult, vamoHits_eq hbits hoff, hnew _ (List.mem_map_of_mem he), hread]
    rfl

/-- VAMO on words apart: each takes the operation, each element its old word, and every other byte stays (R138). -/
theorem completes_vamo (hcount : elems s.me ≤ 64) (hea : (s.me.rg (lowG a)).toNat = 0x7F0000000000 + off) (hs : s.Canonical)
    (hvq : s.me.vq = []) (hstill : Still s.me) (htrue : TrueLocal s s.cur) (hguard : s.me.guardLabel = labelTrue)
    (ha : s.me.lg (lowG a) = labelTrue) (hp : s.me.lp p = labelTrue) (hd : s.me.lv d = labelTrue) (hb : s.me.lv b = labelTrue) :
    ∃ u, exec (.vamo o t p d a b) s = .next u ∧
      (∀ e, e < elems s.me → elem (u.me.rv d) 32 e =
        if (s.me.rp p).getLsbD e then readNat s.mem (s.vamoWord b off e) 4 else elem (s.me.rv d) 32 e) ∧
      (∀ e ∈ s.me.hits p (elems s.me), readNat u.mem (s.vamoWord b off e) 4 =
        vamoValue o t (readNat s.mem (s.vamoWord b off e) 4) (elem (s.me.rv d) 32 e)) ∧
      ∀ k, (∀ e ∈ s.me.hits p (elems s.me), k < s.vamoWord b off e ∨ s.vamoWord b off e + 4 ≤ k) → u.mem.get 0 k = s.mem.get 0 k := by
  have hbits : bitsOf t = 32 := by rcases ht with rfl | rfl <;> rfl
  have hlt : ∀ e, readNat s.mem (s.vamoWord b off e) 4 < 2 ^ 32 := fun e => readNat_lt _ _ 4
  obtain ⟨hold, hnew⟩ := vamoResult_apart (o := o) (d := d) ht hoff halign hapart
  have hwords : ∀ w ∈ s.me.vamoWords t p b (lsBase s.cur + off), s.tags.get labelTrue w = labelTrue ∧ s.damaged.get false w = false :=
    fun w hw => by
    obtain ⟨e, -, rfl⟩ := (mem_vamoWords hbits hoff).1 hw
    have hin := nibWord_own (t := .s32) (n := s.cur) (by decide) hoff (indexPlace_word halign (s.me.rv b) e) (Nat.mod_lt _ (by decide))
    exact htrue _ hin.1 hin.2
  obtain ⟨-, hstored, hframe⟩ := vamoStored_spec (o := o) (t := t) (p := p) (d := d) (b := b) hs (lsBase s.cur + off)
  have hvals : ∀ e, e < 64 → (s.vamoVals o t p d b (lsBase s.cur + off))[e]? =
      some (if e ∈ s.me.hits p (elems s.me) then some (readNat s.mem (s.vamoWord b off e) 4) else none) := fun e he => by
    rw [State.vamoVals, List.getElem?_map, List.getElem?_range he, hold, Option.map_some, find_pair]
  have hlen : (s.vamoVals o t p d b (lsBase s.cur + off)).length = 64 := by rw [State.vamoVals, List.length_map, List.length_range]
  refine ⟨_, exec_vamo (indexChecks_own (by rw [hbits]; omega) (by omega) hea hoff (by rw [hbits]; exact halign) (by omega)) hvq hstill hguard ha hp hd hb
    hwords, fun e he => ?elem, fun e he => ?word, fun k hk => ?frame⟩
  case elem =>
    have hval := hvals e (by omega)
    rw [List.getElem?_eq_getElem (by omega), Option.some_inj] at hval
    rw [me_takes, Core.takes_rv, vamoStored_rv hs, elem_putElems _ _ (by rw [hlen]) (by rw [hlen]; omega), hval]
    simp only [Core.mem_hits, he, true_and]
    split
    · exact Nat.mod_eq_of_lt (hlt e)
    · exact Nat.mod_eq_of_lt (elemAt_lt _ _ _)
  case word =>
    have hx : elem (s.me.rv d) 32 e < 2 ^ 32 := elemAt_lt _ _ _
    have hword := hstored _ ((mem_vamoWords hbits hoff).2 ⟨e, he, rfl⟩)
    rw [hnew e he, Option.getD_some, vamoStep_eq o ht (hlt e) hx, vamoWord_eq hoff halign] at hword
    rw [State.modCore_mem, State.modCore_mem]
    exact hword (vamoValue_lt o t (hlt e) hx)
  case frame =>
    rw [State.modCore_mem, State.modCore_mem]
    refine hframe k fun hmem => ?_
    obtain ⟨e, he, hke⟩ := (mem_vamoWords hbits hoff).1 hmem
    have hfar := hk e he
    have hword := vamoWord_eq (s := s) (b := b) hoff halign e
    omega

end

end Sys2Proof.Machine
end

section
/-! PROOFS. O31: VLD, VGATHER and VAMO at the local store (R120, R135, R136, R138). -/

open Sys2Proof.Claims

namespace Sys2Proof.Machine

/-- Settles O31: the loads are `loadsFrom_vld` and `loadsFrom_vgather`, VAMO is `completes_vamo`. -/
theorem tileLocal : Obligations.TileLocal := by
  unfold Obligations.TileLocal
  refine ⟨?loads, ?vamo⟩
  case loads =>
    intro s t p d b a z off c w rows cols n step place index hwidth hfits hea hoff halign hvq hstill htrue hguard ha hp hd loads
    refine ⟨fun hz hstride hrange => ?vld, fun hcount hb => loadsFrom_vgather hwidth hfits hea hoff halign hvq hstill htrue hguard ha hp hd hcount hb⟩
    have hplace : ∀ j, rowPlace off (shapeCols s.me.shape) (bitsOf t / 8) (z != 0) (s.me.rg (lowG z)) j = place j := fun j =>
      rowPlace_eq off (shapeCols s.me.shape) (bitsOf t / 8) z (s.me.rg (lowG z)) j
    have hvld := loadsFrom_vld hwidth hfits hea hoff halign hvq hstill htrue hguard ha hp hd hz hstride fun j hj => by
      rw [hplace]
      exact hrange j hj
    simp only [hplace] at hvld
    exact hvld
  case vamo =>
    intro s o t p d b a off c n word on sg ht hcount hea hoff halign hapart hs hvq hstill htrue hguard ha hp hd hb
    obtain ⟨u, hexec, htile, hmem, hframe⟩ := completes_vamo (o := o) ht hoff halign
      (fun e f he hf => hapart e f (Core.mem_hits.1 he) (Core.mem_hits.1 hf)) hcount hea hs hvq hstill htrue hguard ha hp hd hb
    refine ⟨u, hexec, fun e he => ⟨?_, hmem e (Core.mem_hits.2 he)⟩, fun e hlt hoff => ?_, fun k hk => hframe k fun e he => hk e (Core.mem_hits.1 he)⟩
    · rw [htile e he.1, if_pos he.2]
      rfl
    · rw [htile e hlt, if_neg fun h => hoff ⟨hlt, h⟩]

end Sys2Proof.Machine
end

section
/-! PROOFS. O34: the steps of the matrix unit (R153, R156 to R158, R162 to R164).

An operation or a transfer whose labels are all TRUE folds to TRUE (`matrixFold_true`), so that each completion is one update of its core:
`exec_matrixOpComplete_mma` and `exec_matrixTransferComplete_mld` give that update. -/

open Sys2Proof.Claims

namespace Sys2Proof.Machine

/-! ### Accumulators (R158) -/

section
variable (c : Core) (m : MReg) (a : AMap (BitVec 32)) (l : Label)

@[simp] theorem Core.rm_wm_same : (c.wm m a l).rm m = a := by simp [Core.wm, Core.rm]

@[simp] theorem Core.lm_wm_same : (c.wm m a l).lm m = l := by simp [Core.wm, Core.lm]

theorem Core.rm_wm_ne {m q : MReg} (h : q ≠ m) : (c.wm m a l).rm q = c.rm q := by
  have hne : m.toNat ≠ q.toNat := fun e => h (BitVec.eq_of_toNat_eq e.symm)
  simp [Core.wm, Core.rm, hne]

end

/-- Numbered values, zeros unlisted, as a map. -/
theorem get_filterMap_range' (f : Nat → BitVec 32) (lo n x : Nat) :
    AMap.get ((List.range' lo n).filterMap (fun e => if f e = 0 then none else some (e, f e))) 0 x =
      if lo ≤ x ∧ x < lo + n then f x else 0 := by
  induction n generalizing lo with
  | zero => simp
  | succ n ih =>
    rw [List.range'_succ, List.filterMap_cons]
    by_cases hzero : f lo = 0
    · rw [if_pos hzero]
      dsimp only
      rw [ih]
      by_cases hx : x = lo
      · rw [hx, hzero, ite_self, ite_self]
      · exact if_congr (by omega) rfl rfl
    · rw [if_neg hzero]
      dsimp only
      rw [AMap.get, ih]
      rcases Nat.lt_trichotomy x lo with hx | rfl | hx
      · rw [if_pos hx, if_neg (by omega)]
      · rw [if_neg (Nat.lt_irrefl x), if_pos rfl, if_pos (by omega)]
      · rw [if_neg (by omega), if_neg (by omega)]
        exact if_congr (by omega) rfl rfl

/-- An element of an accumulator is the value it was given. -/
theorem get_accOf (f : Nat → BitVec 32) {x : Nat} (hx : x < 4096) : (accOf f).get 0 x = f x := by
  have hget := get_filterMap_range' f 0 4096 x
  rw [if_pos (by omega), ← List.range_eq_range'] at hget
  exact hget

/-! ### The choice of the array (R153) -/

theorem Core.arrayReady_of_empty {c : Core} (h : c.mq = []) : c.arrayReady = false := by rw [Core.arrayReady, h]

/-- Where one core of the cluster alone is ready, the turn is its. -/
theorem State.nextTurn_alone {s : State} {k n : Nat} (hn : n / 8 = k) (hready : (s.core n).arrayReady = true)
    (halone : ∀ j, j / 8 = k → j ≠ n → (s.core j).arrayReady = false) : ∃ c, s.nextTurn k = some (n % 8, c) := by
  have hself : 8 * k + n % 8 = n := by omega
  have honly (i : Nat) (hi : i < 8) (h : (s.core (8 * k + i)).arrayReady = true) : i = n % 8 := by
    by_contra hne
    rw [halone (8 * k + i) (by omega) (by omega)] at h
    exact Bool.false_ne_true h
  have hturn : (s.cluster k).mturn % 8 < 8 := Nat.mod_lt _ (by decide)
  unfold State.nextTurn
  dsimp only
  split
  case isTrue h => exact ⟨_, by rw [honly _ hturn (Bool.and_eq_true_iff.1 h).1]⟩
  case isFalse =>
    split
    case h_1 hnone =>
      have hmem : n % 8 ∈ (List.range 8).map (fun d => ((s.cluster k).mturn % 8 + 1 + d) % 8) :=
        List.mem_map.2 ⟨(n % 8 + 7 - (s.cluster k).mturn % 8) % 8, List.mem_range.2 (by omega), by omega⟩
      refine absurd ?_ (List.find?_eq_none.1 hnone _ hmem)
      rw [hself, hready]
    case h_2 i hsome =>
      obtain ⟨d, -, hd⟩ := List.mem_map.1 (List.mem_of_find?_eq_some hsome)
      exact ⟨_, by rw [honly i (by omega) (List.find?_some (p := fun i => (s.core (8 * k + i)).arrayReady) hsome)]⟩

theorem State.testWaits_of_empty {s : State} {k : Nat} (h : (s.cluster k).mtest = []) : s.testWaits k = false := by
  rw [State.testWaits, h, List.any_nil]

/-- A free array with nothing due starts the choice of R153. -/
theorem exec_matrixOpStart {s : State} {k i : Nat} {c : Cluster} (hk : k < nClusters) (hrun : (s.cluster k).mrun = none)
    (honline : (s.cluster k).offline = false) (hdue : (s.cluster k).mdue = false) (htest : s.testWaits k = false)
    (hturn : s.nextTurn k = some (i, c)) :
    exec (.matrixOpStart k) s =
      .next (s.setCluster k { c with mrun := some (8 * k + i), throttled := (s.tower (k / 512)).throttle }) := by
  change execMatrixOpStart k s = _
  rw [execMatrixOpStart, decide_eq_true hk, onUnits_true, hrun, honline, hdue, htest, hturn]
  rfl

theorem State.setCluster_cluster (s : State) (k : Nat) (c : Cluster) : (s.setCluster k c).cluster k = c := AMap.get_put_self _ _ _ _

/-! ### An operation completes (R156, R157) -/

theorem matrixFold_true (n : Nat) {e : MEntry} {ls : List Label} (hlabel : e.label = labelTrue) (h : ∀ l ∈ ls, l = labelTrue) (s : State) :
    matrixFold n e ls s = .ok (.ok labelTrue) s := by
  have hfold : queuedFold n e.ovm e.label ls s = .ok (.ok labelTrue) s := by rw [queuedFold, foldProd_true _ _ ls h, hlabel]; rfl
  rw [matrixFold, M.bind_ok s s hfold]
  rfl

/-- A core that is not in PAUSE yields to no other (R262). -/
theorem State.yieldsFuller_of_not_pause {s : State} {n : Nat} (h : ∀ u, (s.core n).wait ≠ .pause u) : s.yieldsFuller n = false := by
  have hpausing : s.pausing n = false := by
    unfold State.pausing
    split
    next u hu => exact absurd hu (h u)
    next => rfl
  rw [State.yieldsFuller, State.yieldsTo, hpausing, Bool.false_and]

section
variable {s : State} {n : Nat} {m : MReg} {e : MEntry} {rest : List MEntry}

/-- A core once the head of its queue has left and accumulator m holds a under l. -/
def Core.completes (c : Core) (m : MReg) (a : AMap (BitVec 32)) (l : Label) : Core := { c with mq := c.mq.drop 1 }.wm m a l

theorem finishMma_true (hlabel : e.label = labelTrue) (hacc : (s.core n).lm m = labelTrue) (hprior : e.prior = labelTrue)
    (hwords : ∀ w ∈ e.words n, s.tags.get labelTrue w = labelTrue ∧ s.damaged.get false w = false) :
    finishMma n m e s = .ok () (s.modCore n (fun c => c.completes m (s.product n e ((s.core n).rm m)) labelTrue)) := by
  have hfold := matrixFold_true (ls := (if (s.core n).lm m = e.prior then [] else [(s.core n).lm m]) ++
    (e.words n).map (fun w => s.tags.get labelTrue w)) n hlabel (by
      rw [hacc, hprior, if_pos rfl, List.nil_append]
      simpa using fun w hw => (hwords w hw).1) s
  have hsound : (if s.damaged.isEmpty then none else (e.words n).find? (s.damaged.get false)) = none := by
    split
    · rfl
    · exact List.find?_eq_none.2 fun w hw => by rw [(hwords w hw).2]; exact Bool.false_ne_true
  refine (M.bind_ok s s (M.run_get s)).trans ((M.bind_ok s s hfold).trans ?_)
  dsimp only
  rw [hsound]
  simp only [popM, M.run_bind, M.run_modS, State.modCore_modCore]
  rfl

variable {k : Nat} (hk : k < nClusters) (hrun : (s.cluster k).mrun = some n) (hpaused : (s.core n).paused = [])
  (hmq : (s.core n).mq = e :: rest)
include hk hrun hpaused hmq

theorem exec_matrixOpComplete_mzero (hop : e.op = .mzero m) : exec (.matrixOpComplete k) s =
    .next ((s.modCore n (fun c => c.completes m [] e.label)).modCluster k (fun c => { c with mrun := none })) := by
  change execMatrixOpComplete k s = _
  rw [execMatrixOpComplete, if_pos hk, hrun]
  refine runEngine_ok ?_
  simp [M.run_bind, hpaused, hmq, hop, popM, Core.completes]

theorem exec_matrixOpComplete_mma {ra rb : GReg} (hop : e.op = .mma m ra rb) (hyields : s.yieldsFuller n = false)
    (hlabel : e.label = labelTrue) (hacc : (s.core n).lm m = labelTrue) (hprior : e.prior = labelTrue)
    (hwords : ∀ w ∈ e.words n, s.tags.get labelTrue w = labelTrue ∧ s.damaged.get false w = false) :
    exec (.matrixOpComplete k) s = .next ((s.modCore n (fun c => c.completes m (s.product n e ((s.core n).rm m)) labelTrue)).modCluster k
      (fun c => { c with mrun := none, mops := c.mops + 1, mdue := c.mdue || (c.mops + 1) % 65536 == 0 })) := by
  change execMatrixOpComplete k s = _
  rw [execMatrixOpComplete, if_pos hk, hrun]
  refine runEngine_ok ?_
  simp [M.run_bind, hpaused, hmq, hop, hyields, finishMma_true hlabel hacc hprior hwords]

end

/-! ### A transfer from a local store (R158) -/

/-- t is s but for the logical time of core n. -/
structure ReadBy (n : Nat) (s t : State) : Prop where
  mem : t.mem = s.mem
  tags : t.tags = s.tags
  damaged : t.damaged = s.damaged
  core : ∃ p, t.core n = { s.core n with pts := p }

section
variable {n : Nat} {s t : State}

theorem ReadBy.refl (n : Nat) (s : State) : ReadBy n s s := ⟨rfl, rfl, rfl, (s.core n).pts, rfl⟩

theorem ReadBy.observe (h : ReadBy n s t) : ReadBy n s (t.observe n) := by
  obtain ⟨hmem, htags, hdamaged, p, hcore⟩ := h
  refine ⟨hmem, htags, hdamaged, max p t.latest, ?_⟩
  rw [State.observe, State.modCore_core, hcore]

theorem ReadBy.got (h : ReadBy n s t) (loc : Loc) (size : Nat) : t.got loc size = s.got loc size := by
  rw [State.got, State.got, State.read, State.read, State.badAt, State.badAt, h.mem, h.tags, h.damaged]

/-- A load of a local store reads the storage. -/
theorem ReadBy.loadAt (h : ReadBy n s t) {loc : Loc} (hlocal : loc.place = .local) (size : Nat) :
    ∃ u, loadAt n loc size t = .ok (s.got loc size) u ∧ ReadBy n s u := by
  refine ⟨t.observe n, ?_, h.observe⟩
  rw [← h.observe.got]
  rw [Machine.loadAt, hlocal]
  rfl

/-- Loads of a local store, one after another. -/
theorem ReadBy.mapM_loadAt (h : ReadBy n s t) {locs : List Loc} (hlocal : ∀ loc ∈ locs, loc.place = .local) (size : Nat) :
    ∃ u, locs.mapM (fun loc => Machine.loadAt n loc size) t = .ok (locs.map (s.got · size)) u ∧ ReadBy n s u := by
  induction locs generalizing t with
  | nil => exact ⟨t, rfl, h⟩
  | cons loc r ih =>
    obtain ⟨u, hload, hu⟩ := h.loadAt (hlocal loc List.mem_cons_self) size
    obtain ⟨v, hrest, hv⟩ := ih hu fun x hx => hlocal x (List.mem_cons_of_mem _ hx)
    refine ⟨v, ?_, hv⟩
    rw [List.mapM_cons]
    exact (M.bind_ok t u hload).trans ((M.bind_ok u v hrest).trans rfl)

theorem linkReady_of_linkUp {loc : Loc} (h : linkUp s loc = true) : linkReady loc s = .ok true s := by
  simp [linkReady, M.run_bind, h]

theorem linkUp_local {loc : Loc} (h : loc.place = .local) : linkUp s loc = true := by rw [linkUp, h]

end

section
variable {s : State} {n : Nat} {m : MReg} {e : MEntry} {base : Nat}

/-- The lines of an accumulator that begins at a location of a local store. -/
def localLines (base : Nat) : List Loc := (List.range 256).map (fun i => ⟨.local, base + 64 * i, false⟩)

theorem localLines_local {loc : Loc} (h : loc ∈ localLines base) : loc.place = .local := by
  obtain ⟨i, -, rfl⟩ := List.mem_map.1 h
  rfl

/-- The words of line i of an aligned accumulator. -/
theorem mem_wordsOf_line (hbase : base % 64 = 0) {i w : Nat} (hi : i < 256) (hw : w ∈ wordsOf (base + 64 * i) 64) :
    base / 4 ≤ w ∧ w < base / 4 + 4096 := by
  rw [wordsOf, if_neg (by decide)] at hw
  obtain ⟨j, hj, rfl⟩ := List.mem_map.1 hw
  have := List.mem_range.1 hj
  omega

/-- Every word of the accumulator at base carries TRUE and holds no uncorrectable error. -/
def TrueLines (s : State) (base : Nat) : Prop :=
  ∀ w, base / 4 ≤ w → w < base / 4 + 4096 → s.tags.get labelTrue w = labelTrue ∧ s.damaged.get false w = false

section
variable (hbase : base % 64 = 0) (htrue : TrueLines s base)
include hbase htrue

theorem got_line_labels {i : Nat} (hi : i < 256) : ∀ l ∈ (s.got ⟨.local, base + 64 * i, false⟩ 64).labels, l = labelTrue := by
  intro l hl
  obtain ⟨w, hw, rfl⟩ := List.mem_map.1 hl
  obtain ⟨hlow, hhigh⟩ := mem_wordsOf_line hbase hi hw
  exact (htrue w hlow hhigh).1

theorem got_line_sound {i : Nat} (hi : i < 256) : (s.got ⟨.local, base + 64 * i, false⟩ 64).bad = false := by
  have hany : (wordsOf (base + 64 * i) 64).any (s.damaged.get false) = false := by
    refine List.any_eq_false.2 fun w hw => ?_
    obtain ⟨hlow, hhigh⟩ := mem_wordsOf_line hbase hi hw
    rw [(htrue w hlow hhigh).2]
    exact Bool.false_ne_true
  rw [State.got, State.badAt, hany, Bool.and_false]

end

theorem getD_localLines (f : Loc → Got) (z : Got) {i : Nat} (hi : i < 256) :
    ((localLines base).map f).getD i z = f ⟨.local, base + 64 * i, false⟩ := by
  simp [localLines, hi]

/-- Word x % 16 of line x / 16 of an accumulator in a local store is word x behind its base. -/
theorem line_word (s : State) (base x : Nat) :
    BitVec.ofNat 32 ((s.got ⟨.local, base + 64 * (x / 16), false⟩ 64).value / 2 ^ (32 * (x % 16))) =
      BitVec.ofNat 32 (readNat s.mem (base + 4 * x) 4) := by
  have hpart := readNat_part s.mem (base + 64 * (x / 16)) (n := 64) (a := 4 * (x % 16)) (c := 4) (by omega)
  rw [show base + 64 * (x / 16) + 4 * (x % 16) = base + 4 * x by omega, show 8 * (4 * (x % 16)) = 32 * (x % 16) by omega] at hpart
  refine BitVec.eq_of_toNat_eq ?_
  rw [BitVec.toNat_ofNat, BitVec.toNat_ofNat, ← hpart, Nat.mod_mod]
  rfl

theorem finishMld_true (hlabel : e.label = labelTrue) (hbase : base % 64 = 0) (hlocs : e.locs = localLines base) (htrue : TrueLines s base) :
    ∃ u, ReadBy n s u ∧ finishMld n m e s = .ok () (u.modCore n (fun c => c.completes m
      (accOf (fun x => BitVec.ofNat 32 ((((localLines base).map (s.got · 64)).getD (x / 16) ⟨0, [], false⟩).value / 2 ^ (32 * (x % 16)))))
      labelTrue)) := by
  obtain ⟨u, hload, hu⟩ := (ReadBy.refl n s).mapM_loadAt (fun loc => localLines_local (base := base)) 64
  refine ⟨u, hu, ?_⟩
  have hup : (localLines base).mapM linkReady s = .ok ((localLines base).map (fun _ => true)) s :=
    mapM_same _ fun loc hloc => linkReady_of_linkUp (linkUp_local (localLines_local hloc))
  have hfold := matrixFold_true n (ls := ((localLines base).map (s.got · 64)).flatMap (·.labels)) hlabel (by
    intro l hl
    obtain ⟨g, hg, hl⟩ := List.mem_flatMap.1 hl
    obtain ⟨loc, hloc, rfl⟩ := List.mem_map.1 hg
    obtain ⟨i, hi, rfl⟩ := List.mem_map.1 hloc
    exact got_line_labels hbase htrue (List.mem_range.1 hi) l hl) u
  have hsound : (List.range 256).find? (fun i => !((localLines base).map (fun _ => true)).getD i true ||
      (((localLines base).map (s.got · 64)).getD i ⟨0, [], false⟩).bad) = none := by
    refine List.find?_eq_none.2 fun i hi => ?_
    have hi := List.mem_range.1 hi
    have hlink : ((localLines base).map (fun _ => true)).getD i true = true := by
      rw [List.getD_eq_getElem?_getD, List.getElem?_map]
      cases (localLines base)[i]? <;> rfl
    rw [hlink, getD_localLines _ _ hi, got_line_sound hbase htrue hi]
    exact Bool.false_ne_true
  rw [finishMld, hlocs, M.bind_ok s s hup, M.bind_ok s u hload, M.bind_ok u u hfold]
  dsimp only
  rw [hsound]
  simp only [popM, M.run_bind, M.run_modS, State.modCore_modCore]
  rfl

theorem exec_matrixTransferComplete_mld {rest : List MEntry} {ra : GReg} (hn : n < nCores) (hpaused : (s.core n).paused = [])
    (hmq : (s.core n).mq = e :: rest) (hop : e.op = .mld m ra) (hyields : s.yieldsFuller n = false) {t : State}
    (hfinish : finishMld n m e s = .ok () t) : exec (.matrixTransferComplete n) s = .next t := by
  change execMatrixTransferComplete n s = _
  rw [execMatrixTransferComplete, if_pos hn]
  refine runEngine_ok ?_
  simp [M.run_bind, hpaused, hmq, hop, hyields, hfinish]

end

/-! ### Self-test and throttle (R162, R163) -/

theorem bits16_length (v : BitVec 16) : (bits16 v).length = (List.range 16).countP (fun b => v.getLsbD b) := by
  rw [bits16, List.countP_eq_length_filter]

/-- A test that fails nothing leaves the unit with the sub-arrays fenced as before. -/
theorem State.selfTest_none {s : State} {k : Nat} (h : (List.range 16).countP (fun b => (s.cluster k).fenced.getLsbD b) ≤ 4) :
    s.selfTest k 0 = s.modCluster k (fun c => { c with mpass := c.mops }) := by
  have hfenced : (s.cluster k).fenced ||| 0 = (s.cluster k).fenced := BitVec.or_zero
  have hfew : ¬4 < (bits16 (s.cluster k).fenced).length := by
    rw [bits16_length]
    exact Nat.not_lt.2 h
  unfold State.selfTest
  extract_lets c fenced s₁ s₂
  rw [if_neg (show ¬4 < (bits16 fenced).length by rwa [show fenced = c.fenced from hfenced])]
  change s.setCluster k { s.cluster k with fenced := (s.cluster k).fenced ||| 0, mpass := (s.cluster k).mops } = _
  rw [hfenced]
  rfl

/-- A test that is due, of a free unit that is online. -/
theorem exec_matrixSelfTest {s : State} {k : Nat} (hk : k < nClusters) (hrun : (s.cluster k).mrun = none)
    (honline : (s.cluster k).offline = false) (hdue : (s.cluster k).mdue = true) (failed : BitVec 16) :
    exec (.matrixSelfTest k failed) s = .next ((s.modCluster k (fun c => { c with mdue := false })).selfTest k failed) := by
  change execMatrixSelfTest k failed s = _
  rw [execMatrixSelfTest, decide_eq_true hk, onUnits_true, hrun, honline, hdue]
  rfl

theorem exec_throttleChange {s : State} {k : Nat} (hk : k < nClusters) (hrun : (s.cluster k).mrun = none) :
    exec (.throttleChange k (s.tower (k / 512)).throttle) s =
      .next (s.modCluster k (fun c => { c with throttled := (s.tower (k / 512)).throttle })) := by
  change execThrottleChange k _ s = _
  rw [execThrottleChange, decide_eq_true hk, onUnits_true, hrun, beq_self_eq_true]
  rfl

/-- Settles O34: each step by the lemma that gives its next state. -/
theorem matrixUnit : Obligations.MatrixUnit := by
  unfold Obligations.MatrixUnit
  intro s k n m e rest on base c
  refine ⟨?start, ?complete, ?transfer, ?between⟩
  case start =>
    intro hk hn hrun honline hready hdue htest halone
    obtain ⟨u, hturn⟩ := State.nextTurn_alone hn hready fun j hj hne => Core.arrayReady_of_empty (halone j hj hne)
    refine ⟨_, exec_matrixOpStart hk hrun honline hdue (State.testWaits_of_empty htest) hturn, ?_, ?_, rfl, rfl⟩
    · rw [State.setCluster_cluster, show 8 * k + n % 8 = n by omega]
    · rw [State.setCluster_cluster]
  case complete =>
    intro hk hrun hpaused hmq
    have hleft (a : AMap (BitVec 32)) (l : Label) (f : Cluster → Cluster) :
        let t := (s.modCore n (fun c => c.completes m a l)).modCluster k f
        (t.core n).mq = rest ∧ (t.core n).rm m = a ∧ (t.core n).lm m = l ∧ (∀ q, q ≠ m → (t.core n).rm q = c.rm q) := by
      dsimp only
      rw [State.modCluster_core_other, State.modCore_core]
      refine ⟨?_, Core.rm_wm_same _ _ _ _, Core.lm_wm_same _ _ _ _, fun q hq => Core.rm_wm_ne _ _ _ hq⟩
      exact congrArg (List.drop 1) hmq
    refine ⟨fun hop => ?zero, fun ra rb hop hwait hlabel hacc hprior hwords => ?product⟩
    case zero =>
      obtain ⟨hqueue, helems, hlabel, hothers⟩ := hleft [] e.label (fun c => { c with mrun := none })
      exact ⟨_, exec_matrixOpComplete_mzero hk hrun hpaused hmq hop, hqueue, helems, hlabel, by rw [State.modCluster_cluster], hothers⟩
    case product =>
      have hexec := exec_matrixOpComplete_mma hk hrun hpaused hmq hop (State.yieldsFuller_of_not_pause hwait) hlabel hacc hprior hwords
      obtain ⟨hqueue, helems, hlabel, hothers⟩ := hleft (s.product n e (c.rm m)) labelTrue
        (fun c => { c with mrun := none, mops := c.mops + 1, mdue := c.mdue || (c.mops + 1) % 65536 == 0 })
      exact ⟨_, hexec, hqueue, helems, hlabel, by rw [State.modCluster_cluster], hothers, rfl⟩
  case transfer =>
    rintro hn hpaused hmq ⟨ra, hop⟩ hwait hlabel hbase hlocs htrue
    obtain ⟨u, hu, hfinish⟩ := finishMld_true (n := n) (m := m) hlabel hbase hlocs htrue
    obtain ⟨p, hcore⟩ := hu.core
    refine ⟨_, exec_matrixTransferComplete_mld hn hpaused hmq hop (State.yieldsFuller_of_not_pause hwait) hfinish, ?_, ?_, fun x hx => ?_⟩
    · rw [State.modCore_core, hcore]
      exact congrArg (List.drop 1) hmq
    · rw [State.modCore_core]
      exact Core.lm_wm_same _ _ _ _
    · rw [State.modCore_core, Core.completes, Core.rm_wm_same, get_accOf _ hx, getD_localLines _ _ (by omega)]
      exact line_word s base x
  case between =>
    intro hk hrun honline
    refine ⟨fun hdue hfew => ?test, fun hthrottle => ?throttle⟩
    case test =>
      refine ⟨_, exec_matrixSelfTest hk hrun honline hdue 0, ?_⟩
      rw [State.selfTest_none (by rw [State.modCluster_cluster]; exact hfew), State.modCluster_modCluster, State.modCluster_cluster]
      exact ⟨rfl, honline, rfl, rfl⟩
    case throttle =>
      rw [← hthrottle]
      exact exec_throttleChange hk hrun

end Sys2Proof.Machine
end

section
/-! PROOFS. What a self-test that fences sub-arrays leaves unchanged (R163, R164, R341): the core that acts, the guards of the cores, and of
every unit the fences that the test found.

A unit that goes offline logs a machine check, so that the plinths write memory; `State.machineCheck_keeps` carries over to the log
whatever one such write keeps. -/

namespace Sys2Proof.Machine

/-! ### A write of the plinths leaves the matrix units alone -/

/-- What an update of every value leaves unchanged is read as before. -/
theorem AMap.get_map {α β : Type} (m : AMap α) (d : α) (f : Nat × α → Nat × α) (g : α → β) (hkey : ∀ e, (f e).1 = e.1)
    (hval : ∀ e, g (f e).2 = g e.2) (k : Nat) : g (AMap.get (m.map f) d k) = g (m.get d k) := by
  induction m with
  | nil => rfl
  | cons e r ih =>
    rw [List.map_cons, AMap.get, AMap.get, hkey]
    split
    · rfl
    · split
      · exact hval e
      · exact ih

/-- Every matrix unit has the same sub-arrays fenced in t as in s. -/
def SameFences (s t : State) : Prop := ∀ j, (t.cluster j).fenced = (s.cluster j).fenced

namespace SameFences
variable {s t u : State}

theorem of_eq (h : SameFences s t) (hclusters : u.clusters = t.clusters) : SameFences s u := fun j => by
  rw [State.cluster, hclusters]
  exact h j

theorem modCluster (h : SameFences s t) {k : Nat} {f : Cluster → Cluster} (hf : ∀ c, (f c).fenced = c.fenced) :
    SameFences s (t.modCluster k f) := by
  intro j
  by_cases hj : j = k
  · rw [hj, State.modCluster_cluster, hf, h k]
  · rw [State.modCluster_cluster_ne _ _ hj, h j]

theorem setL1 (h : SameFences s t) (k L : Nat) (e : L1Line) : SameFences s (t.setL1 k L e) := h.modCluster fun _ => rfl

theorem askRecall (h : SameFences s t) (L : Nat) : SameFences s (t.askRecall L) := by
  unfold State.askRecall
  split
  · exact h.of_eq rfl
  · exact h

theorem foldUnder (h : SameFences s t) (k n : Nat) : SameFences s (t.foldUnder k n) := by
  unfold State.foldUnder
  dsimp only
  split
  · exact h
  · apply SameFences.askRecall
    apply foldl_keeps (P := SameFences s)
    · intro u k hu
      split
      · exact hu
      · exact hu.of_eq rfl
    · apply foldl_keeps (P := SameFences s)
      · intro u e hu
        split
        · exact hu.setL1 _ _ _
        · exact hu
      · exact h.of_eq rfl

theorem poke (h : SameFences s t) (k v n : Nat) : SameFences s (t.poke k v n) := by
  unfold State.poke State.wakeLocal
  split
  · exact h.of_eq rfl
  · split <;> exact h.of_eq rfl

theorem dropLeases (h : SameFences s t) (k n : Nat) : SameFences s (t.dropLeases k n) := by
  unfold State.dropLeases
  dsimp only
  split
  · intro j
    refine Eq.trans ?_ (h j)
    refine AMap.get_map t.clusters Cluster.reset _ Cluster.fenced ?_ ?_ j
    · exact fun _ => rfl
    · exact fun _ => rfl
  · exact h

theorem stampLine (h : SameFences s t) (L : Nat) : SameFences s (t.stampLine L) := by
  unfold State.stampLine
  split
  · refine foldl_keeps (P := SameFences s) _ _ (fun u k hu => ?_) (h.of_eq rfl)
    dsimp only
    split
    · exact hu
    · exact hu.of_eq rfl
  · exact h

theorem plinthWrite (h : SameFences s t) (k v n : Nat) : SameFences s (t.plinthWrite k v n) :=
  ((((h.foldUnder k n).poke k v n).dropLeases k n).stampLine (lineOf k)).of_eq rfl

end SameFences

/-! ### The machine-check log (R341) -/

section
variable {P : State → Prop} (hwrite : ∀ s k v n, P s → P (s.plinthWrite k v n)) {s : State}
include hwrite

theorem State.mcAppend_keeps (h : P s) (b kind origin seq : Nat) (addrs : List Nat) : P (s.mcAppend b kind origin seq addrs) := by
  unfold State.mcAppend State.mcPut
  split
  · refine hwrite _ _ _ _ (foldl_keeps (P := P) _ _ (fun t i ht => hwrite _ _ _ _ ht) ?_)
    exact hwrite _ _ _ _ (hwrite _ _ _ _ (hwrite _ _ _ _ (hwrite _ _ _ _ h)))
  · exact hwrite _ _ _ _ h

theorem State.mcRecords_keeps (h : P s) (x kind origin : Nat) (addrs : List Nat) : P (s.mcRecords x kind origin addrs).1 := by
  unfold State.mcRecords
  split
  · exact h
  · exact foldl_keeps (P := fun a : State × Nat × Bool => P a.1) _ _ (fun a l ha => State.mcAppend_keeps hwrite ha _ _ _ _ _) h

/-- What a plinth's write keeps, and a change of a context's registers or of the notifications, the log of an event keeps. -/
theorem State.machineCheck_keeps (hctx : ∀ s x f, P s → P (s.modCtx x f)) (hnote : ∀ s e, P s → P (s.note e)) (h : P s)
    (x kind origin : Nat) (addrs : List Nat) (core : Option Nat) : P (s.machineCheck x kind origin addrs core) :=
  hnote _ _ (hctx _ _ _ (State.mcRecords_keeps hwrite h _ _ _ _))

end

/-! ### The self-test (R163, R164) -/

/-- t is s but for what a self-test does besides fencing: the same core acts, every core has its guard, every unit its fences. -/
structure KeptByTest (s t : State) : Prop where
  cur : t.cur = s.cur
  pair : ∀ n, (t.core n).pair = (s.core n).pair
  fences : SameFences s t

namespace KeptByTest
variable {s t u : State}

theorem refl (s : State) : KeptByTest s s := ⟨rfl, fun _ => rfl, fun _ => rfl⟩

theorem of_eq (h : KeptByTest s t) (hcur : u.cur = t.cur) (hcores : u.cores = t.cores) (hclusters : u.clusters = t.clusters) :
    KeptByTest s u :=
  ⟨hcur.trans h.cur, fun n => by rw [State.core, hcores]; exact h.pair n, h.fences.of_eq hclusters⟩

theorem modCore (h : KeptByTest s t) {k : Nat} {f : Core → Core} (hf : ∀ c, (f c).pair = c.pair) : KeptByTest s (t.modCore k f) := by
  refine ⟨h.cur, fun n => ?_, h.fences.of_eq rfl⟩
  by_cases hn : n = k
  · rw [hn, State.modCore_core, hf, h.pair k]
  · rw [State.modCore_core_ne _ _ hn, h.pair n]

theorem modCluster (h : KeptByTest s t) {k : Nat} {f : Cluster → Cluster} (hf : ∀ c, (f c).fenced = c.fenced) :
    KeptByTest s (t.modCluster k f) :=
  ⟨h.cur, h.pair, h.fences.modCluster hf⟩

theorem plinthWrite (h : KeptByTest s t) (k v n : Nat) : KeptByTest s (t.plinthWrite k v n) := by
  refine ⟨(State.plinthWrite_cur t k v n).trans h.cur, fun j => ?_, h.fences.plinthWrite k v n⟩
  obtain ⟨w, hw⟩ := ((SameCores.refl t).plinthWrite k v n).core j
  rw [hw, ← h.pair j]

theorem machineCheck (h : KeptByTest s t) (x kind origin : Nat) (addrs : List Nat) (core : Option Nat) :
    KeptByTest s (t.machineCheck x kind origin addrs core) :=
  State.machineCheck_keeps (P := KeptByTest s) (fun _ _ _ _ hu => hu.plinthWrite _ _ _) (fun _ _ _ hu => hu.of_eq rfl rfl rfl)
    (fun _ _ hu => hu.of_eq rfl rfl rfl) h x kind origin addrs core

/-- A unit that goes offline abandons commands and logs the event. -/
theorem unitOffline (h : KeptByTest s t) (k : Nat) : KeptByTest s (t.unitOffline k) := by
  have hqueues : KeptByTest s ((coresOf k).foldl (fun s n => s.modCore n (fun c => { c with mq := [] })) t) := by
    refine foldl_keeps (P := KeptByTest s) _ _ (fun u n hu => ?_) h
    exact hu.modCore fun _ => rfl
  unfold State.unitOffline
  extract_lets hit t₁ t₂
  have hoffline : KeptByTest s t₂ := hqueues.modCluster fun _ => rfl
  cases hit with
  | nil => exact hoffline
  | cons n r =>
    have hlogged := hoffline.machineCheck (t₂.ctxOf n) 2 k [] (some n)
    dsimp only
    split
    · exact hlogged
    · exact hlogged.of_eq rfl rfl rfl

/-- The guard of the core that acts. -/
theorem guardLabel (h : KeptByTest s t) : t.me.guardLabel = s.me.guardLabel := by
  have hpair : t.me.pair = s.me.pair := by rw [State.me, h.cur]; exact h.pair s.cur
  rw [Core.guardLabel, hpair, Core.guardLabel]

end KeptByTest

/-- A self-test fences what it fails, and leaves the core that acts and its guard. -/
theorem State.selfTest_fences (s : State) (k : Nat) (failed : BitVec 16) :
    ((s.selfTest k failed).cluster k).fenced = (s.cluster k).fenced ||| failed ∧
      (s.selfTest k failed).me.guardLabel = s.me.guardLabel := by
  have hnotes := foldl_keeps (P := KeptByTest s) (bits16 failed)
    (fun t _ => t.note (.subarray k (s.cluster k).mpass (s.cluster k).mops)) (fun _ _ hu => hu.of_eq rfl rfl rfl) (.refl s)
  unfold State.selfTest
  extract_lets c fenced s₁ s₂
  have hfenced : (s₂.cluster k).fenced = fenced := by rw [State.modCluster_cluster]
  have hguard : s₂.me.guardLabel = s.me.guardLabel := hnotes.guardLabel
  split
  · have hoffline := (KeptByTest.refl s₂).unitOffline k
    exact ⟨(hoffline.fences k).trans hfenced, hoffline.guardLabel.trans hguard⟩
  · exact ⟨hfenced, hguard⟩

end Sys2Proof.Machine
end

section
/-! PROOFS. O33: the matrix instructions at issue (R145, R150, R151, R156 to R161).

`queues_of_pushM` says once how a command enters the queue, behind its checks and under the label formed; each instruction is that
operation. -/

open Sys2Proof.Claims

namespace Sys2Proof.Machine

/-! ### Steps that check and change nothing -/

section
variable {s t : State}

theorem forM_pass {α : Type} {f : α → M PUnit} (l : List α) (h : ∀ a ∈ l, f a s = .ok () s) : l.forM f s = .ok () s := by
  induction l with
  | nil => rfl
  | cons a r ih =>
    exact (M.bind_ok s s (h a List.mem_cons_self)).trans (ih fun x hx => h x (List.mem_cons_of_mem _ hx))

/-- With no mark on its accumulator and its unit online an instruction goes on (R160, R164). -/
theorem matrixReady_ok {m : MReg} (hmark : s.me.rmk m = none) (honline : (s.cluster (clusterOf s.cur)).offline = false) :
    matrixReady m s = .ok () s := by
  have hraise : raiseMark m s = .ok () s := by simp [raiseMark, M.run_bind, hmark]
  simp [matrixReady, M.run_bind, hraise, honline]

/-- An address of the own window names the own local store (R197). -/
theorem State.target_own (s : State) (n : Nat) {ea : Word} {off : Nat} (hea : ea.toNat = 0x7F0000000000 + off) (hoff : off < 2 ^ 17) :
    s.target n ea = .localStore n off := by
  have h48 : ¬2 ^ 48 ≤ ea.toNat := by omega
  have hglobal : ¬(ea.toNat < 0x7F0000000000 ∨ 0x800000000000 ≤ ea.toNat) := by omega
  have hown : ea.toNat - 0x7F0000000000 < 0x20000 := by omega
  simp only [State.target, if_neg h48, if_neg hglobal, if_pos hown]
  rw [hea, Nat.add_sub_cancel_left]

/-- An operand whole in the own local store (R156). -/
theorem oneWindow_own {ea : Word} {off n : Nat} (hea : ea.toNat = 0x7F0000000000 + off) (hpos : 0 < n) (hfits : off + n ≤ 2 ^ 17) :
    oneWindow ea n s = .ok (lsBase s.cur + off) s := by
  rw [oneWindow, M.bind_ok s s (M.run_get s), s.target_own s.cur hea (by omega)]
  dsimp only
  rw [if_neg (Nat.not_lt.2 hfits)]
  rfl

theorem matBits_pos (f : Nat) : 0 < matBits f := by
  unfold matBits
  split
  · decide
  · split <;> decide

/-- Nothing stands before a transfer (R126, R158). -/
theorem transferReady_ok (hroom : s.me.mq.length < 4) (hsb : s.me.sb = []) (hnt : s.me.nt = []) (htile : s.me.tileMem = false) (ea : Word) :
    transferReady ea s = .ok () s := by
  rw [transferReady, M.bind_ok s s (M.run_getMe s)]
  exact needs_ok (by simp [hroom, hsb, htile, Core.ntCovers, hnt])

theorem Core.names_eq_false {c : Core} {m : MReg} (h : ∀ e ∈ c.mq, e.names m = false) : c.names m = false :=
  List.any_eq_false.2 fun e he => by rw [h e he]; exact Bool.false_ne_true

/-! ### A command enters the queue (R151) -/

theorem pushM_ok (hroom : s.me.mq.length < 4) (e : MEntry) :
    pushM e s = .ok () (s.modCore s.cur (fun c => { c with mq := c.mq ++ [e] })) := by
  rw [pushM, M.bind_ok s s (M.run_getMe s), M.bind_ok s s (needs_ok (decide_eq_true hroom))]
  rfl

/-- An instruction that, once its label is formed, puts its command into the queue. -/
theorem queues_of_pushM {i : Instr} {s s1 : State} {m k : M Unit} {ls : List Label} {e : Label → MEntry} {f : Core → Core}
    (hexec : exec i s = runI i m s) (hroom : s1.me.mq.length < 4)
    (hm : ∀ l t, formLabel ls s1 = .ok l t → m s = (pushM (e l) >>= fun _ => k) t)
    (hk : ∀ u, k u = .ok () (u.modCore u.cur (fun c => (f c).past)) := by exact fun _ => rfl) : Queues i s s1 ls e f := by
  intro l t hlabel
  obtain ⟨-, w, v, hme⟩ := formLabel_me hlabel
  have hpush := pushM_ok (s := t) (by rw [hme]; exact hroom) (e l)
  rw [hexec]
  refine runI_ok ((hm l t hlabel).trans ((M.bind_ok t _ hpush).trans ((hk _).trans ?_)))
  rw [State.modCore_cur, State.modCore_modCore]

end

/-! ### The instructions -/

section
variable {s s1 : State} {m : MReg}

theorem mzero_queues (hready : MatrixReady s m) :
    Queues (.mzero m) s s [] (fun l => { MEntry.plain (.mzero m) s.me.ovm with label := l, prior := l }) id := by
  obtain ⟨hmark, honline, hroom⟩ := hready
  refine queues_of_pushM (k := advance) rfl hroom fun l t hlabel => ?_
  exact (M.bind_ok s s (matrixReady_ok hmark honline)).trans ((M.bind_ok s s (M.run_getMe s)).trans
    ((M.bind_ok s s (needs_ok (decide_eq_true hroom))).trans (M.bind_ok s t hlabel)))

/-- KS of the scale registers that a pair of formats uses advances under AUTO (R150). -/
def Core.scalesNext (fa fb : Nat) (c : Core) : Core :=
  { c with scla := if matScaled fa then sclNext c.scla else c.scla, sclb := if matScaled fb then sclNext c.sclb else c.sclb }

theorem mma_queues {ra rb : GReg} {oa ob : Nat} (hready : MatrixReady s m)
    (haccepts : matAccepts (clusterOf s.cur) s.me.fmta.toNat s.me.fmtb.toNat = true) (htile : s.me.tileMem = false)
    (hea : (s.me.rg ra).toNat = 0x7F0000000000 + oa) (haligna : oa % 64 = 0) (hfita : oa + 512 * matBits s.me.fmta.toNat ≤ 2 ^ 17)
    (heb : (s.me.rg rb).toNat = 0x7F0000000000 + ob) (halignb : ob % 64 = 0) (hfitb : ob + 512 * matBits s.me.fmtb.toNat ≤ 2 ^ 17) :
    Queues (.mma m ra rb) s s [s.me.issueLabel m, s.me.lg ra, s.me.lg rb]
      (fun l => { MEntry.plain (.mma m ra rb) s.me.ovm with
        locA := lsBase s.cur + oa, locB := lsBase s.cur + ob, fmtA := s.me.fmta.toNat, fmtB := s.me.fmtb.toNat
        scla := s.me.scla, sclb := s.me.sclb, supa := s.me.supa, supb := s.me.supb, label := l, prior := s.me.issueLabel m })
      (Core.scalesNext s.me.fmta.toNat s.me.fmtb.toNat) := by
  obtain ⟨hmark, honline, hroom⟩ := hready
  have hposa := matBits_pos s.me.fmta.toNat
  have hposb := matBits_pos s.me.fmtb.toNat
  have hwindowa := oneWindow_own (s := s) hea (n := 512 * matBits s.me.fmta.toNat) (by omega) hfita
  have hwindowb := oneWindow_own (s := s) heb (n := 512 * matBits s.me.fmtb.toNat) (by omega) hfitb
  have hmoda : (s.me.rg ra).toNat % 64 = 0 := by omega
  have hmodb : (s.me.rg rb).toNat % 64 = 0 := by omega
  have hfree : needs (!s.me.tileMem && decide (s.me.mq.length < 4)) s = .ok () s := needs_ok (by rw [htile, decide_eq_true hroom]; rfl)
  refine queues_of_pushM rfl hroom (fun l t hlabel => ?_) (fun u => ?_)
    (k := do modMe (Core.scalesNext s.me.fmta.toNat s.me.fmtb.toNat); advance)
  · refine (M.bind_ok s s (matrixReady_ok hmark honline)).trans ((M.bind_ok s s (M.run_get s)).trans ?_)
    dsimp only
    rw [haccepts, if_neg (not_not.2 hmoda), if_neg (not_not.2 hmodb)]
    exact (M.bind_ok s s hwindowa).trans ((M.bind_ok s s hwindowb).trans ((M.bind_ok s s hfree).trans (M.bind_ok s t hlabel)))
  · simp only [M.run_bind, M.run_modMe, M.run_advance, State.modCore_cur, State.modCore_modCore]

/-- No line of an accumulator meets a condition that none of its locations meets. -/
theorem find?_lines_none {q : Nat → Bool} (h : ∀ i, q i = false) : (List.range 256).find? q = none :=
  List.find?_eq_none.2 fun i _ => by rw [h i]; exact Bool.false_ne_true

section
variable {ra : GReg} {locs : List Loc} (hready : MatrixReady s m) (hsb : s.me.sb = []) (hnt : s.me.nt = []) (htile : s.me.tileMem = false)
  (hme : s1.me = s.me)
include hready hsb hnt htile hme

theorem mld_queues (hnear : ∀ loc ∈ locs, linkUp s1 loc = true ∧ s1.inCounter loc = false)
    (hlines : accLines .read (s.me.rg ra) s = .ok locs s1) : Queues (.mld m ra) s s1 [s.me.lg ra]
      (fun l => { MEntry.plain (.mld m ra) s.me.ovm with locA := (s.me.rg ra).toNat, locs := locs, label := l, prior := l }) id := by
  obtain ⟨hmark, honline, hroom⟩ := hready
  rw [← hme] at hroom hsb hnt htile
  refine queues_of_pushM (k := advance) rfl hroom fun l t hlabel => ?_
  refine (M.bind_ok s s (matrixReady_ok hmark honline)).trans ((M.bind_ok s s (M.run_getMe s)).trans
    ((M.bind_ok s s1 hlines).trans ((M.bind_ok s1 s1 (M.run_get s1)).trans ?_)))
  dsimp only
  rw [find?_lines_none]
  · refine (M.bind_ok s1 s1 (forM_pass _ fun i _ => ?_)).trans
      ((M.bind_ok s1 s1 (transferReady_ok hroom hsb hnt htile _)).trans (M.bind_ok s1 t hlabel))
    cases hloc : locs[i]? with
    | none => rfl
    | some loc => exact M.bind_ok s1 s1 (linkReady_of_linkUp (hnear loc (List.mem_of_getElem? hloc)).1)
  · intro i
    cases hloc : locs[i]? with
    | none => rfl
    | some loc => exact (hnear loc (List.mem_of_getElem? hloc)).2

theorem mst_queues (hlines : accLines .write (s.me.rg ra) s = .ok locs s1) (hnames : ∀ e ∈ s.me.mq, e.names m = false)
    (hplain : (∀ loc ∈ locs, loc.plain = false) ∨ ∀ l t, formLabel [s.me.lm m, s.me.lg ra] s1 = .ok l t → l = labelTrue) :
    Queues (.mst ra m) s s1 [s.me.lm m, s.me.lg ra]
      (fun l => { MEntry.plain (.mst ra m) s.me.ovm with locA := (s.me.rg ra).toNat, locs := locs, label := l, prior := l }) id := by
  obtain ⟨hmark, honline, hroom⟩ := hready
  have hfree : needs (!s.me.names m) s1 = .ok () s1 := needs_ok (by rw [Core.names_eq_false hnames]; rfl)
  rw [← hme] at hroom hsb hnt htile
  refine queues_of_pushM (k := advance) rfl hroom fun l t hlabel => ?_
  refine (M.bind_ok s s (matrixReady_ok hmark honline)).trans ((M.bind_ok s s (M.run_getMe s)).trans
    ((M.bind_ok s s1 hlines).trans ((M.bind_ok s1 s1 hfree).trans
      ((M.bind_ok s1 s1 (transferReady_ok hroom hsb hnt htile _)).trans ((M.bind_ok s1 t hlabel).trans ?_)))))
  dsimp only
  rw [find?_lines_none]
  intro i
  cases hloc : locs[i]? with
  | none => rfl
  | some loc =>
    rcases hplain with hplain | hplain
    · exact Bool.and_eq_false_iff.2 (.inl (hplain loc (List.mem_of_getElem? hloc)))
    · exact Bool.and_eq_false_iff.2 (.inr (by rw [hplain l t hlabel]; rfl))

end

/-- MWAIT goes on where no queued command names its accumulator (R159). -/
theorem mwait_sets (hmark : s.me.rmk m = none) (honline : (s.cluster (clusterOf s.cur)).offline = false)
    (hnames : ∀ e ∈ s.me.mq, e.names m = false) : Sets (.mwait m) s id := by
  have hfree : needs (!s.me.names m) s = .ok () s := needs_ok (by rw [Core.names_eq_false hnames]; rfl)
  exact runI_ok ((M.bind_ok s s (matrixReady_ok hmark honline)).trans ((M.bind_ok s s (M.run_getMe s)).trans (M.bind_ok s s hfree)))

end

/-! ### MTEST (R161) -/

section
variable {s : State} {d : GReg}

theorem Core.lg_wg_same (c : Core) {r : GReg} (hr : r ≠ 0) (v : Word) (l : Label) : (c.wg r v l).lg r = l := by
  have hbank : bankOf (c.wg r v l) r = bankOf c r := by rw [bankOf, bankOf, Core.atS, Core.wg_status, Core.atS]
  rw [Core.lg, if_neg hr, hbank, Core.wg, if_neg hr]
  cases bankOf c r <;> simp

theorem Core.lg_past (c : Core) (r : GReg) : c.past.lg r = c.lg r := by
  unfold Core.past
  split
  · rfl
  · split
    · rfl
    · split <;> rfl

/-- The core's own request for a test is answered. -/
def State.testAnswered (s : State) : State :=
  s.modCluster (clusterOf s.cur) (fun c => { c with mtest := c.mtest.filter (· != s.cur) })

/-- An offline unit answers without a test. -/
theorem mtest_offline (hoffline : (s.cluster (clusterOf s.cur)).offline = true) :
    GivesFrom (.mtest d) s s.testAnswered d 0xFFFFFFFF [] := by
  have hexec {t : State} (hresult : result d 0xFFFFFFFF [] s.testAnswered = .ok () t) : exec (.mtest d) s = .next t := by
    change execMtest d s = _
    refine runI_ok ((M.bind_ok s s (M.run_get s)).trans ((M.bind_ok s _ (M.run_modS s _)).trans ?_))
    dsimp only
    rw [if_pos hoffline]
    exact hresult
  refine ⟨fun hd => hexec ?_, fun l t hd hlabel => hexec (result_ok hd hlabel _)⟩
  rw [hd]
  exact result_zero _ _ _

/-- The state that the test of MTEST leaves. -/
def State.tested (s : State) : State :=
  ({ s.testAnswered with free := s.free + 1 } : State).selfTest (clusterOf s.cur) (Config.selfTest s.free)

/-- What the test gives: the sub-arrays that fail, and all that are fenced with them. -/
def State.testResult (s : State) : Word :=
  BitVec.ofNat 64 ((Config.selfTest s.free).toNat +
    2 ^ 16 * ((s.cluster (clusterOf s.cur)).fenced ||| Config.selfTest s.free).toNat)

theorem State.tested_fences (s : State) :
    (s.tested.cluster (clusterOf s.cur)).fenced = (s.cluster (clusterOf s.cur)).fenced ||| Config.selfTest s.free ∧
      s.tested.me.guardLabel = s.me.guardLabel := by
  obtain ⟨hfenced, hguard⟩ := State.selfTest_fences { s.testAnswered with free := s.free + 1 } (clusterOf s.cur) (Config.selfTest s.free)
  refine ⟨hfenced.trans ?_, hguard⟩
  have hanswered : (s.testAnswered.cluster (clusterOf s.cur)).fenced = (s.cluster (clusterOf s.cur)).fenced := by
    rw [State.testAnswered, State.modCluster_cluster]
  exact congrArg (· ||| Config.selfTest s.free) hanswered

/-- On a free unit that is online the test is made at once. -/
theorem exec_mtest (honline : (s.cluster (clusterOf s.cur)).offline = false) (hrun : (s.cluster (clusterOf s.cur)).mrun = none) {t : State}
    (hresult : result d s.testResult [] s.tested = .ok () t) : exec (.mtest d) s = .next t := by
  change execMtest d s = _
  refine runI_ok ((M.bind_ok s s (M.run_get s)).trans ((M.bind_ok s _ (M.run_modS s _)).trans ?_))
  dsimp only
  rw [honline, hrun]
  rw [State.testResult, ← s.tested_fences.1] at hresult
  exact hresult

end

/-- Settles O33: the commands enter the queue by `queues_of_pushM`; MTEST gives what its test fences by `State.selfTest_fences`. -/
theorem matrixIssue : Obligations.MatrixIssue := by
  unfold Obligations.MatrixIssue
  intro s s1 m d ra rb oa ob locs c k fa fb prior auto plain near
  refine ⟨mzero_queues, fun hready haccepts htile hea haligna hfita heb halignb hfitb =>
    mma_queues hready haccepts htile hea haligna hfita heb halignb hfitb, fun hready hsb hnt htile _ hnear hme _ => ⟨?mld, ?mst⟩,
    fun hmark honline hnames => mwait_sets hmark honline hnames, mtest_offline, ?test⟩
  case mld => exact mld_queues hready hsb hnt htile hme hnear
  case mst => exact mst_queues hready hsb hnt htile hme
  case test =>
    intro honline hrun hguard
    by_cases hd : d = 0
    · refine ⟨s.tested.modCore s.tested.cur Core.past, Config.selfTest s.free, exec_mtest honline hrun ?_, fun h => absurd hd h⟩
      rw [hd]
      exact result_zero _ _ _
    · have hlabel := formLabel_true [] (by simp) s.tested (s.tested_fences.2.trans hguard)
      refine ⟨_, Config.selfTest s.free, exec_mtest honline hrun (result_ok hd hlabel _), fun _ => ?_⟩
      rw [State.modCore_me, Core.rg_past, Core.lg_past]
      exact ⟨Core.rg_wg_same _ hd _ _, Core.lg_wg_same _ hd _ _⟩

end Sys2Proof.Machine
end

section
/-! PROOFS. O38: which candidates a Fuller step keeps, and a nogood set without supersets (R167, R168, R174, R176, R182).

`mem_minimise` says once which environments Finish keeps. A proper subset is a smaller mask, so a least candidate lies below each one; the
canonical order is strict and total, so insertion keeps a list in it. -/

open Sys2Proof.Claims

namespace Sys2Proof.Machine

/-! ### Subsets of environments (R167) -/

section
variable {a b c e : Env}

theorem subset_iff : subset a b = true ↔ a &&& ~~~b = 0 := beq_iff_eq

theorem subset_eq_false_iff : subset a b = false ↔ a &&& ~~~b ≠ 0 := by rw [← Bool.not_eq_true, subset_iff]

/-- A subset is what the other environment keeps of it. -/
theorem subset_iff_and_eq : subset a b = true ↔ a &&& b = a := by
  rw [subset_iff]
  constructor
  all_goals
    intro h
    ext i hi
    have hbit := congrArg (fun v : Env => v[i]) h
    simp only [BitVec.getElem_and, BitVec.getElem_not, BitVec.ofNat_eq_ofNat, BitVec.getElem_zero] at hbit ⊢
    revert hbit
    cases a[i]
    all_goals cases b[i]
    all_goals decide

theorem subset_refl (a : Env) : subset a a = true := subset_iff_and_eq.2 BitVec.and_self

theorem subset_trans (hab : subset a b = true) (hbc : subset b c = true) : subset a c = true := by
  rw [subset_iff_and_eq] at hab hbc ⊢
  rw [← hab, BitVec.and_assoc, hbc]

/-- A proper subset is a smaller mask. -/
theorem toNat_lt_of_subset (h : subset a b = true) (hne : a ≠ b) : a.toNat < b.toNat := by
  have hle : a.toNat ≤ b.toNat := by
    rw [← subset_iff_and_eq.1 h, BitVec.toNat_and]
    exact Nat.and_le_right
  exact Nat.lt_of_le_of_ne hle fun heq => hne (BitVec.eq_of_toNat_eq heq)

/-- Below each environment of a list lies a least one of the list. -/
theorem exists_least_subset {l : List Env} (ha : a ∈ l) : ∃ b ∈ l, subset b a = true ∧ ∀ f ∈ l, subset f b = true → f = b := by
  induction hn : a.toNat using Nat.strong_induction_on generalizing a with
  | _ n ih =>
    subst hn
    by_cases hleast : ∀ f ∈ l, subset f a = true → f = a
    · exact ⟨a, ha, subset_refl a, hleast⟩
    · push Not at hleast
      obtain ⟨f, hf, hsub, hne⟩ := hleast
      obtain ⟨b, hb, hbf, hmin⟩ := ih _ (toNat_lt_of_subset hsub hne) hf rfl
      exact ⟨b, hb, subset_trans hbf hsub, hmin⟩

end

/-! ### The canonical order (R168) -/

section
variable {a b c e : Env} {l : List Env}

theorem envBefore_iff : envBefore a b = true ↔ cardinal a < cardinal b ∨ cardinal a = cardinal b ∧ a.toNat < b.toNat := by
  simp [envBefore]

theorem ne_of_envBefore (h : envBefore a b = true) : a ≠ b := by
  rintro rfl
  rw [envBefore_iff] at h
  omega

theorem envBefore_trans (hab : envBefore a b = true) (hbc : envBefore b c = true) : envBefore a c = true := by
  rw [envBefore_iff] at hab hbc ⊢
  omega

theorem envBefore_total (hne : a ≠ b) (h : ¬envBefore a b = true) : envBefore b a = true := by
  have htoNat : a.toNat ≠ b.toNat := fun heq => hne (BitVec.eq_of_toNat_eq heq)
  rw [envBefore_iff] at h ⊢
  omega

/-- A list in canonical order, each environment once. -/
def EnvSorted (l : List Env) : Prop := l.Pairwise (fun a b => envBefore a b = true)

theorem EnvSorted.nodup (h : EnvSorted l) : l.Nodup := h.imp ne_of_envBefore

theorem mem_envInsert : a ∈ envInsert e l ↔ a = e ∨ a ∈ l := by
  induction l with
  | nil => exact List.mem_cons
  | cons f r ih =>
    rw [envInsert]
    split
    next heq => rw [heq, List.mem_cons, or_self_left]
    next =>
      split
      · exact List.mem_cons
      · rw [List.mem_cons, ih, List.mem_cons, or_left_comm]

theorem EnvSorted.envInsert (h : EnvSorted l) (e : Env) : EnvSorted (envInsert e l) := by
  induction l with
  | nil => exact List.pairwise_singleton _ _
  | cons f r ih =>
    obtain ⟨hf, hr⟩ := List.pairwise_cons.1 h
    rw [Machine.envInsert]
    split
    next => exact h
    next hne =>
      split
      next hbefore =>
        refine List.pairwise_cons.2 ⟨fun x hx => ?_, h⟩
        rcases List.mem_cons.1 hx with rfl | hx
        · exact hbefore
        · exact envBefore_trans hbefore (hf x hx)
      next hafter =>
        refine List.pairwise_cons.2 ⟨fun x hx => ?_, ih hr⟩
        rcases mem_envInsert.1 hx with rfl | hx
        · exact envBefore_total hne hafter
        · exact hf x hx

theorem mem_envSort : a ∈ envSort l ↔ a ∈ l := by
  have hfold (l acc : List Env) : a ∈ l.foldl (fun acc e => Machine.envInsert e acc) acc ↔ a ∈ l ∨ a ∈ acc := by
    induction l generalizing acc with
    | nil => simp
    | cons e r ih => rw [List.foldl_cons, ih, mem_envInsert, List.mem_cons, or_left_comm, or_assoc]
  rw [envSort, hfold, or_iff_left List.not_mem_nil]

theorem envSort_sorted (l : List Env) : EnvSorted (envSort l) :=
  foldl_keeps (P := EnvSorted) l _ (fun _ e h => h.envInsert e) List.Pairwise.nil

end

/-! ### What Finish keeps (R174, R176) -/

section
variable {a : Env} {ngs l : List Env}

/-- No recorded nogood lies within the environment. -/
def Consistent (ngs : List Env) (a : Env) : Prop := ∀ n ∈ ngs, subset n a = false

theorem mem_envSort_consistent : a ∈ envSort (l.filter (fun e => !ngs.any (fun n => subset n e))) ↔ a ∈ l ∧ Consistent ngs a := by
  rw [mem_envSort, List.mem_filter]
  simp [Consistent]

/-- The candidates without a nogood that have no proper subset among these. -/
theorem mem_minimise : a ∈ minimise ngs l ↔
    (a ∈ l ∧ Consistent ngs a) ∧ ∀ f, f ∈ l → Consistent ngs f → subset f a = true → f = a := by
  simp only [minimise, List.mem_filter, mem_envSort_consistent, Bool.not_eq_true', List.any_eq_false, Bool.and_eq_true, bne_iff_ne, not_and',
    Decidable.not_not, and_imp]

theorem minimise_sorted (ngs l : List Env) : EnvSorted (minimise ngs l) := (envSort_sorted _).sublist List.filter_sublist

/-- Every candidate without a nogood has a kept one within it. -/
theorem exists_minimise_subset (ha : a ∈ l) (hc : Consistent ngs a) : ∃ b ∈ minimise ngs l, subset b a = true := by
  obtain ⟨b, hb, hsub, hleast⟩ := exists_least_subset (mem_envSort_consistent.2 ⟨ha, hc⟩)
  exact ⟨b, mem_minimise.2 ⟨mem_envSort_consistent.1 hb, fun f hf hcf => hleast f (mem_envSort_consistent.2 ⟨hf, hcf⟩)⟩, hsub⟩

/-- More environments than a label holds raise the trap with their number while OVM is 0. -/
theorem finish_overflow (w : Who) (s : State) (h : 16 < l.length) :
    finish w (.issue false) l s = .error (.trap .labelOverflow (.labelWord l.length)) s := by
  have hne : l ≠ [] := by
    rintro rfl
    exact absurd h (by decide)
  simp [finish, hne, h]

end

/-! ### Nogood sets (R182) -/

section
variable {a b e : Env} {ngs : List Env}

/-- No environment of the list contains another. -/
def NoSupersets (l : List Env) : Prop := ∀ a ∈ l, ∀ b ∈ l, subset a b = true → a = b

theorem addNogood_of_redundant (h : e = 0 ∨ ∃ n ∈ ngs, subset n e = true) : addNogood ngs e = ngs :=
  if_pos (h.imp_right List.any_eq_true.2)

theorem mem_addNogood (h0 : e ≠ 0) (h : ∀ n ∈ ngs, subset n e = false) : a ∈ addNogood ngs e ↔ a ∈ ngs ∧ subset e a = false ∨ a = e := by
  have hnew : ¬(e = 0 ∨ ngs.any (fun n => subset n e) = true) := by
    rintro (he | hany)
    · exact h0 he
    · obtain ⟨n, hn, hsub⟩ := List.any_eq_true.1 hany
      exact Bool.eq_false_iff.1 (h n hn) hsub
  rw [addNogood, if_neg hnew, List.mem_append, List.mem_filter, List.mem_singleton, Bool.not_eq_true']

/-- A nogood is either of no use to a set, which stays as it is, or is added to it. -/
theorem nogood_redundant_or_new (ngs : List Env) (e : Env) :
    (e = 0 ∨ ∃ n ∈ ngs, subset n e = true) ∨ (e ≠ 0 ∧ ∀ n ∈ ngs, subset n e = false) := by
  by_cases h0 : e = 0
  · exact .inl (.inl h0)
  · by_cases hsub : ∃ n ∈ ngs, subset n e = true
    · exact .inl (.inr hsub)
    · exact .inr ⟨h0, fun n hn => Bool.eq_false_iff.2 fun h => hsub ⟨n, hn, h⟩⟩

theorem NoSupersets.addNogood (h : NoSupersets ngs) (e : Env) : NoSupersets (addNogood ngs e) := by
  rcases nogood_redundant_or_new ngs e with hold | ⟨h0, hnew⟩
  · rwa [addNogood_of_redundant hold]
  · intro a ha b hb hab
    rw [mem_addNogood h0 hnew] at ha hb
    rcases ha with ⟨ha, hea⟩ | rfl
    · rcases hb with ⟨hb, -⟩ | rfl
      · exact h a ha b hb hab
      · exact absurd hab (Bool.eq_false_iff.1 (hnew a ha))
    · rcases hb with ⟨-, hab'⟩ | rfl
      · exact absurd hab (Bool.eq_false_iff.1 hab')
      · rfl

theorem zero_notMem_addNogood (h : 0 ∉ ngs) (e : Env) : 0 ∉ addNogood ngs e := by
  rcases nogood_redundant_or_new ngs e with hold | ⟨h0, hnew⟩
  · rwa [addNogood_of_redundant hold]
  · rw [mem_addNogood h0 hnew]
    rintro (⟨hmem, -⟩ | heq)
    · exact h hmem
    · exact h0 heq.symm

/-- The set excludes every nogood that was added to it. -/
theorem exists_addNogood_subset (ngs : List Env) (h0 : e ≠ 0) : ∃ n ∈ addNogood ngs e, subset n e = true := by
  rcases nogood_redundant_or_new ngs e with hold | ⟨-, hnew⟩
  · rw [addNogood_of_redundant hold]
    exact hold.resolve_left h0
  · exact ⟨e, (mem_addNogood h0 hnew).2 (.inr rfl), subset_refl e⟩

end

/-- Settles O38: what is kept by `mem_minimise` and `exists_minimise_subset`, nogood sets by `NoSupersets.addNogood`. -/
theorem antichain : Obligations.Antichain := by
  unfold Obligations.Antichain
  intro w ngs l e s r
  simp only [← subset_eq_false_iff, ← subset_iff]
  refine ⟨fun a ha => ?kept, fun a ha hc => exists_minimise_subset ha hc, minimise_sorted ngs l, (minimise_sorted ngs l).nodup,
    finish_overflow w s, fun hngs h0 => ⟨NoSupersets.addNogood hngs e, zero_notMem_addNogood h0 e, exists_addNogood_subset ngs⟩⟩
  case kept =>
    obtain ⟨⟨hl, hc⟩, hleast⟩ := mem_minimise.1 ha
    refine ⟨hl, hc, fun b hb => ?_⟩
    obtain ⟨⟨hbl, hbc⟩, -⟩ := mem_minimise.1 hb
    exact hleast b hbl hbc

end Sys2Proof.Machine
end

section
/-! PROOFS. O37: the label instructions, and the steps of the Fuller and of the allocating plinth (R174, R178, R182, R184, R187 to R194, R410).

An instruction that gives a register a result is that result by `givesFrom_of_result`, from the state that its label steps leave; a step of
the plinth is its operation by `runPlinth_ok`. -/

open Sys2Proof.Claims

namespace Sys2Proof.Machine

/-! ### Results under a label -/

section
variable {i : Instr} {s s1 t : State} {d ra : GReg} {v : Word} {l : Label}

/-- An instruction whose step comes to a result gives its register the result from there. -/
theorem givesFrom_of_result {m : M Unit} {ls : List Label} (hexec : exec i s = runI i m s) (hm : m s = result d v ls s1) :
    GivesFrom i s s1 d v ls := by
  refine ⟨fun hd => ?zero, fun l t hd hl => ?nonzero⟩
  case zero =>
    rw [hexec]
    exact runI_ok (hm.trans (hd ▸ result_zero v ls s1))
  case nonzero =>
    rw [hexec]
    exact runI_ok (hm.trans (result_ok hd hl v))

/-- g0 takes no value, and no label is formed for it (R92, R190). -/
theorem labelled_zero (v : Word) (f : Who → Policy → M Formed) (s : State) : labelled 0 v f s = .ok () (s.modCore s.cur Core.past) := rfl

theorem labelled_ok {f : Who → Policy → M Formed} (hd : d ≠ 0) (h : formed f s = .ok l t) (v : Word) :
    labelled d v f s = .ok () (t.modCore t.cur (fun c => (c.wg d v l).past)) := by
  rw [labelled, if_pos hd]
  simp only [M.run_bind, h, M.run_modMe, M.run_advance, State.modCore_cur, State.modCore_modCore]

/-- ASSUME and LUNION: ga under the label that the instruction forms (R190). -/
theorem gives_of_labelled {m : M Unit} {f : Who → Policy → M Formed} (hexec : exec i s = runI i m s) (hm : m s = labelled d v f s) :
    (d = 0 → exec i s = .next (s.modCore s.cur Core.past)) ∧
      (d ≠ 0 → formed f s = .ok l t → exec i s = .next (t.modCore t.cur (fun e => (e.wg d v l).past))) := by
  refine ⟨fun hd => ?zero, fun hd hl => ?nonzero⟩
  case zero =>
    rw [hexec]
    exact runI_ok (hm.trans (hd ▸ labelled_zero v f s))
  case nonzero =>
    rw [hexec]
    exact runI_ok (hm.trans (labelled_ok hd hl v))

end

section
variable {s s1 s2 t : State} {d ra rb : GReg} {p : PReg} {l : Label} {b : Bool} {es : List Env}

/-- LFOCUS (R194). -/
theorem lfocus_sets : Sets (.lfocus ra rb) s (fun c => { c with focus := s.me.rg rb ++ s.me.rg ra }) := by
  change execLfocus ra rb s = _
  refine runI_ok ?_
  simp only [M.run_bind, M.run_getMe, M.run_modMe, M.run_advance, State.modCore_cur, State.modCore_modCore]

/-- LSET of an ID that is valid (R189). -/
theorem lset_gives (hvalid : idValid ((s.me.rg rb).truncate 16) s = .ok true s1) :
    GivesFrom (.lset d ra rb) s s1 d (s.me.rg ra) [(s.me.rg rb).truncate 16] :=
  givesFrom_of_result rfl (M.bind_ok s s1 hvalid)

/-! ### Visibility (R187, R192) -/

theorem predReady_ok (hvq : s.me.vq = []) : predReady p s = .ok () s := by
  rw [predReady, M.bind_ok s s (M.run_getMe s)]
  exact needs_ok (by simp [hvq])

theorem setPred_ok (hp : p ≠ 0) (hlabel : formLabel [] s = .ok l t) :
    setPred p b s = .ok () (t.modCore t.cur (fun c => (c.wp p (if b then BitVec.allOnes 256 else 0)).wpl p l)) := by
  rw [setPred, if_pos hp]
  exact M.bind_ok s t hlabel

/-- LVIS: every bit of its predicate is the visibility of the label. -/
theorem exec_lvis (hvq : s.me.vq = []) (hp : p ≠ 0) (hvisible : visible (s.me.lg ra) s = .ok b s1)
    (hlabel : formLabel [] s1 = .ok l t) :
    exec (.lvis p ra) s = .next (t.modCore t.cur (fun c => ((c.wp p (if b then BitVec.allOnes 256 else 0)).wpl p l).past)) := by
  refine runI_ok ((M.bind_ok s s (predReady_ok hvq)).trans ((M.bind_ok s s (M.run_getMe s)).trans ((M.bind_ok s s1 hvisible).trans
    ((M.bind_ok s1 _ (setPred_ok hp hlabel)).trans ?_))))
  rw [M.run_advance, State.modCore_cur, State.modCore_modCore]

/-- LSEL takes the first of its operands that is visible. -/
theorem lsel_first (hfirst : visible (s.me.lg ra) s = .ok true s1) : GivesFrom (.lsel d ra rb) s s1 d (s.me.rg ra) [s.me.lg ra] :=
  givesFrom_of_result rfl (M.bind_ok s s1 hfirst)

section
variable (hfirst : visible (s.me.lg ra) s = .ok false s1)
include hfirst

theorem lsel_second (hsecond : visible (s.me.lg rb) s1 = .ok true s2) :
    GivesFrom (.lsel d ra rb) s s2 d (s.me.rg rb) [s.me.lg rb] :=
  givesFrom_of_result rfl ((M.bind_ok s s1 hfirst).trans (M.bind_ok s1 s2 hsecond))

/-- Where neither operand is visible the result is 0 under FALSE. -/
theorem lsel_neither (hsecond : visible (s.me.lg rb) s1 = .ok false s2) : GivesFrom (.lsel d ra rb) s s2 d 0 [labelFalse] :=
  givesFrom_of_result rfl ((M.bind_ok s s1 hfirst).trans (M.bind_ok s1 s2 hsecond))

end

/-! ### Counts and environments (R193) -/

/-- A step that misses in the product cache reads the environments; keeping its word there changes no core (R193). -/
theorem readStep_miss {w : Who} {op : FullerOp} {x : Label} (f : List Env → Word)
    (hmiss : pcacheFind (s.cluster w.clus).pcache op x labelTrue = none) (henvs : labelEnvs w x s = .ok es s1) :
    ∃ u, u.cores = s1.cores ∧ readStep w op x f s = .ok (f es) u := by
  rw [readStep, M.bind_ok s s (M.run_get s), hmiss]
  dsimp only
  rw [M.bind_ok s s1 henvs]
  split
  · refine ⟨_, ?_, M.bind_ok s1 _ (M.run_modS s1 _)⟩
    rfl
  · exact ⟨s1, rfl, rfl⟩

/-- The half of an environment that LENV names is the one that the model shifts down. -/
theorem envHalf_toNat (es : List Env) (e : Nat) (h : Bool) :
    envHalf es e h.toNat = if h then (es.getD e 0).extractLsb' 64 64 else (es.getD e 0).extractLsb' 0 64 := by
  cases h
  all_goals
    ext i hi
    simp [envHalf]

section
variable (henvs : labelEnvs (s.who s.cur) (s.me.lg ra) s = .ok es s1)
include henvs

theorem lcount_gives (hmiss : pcacheFind (s.cluster (s.who s.cur).clus).pcache .count (s.me.lg ra) labelTrue = none) :
    ∃ u, u.cores = s1.cores ∧ GivesFrom (.lcount d ra) s u d (BitVec.ofNat 64 es.length) [] := by
  obtain ⟨u, hcores, hread⟩ := readStep_miss (fun es => BitVec.ofNat 64 es.length) hmiss henvs
  exact ⟨u, hcores, givesFrom_of_result rfl (M.bind_ok s u hread)⟩

theorem lenv_gives {e : BitVec 4} {h : Bool}
    (hmiss : pcacheFind (s.cluster (s.who s.cur).clus).pcache (.env e.toNat h.toNat) (s.me.lg ra) labelTrue = none) :
    ∃ u, u.cores = s1.cores ∧ GivesFrom (.lenv d ra e h) s u d
      (if h then (es.getD e.toNat 0).extractLsb' 64 64 else (es.getD e.toNat 0).extractLsb' 0 64) [] := by
  obtain ⟨u, hcores, hread⟩ := readStep_miss (fun es => envHalf es e.toNat h.toNat) hmiss henvs
  rw [← envHalf_toNat]
  exact ⟨u, hcores, givesFrom_of_result rfl (M.bind_ok s u hread)⟩

end

/-! ### Nogoods (R182, R191) -/

theorem nogood_true (h : s.me.lg ra = labelTrue) : Traps (.nogood ra) s .illegal (.word true) := by
  refine runI_trap ?_
  rw [M.bind_ok s s (M.run_get s), h]
  rfl

theorem nogood_false (h : s.me.lg ra = labelFalse) : Sets (.nogood ra) s id := by
  refine runI_ok ?_
  rw [M.bind_ok s s (M.run_get s), h]
  rfl

/-- NOGOOD of any other label records its environments before the core goes on. -/
theorem exec_nogood (htrue : s.me.lg ra ≠ labelTrue) (hfalse : s.me.lg ra ≠ labelFalse)
    (henvs : labelEnvs (s.who s.cur) (s.me.lg ra) s = .ok es s1) (hes : es ≠ []) (hrequest : requestNogoods es s1 = .ok () t) :
    exec (.nogood ra) s = .next (t.modCore t.cur Core.past) := by
  refine runI_ok ?_
  rw [M.bind_ok s s (M.run_get s)]
  simp only [htrue, hfalse, M.run_bind, henvs, spaceOf, List.isEmpty_eq_false_iff.2 hes, hrequest, if_false, ne_eq, not_false_eq_true,
    if_true, Bool.false_and, Bool.not_false, M.run_advance]

theorem nogoode_empty (h : (s.me.rg rb ++ s.me.rg ra : Env) = 0) : Traps (.nogoode ra rb) s .illegal (.word true) := by
  refine runI_trap ?_
  rw [M.bind_ok s s (M.run_getMe s)]
  dsimp only
  rw [if_pos h]
  rfl

theorem exec_nogoode (h : (s.me.rg rb ++ s.me.rg ra : Env) ≠ 0) (hrequest : requestNogoods [s.me.rg rb ++ s.me.rg ra] s = .ok () t) :
    exec (.nogoode ra rb) s = .next (t.modCore t.cur Core.past) := by
  refine runI_ok ?_
  rw [M.bind_ok s s (M.run_getMe s)]
  dsimp only
  rw [if_neg h]
  exact M.bind_ok s t hrequest

end

/-! ### The steps of the Fuller and of the plinth -/

section
variable {s t : State} {ctx k loc : Nat} {l : Label}

theorem runPlinth_ok {m : M Unit} (h : m s = .ok () t) : runPlinth m s = .next t := by rw [runPlinth, h]

theorem spaceOf_active {w : Who} (h : lspaceEn (s.ctx w.ctx).lspace = true) :
    spaceOf w s = .ok (some (lspaceBase (s.ctx w.ctx).lspace)) s := by
  rw [spaceOf, if_pos h]

/-- INTERN_REQUEST of contents that a label can have (R171). -/
theorem exec_internRequest {es : List Env} {r : Interned} (hspace : lspaceEn (s.ctx ctx).lspace = true) (hne : envSort es ≠ [])
    (hlen : (envSort es).length ≤ 16) (htrue : envSort es ≠ [0])
    (hintern : internAt (s.plinthOf ctx) (lspaceBase (s.ctx ctx).lspace) (envSort es) s = .ok r t) :
    exec (.internRequest ctx es) s = .next t := by
  have hcontents : (!(envSort es).isEmpty && decide ((envSort es).length ≤ 16) && envSort es != [0]) = true := by
    simp only [Bool.and_eq_true, Bool.not_eq_true', List.isEmpty_eq_false_iff, decide_eq_true_eq, bne_iff_ne]
    exact ⟨⟨hne, hlen⟩, htrue⟩
  refine runPlinth_ok ((M.bind_ok s s (spaceOf_active (w := s.plinthOf ctx) hspace)).trans ?_)
  dsimp only
  rw [if_pos hcontents]
  exact M.bind_ok s t hintern

/-- FULLER_MISS_COMPLETE of a step that forms a label, for the context that the cluster runs (R178). -/
theorem exec_fullerMissComplete {op : FullerOp} {x y : Label} {n : Nat} {f : Formed} (hk : k < nClusters)
    (hctx : (s.cluster k).ctx = some ctx)
    (hform : op = .prod ∧ prod ⟨ctx, k / 64, k, false⟩ .deferred x y s = .ok f t ∨
      op = .union ∧ union ⟨ctx, k / 64, k, false⟩ .deferred x y s = .ok f t ∨
      op = .assume n ∧ assumeStep ⟨ctx, k / 64, k, false⟩ .deferred x n s = .ok f t) :
    exec (.fullerMissComplete k ctx op x y) s = .next t := by
  have hrun : (!decide (k < nClusters)) = false := by simp [hk]
  have hown : ((s.cluster k).ctx != some ctx) = false := by simp [hctx]
  change execFullerMissComplete k ctx op x y s = _
  simp only [execFullerMissComplete, hrun, hown, Bool.false_eq_true, if_false]
  rcases hform with ⟨rfl, h⟩ | ⟨rfl, h⟩ | ⟨rfl, h⟩
  all_goals exact runPlinth_ok (M.bind_ok s t h)

theorem State.foldl_send {α : Type} (ks : List α) (f : α → Msg) (s : State) :
    ks.foldl (fun s k => s.send (f k)) s = { s with flight := s.flight ++ ks.map f } := by
  induction ks generalizing s with
  | nil => rw [List.foldl_nil, List.map_nil, List.append_nil]
  | cons k r ih => rw [List.foldl_cons, ih, State.send, List.map_cons, List.append_assoc, List.singleton_append]

/-- NOGOOD_REQUEST: a set that was recorded is sent to every cluster of the context (R182, R184). -/
theorem exec_nogoodRequest {es : List Env} (hspace : lspaceEn (s.ctx ctx).lspace = true)
    (hrecord : recordNogoods (s.plinthOf ctx) (lspaceBase (s.ctx ctx).lspace) es s = .ok true t) :
    exec (.nogoodRequest ctx es) s = .next { t with flight := t.flight ++ (t.clustersOfCtx ctx).map Msg.nogoodInstall } := by
  rw [← State.foldl_send]
  exact runPlinth_ok ((M.bind_ok s s (spaceOf_active (w := s.plinthOf ctx) hspace)).trans (M.bind_ok s t hrecord))

/-- NOGOOD_INSTALL: the Fuller of a cluster takes the recorded set and drops its product cache (R184). -/
theorem exec_nogoodInstall {ngs : List Env} (hk : k < nClusters) (hctx : (s.cluster k).ctx = some ctx)
    (hspace : lspaceEn (s.ctx ctx).lspace = true)
    (hrecorded : recordedNogoods ⟨ctx, k / 64, k, false⟩ (lspaceBase (s.ctx ctx).lspace) s = .ok ngs t) :
    exec (.nogoodInstall k) s = .next (t.modCluster k (fun c => { c with filter := ngs, pcache := [] })) := by
  have hwho : s.fuller k = ⟨ctx, k / 64, k, false⟩ := by rw [State.fuller, hctx]; rfl
  change execNogoodInstall k s = _
  rw [execNogoodInstall, if_pos hk, hwho]
  exact runPlinth_ok ((M.bind_ok s s (spaceOf_active hspace)).trans (M.bind_ok s t hrecorded))

/-- DEFERRED_LABEL_FOLD: the tag of a word takes a factor (R410). -/
theorem exec_deferredLabelFold {y : Label} (hfold : deferredFold (s.plinthOf ctx) loc [s.tags.get labelTrue (loc / 4), l] s = .ok y t) :
    exec (.deferredLabelFold ctx loc l) s = .next { t with tags := t.tags.set labelTrue (loc / 4) y } :=
  runPlinth_ok (M.bind_ok s t hfold)

end

/-- Settles O37: each instruction and each step by its own lemma above. -/
theorem labelInstructions : Obligations.LabelInstructions := by
  unfold Obligations.LabelInstructions
  intro s s1 s2 t d ra rb n p e h l b es c w x env form half
  refine ⟨gives_of_result rfl rfl, gives_of_result rfl ?leq, gives_of_result rfl rfl, lfocus_sets, gives_of_labelled rfl rfl,
    gives_of_labelled rfl rfl, lset_gives, exec_lvis, lsel_first, lsel_second, lsel_neither, fun henvs => ⟨lcount_gives henvs, lenv_gives henvs⟩, nogood_true,
    nogood_false, exec_nogood, nogoode_empty, exec_nogoode, fun ctx k loc op y ngs f r => ?steps⟩
  case leq => exact congrArg (fun v => result d v [] s) (if_congr beq_iff_eq rfl rfl)
  case steps =>
    exact ⟨exec_internRequest, exec_fullerMissComplete, exec_nogoodRequest, exec_nogoodInstall, exec_deferredLabelFold⟩

end Sys2Proof.Machine
end

section
/-! PROOFS. O22, O24 and O26: loads, stores, and misaligned addresses (R204, R205, R210 to R213, R250).

Outside the event window a load is `resolve`, `loadFrom` and `loaded`, and a store is `resolve`, its label and a buffer; `resolve` raises
MISALIGN before it does anything else. -/

open Sys2Proof.Claims

namespace Sys2Proof.Machine

/-! ### A load outside the event window (R210, R212) -/

section
variable {s s1 s2 t : State} {z : LdSize} {d ra : GReg} {o : BitVec 11} {loc : Loc} {r : Got} {l : Label} {nt : Bool}

/-- What a load read is written as a result of its labels, where it holds no uncorrectable error. -/
theorem loaded_sound {ls : List Label} (hsound : r.bad = false) (ea v : Word) :
    (d = 0 → loaded d ea v r ls s = .ok () (s.modCore s.cur Core.past)) ∧
      (d ≠ 0 → formLabel (r.labels ++ ls) s = .ok l t →
        loaded d ea v r ls s = .ok () (t.modCore t.cur (fun c => (c.wg d v l).past))) := by
  refine ⟨fun hd => ?zero, fun hd hl => ?nonzero⟩
  case zero =>
    subst hd
    have hearly : formEarly 0 (r.labels ++ ls) s = .ok ⟨labelTrue, false⟩ s := rfl
    rw [loaded, M.bind_ok s s hearly, hsound]
    simp [resultFormed, M.run_bind]
  case nonzero =>
    obtain ⟨f, u, hfold, rfl, rfl⟩ := formLabel_eq_ok hl
    have hearly : formEarly d (r.labels ++ ls) s = .ok f u := by
      rw [formEarly, if_neg hd, M.bind_ok s s (M.run_get s)]
      exact hfold
    rw [loaded, M.bind_ok s u hearly, hsound]
    simp only [resultFormed, if_neg hd, Bool.false_eq_true, if_false, M.run_bind, M.run_modMe, M.run_advance, State.modCore_cur,
      State.modCore_modCore]
    cases f.cut
    all_goals simp

theorem loadAs_eq (hevent : ∀ off, s.target s.cur (effective (s.me.rg ra) o (LdSize.bytes z)) ≠ .event off) :
    loadAs z d ra o nt s = (do
      let loc ← resolve .read (effective (s.me.rg ra) o (LdSize.bytes z)) (LdSize.bytes z)
      let r ← loadFrom (effective (s.me.rg ra) o (LdSize.bytes z)) loc (LdSize.bytes z) nt
      loaded d (effective (s.me.rg ra) o (LdSize.bytes z)) (LdSize.extend z r.value) r [s.me.lg ra]) s := by
  rw [loadAs, M.bind_ok s s (M.run_get s)]
  dsimp only
  cases htarget : s.target s.cur (effective (s.me.rg ra) o (LdSize.bytes z))
  case event off => exact absurd htarget (hevent off)
  all_goals rfl

/-- A load that resolves and reads is what `loaded` makes of what it read. -/
theorem loadAs_read {ea : Word} (hea : effective (s.me.rg ra) o (LdSize.bytes z) = ea) (hevent : ∀ off, s.target s.cur ea ≠ .event off)
    (hresolve : resolve .read ea (LdSize.bytes z) s = .ok loc s1) (hread : loadFrom ea loc (LdSize.bytes z) nt s1 = .ok r s2) :
    loadAs z d ra o nt s = loaded d ea (LdSize.extend z r.value) r [s.me.lg ra] s2 := by
  subst hea
  rw [loadAs_eq hevent, M.bind_ok s s1 hresolve, M.bind_ok s1 s2 hread]

/-- LD.acq with no tile memory instruction queued is a load (R126, R207). -/
theorem exec_ldAcq (htile : s.me.tileMem = false) : exec (.ldAcq z d ra o) s = runI (.ldAcq z d ra o) (loadAs z d ra o false) s := by
  change execLdAcq z d ra o s = _
  have hready : (do let c ← getMe; needs (!c.tileMem); loadAs z d ra o false : M Unit) s = loadAs z d ra o false s := by
    rw [M.bind_ok s s (M.run_getMe s), M.bind_ok s s (needs_ok (by rw [htile]; rfl))]
  rw [execLdAcq, runI, runI, hready]

end

/-- Settles O22: each form is `loadAs`, and what was read is written by `loaded`. -/
theorem loads : Obligations.Loads := by
  unfold Obligations.Loads
  intro s s1 s2 t z d ra o loc v tags l n ea hevent hresolve gives
  have hgives {i : Instr} {nt : Bool} (hexec : exec i s = runI i (loadAs z d ra o nt) s) : gives i nt := fun hread => by
    have hload : loadAs z d ra o nt s = loaded d ea (LdSize.extend z v) ⟨v, tags, false⟩ [s.me.lg ra] s2 :=
      loadAs_read rfl hevent hresolve hread
    obtain ⟨hzero, hnonzero⟩ := loaded_sound (d := d) (l := l) (s := s2) (t := t) (r := ⟨v, tags, false⟩) (ls := [s.me.lg ra]) rfl ea
      (LdSize.extend z v)
    rw [hexec]
    exact ⟨fun hd => runI_ok (hload.trans (hzero hd)), fun hd hl => runI_ok (hload.trans (hnonzero hd hl))⟩
  exact ⟨hgives rfl, fun htile => hgives (exec_ldAcq htile), hgives rfl⟩

/-! ### A store outside the event window (R205, R213) -/

section
variable {i : Instr} {s s1 t u : State} {z : StSize} {d ra : GReg} {o : BitVec 11} {loc : Loc} {l : Label} {ea : Word} {nt : Bool}

/-- A store that resolves and has its label ends as its buffer takes it. -/
theorem storeOp_ok (hea : effective (s.me.rg ra) o (StSize.bytes z) = ea) (hevent : ∀ off, s.target s.cur ea ≠ .event off)
    (hresolve : resolve .write ea (StSize.bytes z) s = .ok loc s1) (hlabel : formLabel [s.me.lg d, s.me.lg ra] s1 = .ok l t)
    (htake : (if nt && loc.place != .local && loc.place != .scratch then storeNt ea loc (StSize.bytes z) (s.me.rg d) l
      else storeTo ea loc (StSize.bytes z) (s.me.rg d) l) t = .ok () u) :
    storeOp i z d ra o nt s = .next (u.modCore u.cur Core.past) := by
  subst hea
  refine runI_ok ?_
  rw [M.bind_ok s s (M.run_get s)]
  dsimp only
  cases htarget : s.target s.cur (effective (s.me.rg ra) o (StSize.bytes z))
  case event off => exact absurd htarget (hevent off)
  all_goals
    refine (M.bind_ok s s1 hresolve).trans ((M.bind_ok s1 t hlabel).trans ?_)
    split at htake
    case isTrue hnt => exact (if_pos hnt ▸ M.bind_ok t u htake)
    case isFalse hnt => exact (if_neg hnt ▸ M.bind_ok t u htake)

theorem plainCheck_ok (h : loc.plain = true → l = labelTrue) (ea : Word) : plainCheck ea loc l s = .ok () s := by
  have hpass : (loc.plain && l != labelTrue) = false := by
    cases hplain : loc.plain
    case false => rfl
    case true => simp [h hplain]
  rw [plainCheck, hpass]
  rfl

/-- With room a store stands last in the store buffer (R205). -/
theorem storeTo_ok {size : Nat} (hplain : loc.plain = true → l = labelTrue) (hroom : Room t ea size) (data : Word) :
    storeTo ea loc size data l t = .ok () (t.modCore t.cur (fun c => { c with sb := c.sb ++ [⟨.store, ea.toNat, loc, size, data, l⟩] })) := by
  obtain ⟨hlength, hcovers, htile, hmst⟩ := hroom
  rw [storeTo, M.bind_ok t t (plainCheck_ok hplain ea), pushSb, M.bind_ok t t (M.run_getMe t),
    M.bind_ok t t (needs_ok (by simp [hlength, hcovers, htile, hmst]))]
  rfl

/-- One store of a few bytes does not fill a line. -/
theorem NtBuf.full_single {e : NtStore} {line : Nat} (h : e.size ≤ 32) : NtBuf.full ⟨line, [e]⟩ = false := by
  refine List.all_eq_false.2 ?_
  by_cases hkey : e.loc.key ≤ line
  · exact ⟨63, by decide, by simp; omega⟩
  · exact ⟨0, by decide, by simp; omega⟩

/-- With no combining buffer in use a STNT of global memory has one to itself (R213). -/
theorem storeNt_first {size : Nat} (hplain : loc.plain = true → l = labelTrue) (hnt : t.me.nt = []) (hsb : t.me.sb = [])
    (hmst : t.me.mstQueued = false) (hsize : size ≤ 32) (data : Word) :
    storeNt ea loc size data l t =
      .ok () (t.modCore t.cur (fun c => { c with nt := [⟨lineOf loc.key, [⟨ea.toNat, loc, size, data, l⟩]⟩] })) := by
  have hfull : NtBuf.full ⟨lineOf loc.key, [⟨ea.toNat, loc, size, data, l⟩]⟩ = false := NtBuf.full_single hsize
  have hnt' : (t.core t.cur).nt = [] := hnt
  have hput : t.modCore t.cur (fun c =>
      if c.nt.any (fun b => b.line == lineOf loc.key) then
        { c with nt := c.nt.map (fun b => if b.line == lineOf loc.key then
          { b with stores := b.stores ++ [⟨ea.toNat, loc, size, data, l⟩] } else b) }
      else { c with nt := c.nt ++ [⟨lineOf loc.key, [⟨ea.toNat, loc, size, data, l⟩]⟩] }) =
      t.modCore t.cur (fun c => { c with nt := [⟨lineOf loc.key, [⟨ea.toNat, loc, size, data, l⟩]⟩] }) := by
    simp [State.modCore, hnt']
  simp only [storeNt, whole, M.run_bind, plainCheck_ok hplain, M.run_get, hnt, hsb, hmst, List.any_nil, List.length_nil, Bool.not_false,
    Bool.and_self, M.run_needs_true, show ¬4 ≤ 0 by decide, decide_false, Bool.and_false, Bool.false_eq_true, if_false, M.run_pure,
    M.run_modMe, hput, M.run_getMe, State.modCore_me, List.find?_cons, hfull, List.find?_nil]

end

/-- Settles O24: by `storeTo_ok`, and for STNT of global memory `storeNt_first`. -/
theorem stores : Obligations.Stores := by
  unfold Obligations.Stores
  intro s s1 t z d ra o loc l n ea e hevent hresolve hlabel hplain hroom buffered
  have htake := storeTo_ok hplain hroom (s.me.rg d)
  have hsize : StSize.bytes z ≤ 32 := by cases z <;> decide
  have hbuffered {i : Instr} {nt : Bool} (hb : (nt && loc.place != .local && loc.place != .scratch) = false) :
      storeOp i z d ra o nt s = .next buffered := by
    rw [storeOp_ok rfl hevent hresolve hlabel (by rw [hb]; exact htake), State.modCore_cur, State.modCore_modCore]
  refine ⟨hbuffered rfl, hbuffered rfl, fun hwindow => hbuffered ?window, fun hlocal hscratch hnt hsb => ?global⟩
  case window =>
    rcases hwindow with h | h
    all_goals rw [h]; rfl
  case global =>
    obtain ⟨-, -, -, hmst⟩ := hroom
    have hfirst := storeNt_first (ea := ea) (loc := loc) (l := l) hplain hnt hsb hmst hsize (s.me.rg d)
    change storeOp (.stnt z d ra o) z d ra o true s = _
    rw [storeOp_ok rfl hevent hresolve hlabel (by simp only [bne_iff_ne.2 hlocal, bne_iff_ne.2 hscratch]; exact hfirst), State.modCore_cur,
      State.modCore_modCore]

/-! ### Misaligned addresses (R204, R211, R250) -/

section
variable {i : Instr} {s : State} {ea : Word} {size : Nat} {d ra rb : GReg}

theorem raiseAddr_word {α : Type} (c : Cause) (ea : Word) (s : State) :
    (raiseAddr c ea.toNat : M α) s = .error (.trap c (.other ea false)) s := by
  rw [M.run_raiseAddr, BitVec.ofNat_toNat, BitVec.setWidth_eq]

theorem resolve_misaligned {acc : Access} (h : ea.toNat % size ≠ 0) : resolve acc ea size s = .error (.trap .misalign (.other ea false)) s := by
  rw [resolve, M.bind_ok s s (M.run_get s), if_pos h]
  exact M.bind_error s s (raiseAddr_word _ _ s)

theorem resolveBank_misaligned {acc : Access} (h : ea.toNat % size ≠ 0) (hglobal : ∃ g, s.target s.cur ea = .global g) :
    resolveBank acc ea size s = .error (.trap .misalign (.other ea false)) s := by
  obtain ⟨g, hg⟩ := hglobal
  rw [resolveBank, M.bind_ok s s (M.run_get s), hg]
  exact M.bind_error s s (resolve_misaligned h)

theorem resolveCounter_misaligned {acc : Access} (h : ea.toNat % 64 ≠ 0) :
    resolveCounter acc ea s = .error (.trap .misalign (.other ea false)) s := by
  rw [resolveCounter, if_pos h]
  exact M.bind_error s s (raiseAddr_word _ _ s)

theorem loadAs_misaligned {z : LdSize} {o : BitVec 11} {nt : Bool} (hea : effective (s.me.rg ra) o (LdSize.bytes z) = ea)
    (h : ea.toNat % LdSize.bytes z ≠ 0) : loadAs z d ra o nt s = .error (.trap .misalign (.other ea false)) s := by
  subst hea
  rw [loadAs, M.bind_ok s s (M.run_get s)]
  dsimp only
  cases s.target s.cur (effective (s.me.rg ra) o (LdSize.bytes z))
  case event =>
    dsimp only
    rw [if_pos h]
    exact M.bind_error s s (raiseAddr_word _ _ s)
  all_goals exact M.bind_error s s (resolve_misaligned h)

theorem storeOp_misaligned {z : StSize} {o : BitVec 11} {nt : Bool} (hexec : exec i s = storeOp i z d ra o nt s)
    (hea : effective (s.me.rg ra) o (StSize.bytes z) = ea) (h : ea.toNat % StSize.bytes z ≠ 0) : Traps i s .misalign (.other ea false) := by
  subst hea
  refine hexec.trans (runI_trap ?_)
  rw [M.bind_ok s s (M.run_get s)]
  dsimp only
  cases s.target s.cur (effective (s.me.rg ra) o (StSize.bytes z))
  case event =>
    dsimp only
    rw [if_pos h]
    exact M.bind_error s s (raiseAddr_word _ _ s)
  all_goals exact M.bind_error s s (resolve_misaligned h)

/-- An AMO resolves its address before anything else. -/
theorem amo_misaligned {op : MemOp} (h : (s.me.rg ra).toNat % size ≠ 0) (hexec : exec i s = amo i op size d ra rb s := by rfl) :
    Traps i s .misalign (.other (s.me.rg ra) false) :=
  hexec.trans (runI_trap ((M.bind_ok s s (M.run_getMe s)).trans (M.bind_error s s (resolve_misaligned h))))

/-- A reduction resolves its address before anything else. -/
theorem red_misaligned {op : MemOp} (h : (s.me.rg ra).toNat % size ≠ 0) (hexec : exec i s = red i op size ra rb s := by rfl) :
    Traps i s .misalign (.other (s.me.rg ra) false) :=
  hexec.trans (runI_trap ((M.bind_ok s s (M.run_getMe s)).trans (M.bind_error s s (resolve_misaligned h))))

/-- A counter instruction begins by resolving its address. -/
theorem counter_misaligned {α : Type} {acc : Access} {f : Core → Loc → M α} (h : (s.me.rg ra).toNat % 64 ≠ 0) :
    (do let c ← getMe; let loc ← resolveCounter acc (c.rg ra); f c loc : M α) s = .error (.trap .misalign (.other (s.me.rg ra) false)) s :=
  (M.bind_ok s s (M.run_getMe s)).trans (M.bind_error s s (resolveCounter_misaligned h))

/-- A counter instruction that has asked nothing begins. -/
theorem counterResumes_begins (hwait : s.me.wait = .none) (done : Word → M Unit) (begin' : M Unit) :
    counterResumes ra done begin' s = begin' s := by
  rw [counterResumes, M.bind_ok s s (M.run_getMe s), hwait]

end

/-- Settles O26: each form resolves its address first, after the waits that the statement names. -/
theorem misaligned : Obligations.Misaligned := by
  unfold Obligations.Misaligned
  intro s zl zs za d ra rb rc o q m a traps el es
  refine ⟨fun h => ?loads, fun h => ?stores, fun h => ?atomics, fun h => ?floats, fun h hwait => ?counters, fun h hglobal => ?memred,
    fun h hglobal => ?memcas⟩
  case loads =>
    have hload (nt : Bool) : loadAs zl d ra o nt s = .error (.trap .misalign (.other el false)) s := loadAs_misaligned rfl h
    exact ⟨runI_trap (hload false), runI_trap (hload true), fun htile => (exec_ldAcq htile).trans (runI_trap (hload false))⟩
  case stores => exact ⟨storeOp_misaligned rfl rfl h, storeOp_misaligned rfl rfl h, storeOp_misaligned rfl rfl h⟩
  case atomics =>
    exact ⟨amo_misaligned h, amo_misaligned h, amo_misaligned h, amo_misaligned h, amo_misaligned h, amo_misaligned h, amo_misaligned h,
      amo_misaligned h, amo_misaligned h, amo_misaligned h, red_misaligned h, red_misaligned h, red_misaligned h, red_misaligned h,
      red_misaligned h, red_misaligned h⟩
  case floats => exact ⟨amo_misaligned h, red_misaligned h⟩
  case counters =>
    have hbegins {done : Word → M Unit} {f : Core → Loc → M Unit} :
        counterResumes ra done (do let c ← getMe; let loc ← resolveCounter .write (c.rg ra); f c loc) s =
          .error (.trap .misalign (.other a false)) s :=
      (counterResumes_begins hwait _ _).trans (counter_misaligned h)
    exact ⟨runI_trap hbegins, runI_trap hbegins, runI_trap (counter_misaligned h), runI_trap hbegins, runI_trap (counter_misaligned h)⟩
  case memred =>
    exact runI_trap ((M.bind_ok s s (M.run_getMe s)).trans (M.bind_error s s (resolveBank_misaligned h hglobal)))
  case memcas =>
    exact runI_trap ((M.bind_ok s s (M.run_getMe s)).trans (M.bind_error s s (resolveBank_misaligned h hglobal)))

end Sys2Proof.Machine
end

section
/-! PROOFS. O25: the oldest buffered store performs, and a combining buffer of one store (R180, R203, R205, R213).

Both are `performStore` of whole words at a place that is no cached line, which is `State.store` of the operand label at each word. -/

open Sys2Proof.Claims

namespace Sys2Proof.Machine

/-! ### Bytes, tags and damage after a write -/

/-- A byte that a write covers is that of the value, the first the least significant (R1). -/
theorem writeNat_get_inside {m : Memory} (h : Memory.wf m) (k : Nat) (x : Word) {n i : Nat} (hi : i < n) :
    (writeNat m k x.toNat n).get 0 (k + i) = x.extractLsb' (8 * i) 8 := by
  refine BitVec.eq_of_getLsbD_eq fun j hj => ?_
  have hbit := memBit_writeNat h k x.toNat n (8 * (k + i) + j)
  rw [memBit, show (8 * (k + i) + j) / 8 = k + i by omega, show (8 * (k + i) + j) % 8 = j by omega, if_pos (by omega),
    show 8 * (k + i) + j - 8 * k = 8 * i + j by omega] at hbit
  rw [hbit, BitVec.getLsbD_extractLsb', decide_eq_true hj, Bool.true_and]
  rfl

/-- A key whose entries all leave reads as the default. -/
theorem AMap.get_filter_of_gone {α : Type} {m : AMap α} {d : α} {p : Nat × α → Bool} {k : Nat} (h : ∀ v, p (k, v) = false) :
    AMap.get (m.filter p) d k = d := by
  induction m with
  | nil => rfl
  | cons e r ih =>
    obtain ⟨j, v⟩ := e
    by_cases hkeep : p (j, v) = true
    · have hne : k ≠ j := fun hkj => by rw [← hkj, h v] at hkeep; exact Bool.false_ne_true hkeep
      rw [List.filter_cons_of_pos hkeep, AMap.get, if_neg hne, ih, ite_self]
    · rw [List.filter_cons_of_neg hkeep, ih]

/-- A word that a write covers whole is repaired (R203). -/
theorem repaired_get (d : AMap Bool) {k n w : Nat} (hlow : k ≤ 4 * w) (hhigh : 4 * w + 4 ≤ k + n) : (repaired d k n).get false w = false :=
  AMap.get_filter_of_gone fun v => by simp [hlow, hhigh]

/-- One value set at several keys. -/
theorem AMap.get_foldl_set {α : Type} [DecidableEq α] {d : α} (ws : List Nat) (x : α) {m : AMap α} (h : AMap.wf d m = true) (w : Nat) :
    AMap.get ((ws.map (fun w => (w, x))).foldl (fun t e => AMap.set t d e.1 e.2) m) d w = if w ∈ ws then x else AMap.get m d w := by
  induction ws generalizing m with
  | nil => rfl
  | cons v r ih =>
    rw [List.map_cons, List.foldl_cons, ih (AMap.wf_set h v x), AMap.get_set h]
    by_cases hr : w ∈ r
    · simp [hr]
    · simp [hr]

theorem mem_wordsOf {k n w : Nat} (hn : 0 < n) : w ∈ wordsOf k n ↔ k / 4 ≤ w ∧ w ≤ (k + n - 1) / 4 := by
  rw [wordsOf, if_neg (by omega), List.mem_map]
  constructor
  · rintro ⟨i, hi, rfl⟩
    rw [List.mem_range] at hi
    omega
  · intro hw
    exact ⟨w - k / 4, List.mem_range.2 (by omega), by omega⟩

theorem State.wakeLocal_damaged (s : State) (k : Nat) : (s.wakeLocal k).damaged = s.damaged := by
  unfold State.wakeLocal
  split
  · rfl
  · split <;> rfl

theorem State.store_damaged (s : State) (loc : Loc) (size v : Nat) (tags : List (Nat × Label)) :
    (s.store loc size v tags).damaged = repaired s.damaged loc.key size := by
  unfold State.store State.poke
  dsimp only
  split
  all_goals exact State.wakeLocal_damaged _ _

theorem State.store_tags {s : State} {loc : Loc} (hplain : loc.plain = false) (size v : Nat) (tags : List (Nat × Label)) :
    (s.store loc size v tags).tags = tags.foldl (fun t e => t.set labelTrue e.1 e.2) s.tags := by
  have hwake := (State.wakeLocal_mem { s with mem := writeNat s.mem loc.key v size, damaged := repaired s.damaged loc.key size } loc.key).2
  rw [State.store, hplain]
  exact congrArg (fun g : Tags => tags.foldl (fun t e => t.set labelTrue e.1 e.2) g) hwake

/-! ### A store of whole words performs (R180) -/

/-- A location kept neither in a lease nor in a cluster's copy. -/
def Loc.direct (loc : Loc) : Prop := loc.place ≠ .tracked ∧ loc.place ≠ .untracked ∧ loc.place ≠ .hostCached

/-- The words of a store that covers them whole, each under its label. -/
def wholeTags (loc : Loc) (size : Nat) (l : Label) : List (Nat × Label) := (wordsOf loc.key size).map (fun w => (w, l))

section
variable {s : State} {loc : Loc}

theorem oldTags_direct (hloc : loc.direct) (hplain : loc.plain = false) (n size : Nat) :
    oldTags n loc size s = .ok ((wordsOf loc.key size).map (fun w => (w, s.tags.get labelTrue w))) s := by
  obtain ⟨htracked, huntracked, hcached⟩ := hloc
  rw [oldTags, hplain]
  cases hplace : loc.place
  case tracked => exact absurd hplace htracked
  case untracked => exact absurd hplace huntracked
  case hostCached => exact absurd hplace hcached
  all_goals rfl

theorem placeAt_direct (hloc : loc.direct) (n size v : Nat) (tags : List (Nat × Label)) :
    placeAt n loc size v tags s = .ok () (s.store loc size v tags) := by
  obtain ⟨htracked, huntracked, -⟩ := hloc
  rw [placeAt]
  cases hplace : loc.place
  case tracked => exact absurd hplace htracked
  case untracked => exact absurd hplace huntracked
  all_goals rfl

/-- Whole words take the operand label, and nothing is folded. -/
theorem performStore_direct (hloc : loc.direct) (hplain : loc.plain = false) {size : Nat} (hsize : 4 ≤ size) (n v : Nat) (l : Label) :
    performStore n loc size v l s = .ok () (s.store loc size v (wholeTags loc size l)) := by
  have hnotracked : (loc.place == .tracked) = false := beq_eq_false_iff_ne.2 hloc.1
  have hlabels {w : Who} (ws : List Nat) : (ws.map (fun w => (w, s.tags.get labelTrue w))).mapM (fun e => do
      if 4 ≤ size || loc.plain then return (e.1, l)
      else return (e.1, ← deferredFold w loc.key [l, e.2]) : Nat × Label → M (Nat × Label)) s = .ok (ws.map (fun w => (w, l))) s := by
    induction ws with
    | nil => rfl
    | cons a r ih =>
      rw [List.map_cons, List.mapM_cons]
      refine (M.bind_ok s s (a := (a, l)) ?_).trans ((M.bind_ok s s ih).trans rfl)
      rw [if_pos (by simp [hsize])]
      rfl
  rw [performStore, performStoreBy, hnotracked, if_neg Bool.false_ne_true]
  refine (M.bind_ok s s (oldTags_direct hloc hplain n size)).trans ((M.bind_ok s s (M.run_get s)).trans ?_)
  exact (M.bind_ok s s (hlabels _)).trans (placeAt_direct hloc _ _ _ _)

end

/-- t is s after a store of whole words at k by one of the cores: bytes, tags and damage there alone, and the cores but for their waits. -/
structure StoresAt (s t : State) (k size : Nat) (x : Word) (l : Label) : Prop where
  cores : SameCores s t
  inside : ∀ i, i < size → t.mem.get 0 (k + i) = x.extractLsb' (8 * i) 8
  outside : ∀ a, a < k ∨ k + size ≤ a → t.mem.get 0 a = s.mem.get 0 a
  tags : ∀ w, t.tags.get labelTrue w = if k / 4 ≤ w ∧ w < (k + size) / 4 then l else s.tags.get labelTrue w
  sound : t.damaged.get false (k / 4) = false

/-- What a store of whole words leaves. -/
theorem storesAt_store {s : State} (hs : s.Canonical) {loc : Loc} (hplain : loc.plain = false) {size : Nat} (hsize : size = 4 ∨ size = 8)
    (halign : loc.key % 4 = 0) (x : Word) (l : Label) :
    StoresAt s (s.store loc size x.toNat (wholeTags loc size l)) loc.key size x l where
  cores := SameCores.store (.refl s) _ _ _ _
  inside i hi := by rw [State.store_mem, writeNat_get_inside hs.1 _ _ hi]
  outside a ha := by rw [State.store_mem, writeNat_get_outside _ hs.1 _ _ _ ha]
  tags w := by
    rw [State.store_tags hplain, wholeTags, AMap.get_foldl_set _ _ hs.2]
    exact if_congr ((mem_wordsOf (by omega)).trans (by omega)) rfl rfl
  sound := by rw [State.store_damaged, repaired_get _ (by omega) (by omega)]

/-! ### The steps of the buffers (R205, R213) -/

section
variable {s : State} {n : Nat}

/-- A core that is in no PAUSE yields to no one (R262). -/
theorem State.yieldsTo_eq_false (hwait : ∀ u, (s.core n).wait ≠ .pause u) (p : Nat → Bool) : s.yieldsTo n p = false := by
  have hpausing : s.pausing n = false := by
    unfold State.pausing
    split
    case h_1 u hu => exact absurd hu (hwait u)
    case h_2 => rfl
  rw [State.yieldsTo, hpausing, Bool.false_and]

theorem storeReady_ok (hpaused : (s.core n).paused = []) (hwait : ∀ u, (s.core n).wait ≠ .pause u) : storeReady n s = .ok () s := by
  have hport : s.yieldsPort n = false := State.yieldsTo_eq_false hwait _
  have hfuller : s.yieldsFuller n = false := State.yieldsTo_eq_false hwait _
  rw [storeReady, M.bind_ok s s (M.run_get s), M.bind_ok s s (needs_ok (by rw [hpaused]; rfl))]
  cases (s.core n).sb with
  | nil => rfl
  | cons e r =>
    dsimp only
    rw [hport, hfuller, Bool.and_false, Bool.and_false]
    rfl

/-- STORE_PERFORM of a store whose data is placed (R205). -/
theorem exec_storePerform (hn : n < nCores) (hpaused : (s.core n).paused = []) (hwait : ∀ u, (s.core n).wait ≠ .pause u) {e : SbEntry}
    {rest : List SbEntry} (hsb : (s.core n).sb = e :: rest) {u : State} (hentry : performEntry n e s = .ok () u) :
    exec (.storePerform n) s = .next (u.modCore n (fun c => { c with sb := c.sb.drop 1 })) := by
  change execStorePerform n s = _
  rw [execStorePerform, if_pos hn]
  refine runEngine_ok ?_
  rw [M.bind_ok s s (storeReady_ok hpaused hwait), performHead, M.bind_ok s s (M.run_get s), hsb]
  exact M.bind_ok s u hentry

/-- A buffered store to a local store (R180, R205). -/
theorem performEntry_local {e : SbEntry} (hkind : e.kind = .store) (hplace : e.loc.place = .local) (hplain : e.loc.plain = false)
    (hsize : 4 ≤ e.size) :
    performEntry n e s = .ok () (s.store e.loc e.size e.data.toNat (wholeTags e.loc e.size e.label)) := by
  have hdirect : e.loc.direct := by rw [Loc.direct, hplace]; decide
  have hcounter : s.inCounter e.loc = false := by rw [State.inCounter, hplace]; rfl
  have hlink : linkReady e.loc s = .ok true s := by rw [linkReady, M.bind_ok s s (M.run_get s), linkUp, hplace]; rfl
  rw [performEntry, M.bind_ok s s (M.run_get s)]
  simp only [hkind, hcounter, Bool.false_eq_true, if_false, M.run_bind, hlink, Bool.not_true]
  exact performStore_direct hdirect hplain hsize n _ _

/-- A store of a combining buffer to host memory that the cluster may not cache, over a link that carries traffic (R213). -/
theorem performNt_host {e : NtStore} (hplace : e.loc.place = .hostUncached) (hplain : e.loc.plain = false) (hsize : 4 ≤ e.size)
    (hlink : linkUp s e.loc = true) :
    performNt n e s = .ok () (s.store e.loc e.size e.data.toNat (wholeTags e.loc e.size e.label)) := by
  have hdirect : e.loc.direct := by rw [Loc.direct, hplace]; decide
  have hcounter : s.inCounter e.loc = false := by rw [State.inCounter, hplace]; rfl
  have hready : linkReady e.loc s = .ok true s := by rw [linkReady, M.bind_ok s s (M.run_get s), if_pos hlink]; rfl
  rw [performNt, M.bind_ok s s (M.run_get s)]
  simp only [hcounter, hplace, Bool.false_eq_true, if_false, M.run_bind, hready, if_true]
  exact performStore_direct hdirect hplain hsize n _ _

/-- STNT_BUFFER_PERFORM of a buffer of one store that performs (R213). -/
theorem exec_stntBufferPerform (hn : n < nCores) (hpaused : (s.core n).paused = []) (hwait : ∀ u, (s.core n).wait ≠ .pause u)
    {line : Nat} {e : NtStore} (hnt : (s.core n).nt = [⟨line, [e]⟩]) {u : State} (hstore : performNt n e s = .ok () u) :
    exec (.stntBufferPerform n line) s = .next (u.modCore n (fun c => { c with nt := c.nt.erase ⟨line, [e]⟩ })) := by
  have hyields : s.yieldsPort n = false := State.yieldsTo_eq_false hwait _
  have hbuf : performBuf n ⟨line, [e]⟩ s = .ok () (u.modCore n (fun c => { c with nt := c.nt.erase ⟨line, [e]⟩ })) := by
    have hstores : [e].forM (performNt n) s = .ok () u := M.bind_ok s u hstore
    simp only [performBuf, whole, M.run_bind, hstores, M.run_modS]
  change execStntBufferPerform n line s = _
  rw [execStntBufferPerform, if_pos hn]
  refine runEngine_ok ?_
  rw [M.bind_ok s s (M.run_get s), M.bind_ok s s (needs_ok (by rw [hpaused, hyields]; rfl)), hnt, List.find?_cons_of_pos (by simp)]
  exact hbuf

end

/-- Settles O25: both steps are a store of whole words, by `performEntry_local` and `performNt_host`. -/
theorem storePerforms : Obligations.StorePerforms := by
  unfold Obligations.StorePerforms
  intro s n line hn hs hpaused hwait
  refine ⟨fun e rest hsb hkind hplace hplain hsize halign => ?head, fun e hnt hplace hplain hsize halign hlink => ?buffer⟩
  case head =>
    obtain ⟨hcores, hinside, houtside, htags, hsound⟩ := storesAt_store hs hplain hsize halign e.data e.label
    obtain ⟨w, hw⟩ := hcores.core n
    refine ⟨_, exec_storePerform hn hpaused hwait hsb (performEntry_local hkind hplace hplain (by omega)), ?_⟩
    rw [State.modCore_core, hw]
    exact ⟨by rw [hsb]; rfl, rfl, rfl, rfl, hsound, hinside, houtside, htags⟩
  case buffer =>
    obtain ⟨hcores, hinside, houtside, -, -⟩ := storesAt_store hs hplain hsize halign e.data e.label
    obtain ⟨w, hw⟩ := hcores.core n
    refine ⟨_, exec_stntBufferPerform hn hpaused hwait hnt (performNt_host hplace hplain (by omega) hlink), ?_, hinside, houtside⟩
    rw [State.modCore_core, hw]
    simp [hnt]

end Sys2Proof.Machine
end

section
/-! PROOFS. O23, refuted: a load behind buffered part-word stores whose labels cannot be multiplied.

Before the store that the load takes its data from, two stores to other bytes of the word wait in the store buffer, under labels that are
not TRUE. The tag that the word will have is the product of those labels (R180, R205), so the load forms that product: the label space is
enabled and mapped nowhere, and the load stands at the missing page (R326, R408) instead of completing. -/

open Sys2Proof.Claims

namespace Sys2Proof.Machine

/-- A store of the byte at offset a of core 0's local store, buffered under a label. -/
def labelledByte (a : Nat) (l : Label) : SbEntry := ⟨.store, 0x7F0000000000 + a, ⟨.local, lsBase 0 + a, false⟩, 1, 0, l⟩

/-- Bytes 1 and 2 of core 0's local store are buffered under two labels; g1 names byte 0 and g2 holds 5; the label space is mapped
nowhere. -/
def labelledBehind : State :=
  { State.reset with
    cores := [(0, { Core.reset with g := (Core.reset.g.set 1 0x7F0000000000).set 2 5, sb := [labelledByte 1 2, labelledByte 2 3] })]
    ctxs := [(0, { Context.reset with lspace := 1 })] }

/-- A step that answers a next state of which p says yes. -/
def nextIs (p : State → Bool) : Step → Bool
  | .next t => p t
  | _ => false

/-- The load behind the store of byte 0 is left at a missing page, and g3 keeps its zero. -/
theorem labelledBehind_faults : nextIs (fun t => nextIs (fun u => u.me.run == .faultwait && u.me.rg 3 == 0) (exec (.ld .n8 3 1 0) t))
    (exec (.st .b8 2 1 0) labelledBehind) = true := by decide +kernel

/-- Refutes O23: in `labelledBehind` the store of 5 to byte 0 completes, and the load of byte 0 behind it leaves g3 at 0. -/
theorem not_loadLocal : ¬ Obligations.LoadLocal := by
  unfold Obligations.LoadLocal
  rintro ⟨-, hforwarded⟩
  obtain ⟨t, u, hstore, hload, hvalue, -⟩ := hforwarded labelledBehind .b8 .n8 2 3 1 0 0 rfl ⟨by decide +kernel, by decide, by decide⟩
    (by decide) rfl rfl rfl (fun _ _ _ => ⟨rfl, rfl⟩) rfl rfl rfl (by decide)
  have hkept := labelledBehind_faults
  simp only [hstore, nextIs, hload, hvalue, Bool.and_eq_true] at hkept
  exact absurd hkept.2 (by decide +kernel)

end Sys2Proof.Machine
end

section
/-! PROOFS. What L1INV, L1WB and ICINV leave of the caches (R216, R217).

Each line of a range leaves the L1D as `LinesLeft` says, one after another, and touches no other line; `State.l1Lines` lists every line
of the range that stands in the L1D, so that what is said of the lines visited holds of the range. -/

open Sys2Proof.Claims

namespace Sys2Proof.Machine

/-! ### A map in rising order with a key erased -/

section
variable {α : Type} {m : AMap α} {j k : Nat} {v : α}

theorem rising_cons {r : AMap α} : Rising ((j, v) :: r) ↔ (∀ e ∈ r, j < e.1) ∧ Rising r := by
  rw [Rising, List.map_cons, List.pairwise_cons, Rising]
  simp

theorem AMap.mem_of_find (h : m.find? k = some v) : (k, v) ∈ m := by
  induction m with
  | nil => cases h
  | cons e r ih =>
    obtain ⟨j, w⟩ := e
    rw [AMap.find?] at h
    split at h
    · cases h
    · split at h
      case isTrue hk => cases h; rw [hk]; exact List.mem_cons_self
      case isFalse => exact List.mem_cons_of_mem _ (ih h)

theorem AMap.find_eq_none (h : ∀ e ∈ m, e.1 ≠ k) : m.find? k = none := by
  cases hfind : m.find? k with
  | none => rfl
  | some v => exact absurd rfl (h _ (AMap.mem_of_find hfind))

/-- A map in which nothing is found is empty. -/
theorem AMap.eq_nil_of_find (h : ∀ i, m.find? i = none) : m = [] := by
  cases m with
  | nil => rfl
  | cons e r =>
    have hhead := h e.1
    rw [AMap.find?, if_neg (Nat.lt_irrefl _), if_pos rfl] at hhead
    cases hhead

theorem AMap.find_erase (h : Rising m) (i : Nat) : (m.erase k).find? i = if i = k then none else m.find? i := by
  induction m with
  | nil => rw [AMap.erase, AMap.find?, ite_self]
  | cons e r ih =>
    obtain ⟨j, v⟩ := e
    obtain ⟨hbelow, hr⟩ := rising_cons.1 h
    have hnone : ∀ i, i ≤ j → AMap.find? r i = none := fun i hi => AMap.find_eq_none fun e he => by
      have := hbelow e he
      omega
    rcases Nat.lt_trichotomy k j with hk | rfl | hk
    · rw [AMap.erase, if_pos hk]
      split
      case isTrue hi => rw [hi, AMap.find?, if_pos hk]
      case isFalse => rfl
    · rw [AMap.erase, if_neg (Nat.lt_irrefl _), if_pos rfl]
      split
      case isTrue hi => exact hnone i hi.le
      case isFalse hi =>
        rw [AMap.find?, if_neg hi]
        split
        case isTrue hlt => exact hnone i hlt.le
        case isFalse => rfl
    · rw [AMap.erase, if_neg (by omega), if_neg (by omega), AMap.find?, AMap.find?, ih hr]
      by_cases hi : i = k
      · rw [if_pos hi, if_neg (by omega), if_neg (by omega), if_pos hi]
      · rw [if_neg hi, if_neg hi]

theorem AMap.erase_sublist (m : AMap α) (k : Nat) : (m.erase k).Sublist m := by
  induction m with
  | nil => exact .refl _
  | cons e r ih =>
    obtain ⟨j, v⟩ := e
    rw [AMap.erase]
    split
    · exact .refl _
    · split
      · exact List.sublist_cons_self _ _
      · exact ih.cons_cons _

theorem AMap.rising_erase (h : Rising m) (k : Nat) : Rising (m.erase k) := h.sublist ((AMap.erase_sublist m k).map Prod.fst)

end

/-! ### A write-back changes memory and the slices (R230) -/

/-- t is s but for memory and what the homes and the slices keep. -/
structure SameCaches (s t : State) : Prop where
  cur : t.cur = s.cur
  cores : t.cores = s.cores
  clusters : t.clusters = s.clusters
  blocking : t.blocking = s.blocking

namespace SameCaches
variable {s t u : State}

theorem refl (s : State) : SameCaches s s := ⟨rfl, rfl, rfl, rfl⟩
theorem trans (h : SameCaches s t) (h' : SameCaches t u) : SameCaches s u :=
  ⟨h'.cur.trans h.cur, h'.cores.trans h.cores, h'.clusters.trans h.clusters, h'.blocking.trans h.blocking⟩

theorem evictAgent (s : State) (t L : Nat) : SameCaches s (s.evictAgent t L) := by
  unfold State.evictAgent
  dsimp only
  split
  · exact ⟨rfl, rfl, rfl, rfl⟩
  · split <;> exact ⟨rfl, rfl, rfl, rfl⟩
  · exact ⟨rfl, rfl, rfl, rfl⟩
  · exact ⟨rfl, rfl, rfl, rfl⟩

theorem yieldLine (s : State) (t L : Nat) : SameCaches s (s.yieldLine t L) := by
  unfold State.yieldLine
  split
  · exact ⟨rfl, rfl, rfl, rfl⟩
  · split
    · exact evictAgent _ t L
    · exact refl _

theorem roomFor (t L n : Nat) (h : s.roomFor t L n = some u) : SameCaches s u := by
  induction n generalizing s with
  | zero => cases h; exact refl _
  | succ n ih =>
    unfold State.roomFor at h
    split at h
    · cases h; exact refl _
    · cases h; exact refl _
    · split at h
      · cases h
      · have hyield := (yieldLine { s with free := s.free + 1 } t _).trans (ih h)
        exact ⟨hyield.cur, hyield.cores, hyield.clusters, hyield.blocking⟩

theorem homeTake (s : State) (L : Nat) (dirty next : Bool) : SameCaches s (s.homeTake L dirty next) := by
  unfold State.homeTake
  dsimp only
  split
  · exact refl _
  · split
    · split <;> exact ⟨rfl, rfl, rfl, rfl⟩
    · split
      · exact refl _
      · rename_i hslot
        have hu := roomFor _ _ _ hslot
        exact ⟨hu.cur, hu.cores, hu.clusters, hu.blocking⟩

theorem cluster (h : SameCaches s t) (k : Nat) : t.cluster k = s.cluster k := by rw [State.cluster, h.clusters]; rfl

end SameCaches

/-- A copy's write-back to its home (R216, R230). -/
def State.backHome (s : State) (L : Nat) (dirty : Bool) (d : Line) (t : LineTags) (b : BitVec 16) : State :=
  if dirty then ((s.homeTake L true false).putLine L d t).markBad L b else s

theorem sameCaches_backHome (s : State) (L : Nat) (dirty : Bool) (d : Line) (t : LineTags) (b : BitVec 16) :
    SameCaches s (s.backHome L dirty d t b) := by
  unfold State.backHome
  split
  · exact (SameCaches.homeTake s L true false).trans ⟨rfl, rfl, rfl, rfl⟩
  · exact .refl s

/-! ### Lines that leave an L1D, or are left clean (R216) -/

/-- t is s but for memory and the slices and for the lines of ls in cluster k's L1D, each left as f says. -/
structure LinesLeft (k : Nat) (ls : List Nat) (f : L1Line → Option L1Line) (s t : State) : Prop where
  cur : t.cur = s.cur
  cores : t.cores = s.cores
  blocking : t.blocking = s.blocking
  l1 : ∀ i, t.l1 k i = if i ∈ ls then (s.l1 k i).bind f else s.l1 k i

/-- A line that has been written back (R216). -/
def L1Line.clean : L1Line → L1Line
  | .copy _ d t b => .copy false d t b
  | e => e

section
variable {s u : State} {k L : Nat} {f : L1Line → Option L1Line}

/-- A line on which f does nothing. -/
theorem LinesLeft.same (h : (s.l1 k L).bind f = s.l1 k L) : LinesLeft k [L] f s s := by
  refine ⟨rfl, rfl, rfl, fun i => ?_⟩
  split
  case isTrue hi => rw [List.mem_singleton.1 hi, h]
  case isFalse => rfl

theorem LinesLeft.dropL1 (h : SameCaches s u) (hrising : Rising (s.cluster k).l1) :
    LinesLeft k [L] (fun _ => none) s (u.dropL1 k L) ∧ Rising ((u.dropL1 k L).cluster k).l1 := by
  have hl1 : ((u.dropL1 k L).cluster k).l1 = (s.cluster k).l1.erase L := by rw [State.dropL1, State.modCluster_cluster, h.cluster]
  refine ⟨⟨h.cur, h.cores, h.blocking, fun i => ?_⟩, hl1 ▸ AMap.rising_erase hrising L⟩
  rw [State.l1, hl1, AMap.find_erase hrising, Option.bind_fun_none]
  exact if_congr List.mem_singleton.symm rfl rfl

theorem LinesLeft.clean (h : SameCaches s u) {d : Line} {t : LineTags} {b : BitVec 16} {dirty : Bool}
    (hline : s.l1 k L = some (.copy dirty d t b)) :
    LinesLeft k [L] (fun e => some e.clean) s (u.setL1 k L (.copy false d t b)) := by
  refine ⟨h.cur, h.cores, h.blocking, fun i => ?_⟩
  rw [State.l1, State.setL1, State.modCluster_cluster, h.cluster]
  split
  case isTrue hi =>
    rw [List.mem_singleton.1 hi, hline]
    exact AMap.find_put_self _ _ _
  case isFalse hi => exact AMap.find_put_ne _ _ fun e => hi (List.mem_singleton.2 e)

theorem State.heldLine_eq_false (h : s.blocking = none) (L : Nat) : s.heldLine L = false := by rw [State.heldLine, h]

/-- With no Blocking a line other than a partial leaves (R223, R230, R242). -/
theorem evictL1_left (hblocking : s.blocking = none) (hrising : Rising (s.cluster k).l1)
    (hpartial : ∀ op z ps, s.l1 k L ≠ some (.u op z ps)) :
    s.canLeave k L = true ∧ LinesLeft k [L] (fun _ => none) s (s.evictL1 k L) ∧ Rising ((s.evictL1 k L).cluster k).l1 := by
  have hleave : s.canLeave k L = true := by
    unfold State.canLeave
    split
    case h_1 => rw [State.heldLine_eq_false hblocking]; rfl
    case h_2 op z ps hline => exact absurd hline (hpartial op z ps)
    case h_3 => rfl
  refine ⟨hleave, ?_⟩
  cases hline : s.l1 k L with
  | none =>
    have hevict : s.evictL1 k L = s := by simp only [State.evictL1, hline, hleave, if_true, State.writeBack]
    rw [hevict]
    exact ⟨.same (by rw [hline]; rfl), hrising⟩
  | some e =>
    cases e with
    | u op z ps => exact absurd hline (hpartial op z ps)
    | a n =>
      have hevict : s.evictL1 k L = { s.dropL1 k L with flight := s.flight ++ [.allowanceReturn L k n] } := by
        simp only [State.evictL1, hline]
      obtain ⟨hleft, hrising'⟩ := LinesLeft.dropL1 (L := L) (.refl s) hrising
      rw [hevict]
      exact ⟨⟨hleft.cur, hleft.cores, hleft.blocking, hleft.l1⟩, hrising'⟩
    | v wts rts granted d t b =>
      have hevict : s.evictL1 k L = s.dropL1 k L := by simp only [State.evictL1, hline, hleave, if_true, State.writeBack]
      rw [hevict]
      exact LinesLeft.dropL1 (.refl s) hrising
    | copy dirty d t b =>
      have hevict : s.evictL1 k L = (s.backHome L dirty d t b).dropL1 k L := by
        simp only [State.evictL1, hline, hleave, if_true, State.writeBack, State.backHome]
      rw [hevict]
      exact LinesLeft.dropL1 (sameCaches_backHome s L dirty d t b) hrising

/-- Every line can be written back (R230). -/
theorem writeBack_left (s : State) (k L : Nat) : LinesLeft k [L] (fun e => some e.clean) s (s.writeBack k L false) := by
  cases hline : s.l1 k L with
  | none =>
    have hback : s.writeBack k L false = s := by simp only [State.writeBack, hline]
    rw [hback]
    exact .same (by rw [hline]; rfl)
  | some e =>
    cases e with
    | copy dirty d t b =>
      have hback : s.writeBack k L false = (s.backHome L dirty d t b).setL1 k L (.copy false d t b) := by
        simp only [State.writeBack, hline, Bool.false_eq_true, if_false, State.backHome]
      rw [hback]
      exact .clean (sameCaches_backHome s L dirty d t b) hline
    | v | u | a =>
      have hback : s.writeBack k L false = s := by simp only [State.writeBack, hline, Bool.false_eq_true, if_false]
      rw [hback]
      exact .same (by rw [hline]; rfl)

/-- Lines visited in turn, where what f leaves f leaves alone. -/
theorem forM_left {P : State → Prop} {g : Nat → M PUnit} (hf : ∀ e, (f e).bind f = f e)
    (hstep : ∀ s L, P s → ∃ u, g L s = .ok () u ∧ P u ∧ LinesLeft k [L] f s u) (ls : List Nat) (hs : P s) :
    ∃ u, ls.forM g s = .ok () u ∧ LinesLeft k ls f s u := by
  induction ls generalizing s with
  | nil => exact ⟨s, rfl, rfl, rfl, rfl, fun i => (if_neg List.not_mem_nil).symm⟩
  | cons L r ih =>
    obtain ⟨u, hrun, hu, hfirst⟩ := hstep s L hs
    obtain ⟨w, hruns, hrest⟩ := ih hu
    refine ⟨w, (M.bind_ok s u hrun).trans hruns, hrest.cur.trans hfirst.cur, hrest.cores.trans hfirst.cores,
      hrest.blocking.trans hfirst.blocking, fun i => ?_⟩
    have htwice : ((s.l1 k i).bind f).bind f = (s.l1 k i).bind f := by
      rw [Option.bind_assoc]
      exact congrArg _ (funext hf)
    rw [hrest.l1, hfirst.l1]
    by_cases hi : i = L
    · subst hi
      simp [htwice]
    · simp [hi]

theorem whole_ok {α : Type} {m : M α} {a : α} (h : m s = .ok a u) : whole m s = .ok a u := by rw [whole, h]

/-- L1INV of lines of an L1D that holds no partial (R216). -/
theorem l1Range_inv (hblocking : s.blocking = none) (hrising : Rising (s.cluster k).l1)
    (hpartial : ∀ L op z ps, s.l1 k L ≠ some (.u op z ps)) (ls : List Nat) :
    ∃ u, l1Range true k ls s = .ok () u ∧ LinesLeft k ls (fun _ => none) s u := by
  obtain ⟨u, hrun, hleft⟩ := forM_left (s := s) (k := k) (f := fun _ => none)
    (P := fun s => s.blocking = none ∧ Rising (s.cluster k).l1 ∧ ∀ L op z ps, s.l1 k L ≠ some (.u op z ps))
    (g := fun L => do
      let s ← get
      needs (s.canLeave k L)
      modS (fun s => s.evictL1 k L))
    (fun _ => rfl) (fun s L ⟨hblocking, hrising, hpartial⟩ => by
      obtain ⟨hleave, hleft, hrising'⟩ := evictL1_left hblocking hrising (hpartial L)
      refine ⟨s.evictL1 k L, ?_, ⟨hleft.blocking.trans hblocking, hrising', fun i op z ps => ?_⟩, hleft⟩
      · rw [M.bind_ok s s (M.run_get s), M.bind_ok s s (needs_ok hleave)]
        rfl
      · rw [hleft.l1, Option.bind_fun_none]
        split
        · exact nofun
        · exact hpartial i op z ps) ls ⟨hblocking, hrising, hpartial⟩
  exact ⟨u, whole_ok hrun, hleft⟩

/-- L1WB of lines (R216). -/
theorem l1Range_wb (hblocking : s.blocking = none) (ls : List Nat) :
    ∃ u, l1Range false k ls s = .ok () u ∧ LinesLeft k ls (fun e => some e.clean) s u := by
  obtain ⟨u, hrun, hleft⟩ := forM_left (s := s) (k := k) (f := fun e => some e.clean) (P := fun s => s.blocking = none)
    (g := fun L => do
      let s ← get
      needs (!(((s.l1 k L).any L1Line.isDirty) && s.heldLine L))
      modS (fun s => s.writeBack k L false))
    (fun e => by cases e <;> rfl) (fun s L hblocking => by
      have hleft := writeBack_left s k L
      refine ⟨s.writeBack k L false, ?_, hleft.blocking.trans hblocking, hleft⟩
      rw [M.bind_ok s s (M.run_get s), M.bind_ok s s (needs_ok (by rw [State.heldLine_eq_false hblocking, Bool.and_false]; rfl))]
      rfl) ls hblocking
  exact ⟨u, whole_ok hrun, hleft⟩

end

/-! ### The lines of a range (R216) -/

section
variable {s : State} {x l k lo n i : Nat}

theorem mem_keys_of_l1 {e : L1Line} (h : s.l1 k i = some e) : i ∈ (s.cluster k).l1.map Prod.fst :=
  List.mem_map_of_mem (AMap.mem_of_find h)

/-- A range beyond 512 KiB has every line of the L1D. -/
theorem mem_l1Lines_of_long {e : L1Line} (hlong : 2 ^ 19 < n) (h : s.l1 k i = some e) : i ∈ s.l1Lines x l k lo n := by
  rw [State.l1Lines, State.unitsOf, if_pos hlong]
  exact mem_keys_of_l1 h

/-- The line that an address of the range is mapped to. -/
theorem mem_l1Lines_of_mapped {e : L1Line} {a pa : Nat} (hlo : lo ≤ a) (hhi : a < lo + n) (hmapped : s.mapped x l (a / 64 * 64) = some pa)
    (h : s.l1 k (pa / 64 * 64) = some e) : pa / 64 * 64 ∈ s.l1Lines x l k lo n := by
  by_cases hlong : 2 ^ 19 < n
  · exact mem_l1Lines_of_long hlong h
  · rw [State.l1Lines, State.unitsOf, if_neg hlong, List.mem_filter, List.contains_iff_mem]
    refine ⟨mem_keys_of_l1 h, List.mem_filterMap.2 ⟨a / 64 - lo / 64, List.mem_range.2 (by omega), ?_⟩⟩
    rw [show lo / 64 + (a / 64 - lo / 64) = a / 64 by omega, hmapped]
    rfl

end

/-! ### The instructions (R216) -/

section
variable {i : Instr} {s u : State} {ra rb : GReg} {inv : Bool}

theorem maintain_nothing (hexec : exec i s = maintain i inv ra rb s) (hlen : (s.me.rg rb).toNat = 0) : Sets i s id := by
  refine hexec.trans (runI_ok ?_)
  rw [M.bind_ok s s (M.run_get s)]
  dsimp only
  rw [if_pos hlen]
  rfl

theorem maintain_outside (hexec : exec i s = maintain i inv ra rb s) (hlen : (s.me.rg rb).toNat ≠ 0)
    (hrange : rangeOk (s.me.rg ra).toNat (s.me.rg rb).toNat = false) :
    Traps i s .protect (.other (BitVec.ofNat 64 (s.me.rg ra).toNat) false) := by
  refine hexec.trans (runI_trap ?_)
  rw [M.bind_ok s s (M.run_get s)]
  dsimp only
  rw [if_neg hlen, hrange]
  rfl

theorem exec_maintain (hexec : exec i s = maintain i inv ra rb s) (hlen : (s.me.rg rb).toNat ≠ 0)
    (hrange : rangeOk (s.me.rg ra).toNat (s.me.rg rb).toNat = true) (hsb : s.me.sb = [])
    (hlines : l1Range inv (clusterOf s.cur)
      (s.l1Lines (s.ctxOf s.cur) (layerOf s.cur) (clusterOf s.cur) (s.me.rg ra).toNat (s.me.rg rb).toNat) s = .ok () u) :
    exec i s = .next (u.modCore u.cur Core.past) := by
  refine hexec.trans (runI_ok ?_)
  rw [M.bind_ok s s (M.run_get s)]
  dsimp only
  rw [if_neg hlen, hrange, hsb]
  exact M.bind_ok s u hlines

end

section
variable {s : State} {ra rb : GReg} (hlen : (s.me.rg rb).toNat ≠ 0) (hrange : rangeOk (s.me.rg ra).toNat (s.me.rg rb).toNat = true)
  (hsb : s.me.sb = []) (hblocking : s.blocking = none)
include hlen hrange hsb hblocking

/-- L1INV leaves no line of its range, and beyond 512 KiB none at all. -/
theorem exec_l1inv (hrising : Rising (s.cluster (clusterOf s.cur)).l1)
    (hpartial : ∀ L op z ps, s.l1 (clusterOf s.cur) L ≠ some (.u op z ps)) :
    ∃ t, exec (.l1inv ra rb) s = .next t ∧ t.me.pc = s.me.past.pc ∧
      (2 ^ 19 < (s.me.rg rb).toNat → (t.cluster (clusterOf s.cur)).l1 = []) ∧
      ∀ a pa, (s.me.rg ra).toNat ≤ a → a < (s.me.rg ra).toNat + (s.me.rg rb).toNat →
        s.mapped (s.ctxOf s.cur) (layerOf s.cur) (a / 64 * 64) = some pa → t.l1 (clusterOf s.cur) (pa / 64 * 64) = none := by
  obtain ⟨u, hrun, hleft⟩ := l1Range_inv hblocking hrising hpartial
    (s.l1Lines (s.ctxOf s.cur) (layerOf s.cur) (clusterOf s.cur) (s.me.rg ra).toNat (s.me.rg rb).toNat)
  have hgone {i : Nat} (hall : ∀ e, s.l1 (clusterOf s.cur) i = some e →
      i ∈ s.l1Lines (s.ctxOf s.cur) (layerOf s.cur) (clusterOf s.cur) (s.me.rg ra).toNat (s.me.rg rb).toNat) :
      u.l1 (clusterOf s.cur) i = none := by
    rw [hleft.l1, Option.bind_fun_none]
    split
    case isTrue => rfl
    case isFalse hi => exact Option.eq_none_iff_forall_ne_some.2 fun e he => hi (hall e he)
  refine ⟨_, exec_maintain rfl hlen hrange hsb hrun, ?pc, fun hlong => ?all, fun a pa hlo hhi hmapped => ?range⟩
  case pc =>
    rw [State.modCore_me, State.me, hleft.cur, State.core, hleft.cores]
    rfl
  case all => exact AMap.eq_nil_of_find fun i => hgone fun e he => mem_l1Lines_of_long hlong he
  case range => exact hgone fun e he => mem_l1Lines_of_mapped hlo hhi hmapped he

/-- L1WB leaves no dirty copy in its range, and beyond 512 KiB none at all. -/
theorem exec_l1wb :
    ∃ t, exec (.l1wb ra rb) s = .next t ∧ t.me.pc = s.me.past.pc ∧
      (∀ L d g b, 2 ^ 19 < (s.me.rg rb).toNat → s.l1 (clusterOf s.cur) L = some (.copy true d g b) →
        t.l1 (clusterOf s.cur) L = some (.copy false d g b)) ∧
      ∀ a pa d g b, (s.me.rg ra).toNat ≤ a → a < (s.me.rg ra).toNat + (s.me.rg rb).toNat →
        s.mapped (s.ctxOf s.cur) (layerOf s.cur) (a / 64 * 64) = some pa →
        t.l1 (clusterOf s.cur) (pa / 64 * 64) ≠ some (.copy true d g b) := by
  obtain ⟨u, hrun, hleft⟩ := l1Range_wb (k := clusterOf s.cur) hblocking
    (s.l1Lines (s.ctxOf s.cur) (layerOf s.cur) (clusterOf s.cur) (s.me.rg ra).toNat (s.me.rg rb).toNat)
  refine ⟨_, exec_maintain rfl hlen hrange hsb hrun, ?pc, fun L d g b hlong hline => ?all, fun a pa d g b hlo hhi hmapped hdirty => ?range⟩
  case pc =>
    rw [State.modCore_me, State.me, hleft.cur, State.core, hleft.cores]
    rfl
  case all =>
    change u.l1 _ _ = _
    rw [hleft.l1, if_pos (mem_l1Lines_of_long hlong hline), hline]
    rfl
  case range =>
    change u.l1 _ _ = _ at hdirty
    rw [hleft.l1] at hdirty
    cases hline : s.l1 (clusterOf s.cur) (pa / 64 * 64) with
    | none => rw [hline, Option.bind_none, ite_self] at hdirty; cases hdirty
    | some e =>
      rw [if_pos (mem_l1Lines_of_mapped hlo hhi hmapped hline), hline] at hdirty
      cases e <;> cases hdirty

end

/-! ### ICINV (R217) -/

/-- A property that each cluster of a list is given, and that no step on another takes from it. -/
theorem foldl_each {Q : Cluster → Prop} {g : State → Nat → State} (hown : ∀ s k, Q ((g s k).cluster k))
    (hother : ∀ s k j, j ≠ k → (g s k).cluster j = s.cluster j) {ks : List Nat} {j : Nat} {s : State}
    (h : j ∈ ks ∨ Q (s.cluster j)) : Q ((ks.foldl g s).cluster j) := by
  induction ks generalizing s with
  | nil => exact h.resolve_left List.not_mem_nil
  | cons k r ih =>
    refine ih ?_
    by_cases hj : j = k
    · exact .inr (hj ▸ hown s k)
    · rw [hother s k j hj]
      exact h.imp_left fun hmem => (List.mem_cons.1 hmem).resolve_left hj

/-- The entry of a cluster that runs a context. -/
theorem mem_clusters_of_ctx {s : State} {j y : Nat} (h : (s.cluster j).ctx = some y) : (j, s.cluster j) ∈ s.clusters := by
  have hfind : ∀ m : AMap Cluster, (AMap.get m Cluster.reset j).ctx = some y → (j, AMap.get m Cluster.reset j) ∈ m := by
    intro m hm
    induction m with
    | nil => cases hm
    | cons e r ih =>
      obtain ⟨i, c⟩ := e
      rw [AMap.get] at hm ⊢
      split at hm
      case isTrue => cases hm
      case isFalse hlt =>
        rw [if_neg hlt]
        split at hm
        case isTrue hi => rw [if_pos hi, hi]; exact List.mem_cons_self
        case isFalse hi => rw [if_neg hi]; exact List.mem_cons_of_mem _ (ih hm)
  exact hfind s.clusters h

theorem State.icRange_mem (s : State) (x l lo n : Nat) : (s.icRange x l lo n).mem = s.mem := by
  unfold State.icRange
  refine foldl_keeps (P := fun u : State => u.mem = s.mem) _ _ (fun u k hu => ?_) rfl
  refine foldl_keeps (P := fun u : State => u.mem = s.mem) _ _ (fun w m hw => ?_) hu
  dsimp only
  split
  all_goals
    split
    · exact hw
    · exact hw

/-- Beyond 64 KiB every instruction cache of the partition is emptied. -/
theorem State.icRange_icache {s : State} {x l lo n j y : Nat} (hlong : 2 ^ 16 < n) (hctx : (s.cluster j).ctx = some y)
    (hpart : (s.ctx y).part = (s.ctx x).part) : ((s.icRange x l lo n).cluster j).icache = [] := by
  have hall : s.unitsOf x l lo n 64 (2 ^ 16) = none := if_pos hlong
  have hinner : ∀ (u : State) (f : State → Nat → State) (ms : List Nat), (∀ w m, (f w m).clusters = w.clusters) →
      (ms.foldl f u).clusters = u.clusters := fun u f ms hf =>
    foldl_keeps (P := fun w : State => w.clusters = u.clusters) _ _ (fun w m hw => (hf w m).trans hw) rfl
  unfold State.icRange
  simp only [hall]
  refine foldl_each (Q := fun c => c.icache = []) (fun u k => ?own) (fun u k i hi => ?other) (.inl ?mem)
  case mem =>
    refine List.mem_filterMap.2 ⟨(j, s.cluster j), mem_clusters_of_ctx hctx, ?_⟩
    dsimp only
    rw [hctx]
    exact if_pos hpart
  all_goals
    rw [State.cluster, hinner _ _ _ fun w m => by split <;> rfl]
  case own =>
    change ((u.modCluster k _).cluster k).icache = []
    rw [State.modCluster_cluster]
    simp
  case other => exact State.modCluster_cluster_ne _ _ hi

section
variable {s : State} {ra rb : GReg}

theorem icinv_nothing (hlen : (s.me.rg rb).toNat = 0) : Sets (.icinv ra rb) s id := by
  refine runI_ok ?_
  rw [M.bind_ok s s (M.run_get s)]
  dsimp only
  rw [if_pos hlen]
  rfl

theorem icinv_outside (hlen : (s.me.rg rb).toNat ≠ 0) (hrange : rangeOk (s.me.rg ra).toNat (s.me.rg rb).toNat = false) :
    Traps (.icinv ra rb) s .protect (.other (BitVec.ofNat 64 (s.me.rg ra).toNat) false) := by
  refine runI_trap ?_
  rw [M.bind_ok s s (M.run_get s)]
  dsimp only
  rw [if_neg hlen, hrange]
  rfl

theorem exec_icinv (hlen : (s.me.rg rb).toNat ≠ 0) (hrange : rangeOk (s.me.rg ra).toNat (s.me.rg rb).toNat = true) :
    ∃ t, exec (.icinv ra rb) s = .next t ∧ t.mem = s.mem ∧ (2 ^ 16 < (s.me.rg rb).toNat → ∀ j y, (s.cluster j).ctx = some y →
      (s.ctx y).part = (s.ctx (s.ctxOf s.cur)).part → (t.cluster j).icache = []) := by
  have hmem := State.icRange_mem s (s.ctxOf s.cur) (layerOf s.cur) (s.me.rg ra).toNat (s.me.rg rb).toNat
  have hcaches := fun hlong j y hctx hpart => State.icRange_icache (s := s) (x := s.ctxOf s.cur) (l := layerOf s.cur)
    (lo := (s.me.rg ra).toNat) (n := (s.me.rg rb).toNat) (j := j) (y := y) hlong hctx hpart
  generalize hu : s.icRange (s.ctxOf s.cur) (layerOf s.cur) (s.me.rg ra).toNat (s.me.rg rb).toNat = u at hmem hcaches
  refine ⟨u.modCore u.cur Core.past, runI_ok ?run, hmem, hcaches⟩
  rw [M.bind_ok s s (M.run_get s)]
  dsimp only
  rw [if_neg hlen, hrange, ← hu]
  rfl

end

end Sys2Proof.Machine
end

section
/-! PROOFS. What the return of a cluster's allowances leaves (R242, R252, R345): of every core all but its wait, and the context that every
cluster runs.

A save returns the allowances of its cluster, and a counter that they complete serves its requests (R244): memory is written and waits are
met. -/

namespace Sys2Proof.Machine

/-- The cores of t are those of s but for what they wait for, and every cluster runs the context that it ran. -/
structure SameRuns (s t : State) : Prop where
  cores : SameCores s t
  ctx : ∀ j, (t.cluster j).ctx = (s.cluster j).ctx

namespace SameRuns
variable {s t u : State}

theorem refl (s : State) : SameRuns s s := ⟨.refl s, fun _ => rfl⟩

theorem of_eq (h : SameRuns s t) (hcur : u.cur = t.cur) (hcores : u.cores = t.cores) (hclusters : u.clusters = t.clusters) :
    SameRuns s u :=
  ⟨h.cores.of_eq hcur hcores, fun j => by rw [State.cluster, hclusters]; exact h.ctx j⟩

theorem of_caches (h : SameRuns s t) (hcaches : SameCaches t u) : SameRuns s u := h.of_eq hcaches.cur hcaches.cores hcaches.clusters

theorem ite {c : Prop} [Decidable c] (ht : SameRuns s t) (hu : SameRuns s u) : SameRuns s (if c then t else u) := by
  split
  · exact ht
  · exact hu

theorem modCluster (h : SameRuns s t) {k : Nat} {f : Cluster → Cluster} (hf : ∀ c, (f c).ctx = c.ctx) : SameRuns s (t.modCluster k f) := by
  refine ⟨h.cores.of_eq rfl rfl, fun j => ?_⟩
  by_cases hj : j = k
  · rw [hj, State.modCluster_cluster, hf, h.ctx k]
  · rw [State.modCluster_cluster_ne _ _ hj, h.ctx j]

theorem setL1 (h : SameRuns s t) (k L : Nat) (e : L1Line) : SameRuns s (t.setL1 k L e) := h.modCluster fun _ => rfl
theorem dropL1 (h : SameRuns s t) (k L : Nat) : SameRuns s (t.dropL1 k L) := h.modCluster fun _ => rfl

/-! ### Writes of the plinths -/

theorem askRecall (h : SameRuns s t) (L : Nat) : SameRuns s (t.askRecall L) := by
  unfold State.askRecall
  split
  · exact h.of_eq rfl rfl rfl
  · exact h

theorem foldUnder (h : SameRuns s t) (k n : Nat) : SameRuns s (t.foldUnder k n) := by
  unfold State.foldUnder
  dsimp only
  refine .ite h (SameRuns.askRecall ?_ _)
  refine foldl_keeps (P := SameRuns s) _ _ (fun u k hu => ?_) ?_
  · exact .ite hu (hu.of_eq rfl rfl rfl)
  refine foldl_keeps (P := SameRuns s) _ _ (fun u e hu => ?_) (h.of_eq rfl rfl rfl)
  split
  · exact hu.setL1 _ _ _
  · exact hu

theorem poke (h : SameRuns s t) (k v n : Nat) : SameRuns s (t.poke k v n) := by
  refine ⟨h.cores.poke k v n, fun j => (h.ctx j).symm ▸ ?_⟩
  unfold State.poke State.wakeLocal
  split
  · rfl
  · split <;> rfl

theorem dropLeases (h : SameRuns s t) (k n : Nat) : SameRuns s (t.dropLeases k n) := by
  refine ⟨h.cores.dropLeases k n, fun j => (h.ctx j).symm ▸ ?_⟩
  unfold State.dropLeases
  dsimp only
  split
  · refine AMap.get_map t.clusters Cluster.reset _ Cluster.ctx ?_ ?_ j
    · exact fun _ => rfl
    · exact fun _ => rfl
  · rfl

theorem stampLine (h : SameRuns s t) (L : Nat) : SameRuns s (t.stampLine L) := by
  unfold State.stampLine
  split
  · refine foldl_keeps (P := SameRuns s) _ _ (fun u k hu => ?_) (h.of_eq rfl rfl rfl)
    dsimp only
    split
    · exact hu
    · exact hu.of_eq rfl rfl rfl
  · exact h

theorem plinthWrite (h : SameRuns s t) (k v n : Nat) : SameRuns s (t.plinthWrite k v n) :=
  ((((h.foldUnder k n).poke k v n).dropLeases k n).stampLine (lineOf k)).of_eq rfl rfl rfl

/-! ### Room in an L1D (R11, R223) -/

theorem writeBack (h : SameRuns s t) (k L : Nat) (drop : Bool) : SameRuns s (t.writeBack k L drop) := by
  unfold State.writeBack
  split
  case h_1 dirty d g b _ =>
    have hback : SameRuns s (t.backHome L dirty d g b) := h.of_caches (sameCaches_backHome t L dirty d g b)
    exact .ite (hback.dropL1 k L) (hback.setL1 k L _)
  case h_2 => exact .ite (h.dropL1 k L) h
  case h_3 => exact h

theorem evictL1 (h : SameRuns s t) (k L : Nat) : SameRuns s (t.evictL1 k L) := by
  unfold State.evictL1
  split
  case h_1 =>
    dsimp only
    split
    · exact h
    · rename_i hslot
      exact ((h.of_caches (SameCaches.roomFor _ _ _ hslot)).dropL1 k L).of_eq rfl rfl rfl
  case h_2 => exact (h.dropL1 k L).of_eq rfl rfl rfl
  case h_3 => exact .ite (h.writeBack k L true) h

theorem roomL1 (h : SameRuns s t) (k L : Nat) (hroom : t.roomL1 k L = some u) : SameRuns s u := by
  unfold State.roomL1 at hroom
  dsimp only at hroom
  split at hroom
  · cases hroom; exact h
  · split at hroom
    · cases hroom; exact h
    · split at hroom
      · cases hroom
      · cases hroom; exact (h.evictL1 k _).of_eq rfl rfl rfl

theorem putAllowance (h : SameRuns s t) (k L n : Nat) : SameRuns s (t.putAllowance k L n) := by
  unfold State.putAllowance
  split
  · rename_i hroom
    exact (h.roomL1 k L hroom).setL1 k L _
  · exact h.of_eq rfl rfl rfl

/-! ### Counters (R244 to R246, R251) -/

theorem initCounter (h : SameRuns s t) (L v chunk : Nat) (l : Label) (queue : List CReq) (held : List (Nat × Nat)) :
    SameRuns s (t.initCounter L v chunk l queue held) := by
  unfold State.initCounter
  split
  · exact (h.plinthWrite L v 64).of_eq rfl rfl rfl
  · exact SameRuns.plinthWrite (t := t.setCounter L _) (h.of_eq rfl rfl rfl) _ _ _

theorem refuseCounter (h : SameRuns s t) (n : Nat) : SameRuns s (t.refuseCounter n) :=
  ⟨h.cores.modCore fun _ => ⟨_, rfl⟩, h.ctx⟩

theorem afresh (h : SameRuns s t) (L : Nat) (qs : List CReq) : SameRuns s (t.afresh L qs) := by
  refine foldl_keeps (P := SameRuns s) _ _ (fun u q hu => ?_) h
  split
  · exact hu.of_eq rfl rfl rfl
  · split
    · exact (hu.initCounter L _ _ _ _ _).of_eq rfl rfl rfl
    · exact hu.refuseCounter _

theorem ended (h : SameRuns s t) (L : Nat) (qs : List CReq) (held : List (Nat × Nat)) : SameRuns s (t.ended L qs held) := by
  refine foldl_keeps (P := SameRuns s) _ _ (fun u q hu => ?_) (h.afresh L qs)
  split
  · exact hu.refuseCounter _
  · exact .ite (hu.of_eq rfl rfl rfl) (hu.of_eq rfl rfl rfl)

theorem serve (h : SameRuns s t) (L n : Nat) : SameRuns s (t.serve L n) := by
  induction n generalizing t with
  | zero => exact h
  | succ n ih =>
    have decided {u : State} (hu : SameRuns s u) (c : Counter) (m : Msg) : SameRuns s (((u.setCounter L c).send m).serve L n) :=
      ih (hu.of_eq rfl rfl rfl)
    unfold State.serve
    split
    case h_1 => exact h
    case h_2 c _ =>
      refine .ite h ?_
      split
      case h_1 => exact .ite (h.plinthWrite _ _ _) h
      case h_2 q rest _ =>
        extract_lets k decided' s₁ round
        have hround : SameRuns s round := by
          refine foldl_keeps (P := SameRuns s) _ _ (fun _ _ hu => ?_) (h.of_eq (u := s₁) rfl rfl rfl)
          exact hu.of_eq rfl rfl rfl
        have hsend (m : Msg) : SameRuns s (t.send m) := h.of_eq rfl rfl rfl
        split
        case h_1 =>
          refine .ite (decided (.ite (.putAllowance ?_ _ _ _) ?_) _ _) (.ite (decided h _ _) hround)
          all_goals
            split
            · exact hsend _
            · exact h
        case h_2 => exact .ite (decided h _ _) hround
        case h_3 =>
          exact .ite (.ite (ih (((hsend _).initCounter L _ _ _ _ _).ended L _ _)) (ih ((hsend _).initCounter L _ _ _ _ _))) hround

theorem takeHome (h : SameRuns s t) (L k n : Nat) : SameRuns s (t.takeHome L k n) := by
  unfold State.takeHome
  split
  · exact h
  · exact .ite (h.of_eq rfl rfl rfl) (h.of_eq rfl rfl rfl)

theorem returnAllowances (h : SameRuns s t) (k : Nat) : SameRuns s (t.returnAllowances k) := by
  refine foldl_keeps (P := SameRuns s) _ _ (fun u e hu => ?_) h
  split
  · unfold State.serveAll
    split
    · exact (hu.dropL1 k _).takeHome _ _ _
    · exact ((hu.dropL1 k _).takeHome _ _ _).serve _ _
  · exact hu

theorem ctxOf (h : SameRuns s t) (n : Nat) : t.ctxOf n = s.ctxOf n := by rw [State.ctxOf, h.ctx, State.ctxOf]

end SameRuns

end Sys2Proof.Machine
end

section
/-! PROOFS. O41: fences, cache maintenance, new code, PAUSE and YIELD (R214 to R218, R262, R340, R345).

L1INV, L1WB and ICINV have their lemmas above; a fence with nothing before it only goes on; a YIELD is a trap at the core itself, or a save
(`State.saveCore_cases`). -/

open Sys2Proof.Claims

namespace Sys2Proof.Machine

/-! ### Fences (R214, R215, R218) -/

section
variable {s : State}

theorem Core.tileMem_of_empty {c : Core} (h : c.vq = []) : c.tileMem = false := by rw [Core.tileMem, h]; rfl
theorem Core.mstQueued_of_empty {c : Core} (h : c.mq = []) : c.mstQueued = false := by rw [Core.mstQueued, h]; rfl

theorem drainNt_empty (h : s.me.nt = []) : drainNt s = .ok () s := by
  rw [drainNt, M.bind_ok s s (M.run_get s), h]
  rfl

section
variable (hidle : Idle s.me)
include hidle

theorem fence_idle (z : Scope) : Sets (.fence z) s id := by
  obtain ⟨hsb, -, hvq, hmq, -, -⟩ := hidle
  have hcore : needs (s.me.sb.isEmpty && !s.me.tileMem) s = .ok () s := needs_ok (by rw [hsb, Core.tileMem_of_empty hvq]; rfl)
  have hperformed : performed s = .ok () s := by
    rw [performed, M.bind_ok s s (M.run_getMe s)]
    exact needs_ok (by rw [hsb, Core.tileMem_of_empty hvq, Core.mstQueued_of_empty hmq]; rfl)
  refine runI_ok ?_
  cases z with
  | core => exact (M.bind_ok s s (M.run_getMe s)).trans (M.bind_ok s s hcore)
  | cluster | layer | tower | package | system => exact M.bind_ok s s hperformed

theorem fenceLx_idle : Sets .fenceLx s id := by
  obtain ⟨hsb, -, hvq, hmq, -, -⟩ := hidle
  exact runI_ok ((M.bind_ok s s (M.run_getMe s)).trans
    (M.bind_ok s s (needs_ok (by rw [hsb, Core.tileMem_of_empty hvq, Core.mstQueued_of_empty hmq]; rfl))))

theorem drain_idle : Sets .drain s id := by
  obtain ⟨-, hnt, -⟩ := hidle
  exact runI_ok (M.bind_ok s s (drainNt_empty hnt))

end

theorem isync_sets : Sets .isync s (fun c => { c with prefetch := [] }) := by
  change execIsync s = _
  refine runI_ok ?_
  simp only [M.run_bind, M.run_modMe, M.run_advance, State.modCore_cur, State.modCore_modCore]

/-! ### PAUSE (R262) -/

theorem exec_pause (n : BitVec 8) (hwait : s.me.wait = .none) : ∃ t, exec (.pause n) s = .next t ∧ t.me.run = .stalled ∧
    t.me.wait = .pause (s.time + n.toNat + 1) ∧ t.me.pc = s.me.pc ∧ t.mem = s.mem := by
  have hhold : exec (.pause n) s = .next ((s.keepLoss s).waitIn (.pause n) .stalled (.pause (s.time + n.toNat + 1))) := by
    change execPause n s = _
    rw [execPause, runI, M.bind_ok s s (M.run_get s), hwait]
    rfl
  refine ⟨_, hhold, ?_⟩
  simp [State.waitIn, State.keepLoss, State.me]

theorem pause_over {n : BitVec 8} {u : Nat} (hwait : s.me.wait = .pause u) (hu : u ≤ s.time) : Sets (.pause n) s id := by
  refine runI_ok ?_
  rw [M.bind_ok s s (M.run_get s), hwait]
  dsimp only
  rw [if_pos hu]
  rfl

end

/-! ### A core's group (R311, R313) -/

/-- u is s but for core n's group, the other cores, and parts that are no core or cluster. -/
structure OwnGroup (n : Nat) (s u : State) : Prop where
  cur : u.cur = s.cur
  clusters : u.clusters = s.clusters
  core : ∃ g, u.core n = { s.core n with group := g }

namespace OwnGroup
variable {n : Nat} {s u : State}

theorem refl (n : Nat) (s : State) : OwnGroup n s s := ⟨rfl, rfl, (s.core n).group, rfl⟩

theorem modCore_ne (h : OwnGroup n s u) {m : Nat} (hm : n ≠ m) (f : Core → Core) : OwnGroup n s (u.modCore m f) :=
  ⟨h.cur, h.clusters, by rw [State.modCore_core_ne _ _ hm]; exact h.core⟩

theorem regroup (h : OwnGroup n s u) (m : Nat) {f : Core → Core} (hf : ∀ c, ∃ g, f c = { c with group := g }) :
    OwnGroup n s (u.modCore m f) := by
  by_cases hm : n = m
  · subst hm
    obtain ⟨g, hg⟩ := h.core
    obtain ⟨g', hg'⟩ := hf (u.core n)
    exact ⟨h.cur, h.clusters, g', by rw [State.modCore_core, hg', hg]⟩
  · exact h.modCore_ne hm f

end OwnGroup

variable {s : State} {n : Nat}

/-- A trap changes its core's group and those of its followers (R311). -/
theorem groupTrap_own (s : State) (n : Nat) : OwnGroup n s (s.groupTrap n) := by
  unfold State.groupTrap
  dsimp only
  split
  · exact .refl n s
  · split
    · refine OwnGroup.regroup (foldl_keeps (P := OwnGroup n s) _ _ (fun u m hu => ?_) (.refl n s)) n fun c => ⟨_, rfl⟩
      exact hu.regroup m fun c => ⟨_, rfl⟩
    · exact OwnGroup.regroup (.refl n s) n fun c => ⟨_, rfl⟩

theorem State.members_ne {m : Nat} (h : m ∈ s.members n) : n ≠ m := by
  obtain ⟨hmember, -⟩ := List.mem_filter.1 h
  obtain ⟨b, hb, rfl⟩ := List.mem_map.1 hmember
  obtain ⟨hrange, hbit⟩ := List.mem_filter.1 hb
  rw [Bool.and_eq_true, bne_iff_ne] at hbit
  have hlt := List.mem_range.1 hrange
  have hne := hbit.2
  unfold memberBit at hne
  unfold memberCore
  omega

/-- A core that leaves its group changes no other part of itself (R313). -/
theorem leaveGroup_own (s : State) (n : Nat) : OwnGroup n s (s.leaveGroup n) := by
  have hmembers {f : State → Nat → State} (hf : ∀ u m, n ≠ m → OwnGroup n s u → OwnGroup n s (f u m)) :
      ∀ (ms : List Nat), (∀ m ∈ ms, n ≠ m) → ∀ u, OwnGroup n s u → OwnGroup n s (ms.foldl f u) := by
    intro ms
    induction ms with
    | nil => exact fun _ _ hu => hu
    | cons m r ih =>
      exact fun hms u hu => ih (fun x hx => hms x (List.mem_cons_of_mem _ hx)) _ (hf u m (hms m List.mem_cons_self) hu)
  unfold State.leaveGroup
  dsimp only
  split
  case isFalse => exact .refl n s
  case isTrue =>
    refine OwnGroup.regroup ?_ n fun c => ⟨_, rfl⟩
    split
    case isFalse => exact .refl n s
    case isTrue =>
      refine hmembers (fun u m hm hu => ?_) _ (fun m hm => State.members_ne hm) s (.refl n s)
      split
      all_goals exact hu.modCore_ne hm _

/-! ### A save (R345) -/

/-- Both cores stand at the same word: program counter, guarded pair and frame are the same. -/
def Core.SamePlace (c d : Core) : Prop := d.pc = c.pc ∧ d.pair = c.pair ∧ d.frame = c.frame

theorem Core.SamePlace.past_pc {c d : Core} (h : c.SamePlace d) : d.past.pc = c.past.pc := by
  obtain ⟨hpc, hpair, hframe⟩ := h
  unfold Core.past Core.here
  rw [hpc, hpair, hframe]
  cases c.frame with
  | none => rfl
  | some f =>
    dsimp only
    split
    · rfl
    · split
      · rfl
      · rfl

theorem State.stopCheck_same (s : State) (x : Nat) : (s.stopCheck x).cur = s.cur ∧ (s.stopCheck x).cores = s.cores ∧
    (s.stopCheck x).clusters = s.clusters := by
  unfold State.stopCheck
  dsimp only
  split
  · exact ⟨rfl, rfl, rfl⟩
  · exact ⟨rfl, rfl, rfl⟩

theorem State.fillCold_ctxs (s : State) : s.fillCold.ctxs = s.ctxs := by
  unfold State.fillCold
  refine foldl_keeps (P := fun u : State => u.ctxs = s.ctxs) _ _ (fun u id hu => ?_) rfl
  dsimp only
  split
  · refine foldl_keeps (P := fun u : State => u.ctxs = s.ctxs) _ _ (fun w q hw => ?_) hu
    split
    · exact hw
    · exact hw
  · exact hu

theorem State.fillCold_ctx (s : State) (x : Nat) : s.fillCold.ctx x = s.ctx x := by rw [State.ctx, State.fillCold_ctxs, State.ctx]

/-- With every core of a context saved the context is SWAPPED; else nothing changes (R335). -/
theorem State.swapCheck_cases (s : State) (x : Nat) : s.swapCheck x = s ∨ ((s.swapCheck x).ctx x).st = .swapped := by
  unfold State.swapCheck
  extract_lets
  split
  · refine .inr ?_
    rw [State.fillCold_ctx, State.modCtx_ctx]
  · exact .inl rfl

/-- A core that is saved stands where f leaves it, SAVED, unless its context is SWAPPED with it. -/
theorem State.saveCore_cases (s : State) (n : Nat) (map : Option LiveMap) (f : Core → Core) :
    (∃ c, (s.core n).SamePlace c ∧ (s.saveCore n map f).cur = s.cur ∧ ((s.saveCore n map f).core n).run = .saved ∧
      ((s.saveCore n map f).core n).pc = (f c).pc ∧ ((s.saveCore n map f).core n).status.getLsbD 7 = false) ∨
    ((s.saveCore n map f).ctx (s.ctxOf n)).st = .swapped := by
  have hreturn := (SameRuns.refl s).returnAllowances (clusterOf n)
  obtain ⟨w, hw⟩ := hreturn.cores.core n
  unfold State.saveCore
  extract_lets s₁ s₂ s₃ s₄
  have h₂ : SameRuns s s₂ := hreturn.of_eq rfl rfl rfl
  have h₃ : s₃.cur = s.cur ∧ s₃.ctxOf n = s.ctxOf n ∧ (s.core n).SamePlace (s₃.core n) := by
    cases map with
    | none => exact ⟨h₂.cores.cur, h₂.ctxOf n, by rw [show s₃.core n = _ from hw]; exact ⟨rfl, rfl, rfl⟩⟩
    | some m =>
      refine ⟨h₂.cores.cur, h₂.ctxOf n, ?_⟩
      have hcore : s₃.core n = (s₂.core n).keepLive m := State.modCore_core _ n _
      rw [hcore, show s₂.core n = _ from hw]
      exact ⟨rfl, rfl, rfl⟩
  obtain ⟨hcur, hctx, hplace⟩ := h₃
  have hctx₄ : s₄.ctxOf n = s.ctxOf n := hctx
  have hcore₄ : s₄.core n = _ := State.modCore_core s₃ n _
  obtain ⟨hstopCur, hstopCores, -⟩ := s₄.stopCheck_same (s₄.ctxOf n)
  rcases (s₄.stopCheck (s₄.ctxOf n)).swapCheck_cases (s₄.ctxOf n) with hkept | hswapped
  · refine .inl ⟨s₃.core n, hplace, ?_⟩
    rw [hkept, State.core, hstopCores, hstopCur]
    refine ⟨hcur, ?_⟩
    change (s₄.core n).run = _ ∧ (s₄.core n).pc = _ ∧ (s₄.core n).status.getLsbD 7 = _
    rw [hcore₄]
    exact ⟨rfl, rfl, by simp⟩
  · rw [hctx₄] at hswapped
    exact .inr (hctx₄ ▸ hswapped)

/-! ### YIELD (R345) -/

/-- PEND and NOTE are set, and the core has not been told and is in no trap: its YIELD takes a PREEMPT trap (R345). -/
def Core.asksTrap (c : Core) : Bool := c.pend && c.preempt.getLsbD 1 && !c.status.getLsbD 7 && !c.inTrap

/-- The live map that a YIELD of core n at pc saves by (R347). -/
def State.yieldMap (s : State) (n : Nat) (pc : Word) : Option LiveMap := match (s.cluster (clusterOf n)).kernel with
  | some k => s.liveMap (s.ctxOf n) (layerOf n) (recEntry (s.kernel k).record) pc
  | none => none

theorem yield_notPending (hpend : s.me.preempt.getLsbD 0 = false) : Sets .yield s id := by
  have hasks : s.me.asksTrap = false := by rw [Core.asksTrap, Core.pend, hpend]; rfl
  refine (if_neg (Bool.eq_false_iff.1 hasks)).trans (runI_ok ?_)
  rw [Core.pend, hpend]
  rfl

/-- A core with NOTE that has not been told takes a PREEMPT trap at itself. -/
theorem yield_trap (hasks : s.me.asksTrap = true) (htvec : (s.ctx (s.ctxOf s.cur)).tvec ≠ 0) :
    ∃ t, exec .yield s = .next t ∧ t.me.pc = (s.ctx (s.ctxOf s.cur)).tvec ∧ t.me.epc = s.me.pc &&& 0xFFFFFFFFFFFF ∧
      t.me.ecause = BitVec.ofNat 64 (2 ^ 63 + 18) ∧ t.me.status.getLsbD 7 = true ∧
      t.me.einfo = BitVec.ofNat 64 (s.me.preemptSince + 360000 - s.time) := by
  have hinTrap : s.me.inTrap = false := by
    simp only [Core.asksTrap, Bool.and_eq_true, Bool.not_eq_true'] at hasks
    exact hasks.2
  have hfatal : (s.modCore s.cur (fun c => { c with status := c.status ||| 0x80 })).fatal s.cur = false := by
    have hstatus : (s.me.status ||| 0x80).getLsbD 2 = false := by
      rw [BitVec.getLsbD_or]
      change s.me.status.getLsbD 2 = false at hinTrap
      rw [hinTrap]
      decide
    have htvec' : ((s.ctx (s.ctxOf s.cur)).tvec == 0) = false := beq_eq_false_iff_ne.2 htvec
    rw [State.fatal, State.modCore_core]
    exact Bool.or_eq_false_iff.2 ⟨hstatus, htvec'⟩
  have hexec : exec .yield s = .next ((s.modCore s.cur (fun c => { c with status := c.status ||| 0x80 })).takeTrap s.cur s.me.pc .preempt
      true false (BitVec.ofNat 64 (s.me.preemptSince + 360000 - s.time))) := if_pos hasks
  obtain ⟨hcur, -, g, hg⟩ := groupTrap_own (s.modCore s.cur (fun c => { c with status := c.status ||| 0x80 })) s.cur
  rw [State.takeTrap_ok hfatal] at hexec
  refine ⟨_, hexec, ?_⟩
  rw [State.me, State.modCore_cur, hcur, State.modCore_cur, State.modCore_core, hg, State.modCore_core]
  refine ⟨rfl, rfl, rfl, ?_, rfl⟩
  simp [Core.enter, statusEnter]

/-- A pending core with nothing queued is saved behind its YIELD. -/
theorem yield_save (hpend : s.me.preempt.getLsbD 0 = true) (hasks : s.me.asksTrap = false) (hidle : Idle s.me) :
    ∃ t, exec .yield s = .next t ∧ ((t.me.run = .saved ∧ t.me.pc = s.me.past.pc ∧ t.me.status.getLsbD 7 = false) ∨
      (t.ctx (s.ctxOf s.cur)).st = .swapped) := by
  obtain ⟨hsb, hnt, hvq, hmq, -, -⟩ := hidle
  obtain ⟨hcur, hclusters, g, hg⟩ := leaveGroup_own s s.cur
  have hctx : (s.leaveGroup s.cur).ctxOf s.cur = s.ctxOf s.cur := by rw [State.ctxOf, State.cluster, hclusters]; rfl
  have hexec : exec .yield s =
      .next ((s.leaveGroup s.cur).saveCore s.cur (s.yieldMap s.cur s.me.pc) (fun c => { c.past with recorded := .running })) := by
    have hready : needs (s.me.sb.isEmpty && s.me.vq.isEmpty && s.me.mq.isEmpty) s = .ok () s := needs_ok (by rw [hsb, hvq, hmq]; rfl)
    refine (if_neg (Bool.eq_false_iff.1 hasks)).trans (runI_ok ?_)
    rw [Core.pend, hpend]
    exact (M.bind_ok s s hready).trans ((M.bind_ok s s (drainNt_empty hnt)).trans rfl)
  refine ⟨_, hexec, ?_⟩
  rcases (s.leaveGroup s.cur).saveCore_cases s.cur (s.yieldMap s.cur s.me.pc) (fun c => { c.past with recorded := .running }) with hsaved | hswapped
  · obtain ⟨c, hplace, hcur', hrun, hpc, hstatus⟩ := hsaved
    refine .inl ?_
    rw [State.me, hcur', hcur]
    refine ⟨hrun, hpc.trans ?_, hstatus⟩
    rw [hg] at hplace
    exact Core.SamePlace.past_pc (c := s.me) hplace
  · exact .inr (hctx ▸ hswapped)

/-- Settles O41: each instruction by its lemma above. -/
theorem fences : Obligations.Fences := by
  unfold Obligations.Fences
  intro s z ra rb n u c k lo len x told
  have hasks (hpend : c.preempt.getLsbD 0 = true) : c.asksTrap = true ↔ told := by
    simp only [Core.asksTrap, Core.pend, hpend, Bool.and_eq_true, Bool.not_eq_true', Bool.true_and, and_assoc, told]
  refine ⟨fun hidle => ⟨fence_idle hidle z, fenceLx_idle hidle, drain_idle hidle⟩, isync_sets, fun hlen => ?nothing,
    fun hlen hrange => ?outside, fun hlen hrange hsb hblocking hrising => ?l1, exec_icinv, exec_pause n, pause_over, yield_notPending,
    fun hpend htold htvec => yield_trap ((hasks hpend).2 htold) htvec,
    fun hpend htold hidle => yield_save hpend (Bool.eq_false_iff.2 (mt (hasks hpend).1 htold)) hidle⟩
  case nothing => exact ⟨maintain_nothing rfl hlen, maintain_nothing rfl hlen, icinv_nothing hlen⟩
  case outside => exact ⟨maintain_outside rfl hlen hrange, maintain_outside rfl hlen hrange, icinv_outside hlen hrange⟩
  case l1 => exact ⟨exec_l1inv hlen hrange hsb hblocking hrising, exec_l1wb hlen hrange hsb hblocking⟩

end Sys2Proof.Machine
end
